-- ==== Sys2Proof/Word.lean ====
section
/-! DEFINITION. The word types of the machine (R2, R40, R56): 32-bit words, bytes, and the few wider or narrower
patterns the spec names by width. -/

namespace Sys2Proof

/-- A 32-bit word: one lane's value of a vector register, a uniform register, an instruction word (R40, R56). -/
abbrev Word := BitVec 32

/-- A byte of memory or of a scratchpad (R2). -/
abbrev Byte := BitVec 8

/-- A 64-bit pattern: a capability, a pair of registers, a cycle counter (R8, R40, R225). -/
abbrev DWord := BitVec 64

/-- A heading component or norm entry, 16 bits (R207). -/
abbrev Half := BitVec 16

/-- A mask with one bit a lane (R18). -/
abbrev Mask := BitVec 32

/-- The mask of all 32 lanes. -/
def Mask.all : Mask := 0xFFFFFFFF#32

/-- A word from a truth value: 1 or 0. -/
def boolWord (b : Bool) : Word := if b then 1#32 else 0#32

end Sys2Proof
end

