-- ==== Sys2Proof/Machine/Flags.lean ====
section
/-! DEFINITION. The status flags (R185): five sticky bits, NV OF UF NX NP from bit 4 down, and the flags that each
kind of event sets. -/

namespace Sys2Proof.Machine

/-- A set of status flags: bit 4 NV, 3 OF, 2 UF, 1 NX, 0 NP (R185). -/
abbrev Flags := BitVec 5

def flNone : Flags := 0#5
def flNV : Flags := 0b10000#5
def flOF : Flags := 0b01000#5
def flUF : Flags := 0b00100#5
def flNX : Flags := 0b00010#5
def flNP : Flags := 0b00001#5

/-- A flag when a condition holds. -/
def flIf (c : Bool) (f : Flags) : Flags := if c then f else flNone

/-- The OR of the flags of several lanes or sub-elements (R185). -/
def flJoin (l : List Flags) : Flags := l.foldl (fun a b => a ||| b) flNone

end Sys2Proof.Machine
end

