-- ==== Sys2Proof/Config.lean ====
section
/-! DEFINITION. What the spec leaves free: constants without a body, so that nothing can evaluate them or prove a
value of them. The step applies one to `State.freeIx` and advances that counter, or to the operands where the spec
asks for one fixed mapping. -/

namespace Sys2Proof.Config

/-- A value the spec leaves unpredictable or unstated, 32 bits (log 3). -/
opaque freeWord : Nat → BitVec 32

/-- A value the spec leaves unpredictable or unstated, one byte (log 3). -/
opaque freeByte : Nat → BitVec 8

/-- A choice between two outcomes that the spec allows (log 3). -/
opaque freeBit : Nat → Bool

/-- A number the spec leaves to the device (log 3). -/
opaque freeNat : Nat → Nat

/-- The placement of lines in a cache region, which programs cannot see (R92, log 9): two lines compete for room when their
keys have one place, and a place holds this many lines in a region of so many lines. -/
opaque cachePlace : Nat → Nat
opaque cacheWays : Nat → Nat

/-- The mapping of a special function (R320): a pattern for the function's code and the input bits, one fixed mapping.
The device's result is this pattern where it lies within the bound the spec states for the exact result, and the
exact result rounded to nearest otherwise (log 8). -/
opaque sfuFree : Nat → BitVec 32 → BitVec 32

/-- Which of the compression states a block's 2,048 bytes allow is chosen where the spec leaves it (R104): the number
of 64-byte units a compressor makes of the block, as a function of its bytes. -/
opaque compressedUnits : List (BitVec 8) → Nat

/-- The custodian's threshold of correctable errors after which it retires an extent (R233). -/
opaque retireThreshold : Nat

/-- Keys drawn by the random-bit generator (R251): the n-th key. -/
opaque key : Nat → BitVec 256

/-- What the device signs or measures over a message (R275): bytes of the report's signature and measurements. -/
opaque attestByte : Nat → Nat → BitVec 8

end Sys2Proof.Config
end

