-- ==== Sys2Proof/Syntax.lean ====
section
/-! DEFINITION. The abstract syntax: operand selectors, the enumerations of the encodings, and the one inductive
`Instr`, with one constructor for each row of the opcode table: 122 instructions with an encoding (R76) and the 88
indivisible steps of the device, the host and the custodian that have none. -/

namespace Sys2Proof

/-- A lane selector (R60). `imm` holds the biased value: the selector 0x90 + x stands for the integer x - 16. -/
inductive Sel where
  | v (n : BitVec 7)
  | latch (k : BitVec 3)
  | fq
  | laneid
  | zero
  | tileid
  | imm (biased : BitVec 5)
  | fconst (k : BitVec 4)
  | s (n : BitVec 6)
  deriving DecidableEq, Repr

/-- A uniform selector (R63): a uniform register or a signed 7-bit immediate. -/
inductive USel where
  | s (n : BitVec 6)
  | imm (x : BitVec 7)
  deriving DecidableEq, Repr

/-- The guard of an extension-word lane instruction (R64, R65); predicate 7 without negation is "unguarded". -/
structure Guard where
  neg : Bool
  p : BitVec 3
  deriving DecidableEq, Repr

/-- The unguarded guard. -/
def Guard.none : Guard := { neg := false, p := 7#3 }

/-- Access sizes (R69). -/
inductive Size where
  | b8 | b16 | b32 | b64 | b128
  deriving DecidableEq, Repr

/-- Scopes (R69, R74). -/
inductive Scope where
  | grp | crew | gang | dev | sys
  deriving DecidableEq, Repr

/-- Cache hints (R69). -/
inductive Hint where
  | normal | stream | keep
  deriving DecidableEq, Repr

/-- Orderings of `LD`, `LDU` and `LDV` (R71); `acqRemote true` has scope `.dev`, `acqRemote false` scope `.gang`. -/
inductive LdOrd where
  | plain
  | acq (sc : Scope)
  | acqRemote (dev : Bool)
  deriving DecidableEq, Repr

/-- Orderings of `ST` and `STU` (R71). -/
inductive StOrd where
  | plain
  | rel (sc : Scope)
  | post
  deriving DecidableEq, Repr

/-- Ordering of `LDS` and `STS` (R71): plain, or the ordered form at `.crew` (true) or `.grp` (false). -/
inductive SpOrd where
  | plain
  | ordered (crew : Bool)
  deriving DecidableEq, Repr

/-- Orderings of the atomics and of `CASV` (R161, R171). -/
inductive AtOrd where
  | plain
  | acq (sc : Scope)
  | rel (sc : Scope)
  | acqrel (sc : Scope)
  deriving DecidableEq, Repr

/-- Atomic operations (R161). -/
inductive AtOp where
  | add | min | max | and | or | xor | xchg | cas
  deriving DecidableEq, Repr

/-- Types of atomics (R161). -/
inductive AtTy where
  | s32 | n32 | f32 | s64
  deriving DecidableEq, Repr

/-- Types of deposits, reductions and collectives (R122, R296, R371). -/
inductive Ty3 where
  | s32 | n32 | f32
  deriving DecidableEq, Repr

/-- Deposit operations (R122). -/
inductive DepOp where
  | add | max | min
  deriving DecidableEq, Repr

/-- Integer comparisons (R338). -/
inductive ICmp where
  | eq | ne | ltS | leS | gtS | geS | ltN | leN | gtN | geN
  deriving DecidableEq, Repr

/-- Float comparisons (R318). -/
inductive FCmp where
  | eq | ne | lt | le | gt | ge | num | nan | equ | neu | ltu | leu | gtu | geu
  deriving DecidableEq, Repr

/-- Forms of `IMAD` (R337). -/
inductive SatForm where
  | wrap | satS | satN
  deriving DecidableEq, Repr

/-- Where `BFI` takes its position and length (R288). -/
inductive BfiSrc where
  | const (pos len : BitVec 6)
  | reg (c : Sel)
  deriving DecidableEq, Repr

/-- Rounding modes (R183). -/
inductive Rnd where
  | rn | rz | rp | rm
  deriving DecidableEq, Repr

/-- Formats of `FCVT` (R309). -/
inductive CvtFmt where
  | f32 | f16 | bf16 | e5m2 | e4m3 | e2m1 | s32 | n32 | s16 | n16 | s8 | n8
  deriving DecidableEq, Repr

/-- Functions of `FSFU` (R320). -/
inductive SfuFn where
  | rcp | rsqrt | sqrt | ex2 | lg2 | sinpi | cospi | tanh
  deriving DecidableEq, Repr

/-- Types of the packed family (R365). -/
inductive PackTy where
  | bf16x2 | f16x2 | e4m3x4 | e5m2x4 | e2m1x8
  deriving DecidableEq, Repr

/-- Modes of `SHFL` (R378). -/
inductive ShflMode where
  | idx | up | down | bfly
  deriving DecidableEq, Repr

/-- Operations of `VOTE` (R400). -/
inductive VoteOp where
  | ballot | any | all
  deriving DecidableEq, Repr

/-- Operations of `RED` (R371). -/
inductive RedOp where
  | add | min | max | and | or | xor
  deriving DecidableEq, Repr

/-- Widths of `ACCLD` and `ACCST` (R279). -/
inductive AccWidth where
  | x1 | x2 | x4
  deriving DecidableEq, Repr

/-- Operand formats of `MMA` (R351). -/
inductive MmaFmt where
  | s8 | e4m3 | e5m2 | e2m1 | bf16 | f16 | e4m3e5m2 | e5m2e4m3
  deriving DecidableEq, Repr

/-- Block sizes of `MMA` (R351). -/
inductive Blk where
  | none | b16 | b32 | b64 | b128
  deriving DecidableEq, Repr

/-- Conditions of `JMP` and `CALL` (R75). -/
inductive Cond where
  | z | nz | lt | ge | gt | le
  deriving DecidableEq, Repr

/-- The test of `JMP` and `CALL`: always (COND = 0, SELA = 0), or a condition on a selector's value (R75). -/
inductive CondTest where
  | always
  | test (c : Cond) (a : USel)
  deriving DecidableEq, Repr

/-- Kind and scope of `FENCE` (R130). -/
inductive FenceKind where
  | acq (sc : Scope)
  | rel (sc : Scope)
  | acqrel (sc : Scope)
  | acqRemote (dev : Bool)
  deriving DecidableEq, Repr

/-- The paths of the in-flight counters (R99, R100). -/
inductive Path where
  | ld | st | cst | smp | dsc | cpy
  deriving DecidableEq, Repr

/-- The forms of `GATE` (R157). -/
inductive GateOp where
  | arrive (d : BitVec 6)
  | sync (d : BitVec 6)
  | wait (phase : USel)
  | expect (bytes : USel)
  deriving DecidableEq, Repr

/-- Operations of `COLL` (R296). -/
inductive CollOp where
  | add | max | min | or
  deriving DecidableEq, Repr

/-- Granules of `OWBEGIN` (R216): cells of 4, 8, 16, 32, 64 or 128 bytes. -/
inductive Gran where
  | g4 | g8 | g16 | g32 | g64 | g128
  deriving DecidableEq, Repr

/-- The special registers of R51. -/
inductive SReg where
  | em | part | landrec (w : BitVec 2) | depth | handler
  | cLd | cSt | cCst | cSmp | cDsc | cCpy
  | fwdFree | retFree | status | cycLo | cycHi | jetCount | powerWait
  | group | crew | gang | launch | basin | quadrant | core | cluster
  deriving DecidableEq, Repr

/-- The gather operands of `TCOPY` (R195). -/
inductive TcopyForm where
  | strided
  | gather (va vb : Sel)
  deriving DecidableEq, Repr

/-- The queues that the probe token covers (R50). -/
inductive QueueRef where
  | forward (q slot : Nat)
  | reservation (qs : Nat)
  | descent (q : Nat)
  | distributor (b : Nat)
  deriving DecidableEq, Repr

/-- Every row of the opcode table. The first 122 constructors are the instructions of R76, lane single words, lane
words with an extension, uniform single words, uniform words with an extension; `nw` is bit 23 (R45), `g` the guard.
Where an operand position takes a raw 8-bit field, any value but the ones the entry names raises 0x02 and not 0x01, so
the field is kept as it stands. The last 88 are the steps without an encoding; their arguments say which unit,
request or caller the step concerns. -/
inductive Instr where
  -- lane set, single words
  | movLane (nw : Bool) (d : BitVec 7) (a : Sel)
  | iaddLane (nw : Bool) (d : BitVec 7) (a b : Sel)
  | isubLane (nw : Bool) (d : BitVec 7) (a b : Sel)
  | imulLane (nw : Bool) (d : BitVec 7) (a b : Sel)
  | imulhiS32 (nw : Bool) (d : BitVec 7) (a b : Sel)
  | imulhiN32 (nw : Bool) (d : BitVec 7) (a b : Sel)
  | iminS32Lane (nw : Bool) (d : BitVec 7) (a b : Sel)
  | iminN32 (nw : Bool) (d : BitVec 7) (a b : Sel)
  | imaxS32Lane (nw : Bool) (d : BitVec 7) (a b : Sel)
  | imaxN32 (nw : Bool) (d : BitVec 7) (a b : Sel)
  | andLane (nw : Bool) (d : BitVec 7) (a b : Sel)
  | orLane (nw : Bool) (d : BitVec 7) (a b : Sel)
  | xorLane (nw : Bool) (d : BitVec 7) (a b : Sel)
  | notLane (nw : Bool) (d : BitVec 7) (a : Sel)
  | shlLane (nw : Bool) (d : BitVec 7) (a b : Sel)
  | shrN32Lane (nw : Bool) (d : BitVec 7) (a b : Sel)
  | shrS32Lane (nw : Bool) (d : BitVec 7) (a b : Sel)
  | popc (nw : Bool) (d : BitVec 7) (a : Sel)
  | clz (nw : Bool) (d : BitVec 7) (a : Sel)
  | fadd (nw : Bool) (d : BitVec 7) (a b : Sel)
  | fsub (nw : Bool) (d : BitVec 7) (a b : Sel)
  | fmul (nw : Bool) (d : BitVec 7) (a b : Sel)
  | fmin (nw : Bool) (d : BitVec 7) (a b : Sel)
  | fmax (nw : Bool) (d : BitVec 7) (a b : Sel)
  | qret (a : Sel)
  | dsc (w : Bool) (k : BitVec 4)
  | hmov (nw : Bool) (d : BitVec 4) (a : BitVec 8)
  -- lane set, with extension word
  | imad (nw : Bool) (g : Guard) (d : BitVec 7) (a b c : Sel) (form : SatForm)
  | ffma (nw : Bool) (g : Guard) (d : BitVec 7) (a b c : Sel)
  | isetpLane (nw : Bool) (g : Guard) (p : BitVec 3) (a b : Sel) (cmp : ICmp)
  | fsetp (nw : Bool) (g : Guard) (p : BitVec 3) (a b : Sel) (cmp : FCmp)
  | selLane (nw : Bool) (g : Guard) (d : BitVec 7) (a b : Sel) (neg : Bool) (p : BitVec 3)
  | bfe (nw : Bool) (g : Guard) (d : BitVec 7) (a pos len : Sel) (signed : Bool)
  | bfi (nw : Bool) (g : Guard) (d : BitVec 7) (a b : Sel) (src : BfiSrc)
  | fcvt (nw : Bool) (g : Guard) (d : BitVec 7) (a base : Sel) (sat : Bool) (rnd : Rnd) (di si : BitVec 3)
      (df sf : CvtFmt)
  | frnd (nw : Bool) (g : Guard) (d : BitVec 7) (a : Sel) (rnd : Rnd)
  | fsfu (g : Guard) (d : BitVec 7) (a : Sel) (fn : SfuFn)
  | moviLane (nw : Bool) (d : BitVec 7) (imm : Word)
  | padd (nw : Bool) (g : Guard) (d : BitVec 7) (a b : Sel) (sat : Bool) (ty : PackTy)
  | pmul (nw : Bool) (g : Guard) (d : BitVec 7) (a b : Sel) (sat : Bool) (ty : PackTy)
  | pfma (nw : Bool) (g : Guard) (d : BitVec 7) (a b c : Sel) (sat : Bool) (ty : PackTy)
  | pmax (nw : Bool) (g : Guard) (d : BitVec 7) (a b : Sel) (ty : PackTy)
  | pmin (nw : Bool) (g : Guard) (d : BitVec 7) (a b : Sel) (ty : PackTy)
  | shfl (g : Guard) (d : BitVec 7) (a b : Sel) (mode : ShflMode)
  | vote (g : Guard) (d : BitVec 7) (op : VoteOp) (neg : Bool) (p : BitVec 3)
  | red (g : Guard) (d : BitVec 7) (a : Sel) (op : RedOp) (ty : Ty3)
  | ld (g : Guard) (d : BitVec 7) (cap idx : Sel) (size : Size) (ord : LdOrd) (hint : Hint) (ofs : BitVec 16)
  | st (g : Guard) (data : BitVec 7) (cap idx : Sel) (size : Size) (ord : StOrd) (hint : Hint) (ofs : BitVec 16)
  | ldc (g : Guard) (d : BitVec 7) (cap idx : Sel) (size : Size) (hint : Hint) (ofs : BitVec 16)
  | smpl (g : Guard) (d : BitVec 7) (cap u v : Sel) (lin : Bool)
  | lds (g : Guard) (d : BitVec 7) (base idx : Sel) (size : Size) (ord : SpOrd) (ofs : BitVec 16)
  | sts (g : Guard) (data : BitVec 7) (base idx : Sel) (size : Size) (ord : SpOrd) (ofs : BitVec 16)
  | atom (g : Guard) (d : BitVec 7) (cap idx data : Sel) (op : AtOp) (ord : AtOrd) (ty : AtTy) (agg nd : Bool)
      (ofw : BitVec 7)
  | atoms (g : Guard) (d : BitVec 7) (base idx data : Sel) (op : AtOp) (ord : AtOrd) (ty : AtTy) (agg nd : Bool)
      (ofw : BitVec 7)
  | dep (g : Guard) (data : BitVec 7) (cap idx : Sel) (op : DepOp) (ty : Ty3) (ofs : BitVec 16)
  | ldv (g : Guard) (d vd : BitVec 7) (cap idx : Sel) (size : Size) (ord : LdOrd) (ofs : BitVec 12)
  | casv (g : Guard) (d v : BitVec 7) (cap idx new : Sel) (wide : Bool) (ord : AtOrd) (ofw : BitVec 6)
  | valset (g : Guard) (d : BitVec 7) (cap idx exp data : Sel) (wide w : Bool) (vp : BitVec 3)
  | bra (g : Guard) (ofs : BitVec 16)
  | hcvt (nw : Bool) (g : Guard) (d : BitVec 4) (a : Sel)
  | hexp (nw : Bool) (g : Guard) (d : BitVec 7) (a : BitVec 8)
  | hdot (nw : Bool) (g : Guard) (d : BitVec 7) (a b : BitVec 8)
  | hadd (nw : Bool) (g : Guard) (d : BitVec 4) (a b : BitVec 8) (neg : Bool)
  | hscl (nw : Bool) (g : Guard) (d : BitVec 4) (a : BitVec 8) (f : Sel) (neg : Bool)
  | hnrm (nw : Bool) (g : Guard) (d : BitVec 7) (a : BitVec 8)
  | owfoot (d : BitVec 7) (cells : List Sel)
  | mma (g : Guard) (a b k : Sel) (fmt : MmaFmt) (blka blkb : Blk) (mxa mxb clr : Bool)
  | accld (g : Guard) (d : BitVec 7) (bank word : Sel) (w : AccWidth) (k : BitVec 7)
  | accst (g : Guard) (data : BitVec 7) (bank word : Sel) (w : AccWidth) (k : BitVec 7)
  | tcopy (g : Guard) (t : BitVec 3) (form : TcopyForm)
  -- uniform set, single words
  | nop
  | movUniform (d : BitVec 6) (a : USel)
  | iaddUniform (d : BitVec 6) (a b : USel)
  | isubUniform (d : BitVec 6) (a b : USel)
  | imulUniform (d : BitVec 6) (a b : USel)
  | andUniform (d : BitVec 6) (a b : USel)
  | orUniform (d : BitVec 6) (a b : USel)
  | xorUniform (d : BitVec 6) (a b : USel)
  | shlUniform (d : BitVec 6) (a b : USel)
  | shrN32Uniform (d : BitVec 6) (a b : USel)
  | shrS32Uniform (d : BitVec 6) (a b : USel)
  | iminS32Uniform (d : BitVec 6) (a b : USel)
  | imaxS32Uniform (d : BitVec 6) (a b : USel)
  | qsend (a : USel)
  | qtake (d : BitVec 6)
  | movs (d : BitVec 6) (r : SReg)
  | join
  | ret (link : BitVec 8)
  | exit
  | trail (names : Option (BitVec 7 × BitVec 7 × BitVec 7))
  | ofence
  | pfence (mask : BitVec 4)
  | yield
  | bpt
  | trapret
  | setem (a : USel)
  | setpart (a : USel)
  | mmwait
  | ownext
  -- uniform set, with extension word
  | moviUniform (d : BitVec 6) (imm : Word)
  | isetpUniform (d : BitVec 6) (a b : USel) (cmp : ICmp)
  | selUniform (d : BitVec 6) (a b c : USel)
  | jmp (t : CondTest) (ofs : BitVec 24)
  | call (link : BitVec 6) (t : CondTest) (ofs : BitVec 24)
  | mark (ofs : BitVec 24)
  | fence (k : FenceKind)
  | bar (sync : Bool) (id : BitVec 5) (count : USel)
  | gate (op : GateOp) (base : USel) (ofs : BitVec 16)
  | waitc (path : Path) (thr : USel)
  | ldu (d : BitVec 6) (cap : BitVec 8) (idx : USel) (wide : Bool) (ord : LdOrd) (ofs : BitVec 20)
  | stu (data : BitVec 6) (cap : BitVec 8) (idx : USel) (wide : Bool) (ord : StOrd) (ofs : BitVec 20)
  | acqb (d : BitVec 6) (count : USel)
  | relb (base count : USel)
  | launch (d : BitVec 6) (cap : BitVec 8)
  | signal (add : Bool) (cap : BitVec 8) (value : USel)
  | coll (src : BitVec 6) (slot : BitVec 8) (len : USel) (op : CollOp) (ty : Ty3)
  | trap (code : BitVec 16)
  | fwcall (d : BitVec 6) (cap : BitVec 8) (fn : BitVec 8)
  | mtsr (r : SReg) (a : USel)
  | extmap (d : BitVec 6) (cap : BitVec 8) (ofs : Word)
  | owbegin (c : BitVec 6) (cap : BitVec 8) (len : USel) (gran : Gran)
  | tstore (t : BitVec 3)
  | copy (dst : BitVec 6) (src : BitVec 8) (len : USel) (gate : Option (BitVec 15))
  | tld (t : BitVec 3) (cap : BitVec 8) (ofs : Word)
  -- steps without an encoding: scheduling and traps
  | jetStart (q : Nat)
  | ageingStep (q slot : Nat)
  | classVResult (q slot ix : Nat)
  | noticeDelivery (q slot : Nat)
  -- the host's side of launches and memory
  | tail (b : Nat) (value : BitVec 32)
  | controlWindowWrite (fn ofs : Nat) (dwords : List (Option Word))
  | windowRead (b win ofs len : Nat)
  | windowWrite (b win ofs : Nat) (data : List Byte)
  | hostWritePerform (ix : Nat)
  -- launches
  | launchAccept (b : Nat)
  | waitSignalMonitor (b : Nat) (launch : Word)
  | gangPlacement (b : Nat)
  | migration (b : Nat)
  | groupResourcesFree (q slot : Nat)
  | launchCompletion (b : Nat) (launch : Word)
  | cascadeRead (b : Nat) (launch : Word)
  -- requests of the memory paths
  | wcTimeout (q ix : Nat)
  | storePerform (r : Nat)
  | writeAck (r : Nat)
  | readRequest (r : Nat)
  | readResponse (r : Nat)
  | atomRequest (r : Nat)
  | casvRequest (r : Nat)
  | ldvRequest (r : Nat)
  | descentLanding (r : Nat)
  | descentReturn (r : Nat)
  | depositLanding (r : Nat)
  | valsetPin (r line : Nat)
  | valsetCommit (r : Nat)
  | valsetTimeout (r : Nat)
  | collapse (b obj ext : Nat)
  | blockWriteBack (block : Nat)
  | promoteRequest (r q : Nat)
  | probeTokenTimeout (u : QueueRef)
  | probeToken (ix : Nat)
  | bucketRefill (stack : Nat)
  | powerTokenFrame (die : Nat)
  -- matrix and copy engines, scratchpad
  | reservationEntry (q slot : Nat)
  | passGrant (qs : Nat)
  | passEnd (qs : Nat)
  | acqbGrant (qs : Nat)
  | copyRow (qs ix : Nat)
  | copyLine (qs ix : Nat)
  | scratchpadBankService (q bank : Nat)
  -- first-touch extents
  | extentAbsent (r : Nat)
  | extentMonitorFire (ext : Nat)
  -- collectives and peers
  | collCombine (q slot : Nat)
  | collWatchdog (q slot : Nat)
  | peerRequest (ix : Nat)
  | peerRequestTimeout (r : Nat)
  | requestTimeout (r : Nat)
  -- errors and recovery
  | linkCrcRetry (link : Nat)
  | eccCorrection (line : Nat)
  | uncorrectableError (group : Option (Nat × Nat)) (line : Nat)
  | extentRetirement (phys : Nat)
  | errorRecordWindow (ix : Nat)
  -- basin switch
  | quantumEnd
  | halt (q : Nat)
  | restore (q : Nat)
  -- custodian calls; `caller` is a basin, or 16 for physical function 0
  | objCreate (caller : Nat)
  | objDestroy (caller : Nat)
  | extMap (caller : Nat)
  | extUnmap (caller : Nat)
  | extRefuse (caller : Nat)
  | objExport (caller : Nat)
  | objImport (caller : Nat)
  | setHandler (caller : Nat)
  | objQuery (caller : Nat)
  | poolQuery (caller : Nat)
  | attest (caller : Nat)
  | basinCreate (caller : Nat)
  | basinSlots (caller : Nat)
  | basinStart (caller : Nat)
  | basinRevoke (caller : Nat)
  | basinRelease (caller : Nat)
  | basinMove (caller : Nat)
  | basinSlotquery (caller : Nat)
  | peerBind (caller : Nat)
  | stackBudget (caller : Nat)
  -- the module
  | powerOn
  | throttleChange (tokens gap : Nat)
  | thermalTrip
  | fieldRecordRead (viaPf : Bool)
  | tripClears
  | importRemoval (b dev obj : Nat)
  | restoreElsewhere (ix : Nat)
  deriving DecidableEq, Repr

end Sys2Proof
end

