-- ==== Sys2Proof/WellFormed.lean ====
section
/-! DEFINITION. Which terms of `Instr` an encoding can hold: the combinations that the reference entries accept.
A term that breaks one of these checks has no word; the device raises 0x01 on the bits that would stand for it (R78). -/

namespace Sys2Proof

/-- The element width in bits of a conversion format (R309). -/
def CvtFmt.width : CvtFmt → Nat
  | .f32 | .s32 | .n32 => 32
  | .f16 | .bf16 | .s16 | .n16 => 16
  | .e5m2 | .e4m3 | .s8 | .n8 => 8
  | .e2m1 => 4

/-- Whether a conversion format is a floating-point format (R310). -/
def CvtFmt.isFloat : CvtFmt → Bool
  | .f32 | .f16 | .bf16 | .e5m2 | .e4m3 | .e2m1 => true
  | .s32 | .n32 | .s16 | .n16 | .s8 | .n8 => false

/-- The combinations `FCVT` accepts (R310); `base` is the selector `v0`, the field value 0, with a 32-bit result. -/
def fcvtOk (base : Sel) (sat : Bool) (di si : BitVec 3) (df sf : CvtFmt) : Bool :=
  (df.isFloat || sf.isFloat)
  && (!sat || df == .e4m3 || df == .e5m2)
  && decide (si.toNat < 32 / sf.width)
  && decide (di.toNat < 32 / df.width)
  && (df.width != 32 || base == .v 0#7)

/-- The packed types that take `.sat` (R365). -/
def packSatOk (sat : Bool) (ty : PackTy) : Bool :=
  !sat || ty == .e4m3x4 || ty == .e5m2x4

/-- `RED` refuses a bitwise operation on f32 (R371). -/
def redOk (op : RedOp) (ty : Ty3) : Bool :=
  match op with
  | .add | .min | .max => true
  | .and | .or | .xor => ty != .f32

/-- The operations that take f32 (R162). -/
def AtOp.takesF32 : AtOp → Bool
  | .add | .min | .max | .xchg => true
  | .and | .or | .xor | .cas => false

/-- The operations that take `.agg` (R162). -/
def AtOp.takesAgg : AtOp → Bool
  | .add | .min | .max | .and | .or | .xor => true
  | .xchg | .cas => false

/-- Whether an ordering of an atomic of the scratchpad has a scope `ATOMS` accepts (R162). -/
def AtOrd.crewOk : AtOrd → Bool
  | .plain => true
  | .acq sc | .rel sc | .acqrel sc => sc == .grp || sc == .crew

/-- The combinations `ATOM` accepts (R161, R162). The operations and types of the fourth condition are those for
which the table of R162 has a row: and, or, xor and cas take s32, n32 and s64. -/
def atomOk (d : BitVec 7) (op : AtOp) (ty : AtTy) (agg nd : Bool) : Bool :=
  (!nd || d == 0#7)
  && !(op == .cas && nd)
  && (ty != .f32 || op.takesF32)
  && (!agg || (op.takesAgg && ty != .f32))

/-- `MMA`'s block fields (R353). -/
def mmaOk (fmt : MmaFmt) (blka blkb : Blk) (mxa mxb : Bool) : Bool :=
  (fmt != .s8 || (blka == .none && blkb == .none))
  && (!mxa || blka != .none) && (!mxb || blkb != .none)

/-- `COLL` refuses `or` on f32 (R298). -/
def collOk (op : CollOp) (ty : Ty3) : Bool := !(op == .or && ty == .f32)

/-- Orderings `LDU` and `LDV` accept (R347, R169). -/
def LdOrd.noRemote : LdOrd → Bool
  | .plain | .acq _ => true
  | .acqRemote _ => false

/-- Orderings `STU` accepts (R390). -/
def StOrd.noPost : StOrd → Bool
  | .plain | .rel _ => true
  | .post => false

/-- Whether a term has an encoding the device decodes: every check is one that R78 or the entry reports as 0x01.
The steps without an encoding have nothing to check here. -/
def WellFormed (i : Instr) : Bool :=
  match i with
  | .dsc _ k => decide (2 ≤ k.toNat) && decide (k.toNat ≤ 8)
  | .fcvt _ _ _ _ base sat _ di si df sf => fcvtOk base sat di si df sf
  | .padd _ _ _ _ _ sat ty => packSatOk sat ty
  | .pmul _ _ _ _ _ sat ty => packSatOk sat ty
  | .pfma _ _ _ _ _ _ sat ty => packSatOk sat ty
  | .red _ _ _ op ty => redOk op ty
  | .atom _ d _ _ _ op _ ty agg nd _ => atomOk d op ty agg nd
  | .atoms _ d _ _ _ op ord ty agg nd _ => atomOk d op ty agg nd && ord.crewOk
  | .ldv _ _ _ _ _ size ord _ => (size == .b32 || size == .b64 || size == .b128) && ord.noRemote
  | .valset _ _ _ _ _ data wide w _ => w || (data == .v 0#7 && !wide)
  | .owfoot _ cells => decide (cells.length ≤ 4)
  | .mma _ _ _ _ fmt blka blkb mxa mxb _ => mmaOk fmt blka blkb mxa mxb
  | .pfence mask => mask != 0#4
  | .bar _ id _ => decide (id.toNat < 24)
  | .ldu d _ _ wide ord _ => ord.noRemote && !(wide && d.getLsbD 0)
  | .stu d _ _ wide ord _ => ord.noPost && !(wide && d.getLsbD 0)
  | .coll _ _ _ op ty => collOk op ty
  | _ => true

end Sys2Proof
end

