-- ==== Sys2Proof/Machine/Float.lean ====
section
/-! DEFINITION. Floating-point arithmetic (R180 to R186, R405): formats, exact values as signed dyadic numbers, one
rounding, and the operations of the float instructions, each with its status flags. -/

namespace Sys2Proof.Machine

/-! ### Formats and values (R180, R181) -/

/-- How a format uses its largest exponent field. -/
inductive FKind where
  | ieee | e4m3 | e2m1
  deriving DecidableEq, Repr

/-- A floating-point format: exponent bits, mantissa bits, bias, the use of the largest exponent, and whether values
with exponent field 0 are flushed (R181). -/
structure FFmt where
  eb : Nat
  mb : Nat
  bias : Nat
  kind : FKind
  flush : Bool
  deriving DecidableEq, Repr

def fF32 : FFmt := { eb := 8, mb := 23, bias := 127, kind := .ieee, flush := false }
def fF16 : FFmt := { eb := 5, mb := 10, bias := 15, kind := .ieee, flush := false }
def fBf16 : FFmt := { eb := 8, mb := 7, bias := 127, kind := .ieee, flush := true }
def fE5m2 : FFmt := { eb := 5, mb := 2, bias := 15, kind := .ieee, flush := false }
def fE4m3 : FFmt := { eb := 4, mb := 3, bias := 7, kind := .e4m3, flush := false }
def fE2m1 : FFmt := { eb := 2, mb := 1, bias := 1, kind := .e2m1, flush := false }

/-- The width in bits. -/
def FFmt.width (f : FFmt) : Nat := 1 + f.eb + f.mb

/-- A value: NaN, an infinity, or (−1)^neg × m × 2^e exactly; m = 0 is a signed zero. -/
inductive FVal where
  | nan
  | inf (neg : Bool)
  | fin (neg : Bool) (m : Nat) (e : Int)
  deriving DecidableEq, Repr

/-- The value of a pattern (R180, R181). -/
def fDecode (f : FFmt) (x : Nat) : FVal :=
  let neg := x / 2 ^ (f.eb + f.mb) % 2 == 1
  let ef := x / 2 ^ f.mb % 2 ^ f.eb
  let mf := x % 2 ^ f.mb
  if f.kind = .ieee ∧ ef = 2 ^ f.eb - 1 then (if mf = 0 then .inf neg else .nan)
  else if f.kind = .e4m3 ∧ ef = 15 ∧ mf = 7 then .nan
  else if ef = 0 then (if f.flush then .fin neg 0 0 else .fin neg mf (1 - (f.bias : Int) - f.mb))
  else .fin neg (2 ^ f.mb + mf) ((ef : Int) - f.bias - f.mb)

/-- The sign bit of a pattern at its place. -/
def FFmt.signBit (f : FFmt) (neg : Bool) : Nat := if neg then 2 ^ (f.eb + f.mb) else 0

/-- The canonical NaN (R180, R182); `e2m1` has none and stands as +0. -/
def FFmt.nan (f : FFmt) : Nat :=
  match f.kind with
  | .ieee => (2 ^ f.eb - 1) * 2 ^ f.mb + 2 ^ (f.mb - 1)
  | .e4m3 => 0x7F
  | .e2m1 => 0

/-- The largest finite magnitude's pattern (R180). -/
def FFmt.maxPat (f : FFmt) : Nat :=
  match f.kind with
  | .ieee => (2 ^ f.eb - 2) * 2 ^ f.mb + (2 ^ f.mb - 1)
  | .e4m3 => 0x7E
  | .e2m1 => 0x7

/-- The largest finite magnitude as m × 2^e. -/
def FFmt.maxVal (f : FFmt) : Nat × Int :=
  match fDecode f f.maxPat with
  | .fin _ m e => (m, e)
  | _ => (0, 0)

/-- The infinity's magnitude pattern of a format that has one. -/
def FFmt.infPat (f : FFmt) : Nat := (2 ^ f.eb - 1) * 2 ^ f.mb

/-- The exponent of the smallest normal magnitude. -/
def FFmt.emin (f : FFmt) : Int := 1 - (f.bias : Int)

/-! ### Rounding (R183, R405) -/

/-- The number of bits of a number. -/
def bitLen (m : Nat) : Nat := if m = 0 then 0 else Nat.log2 m + 1

/-- The integer square root, found from its highest bit down. -/
def isqrt (n : Nat) : Nat :=
  let top := bitLen n / 2
  (List.range (top + 1)).foldl (fun r i =>
    let c := r + 2 ^ (top - i)
    if c * c ≤ n then c else r) 0

/-- m × 2^e as a multiple of 2^q, rounded by mode: the multiple and whether anything was lost. -/
def roundAt (mode : Rnd) (neg : Bool) (m : Nat) (e q : Int) : Nat × Bool :=
  if q ≤ e then (m * 2 ^ (e - q).toNat, false)
  else
    let d := 2 ^ (q - e).toNat
    let t := m / d
    let r := m % d
    let up := match mode with
      | .rn => decide (d < 2 * r) || (decide (2 * r = d) && t % 2 == 1)
      | .rz => false
      | .rp => decide (r ≠ 0) && !neg
      | .rm => decide (r ≠ 0) && neg
    (if up then t + 1 else t, decide (r ≠ 0))

/-- Whether a × 2^ea is below b × 2^eb. -/
def dyLt (a : Nat) (ea : Int) (b : Nat) (eb : Int) : Bool :=
  let e := min ea eb
  decide (a * 2 ^ (ea - e).toNat < b * 2 ^ (eb - e).toNat)

/-- The pattern of n × 2^q, a magnitude the format holds: at least one of the two forms of R180. -/
def fEncodeMag (f : FFmt) (n : Nat) (q : Int) : Nat :=
  if n = 0 then 0
  else
    let l : Int := (bitLen n : Int) - 1 + q
    if l < f.emin then (n * 2 ^ (q - (f.emin - f.mb)).toNat)
    else
      let sh := l - f.mb
      let mant := if sh ≤ q then n * 2 ^ (q - sh).toNat else n / 2 ^ (sh - q).toNat
      (l + f.bias).toNat * 2 ^ f.mb + (mant - 2 ^ f.mb)

/-- Whether a mode rounds toward the infinity of a sign (R183). -/
def towardInf (mode : Rnd) (neg : Bool) : Bool :=
  match mode with
  | .rn => true
  | .rz => false
  | .rp => !neg
  | .rm => neg

/-- The result of an overflow with its flags (R183, R186). -/
def fOverflow (f : FFmt) (mode : Rnd) (sat : Bool) (neg : Bool) : Nat × Flags :=
  let mx := f.signBit neg + f.maxPat
  if sat then (mx, flOF ||| flNX)
  else
    match f.kind with
    | .ieee => if towardInf mode neg then (f.signBit neg + f.infPat, flOF ||| flNX) else (mx, flOF ||| flNX)
    | .e4m3 => if towardInf mode neg then (f.signBit neg + 0x7F, flOF ||| flNX ||| flNP) else (mx, flOF ||| flNX)
    | .e2m1 => (mx, flOF ||| flNX)

/-- Whether an exact non-zero magnitude is tiny (R405): its rounding to the format's precision, as if the exponent had
no lower bound, lies below the smallest normal. -/
def fTiny (f : FFmt) (mode : Rnd) (neg : Bool) (m : Nat) (e : Int) : Bool :=
  let q := (bitLen m : Int) + e - (f.mb + 1)
  let (n, _) := roundAt mode neg m e q
  dyLt n q 1 f.emin

/-- One rounding of the exact value (−1)^neg × m × 2^e to a format (R183, R405, R181). -/
def fRound (f : FFmt) (mode : Rnd) (sat : Bool) (neg : Bool) (m : Nat) (e : Int) : Nat × Flags :=
  if m = 0 then (f.signBit neg, flNone)
  else
    let q := max (f.emin - f.mb) ((bitLen m : Int) + e - (f.mb + 1))
    let (n, lost) := roundAt mode neg m e q
    let (mm, me) := f.maxVal
    if dyLt mm me n q then fOverflow f mode sat neg
    else if f.flush && n != 0 && dyLt n q 1 f.emin then (f.signBit neg, flUF ||| flNX)
    else (f.signBit neg + fEncodeMag f n q,
          flIf lost flNX ||| flIf (lost && fTiny f mode neg m e) flUF)

/-! ### Exact sums and products -/

/-- A dyadic number: x × 2^e. -/
structure Dy where
  x : Int
  e : Int
  deriving DecidableEq, Repr

def Dy.add (a b : Dy) : Dy :=
  let e := min a.e b.e
  { x := a.x * 2 ^ (a.e - e).toNat + b.x * 2 ^ (b.e - e).toNat, e := e }

def Dy.mul (a b : Dy) : Dy := { x := a.x * b.x, e := a.e + b.e }

def Dy.lt (a b : Dy) : Bool :=
  let e := min a.e b.e
  decide (a.x * 2 ^ (a.e - e).toNat < b.x * 2 ^ (b.e - e).toNat)

def Dy.isZero (a : Dy) : Bool := a.x == 0

def dyOf (neg : Bool) (m : Nat) (e : Int) : Dy := { x := if neg then -(m : Int) else m, e := e }

/-- Rounds a dyadic; an exact zero takes the sign `zneg`. -/
def fRoundDy (f : FFmt) (mode : Rnd) (sat zneg : Bool) (d : Dy) : Nat × Flags :=
  if d.x = 0 then (f.signBit zneg, flNone) else fRound f mode sat (decide (d.x < 0)) d.x.natAbs d.e

/-- A NaN result: the canonical NaN and NP (R182, R185). -/
def fNanRes (f : FFmt) (fl : Flags) : Nat × Flags := (f.nan, fl ||| flNP)

/-- Addition of two values (R182, R307): rounded to nearest even. -/
def fAddV (f : FFmt) (sat : Bool) (a b : FVal) : Nat × Flags :=
  match a, b with
  | .nan, _ => fNanRes f flNone
  | _, .nan => fNanRes f flNone
  | .inf s, .inf t => if s = t then (f.signBit s + f.infPat, flNone) else fNanRes f flNV
  | .inf s, .fin .. => (f.signBit s + f.infPat, flNone)
  | .fin .., .inf t => (f.signBit t + f.infPat, flNone)
  | .fin s m e, .fin t n k =>
    fRoundDy f .rn sat (s && t && m == 0 && n == 0) ((dyOf s m e).add (dyOf t n k))

/-- Multiplication of two values (R182, R307). -/
def fMulV (f : FFmt) (sat : Bool) (a b : FVal) : Nat × Flags :=
  match a, b with
  | .nan, _ => fNanRes f flNone
  | _, .nan => fNanRes f flNone
  | .inf s, .inf t => (f.signBit (s != t) + f.infPat, flNone)
  | .inf s, .fin t n _ => if n = 0 then fNanRes f flNV else (f.signBit (s != t) + f.infPat, flNone)
  | .fin s m _, .inf t => if m = 0 then fNanRes f flNV else (f.signBit (s != t) + f.infPat, flNone)
  | .fin s m e, .fin t n k => fRound f .rn sat (s != t) (m * n) (e + k)

/-- a × b + c with one rounding (R315); 0 × ∞ is invalid even when c is NaN. -/
def fFmaV (f : FFmt) (sat : Bool) (a b c : FVal) : Nat × Flags :=
  let bad := match a, b with
    | .inf _, .fin _ n _ => n == 0
    | .fin _ m _, .inf _ => m == 0
    | _, _ => false
  if bad then fNanRes f flNV
  else
    match a, b, c with
    | .nan, _, _ => fNanRes f flNone
    | _, .nan, _ => fNanRes f flNone
    | _, _, .nan => fNanRes f flNone
    | .fin s m e, .fin t n k, .fin u o l =>
      let ps := s != t
      fRoundDy f .rn sat (ps && u && m * n == 0 && o == 0) ((dyOf ps (m * n) (e + k)).add (dyOf u o l))
    | .fin .., .fin .., .inf u => (f.signBit u + f.infPat, flNone)
    | a, b, c =>
      let sgn : FVal → Bool := fun v => match v with
        | .nan => false
        | .inf s => s
        | .fin s _ _ => s
      let ps := sgn a != sgn b
      match c with
      | .inf u => if u = ps then (f.signBit ps + f.infPat, flNone) else fNanRes f flNV
      | _ => (f.signBit ps + f.infPat, flNone)

/-- Operations on patterns. -/
def fAdd (f : FFmt) (sat : Bool) (a b : Nat) : Nat × Flags := fAddV f sat (fDecode f a) (fDecode f b)
def fMul (f : FFmt) (sat : Bool) (a b : Nat) : Nat × Flags := fMulV f sat (fDecode f a) (fDecode f b)
def fFma (f : FFmt) (sat : Bool) (a b c : Nat) : Nat × Flags :=
  fFmaV f sat (fDecode f a) (fDecode f b) (fDecode f c)

def FVal.neg : FVal → FVal
  | .nan => .nan
  | .inf s => .inf (!s)
  | .fin s m e => .fin (!s) m e

/-- A pattern's value read back as a pattern: a flushed input is a zero of its sign (R181). -/
def fCanon (f : FFmt) (x : Nat) : Nat :=
  match fDecode f x with
  | .fin s 0 _ => f.signBit s
  | _ => x

/-- Strict order of two values that are not NaN, −0 below +0 (R182). -/
def fBelow (a b : FVal) : Bool :=
  match a, b with
  | .inf s, .inf t => s && !t
  | .inf s, .fin .. => s
  | .fin .., .inf t => !t
  | .fin s m e, .fin t n k =>
    if m = 0 ∧ n = 0 then s && !t else (dyOf s m e).lt (dyOf t n k)
  | _, _ => false

/-- The lesser or the greater of two patterns (R182, R316). -/
def fMinMax (f : FFmt) (wantMax : Bool) (a b : Nat) : Nat × Flags :=
  match fDecode f a, fDecode f b with
  | .nan, .nan => fNanRes f flNone
  | .nan, _ => (fCanon f b, flNone)
  | _, .nan => (fCanon f a, flNone)
  | x, y =>
    let pickB := if wantMax then fBelow x y else fBelow y x
    (if pickB then fCanon f b else fCanon f a, flNone)

/-- Numerical comparison of two values that are not NaN: −0 equals +0 (R318). -/
def fNumLt (a b : FVal) : Bool :=
  match a, b with
  | .inf s, .inf t => s && !t
  | .inf s, .fin .. => s
  | .fin .., .inf t => !t
  | .fin s m e, .fin t n k => (dyOf s m e).lt (dyOf t n k)
  | _, _ => false

/-- `FSETP`'s comparisons with NV (R318). -/
def fcmpW (c : FCmp) (x y : Nat) : Bool × Flags :=
  let a := fDecode fF32 x
  let b := fDecode fF32 y
  let un := a == .nan || b == .nan
  let lt := fNumLt a b
  let gt := fNumLt b a
  let eq := !lt && !gt
  match c with
  | .eq => (!un && eq, flNone)
  | .ne => (!un && !eq, flNone)
  | .lt => (!un && lt, flIf un flNV)
  | .le => (!un && !gt, flIf un flNV)
  | .gt => (!un && gt, flIf un flNV)
  | .ge => (!un && !lt, flIf un flNV)
  | .num => (!un, flNone)
  | .nan => (un, flNone)
  | .equ => (un || eq, flNone)
  | .neu => (un || !eq, flNone)
  | .ltu => (un || lt, flNone)
  | .leu => (un || !gt, flNone)
  | .gtu => (un || gt, flNone)
  | .geu => (un || !lt, flNone)

/-- `FRND` (R317). -/
def frndW (mode : Rnd) (x : Nat) : Nat × Flags :=
  match fDecode fF32 x with
  | .nan => fNanRes fF32 flNone
  | .inf s => (fF32.signBit s + fF32.infPat, flNone)
  | .fin s m e =>
    if m = 0 then (fF32.signBit s, flNone)
    else if 0 ≤ e then (x, flNone)
    else
      let (n, lost) := roundAt mode s m e 0
      ((fRound fF32 .rn false s n 0).1, flIf lost flNX)

/-! ### Conversions (R309 to R311) -/

/-- The float format of a conversion format. -/
def cvtFF : CvtFmt → FFmt
  | .f16 => fF16
  | .bf16 => fBf16
  | .e5m2 => fE5m2
  | .e4m3 => fE4m3
  | .e2m1 => fE2m1
  | _ => fF32

/-- The range of an integer conversion format. -/
def cvtRange (c : CvtFmt) : Int × Int :=
  match c with
  | .s32 => (-2147483648, 2147483647)
  | .s16 => (-32768, 32767)
  | .s8 => (-128, 127)
  | .n32 => (0, 4294967295)
  | .n16 => (0, 65535)
  | .n8 => (0, 255)
  | _ => (0, 0)

/-- An integer element's value. -/
def cvtInt (c : CvtFmt) (x : Nat) : Int :=
  let w := c.width
  match c with
  | .s32 | .s16 | .s8 => if x / 2 ^ (w - 1) % 2 = 1 then (x : Int) - 2 ^ w else x
  | _ => x

/-- A float value converted to an integer format (R184): rounded, which may be inexact, and then clamped, which is invalid. -/
def cvtToInt (mode : Rnd) (c : CvtFmt) (v : FVal) : Nat × Flags :=
  let w := c.width
  let (lo, hi) := cvtRange c
  let put : Int → Nat := fun x => (x % 2 ^ w).toNat
  match v with
  | .nan => (0, flNV)
  | .inf s => (put (if s then lo else hi), flNV)
  | .fin s m e =>
    let (n, lost) := roundAt mode s m e 0
    let x : Int := if s then -(n : Int) else n
    if x < lo then (put lo, flNV ||| flIf lost flNX)
    else if hi < x then (put hi, flNV ||| flIf lost flNX)
    else (put x, flIf lost flNX)

/-- A value converted to a float format (R183, R311). -/
def cvtToFloat (mode : Rnd) (sat : Bool) (f : FFmt) (v : FVal) : Nat × Flags :=
  match v with
  | .nan => if f.kind = .e2m1 then (0, flNV) else fNanRes f flNone
  | .inf s => if f.kind = .ieee then (f.signBit s + f.infPat, flNone)
              else fOverflow f mode sat s
  | .fin s m e => fRound f mode sat s m e

/-- `FCVT` on one lane: element `si` of `a` to element `di` of `base` (R311). -/
def fcvtW (sat : Bool) (mode : Rnd) (di si : Nat) (df sf : CvtFmt) (a base : Word) : Word × Flags :=
  let ws := sf.width
  let wd := df.width
  let e := a.toNat / 2 ^ (ws * si) % 2 ^ ws
  let r :=
    if df.isFloat then
      if sf.isFloat then cvtToFloat mode sat (cvtFF df) (fDecode (cvtFF sf) e)
      else
        let x := cvtInt sf e
        fRound (cvtFF df) mode sat (decide (x < 0)) x.natAbs 0
    else cvtToInt mode df (fDecode (cvtFF sf) e)
  if wd = 32 then (BitVec.ofNat 32 r.1, r.2)
  else
    let mask : Word := BitVec.ofNat 32 ((2 ^ wd - 1) * 2 ^ (wd * di))
    ((base &&& ~~~mask) ||| BitVec.ofNat 32 (r.1 * 2 ^ (wd * di)), r.2)

/-! ### Packed arithmetic (R186, R365, R366) -/

def packFF : PackTy → FFmt
  | .bf16x2 => fBf16
  | .f16x2 => fF16
  | .e4m3x4 => fE4m3
  | .e5m2x4 => fE5m2
  | .e2m1x8 => fE2m1

/-- One operation on each sub-element of a word, the flags of all joined. -/
def packMap (ty : PackTy) (f : FFmt → Nat → Nat × Flags) : Word × Flags :=
  let fm := packFF ty
  let w := fm.width
  let rs := (List.range (32 / w)).map (fun k => f fm k)
  (BitVec.ofNat 32 (rs.zipIdx.foldl (fun acc r => acc + (r.1.1 % 2 ^ w) * 2 ^ (w * r.2)) 0),
   flJoin (rs.map (fun r => r.2)))

/-- Sub-element k of a word. -/
def sub (fm : FFmt) (x : Word) (k : Nat) : Nat := x.toNat / 2 ^ (fm.width * k) % 2 ^ fm.width

def paddW (sat : Bool) (ty : PackTy) (a b : Word) : Word × Flags :=
  packMap ty (fun f k => fAdd f sat (sub f a k) (sub f b k))

def pmulW (sat : Bool) (ty : PackTy) (a b : Word) : Word × Flags :=
  packMap ty (fun f k => fMul f sat (sub f a k) (sub f b k))

def pfmaW (sat : Bool) (ty : PackTy) (a b c : Word) : Word × Flags :=
  packMap ty (fun f k => fFma f sat (sub f a k) (sub f b k) (sub f c k))

def pminmaxW (wantMax : Bool) (ty : PackTy) (a b : Word) : Word × Flags :=
  packMap ty (fun f k => fMinMax f wantMax (sub f a k) (sub f b k))

/-! ### f32 on words -/

def w32 (r : Nat × Flags) : Word × Flags := (BitVec.ofNat 32 r.1, r.2)

def faddW (a b : Word) : Word × Flags := w32 (fAdd fF32 false a.toNat b.toNat)

/-- a − b is a + (−b) (R306, R67). -/
def fsubW (a b : Word) : Word × Flags :=
  w32 (fAddV fF32 false (fDecode fF32 a.toNat) (fDecode fF32 b.toNat).neg)

def fmulW (a b : Word) : Word × Flags := w32 (fMul fF32 false a.toNat b.toNat)
def ffmaW (a b c : Word) : Word × Flags := w32 (fFma fF32 false a.toNat b.toNat c.toNat)
def fminW (a b : Word) : Word × Flags := w32 (fMinMax fF32 false a.toNat b.toNat)
def fmaxW (a b : Word) : Word × Flags := w32 (fMinMax fF32 true a.toNat b.toNat)

end Sys2Proof.Machine
end

