-- ==== Sys2Proof/Decode.lean ====
section
/-! DEFINITION. Instruction words: the fields of each layout (R58, R64, R69, R73, R74 and the entries that divide an
extension word their own way), the decoder, total on every pair of words and rejecting by name, and the encoder.
Every rejection is the illegal-instruction trap 0x01 (R78): the words that raise 0x02 decode, and the operand checks
of the meaning raise it. -/

namespace Sys2Proof

/-- Why a word does not decode (R78); each is the trap 0x01. -/
inductive DecErr where
  | reservedOpcode
  | reservedSelector
  | reservedDst
  | reservedField
  | unusedField
  | nBit
  deriving DecidableEq, Repr

/-- The result of a decoding step. -/
abbrev Dec := Except DecErr

/-! Field layouts. -/

/-- The first word (R58, R73); `n` is bit 23. -/
structure W1 where
  s : Bool
  x : Bool
  op : BitVec 6
  n : Bool
  d : BitVec 7
  a : BitVec 8
  b : BitVec 8
  deriving DecidableEq, Repr

def W1.ofWord (w : Word) : W1 :=
  { s := w.getLsbD 31, x := w.getLsbD 30, op := w.extractLsb' 24 6, n := w.getLsbD 23,
    d := w.extractLsb' 16 7, a := w.extractLsb' 8 8, b := w.extractLsb' 0 8 }

def W1.toWord (f : W1) : Word :=
  (BitVec.ofBool f.s ++ (BitVec.ofBool f.x ++ (f.op ++ (BitVec.ofBool f.n ++ (f.d ++ (f.a ++ f.b)))))).setWidth 32

/-- The default extension word (R64). -/
structure XDef where
  gn : Bool
  gp : BitVec 3
  c : BitVec 8
  m : BitVec 4
  imm : BitVec 16
  deriving DecidableEq, Repr

def XDef.ofWord (w : Word) : XDef :=
  { gn := w.getLsbD 31, gp := w.extractLsb' 28 3, c := w.extractLsb' 20 8, m := w.extractLsb' 16 4,
    imm := w.extractLsb' 0 16 }

def XDef.toWord (f : XDef) : Word :=
  (BitVec.ofBool f.gn ++ (f.gp ++ (f.c ++ (f.m ++ f.imm)))).setWidth 32

/-- The extension word of the memory forms (R69). -/
structure XMem where
  gn : Bool
  gp : BitVec 3
  size : BitVec 3
  ord : BitVec 3
  scope : BitVec 3
  hint : BitVec 3
  ofs : BitVec 16
  deriving DecidableEq, Repr

def XMem.ofWord (w : Word) : XMem :=
  { gn := w.getLsbD 31, gp := w.extractLsb' 28 3, size := w.extractLsb' 25 3, ord := w.extractLsb' 22 3,
    scope := w.extractLsb' 19 3, hint := w.extractLsb' 16 3, ofs := w.extractLsb' 0 16 }

def XMem.toWord (f : XMem) : Word :=
  (BitVec.ofBool f.gn ++ (f.gp ++ (f.size ++ (f.ord ++ (f.scope ++ (f.hint ++ f.ofs)))))).setWidth 32

/-- The extension word of `ATOM` and `ATOMS` (R161). -/
structure XAtom where
  gn : Bool
  gp : BitVec 3
  c : BitVec 8
  aop : BitVec 4
  ord : BitVec 2
  scope : BitVec 3
  typ : BitVec 2
  agg : Bool
  nd : Bool
  ofw : BitVec 7
  deriving DecidableEq, Repr

def XAtom.ofWord (w : Word) : XAtom :=
  { gn := w.getLsbD 31, gp := w.extractLsb' 28 3, c := w.extractLsb' 20 8, aop := w.extractLsb' 16 4,
    ord := w.extractLsb' 14 2, scope := w.extractLsb' 11 3, typ := w.extractLsb' 9 2, agg := w.getLsbD 8,
    nd := w.getLsbD 7, ofw := w.extractLsb' 0 7 }

def XAtom.toWord (f : XAtom) : Word :=
  (BitVec.ofBool f.gn ++ (f.gp ++ (f.c ++ (f.aop ++ (f.ord ++ (f.scope ++ (f.typ ++ (BitVec.ofBool f.agg
    ++ (BitVec.ofBool f.nd ++ f.ofw))))))))).setWidth 32

/-- The extension word of `DEP` (R122). -/
structure XDep where
  gn : Bool
  gp : BitVec 3
  opn : BitVec 2
  typ : BitVec 2
  z : BitVec 8
  ofs : BitVec 16
  deriving DecidableEq, Repr

def XDep.ofWord (w : Word) : XDep :=
  { gn := w.getLsbD 31, gp := w.extractLsb' 28 3, opn := w.extractLsb' 26 2, typ := w.extractLsb' 24 2,
    z := w.extractLsb' 16 8, ofs := w.extractLsb' 0 16 }

def XDep.toWord (f : XDep) : Word :=
  (BitVec.ofBool f.gn ++ (f.gp ++ (f.opn ++ (f.typ ++ (f.z ++ f.ofs))))).setWidth 32

/-- The extension word of `LDV` (R169). -/
structure XLdv where
  gn : Bool
  gp : BitVec 3
  size : BitVec 3
  ord : BitVec 3
  scope : BitVec 3
  vd : BitVec 7
  ofs : BitVec 12
  deriving DecidableEq, Repr

def XLdv.ofWord (w : Word) : XLdv :=
  { gn := w.getLsbD 31, gp := w.extractLsb' 28 3, size := w.extractLsb' 25 3, ord := w.extractLsb' 22 3,
    scope := w.extractLsb' 19 3, vd := w.extractLsb' 12 7, ofs := w.extractLsb' 0 12 }

def XLdv.toWord (f : XLdv) : Word :=
  (BitVec.ofBool f.gn ++ (f.gp ++ (f.size ++ (f.ord ++ (f.scope ++ (f.vd ++ f.ofs)))))).setWidth 32

/-- The extension word of `CASV` (R171). -/
structure XCasv where
  gn : Bool
  gp : BitVec 3
  c : BitVec 8
  size : BitVec 2
  ord : BitVec 2
  scope : BitVec 3
  v : BitVec 7
  ofw : BitVec 6
  deriving DecidableEq, Repr

def XCasv.ofWord (w : Word) : XCasv :=
  { gn := w.getLsbD 31, gp := w.extractLsb' 28 3, c := w.extractLsb' 20 8, size := w.extractLsb' 18 2,
    ord := w.extractLsb' 16 2, scope := w.extractLsb' 13 3, v := w.extractLsb' 6 7, ofw := w.extractLsb' 0 6 }

def XCasv.toWord (f : XCasv) : Word :=
  (BitVec.ofBool f.gn ++ (f.gp ++ (f.c ++ (f.size ++ (f.ord ++ (f.scope ++ (f.v ++ f.ofw))))))).setWidth 32

/-- The extension word of `VALSET` (R173). -/
structure XVal where
  gn : Bool
  gp : BitVec 3
  c : BitVec 8
  d : BitVec 8
  size : BitVec 2
  w : Bool
  vp : BitVec 3
  z : BitVec 6
  deriving DecidableEq, Repr

def XVal.ofWord (w : Word) : XVal :=
  { gn := w.getLsbD 31, gp := w.extractLsb' 28 3, c := w.extractLsb' 20 8, d := w.extractLsb' 12 8,
    size := w.extractLsb' 10 2, w := w.getLsbD 9, vp := w.extractLsb' 6 3, z := w.extractLsb' 0 6 }

def XVal.toWord (f : XVal) : Word :=
  (BitVec.ofBool f.gn ++ (f.gp ++ (f.c ++ (f.d ++ (f.size ++ (BitVec.ofBool f.w ++ (f.vp ++ f.z))))))).setWidth 32

/-- The extension word of `OWFOOT` (R217). -/
structure XOw where
  c : BitVec 8
  d : BitVec 8
  cnt : BitVec 3
  z : BitVec 13
  deriving DecidableEq, Repr

def XOw.ofWord (w : Word) : XOw :=
  { c := w.extractLsb' 24 8, d := w.extractLsb' 16 8, cnt := w.extractLsb' 13 3, z := w.extractLsb' 0 13 }

def XOw.toWord (f : XOw) : Word := (f.c ++ (f.d ++ (f.cnt ++ f.z))).setWidth 32

/-- The extension word of `MMA` (R351). -/
structure XMma where
  gn : Bool
  gp : BitVec 3
  c : BitVec 8
  fmt : BitVec 4
  blka : BitVec 3
  blkb : BitVec 3
  mxa : Bool
  mxb : Bool
  clr : Bool
  z : BitVec 7
  deriving DecidableEq, Repr

def XMma.ofWord (w : Word) : XMma :=
  { gn := w.getLsbD 31, gp := w.extractLsb' 28 3, c := w.extractLsb' 20 8, fmt := w.extractLsb' 16 4,
    blka := w.extractLsb' 13 3, blkb := w.extractLsb' 10 3, mxa := w.getLsbD 9, mxb := w.getLsbD 8,
    clr := w.getLsbD 7, z := w.extractLsb' 0 7 }

def XMma.toWord (f : XMma) : Word :=
  (BitVec.ofBool f.gn ++ (f.gp ++ (f.c ++ (f.fmt ++ (f.blka ++ (f.blkb ++ (BitVec.ofBool f.mxa
    ++ (BitVec.ofBool f.mxb ++ (BitVec.ofBool f.clr ++ f.z))))))))).setWidth 32

/-- The control form (R74). -/
structure XCtl where
  cond : BitVec 4
  scope : BitVec 4
  wofs : BitVec 24
  deriving DecidableEq, Repr

def XCtl.ofWord (w : Word) : XCtl :=
  { cond := w.extractLsb' 28 4, scope := w.extractLsb' 24 4, wofs := w.extractLsb' 0 24 }

def XCtl.toWord (f : XCtl) : Word := (f.cond ++ (f.scope ++ f.wofs)).setWidth 32

/-- The extension word of `LDU` and `STU` (R347). -/
structure XLdu where
  size : BitVec 3
  ord : BitVec 3
  scope : BitVec 3
  z : BitVec 3
  ofs : BitVec 20
  deriving DecidableEq, Repr

def XLdu.ofWord (w : Word) : XLdu :=
  { size := w.extractLsb' 29 3, ord := w.extractLsb' 26 3, scope := w.extractLsb' 23 3, z := w.extractLsb' 20 3,
    ofs := w.extractLsb' 0 20 }

def XLdu.toWord (f : XLdu) : Word := (f.size ++ (f.ord ++ (f.scope ++ (f.z ++ f.ofs)))).setWidth 32

/-! Field values. -/

/-- Succeeds exactly when `c` holds. -/
def need (c : Bool) (e : DecErr) : Dec Unit := if c then .ok () else .error e

/-- A lane selector (R60). -/
def decSel (x : BitVec 8) : Dec Sel :=
  let n := x.toNat
  if n < 0x80 then .ok (.v (x.setWidth 7))
  else if n < 0x88 then .ok (.latch (x.setWidth 3))
  else if n = 0x88 then .ok .fq
  else if n = 0x89 then .ok .laneid
  else if n = 0x8A then .ok .zero
  else if n = 0x8B then .ok .tileid
  else if n < 0x90 then .error .reservedSelector
  else if n < 0xB0 then .ok (.imm ((x - 0x90#8).setWidth 5))
  else if n < 0xC0 then .ok (.fconst (x.setWidth 4))
  else .ok (.s (x.setWidth 6))

def encSel : Sel → BitVec 8
  | .v n => n.setWidth 8
  | .latch k => 0x80#8 ||| k.setWidth 8
  | .fq => 0x88#8
  | .laneid => 0x89#8
  | .zero => 0x8A#8
  | .tileid => 0x8B#8
  | .imm x => 0x90#8 + x.setWidth 8
  | .fconst k => 0xB0#8 ||| k.setWidth 8
  | .s n => 0xC0#8 ||| n.setWidth 8

/-- A uniform selector (R63). -/
def decUSel (x : BitVec 8) : Dec USel :=
  let n := x.toNat
  if n < 0x40 then .ok (.s (x.setWidth 6))
  else if n < 0xC0 then .ok (.imm ((x - 0x40#8).setWidth 7))
  else .error .reservedSelector

def encUSel : USel → BitVec 8
  | .s n => n.setWidth 8
  | .imm x => 0x40#8 + x.setWidth 8

def decSize (x : BitVec 3) : Dec Size :=
  match x.toNat with
  | 0 => .ok .b8 | 1 => .ok .b16 | 2 => .ok .b32 | 3 => .ok .b64 | 4 => .ok .b128
  | _ => .error .reservedField

def encSize : Size → BitVec 3
  | .b8 => 0#3 | .b16 => 1#3 | .b32 => 2#3 | .b64 => 3#3 | .b128 => 4#3

def decScope (n : Nat) : Dec Scope :=
  match n with
  | 0 => .ok .grp | 1 => .ok .crew | 2 => .ok .gang | 3 => .ok .dev | 4 => .ok .sys
  | _ => .error .reservedField

def encScope : Scope → Nat
  | .grp => 0 | .crew => 1 | .gang => 2 | .dev => 3 | .sys => 4

def decHint (x : BitVec 3) : Dec Hint :=
  match x.toNat with
  | 0 => .ok .normal | 1 => .ok .stream | 2 => .ok .keep
  | _ => .error .reservedField

def encHint : Hint → BitVec 3
  | .normal => 0#3 | .stream => 1#3 | .keep => 2#3

/-- `LD`'s orderings with their scopes (R71). -/
def decLdOrd (ord scope : BitVec 3) : Dec LdOrd :=
  match ord.toNat with
  | 0 => do need (scope == 0#3) .reservedField; .ok .plain
  | 1 => do let sc ← decScope scope.toNat; .ok (.acq sc)
  | 5 => if scope = 2#3 then .ok (.acqRemote false)
         else if scope = 3#3 then .ok (.acqRemote true) else .error .reservedField
  | _ => .error .reservedField

def encLdOrd : LdOrd → BitVec 3 × BitVec 3
  | .plain => (0#3, 0#3)
  | .acq sc => (1#3, BitVec.ofNat 3 (encScope sc))
  | .acqRemote dev => (5#3, if dev then 3#3 else 2#3)

/-- `ST`'s orderings with their scopes (R71). -/
def decStOrd (ord scope : BitVec 3) : Dec StOrd :=
  match ord.toNat with
  | 0 => do need (scope == 0#3) .reservedField; .ok .plain
  | 2 => do let sc ← decScope scope.toNat; .ok (.rel sc)
  | 4 => do need (scope == 0#3) .reservedField; .ok .post
  | _ => .error .reservedField

def encStOrd : StOrd → BitVec 3 × BitVec 3
  | .plain => (0#3, 0#3)
  | .rel sc => (2#3, BitVec.ofNat 3 (encScope sc))
  | .post => (4#3, 0#3)

/-- The scratchpad orderings (R71); `code` is the ORD value of the ordered form. -/
def decSpOrd (code : Nat) (ord scope : BitVec 3) : Dec SpOrd :=
  if ord.toNat = 0 then do need (scope == 0#3) .reservedField; .ok .plain
  else if ord.toNat = code then
    if scope = 0#3 then .ok (.ordered false)
    else if scope = 1#3 then .ok (.ordered true) else .error .reservedField
  else .error .reservedField

def encSpOrd (code : BitVec 3) : SpOrd → BitVec 3 × BitVec 3
  | .plain => (0#3, 0#3)
  | .ordered crew => (code, if crew then 1#3 else 0#3)

/-- The orderings of atomics (R161, R162). -/
def decAtOrd (ord : BitVec 2) (scope : BitVec 3) : Dec AtOrd := do
  let sc ← decScope scope.toNat
  match ord.toNat with
  | 0 => do need (scope == 0#3) .reservedField; .ok .plain
  | 1 => .ok (.acq sc)
  | 2 => .ok (.rel sc)
  | _ => .ok (.acqrel sc)

def encAtOrd : AtOrd → BitVec 2 × BitVec 3
  | .plain => (0#2, 0#3)
  | .acq sc => (1#2, BitVec.ofNat 3 (encScope sc))
  | .rel sc => (2#2, BitVec.ofNat 3 (encScope sc))
  | .acqrel sc => (3#2, BitVec.ofNat 3 (encScope sc))

def decAtOp (x : BitVec 4) : Dec AtOp :=
  match x.toNat with
  | 0 => .ok .add | 1 => .ok .min | 2 => .ok .max | 3 => .ok .and | 4 => .ok .or | 5 => .ok .xor | 6 => .ok .xchg
  | 7 => .ok .cas
  | _ => .error .reservedField

def encAtOp : AtOp → BitVec 4
  | .add => 0#4 | .min => 1#4 | .max => 2#4 | .and => 3#4 | .or => 4#4 | .xor => 5#4 | .xchg => 6#4 | .cas => 7#4

def decAtTy (x : BitVec 2) : AtTy :=
  match x.toNat with
  | 0 => .s32 | 1 => .n32 | 2 => .f32
  | _ => .s64

def encAtTy : AtTy → BitVec 2
  | .s32 => 0#2 | .n32 => 1#2 | .f32 => 2#2 | .s64 => 3#2

def decTy3 (n : Nat) : Dec Ty3 :=
  match n with
  | 0 => .ok .s32 | 1 => .ok .n32 | 2 => .ok .f32
  | _ => .error .reservedField

def encTy3 : Ty3 → Nat
  | .s32 => 0 | .n32 => 1 | .f32 => 2

def decDepOp (x : BitVec 2) : Dec DepOp :=
  match x.toNat with
  | 0 => .ok .add | 1 => .ok .max | 2 => .ok .min
  | _ => .error .reservedField

def encDepOp : DepOp → BitVec 2
  | .add => 0#2 | .max => 1#2 | .min => 2#2

def decICmp (n : Nat) : Dec ICmp :=
  match n with
  | 0 => .ok .eq | 1 => .ok .ne | 2 => .ok .ltS | 3 => .ok .leS | 4 => .ok .gtS | 5 => .ok .geS | 6 => .ok .ltN
  | 7 => .ok .leN | 8 => .ok .gtN | 9 => .ok .geN
  | _ => .error .reservedField

def encICmp : ICmp → Nat
  | .eq => 0 | .ne => 1 | .ltS => 2 | .leS => 3 | .gtS => 4 | .geS => 5 | .ltN => 6 | .leN => 7 | .gtN => 8
  | .geN => 9

def decFCmp (n : Nat) : Dec FCmp :=
  match n with
  | 0 => .ok .eq | 1 => .ok .ne | 2 => .ok .lt | 3 => .ok .le | 4 => .ok .gt | 5 => .ok .ge | 6 => .ok .num
  | 7 => .ok .nan | 8 => .ok .equ | 9 => .ok .neu | 10 => .ok .ltu | 11 => .ok .leu | 12 => .ok .gtu | 13 => .ok .geu
  | _ => .error .reservedField

def encFCmp : FCmp → Nat
  | .eq => 0 | .ne => 1 | .lt => 2 | .le => 3 | .gt => 4 | .ge => 5 | .num => 6 | .nan => 7 | .equ => 8 | .neu => 9
  | .ltu => 10 | .leu => 11 | .gtu => 12 | .geu => 13

def decSatForm (n : Nat) : Dec SatForm :=
  match n with
  | 0 => .ok .wrap | 1 => .ok .satS | 2 => .ok .satN
  | _ => .error .reservedField

def encSatForm : SatForm → Nat
  | .wrap => 0 | .satS => 1 | .satN => 2

def decRnd (x : BitVec 2) : Rnd :=
  match x.toNat with
  | 0 => .rn | 1 => .rz | 2 => .rp
  | _ => .rm

def encRnd : Rnd → BitVec 2
  | .rn => 0#2 | .rz => 1#2 | .rp => 2#2 | .rm => 3#2

def decCvtFmt (n : Nat) : Dec CvtFmt :=
  match n with
  | 0 => .ok .f32 | 1 => .ok .f16 | 2 => .ok .bf16 | 3 => .ok .e5m2 | 4 => .ok .e4m3 | 5 => .ok .e2m1
  | 8 => .ok .s32 | 9 => .ok .n32 | 10 => .ok .s16 | 11 => .ok .n16 | 12 => .ok .s8 | 13 => .ok .n8
  | _ => .error .reservedField

def encCvtFmt : CvtFmt → BitVec 4
  | .f32 => 0#4 | .f16 => 1#4 | .bf16 => 2#4 | .e5m2 => 3#4 | .e4m3 => 4#4 | .e2m1 => 5#4
  | .s32 => 8#4 | .n32 => 9#4 | .s16 => 10#4 | .n16 => 11#4 | .s8 => 12#4 | .n8 => 13#4

def decSfuFn (n : Nat) : Dec SfuFn :=
  match n with
  | 0 => .ok .rcp | 1 => .ok .rsqrt | 2 => .ok .sqrt | 3 => .ok .ex2 | 4 => .ok .lg2 | 5 => .ok .sinpi
  | 6 => .ok .cospi | 7 => .ok .tanh
  | _ => .error .reservedField

def encSfuFn : SfuFn → Nat
  | .rcp => 0 | .rsqrt => 1 | .sqrt => 2 | .ex2 => 3 | .lg2 => 4 | .sinpi => 5 | .cospi => 6 | .tanh => 7

def decPackTy (x : BitVec 3) : Dec PackTy :=
  match x.toNat with
  | 0 => .ok .bf16x2 | 1 => .ok .f16x2 | 2 => .ok .e4m3x4 | 3 => .ok .e5m2x4 | 4 => .ok .e2m1x8
  | _ => .error .reservedField

def encPackTy : PackTy → BitVec 3
  | .bf16x2 => 0#3 | .f16x2 => 1#3 | .e4m3x4 => 2#3 | .e5m2x4 => 3#3 | .e2m1x8 => 4#3

def decShflMode (n : Nat) : Dec ShflMode :=
  match n with
  | 0 => .ok .idx | 1 => .ok .up | 2 => .ok .down | 3 => .ok .bfly
  | _ => .error .reservedField

def encShflMode : ShflMode → Nat
  | .idx => 0 | .up => 1 | .down => 2 | .bfly => 3

def decVoteOp (n : Nat) : Dec VoteOp :=
  match n with
  | 0 => .ok .ballot | 1 => .ok .any | 2 => .ok .all
  | _ => .error .reservedField

def encVoteOp : VoteOp → Nat
  | .ballot => 0 | .any => 1 | .all => 2

def decRedOp (n : Nat) : Dec RedOp :=
  match n with
  | 0 => .ok .add | 1 => .ok .min | 2 => .ok .max | 3 => .ok .and | 4 => .ok .or | 5 => .ok .xor
  | _ => .error .reservedField

def encRedOp : RedOp → Nat
  | .add => 0 | .min => 1 | .max => 2 | .and => 3 | .or => 4 | .xor => 5

def decAccWidth (n : Nat) : Dec AccWidth :=
  match n with
  | 0 => .ok .x1 | 1 => .ok .x2 | 2 => .ok .x4
  | _ => .error .reservedField

def encAccWidth : AccWidth → Nat
  | .x1 => 0 | .x2 => 1 | .x4 => 2

def decMmaFmt (n : Nat) : Dec MmaFmt :=
  match n with
  | 0 => .ok .s8 | 1 => .ok .e4m3 | 2 => .ok .e5m2 | 3 => .ok .e2m1 | 4 => .ok .bf16 | 5 => .ok .f16
  | 6 => .ok .e4m3e5m2 | 7 => .ok .e5m2e4m3
  | _ => .error .reservedField

def encMmaFmt : MmaFmt → BitVec 4
  | .s8 => 0#4 | .e4m3 => 1#4 | .e5m2 => 2#4 | .e2m1 => 3#4 | .bf16 => 4#4 | .f16 => 5#4
  | .e4m3e5m2 => 6#4 | .e5m2e4m3 => 7#4

def decBlk (x : BitVec 3) : Dec Blk :=
  match x.toNat with
  | 0 => .ok .none | 1 => .ok .b16 | 2 => .ok .b32 | 3 => .ok .b64 | 4 => .ok .b128
  | _ => .error .reservedField

def encBlk : Blk → BitVec 3
  | .none => 0#3 | .b16 => 1#3 | .b32 => 2#3 | .b64 => 3#3 | .b128 => 4#3

/-- COND with its tested selector (R75). -/
def decCondTest (cond : BitVec 4) (a : BitVec 8) : Dec CondTest :=
  match cond.toNat with
  | 0 => do need (a == 0#8) .unusedField; .ok .always
  | 1 => do let u ← decUSel a; .ok (.test .z u)
  | 2 => do let u ← decUSel a; .ok (.test .nz u)
  | 3 => do let u ← decUSel a; .ok (.test .lt u)
  | 4 => do let u ← decUSel a; .ok (.test .ge u)
  | 5 => do let u ← decUSel a; .ok (.test .gt u)
  | 6 => do let u ← decUSel a; .ok (.test .le u)
  | _ => .error .reservedField

def encCond : Cond → BitVec 4
  | .z => 1#4 | .nz => 2#4 | .lt => 3#4 | .ge => 4#4 | .gt => 5#4 | .le => 6#4

def encCondTest : CondTest → BitVec 4 × BitVec 8
  | .always => (0#4, 0#8)
  | .test c u => (encCond c, encUSel u)

/-- KIND and SCOPE of `FENCE` (R130). -/
def decFenceKind (cond scope : BitVec 4) : Dec FenceKind :=
  match cond.toNat with
  | 1 => do let sc ← decScope scope.toNat; .ok (.acq sc)
  | 2 => do let sc ← decScope scope.toNat; .ok (.rel sc)
  | 3 => do let sc ← decScope scope.toNat; .ok (.acqrel sc)
  | 5 => if scope = 2#4 then .ok (.acqRemote false)
         else if scope = 3#4 then .ok (.acqRemote true) else .error .reservedField
  | _ => .error .reservedField

def encFenceKind : FenceKind → BitVec 4 × BitVec 4
  | .acq sc => (1#4, BitVec.ofNat 4 (encScope sc))
  | .rel sc => (2#4, BitVec.ofNat 4 (encScope sc))
  | .acqrel sc => (3#4, BitVec.ofNat 4 (encScope sc))
  | .acqRemote dev => (5#4, if dev then 3#4 else 2#4)

def decPath (n : Nat) : Dec Path :=
  match n with
  | 0 => .ok .ld | 1 => .ok .st | 2 => .ok .cst | 3 => .ok .smp | 4 => .ok .dsc | 5 => .ok .cpy
  | _ => .error .reservedField

def encPath : Path → Nat
  | .ld => 0 | .st => 1 | .cst => 2 | .smp => 3 | .dsc => 4 | .cpy => 5

def decCollOp (n : Nat) : Dec CollOp :=
  match n with
  | 0 => .ok .add | 1 => .ok .max | 2 => .ok .min | 3 => .ok .or
  | _ => .error .reservedField

def encCollOp : CollOp → Nat
  | .add => 0 | .max => 1 | .min => 2 | .or => 3

def decGran (n : Nat) : Dec Gran :=
  match n with
  | 0 => .ok .g4 | 1 => .ok .g8 | 2 => .ok .g16 | 3 => .ok .g32 | 4 => .ok .g64 | 5 => .ok .g128
  | _ => .error .reservedField

def encGran : Gran → Nat
  | .g4 => 0 | .g8 => 1 | .g16 => 2 | .g32 => 3 | .g64 => 4 | .g128 => 5

/-- Special register numbers (R51). -/
def decSReg (n : Nat) : Dec SReg :=
  match n with
  | 0x00 => .ok .em | 0x01 => .ok .part
  | 0x02 => .ok (.landrec 0#2) | 0x03 => .ok (.landrec 1#2) | 0x04 => .ok (.landrec 2#2) | 0x05 => .ok (.landrec 3#2)
  | 0x06 => .ok .depth | 0x07 => .ok .handler
  | 0x08 => .ok .cLd | 0x09 => .ok .cSt | 0x0A => .ok .cCst | 0x0B => .ok .cSmp | 0x0C => .ok .cDsc | 0x0D => .ok .cCpy
  | 0x0E => .ok .fwdFree | 0x0F => .ok .retFree | 0x10 => .ok .status | 0x11 => .ok .cycLo | 0x12 => .ok .cycHi
  | 0x13 => .ok .jetCount | 0x14 => .ok .powerWait
  | 0x18 => .ok .group | 0x19 => .ok .crew | 0x1A => .ok .gang | 0x1B => .ok .launch | 0x1C => .ok .basin
  | 0x20 => .ok .quadrant | 0x21 => .ok .core | 0x22 => .ok .cluster
  | _ => .error .reservedField

def encSReg : SReg → Nat
  | .em => 0x00 | .part => 0x01 | .landrec w => 0x02 + w.toNat | .depth => 0x06 | .handler => 0x07
  | .cLd => 0x08 | .cSt => 0x09 | .cCst => 0x0A | .cSmp => 0x0B | .cDsc => 0x0C | .cCpy => 0x0D
  | .fwdFree => 0x0E | .retFree => 0x0F | .status => 0x10 | .cycLo => 0x11 | .cycHi => 0x12
  | .jetCount => 0x13 | .powerWait => 0x14
  | .group => 0x18 | .crew => 0x19 | .gang => 0x1A | .launch => 0x1B | .basin => 0x1C
  | .quadrant => 0x20 | .core => 0x21 | .cluster => 0x22

/-! Formats shared by several instructions. -/

/-- A lane single word with two sources. -/
def decBin (mk : Bool → BitVec 7 → Sel → Sel → Instr) (f : W1) : Dec Instr := do
  let a ← decSel f.a
  let b ← decSel f.b
  .ok (mk f.n f.d a b)

/-- A lane single word with source A only; SELB is 0. -/
def decUn (mk : Bool → BitVec 7 → Sel → Instr) (f : W1) : Dec Instr := do
  let a ← decSel f.a
  need (f.b == 0#8) .unusedField
  .ok (mk f.n f.d a)

/-- A predicate destination (R59). -/
def decPDst (d : BitVec 7) : Dec (BitVec 3) := do
  need (d.extractLsb' 3 4 == 0#4) .reservedDst
  .ok (d.setWidth 3)

/-- A heading destination (R59). -/
def decHDst (d : BitVec 7) : Dec (BitVec 4) := do
  need (d.extractLsb' 4 3 == 0#3) .reservedDst
  .ok (d.setWidth 4)

/-- A uniform destination (R73). -/
def decUDst (d : BitVec 7) : Dec (BitVec 6) := do
  need (!d.getLsbD 6) .reservedDst
  .ok (d.setWidth 6)

/-- A tile-descriptor number in DST (R193, R195). -/
def decTDst (d : BitVec 7) : Dec (BitVec 3) := do
  need (d.extractLsb' 3 4 == 0#4) .reservedDst
  .ok (d.setWidth 3)

/-- Bit 23 of an instruction that is not of class F (R45). -/
def noN (f : W1) : Dec Unit := need (!f.n) .nBit

/-- SELC, M and IMM16 are unused. -/
def noC (x : XDef) : Dec Unit := need (x.c == 0#8) .unusedField
def noImm (x : XDef) : Dec Unit := need (x.imm == 0#16) .unusedField

def XDef.guard (x : XDef) : Guard := { neg := x.gn, p := x.gp }
def XMem.guard (x : XMem) : Guard := { neg := x.gn, p := x.gp }
def XAtom.guard (x : XAtom) : Guard := { neg := x.gn, p := x.gp }
def XDep.guard (x : XDep) : Guard := { neg := x.gn, p := x.gp }
def XLdv.guard (x : XLdv) : Guard := { neg := x.gn, p := x.gp }
def XCasv.guard (x : XCasv) : Guard := { neg := x.gn, p := x.gp }
def XVal.guard (x : XVal) : Guard := { neg := x.gn, p := x.gp }
def XMma.guard (x : XMma) : Guard := { neg := x.gn, p := x.gp }

/-- Lane set, single words (R76). -/
def decLane0 (f : W1) : Dec Instr :=
  match f.op.toNat with
  | 0x01 => decUn .movLane f
  | 0x02 => decBin .iaddLane f
  | 0x03 => decBin .isubLane f
  | 0x04 => decBin .imulLane f
  | 0x05 => decBin .imulhiS32 f
  | 0x06 => decBin .imulhiN32 f
  | 0x07 => decBin .iminS32Lane f
  | 0x08 => decBin .iminN32 f
  | 0x09 => decBin .imaxS32Lane f
  | 0x0A => decBin .imaxN32 f
  | 0x0B => decBin .andLane f
  | 0x0C => decBin .orLane f
  | 0x0D => decBin .xorLane f
  | 0x0E => decUn .notLane f
  | 0x0F => decBin .shlLane f
  | 0x10 => decBin .shrN32Lane f
  | 0x11 => decBin .shrS32Lane f
  | 0x12 => decUn .popc f
  | 0x13 => decUn .clz f
  | 0x14 => decBin .fadd f
  | 0x15 => decBin .fsub f
  | 0x16 => decBin .fmul f
  | 0x17 => decBin .fmin f
  | 0x18 => decBin .fmax f
  | 0x19 => do
    noN f
    need (f.d == 0#7) .unusedField
    need (f.b == 0#8) .unusedField
    let a ← decSel f.a
    .ok (.qret a)
  | 0x1A => do
    noN f
    need (f.d == 0#7) .unusedField
    need (f.a == 0#8) .unusedField
    need (f.b.extractLsb' 5 3 == 0#3) .reservedField
    let k := f.b.setWidth 4
    need (decide (2 ≤ k.toNat) && decide (k.toNat ≤ 8)) .reservedField
    .ok (.dsc (f.b.getLsbD 4) k)
  | 0x1B => do
    let d ← decHDst f.d
    need (f.b == 0#8) .unusedField
    .ok (.hmov f.n d f.a)
  | _ => .error .reservedOpcode

/-- The packed family (R365): M [2:0] the type, M [3] `.sat`. -/
def decPack (mk : Bool → Guard → BitVec 7 → Sel → Sel → Bool → PackTy → Instr) (satOk : Bool) (f : W1) (x : XDef) :
    Dec Instr := do
  let a ← decSel f.a
  let b ← decSel f.b
  noC x
  noImm x
  let ty ← decPackTy (x.m.setWidth 3)
  let sat := x.m.getLsbD 3
  need (packSatOk sat ty && (satOk || !sat)) .reservedField
  .ok (mk f.n x.guard f.d a b sat ty)

/-- The capability and scratchpad memory forms share their first-word fields (R69, R70). -/
def decMemAB (f : W1) : Dec (Sel × Sel) := do
  noN f
  let a ← decSel f.a
  let b ← decSel f.b
  .ok (a, b)

/-- `ATOM` and `ATOMS` (R161, R162). -/
def decAtomForm (mk : Guard → BitVec 7 → Sel → Sel → Sel → AtOp → AtOrd → AtTy → Bool → Bool → BitVec 7 → Instr)
    (scratch : Bool) (f : W1) (x : XAtom) : Dec Instr := do
  noN f
  let a ← decSel f.a
  let b ← decSel f.b
  let c ← decSel x.c
  let op ← decAtOp x.aop
  let ord ← decAtOrd x.ord x.scope
  let ty := decAtTy x.typ
  need (atomOk f.d op ty x.agg x.nd && (!scratch || ord.crewOk)) .reservedField
  .ok (mk x.guard f.d a b c op ord ty x.agg x.nd x.ofw)

/-- `ACCLD` and `ACCST` (R279). -/
def decAcc (mk : Guard → BitVec 7 → Sel → Sel → AccWidth → BitVec 7 → Instr) (f : W1) (x : XDef) : Dec Instr := do
  noN f
  let a ← decSel f.a
  let b ← decSel f.b
  noC x
  need (x.m.extractLsb' 2 2 == 0#2) .reservedField
  let w ← decAccWidth (x.m.setWidth 2).toNat
  need (x.imm.extractLsb' 7 9 == 0#9) .unusedField
  .ok (mk x.guard f.d a b w (x.imm.setWidth 7))

/-- A heading instruction's SELC, IMM16 and M (R211). -/
def hdOk (x : XDef) (negOk : Bool) : Dec Bool := do
  noC x
  noImm x
  if x.m = 0#4 then .ok false
  else if negOk && x.m == 1#4 then .ok true
  else .error .reservedField

/-- The cells of `OWFOOT`: the first CNT selectors, the others 0 (R217). -/
def decCells (cnt : Nat) (a b c d : BitVec 8) : Dec (List Sel) :=
  match cnt with
  | 0 => do
    need (a == 0#8 && b == 0#8 && c == 0#8 && d == 0#8) .unusedField
    .ok []
  | 1 => do
    need (b == 0#8 && c == 0#8 && d == 0#8) .unusedField
    let x ← decSel a
    .ok [x]
  | 2 => do
    need (c == 0#8 && d == 0#8) .unusedField
    let x ← decSel a
    let y ← decSel b
    .ok [x, y]
  | 3 => do
    need (d == 0#8) .unusedField
    let x ← decSel a
    let y ← decSel b
    let z ← decSel c
    .ok [x, y, z]
  | 4 => do
    let x ← decSel a
    let y ← decSel b
    let z ← decSel c
    let t ← decSel d
    .ok [x, y, z, t]
  | _ => .error .reservedField

/-- Lane set with extension word, arithmetic half of the table (R76). -/
def decLane1a (f : W1) (w1 : Word) : Dec Instr :=
  let x := XDef.ofWord w1
  match f.op.toNat with
  | 0x00 => do
    let a ← decSel f.a
    let b ← decSel f.b
    let c ← decSel x.c
    noImm x
    let m ← decSatForm x.m.toNat
    .ok (.imad f.n x.guard f.d a b c m)
  | 0x01 => do
    let a ← decSel f.a
    let b ← decSel f.b
    let c ← decSel x.c
    need (x.m == 0#4) .reservedField
    noImm x
    .ok (.ffma f.n x.guard f.d a b c)
  | 0x02 => do
    let p ← decPDst f.d
    let a ← decSel f.a
    let b ← decSel f.b
    noC x
    noImm x
    let c ← decICmp x.m.toNat
    .ok (.isetpLane f.n x.guard p a b c)
  | 0x03 => do
    let p ← decPDst f.d
    let a ← decSel f.a
    let b ← decSel f.b
    noC x
    noImm x
    let c ← decFCmp x.m.toNat
    .ok (.fsetp f.n x.guard p a b c)
  | 0x04 => do
    let a ← decSel f.a
    let b ← decSel f.b
    noC x
    noImm x
    .ok (.selLane f.n x.guard f.d a b (x.m.getLsbD 3) (x.m.setWidth 3))
  | 0x05 => do
    let a ← decSel f.a
    let b ← decSel f.b
    let c ← decSel x.c
    need (x.m.extractLsb' 1 3 == 0#3) .reservedField
    noImm x
    .ok (.bfe f.n x.guard f.d a b c (x.m.getLsbD 0))
  | 0x06 => do
    let a ← decSel f.a
    let b ← decSel f.b
    if x.m = 0#4 then do
      noC x
      need (x.imm.extractLsb' 12 4 == 0#4) .unusedField
      .ok (.bfi f.n x.guard f.d a b (.const (x.imm.setWidth 6) (x.imm.extractLsb' 6 6)))
    else if x.m = 1#4 then do
      noImm x
      let c ← decSel x.c
      .ok (.bfi f.n x.guard f.d a b (.reg c))
    else .error .reservedField
  | 0x07 => do
    let a ← decSel f.a
    let b ← decSel f.b
    noC x
    need (!x.m.getLsbD 3) .reservedField
    need (x.imm.extractLsb' 14 2 == 0#2) .unusedField
    let df ← decCvtFmt (x.imm.extractLsb' 4 4).toNat
    let sf ← decCvtFmt (x.imm.extractLsb' 0 4).toNat
    let di := x.imm.extractLsb' 11 3
    let si := x.imm.extractLsb' 8 3
    let sat := x.m.getLsbD 2
    need (fcvtOk b sat di si df sf) .reservedField
    .ok (.fcvt f.n x.guard f.d a b sat (decRnd (x.m.setWidth 2)) di si df sf)
  | 0x08 => do
    let a ← decSel f.a
    need (f.b == 0#8) .unusedField
    noC x
    noImm x
    need (x.m.extractLsb' 2 2 == 0#2) .reservedField
    .ok (.frnd f.n x.guard f.d a (decRnd (x.m.setWidth 2)))
  | 0x09 => do
    noN f
    let a ← decSel f.a
    need (f.b == 0#8) .unusedField
    noC x
    noImm x
    let fn ← decSfuFn x.m.toNat
    .ok (.fsfu x.guard f.d a fn)
  | 0x0A => do
    need (f.a == 0#8) .unusedField
    need (f.b == 0#8) .unusedField
    .ok (.moviLane f.n f.d w1)
  | 0x0B => decPack .padd true f x
  | 0x0C => decPack .pmul true f x
  | 0x0D => do
    let a ← decSel f.a
    let b ← decSel f.b
    let c ← decSel x.c
    noImm x
    let ty ← decPackTy (x.m.setWidth 3)
    need (packSatOk (x.m.getLsbD 3) ty) .reservedField
    .ok (.pfma f.n x.guard f.d a b c (x.m.getLsbD 3) ty)
  | 0x0E => decPack (fun n g d a b _ ty => .pmax n g d a b ty) false f x
  | 0x0F => decPack (fun n g d a b _ ty => .pmin n g d a b ty) false f x
  | 0x10 => do
    noN f
    let a ← decSel f.a
    let b ← decSel f.b
    noC x
    noImm x
    let m ← decShflMode x.m.toNat
    .ok (.shfl x.guard f.d a b m)
  | 0x11 => do
    noN f
    need (f.a == 0#8) .unusedField
    need (f.b == 0#8) .unusedField
    noC x
    need (x.imm.extractLsb' 4 12 == 0#12) .unusedField
    let op ← decVoteOp x.m.toNat
    .ok (.vote x.guard f.d op (x.imm.getLsbD 3) (x.imm.setWidth 3))
  | 0x12 => do
    noN f
    let a ← decSel f.a
    need (f.b == 0#8) .unusedField
    noC x
    need (x.imm.extractLsb' 2 14 == 0#14) .unusedField
    let op ← decRedOp x.m.toNat
    let ty ← decTy3 (x.imm.setWidth 2).toNat
    need (redOk op ty) .reservedField
    .ok (.red x.guard f.d a op ty)
  | _ => .error .reservedOpcode

/-- Lane set with extension word, memory, heading and engine half of the table (R76). -/
def decLane1b (f : W1) (w1 : Word) : Dec Instr :=
  let x := XDef.ofWord w1
  let y := XMem.ofWord w1
  match f.op.toNat with
  | 0x13 => do
    let (a, b) ← decMemAB f
    let size ← decSize y.size
    let ord ← decLdOrd y.ord y.scope
    let hint ← decHint y.hint
    .ok (.ld y.guard f.d a b size ord hint y.ofs)
  | 0x14 => do
    let (a, b) ← decMemAB f
    let size ← decSize y.size
    let ord ← decStOrd y.ord y.scope
    let hint ← decHint y.hint
    .ok (.st y.guard f.d a b size ord hint y.ofs)
  | 0x15 => do
    let (a, b) ← decMemAB f
    let size ← decSize y.size
    need (y.ord == 0#3 && y.scope == 0#3) .reservedField
    let hint ← decHint y.hint
    .ok (.ldc y.guard f.d a b size hint y.ofs)
  | 0x16 => do
    noN f
    let a ← decSel f.a
    let b ← decSel f.b
    let c ← decSel x.c
    need (x.m.extractLsb' 1 3 == 0#3) .reservedField
    noImm x
    .ok (.smpl x.guard f.d a b c (x.m.getLsbD 0))
  | 0x17 => do
    let (a, b) ← decMemAB f
    let size ← decSize y.size
    let ord ← decSpOrd 1 y.ord y.scope
    need (y.hint == 0#3) .reservedField
    .ok (.lds y.guard f.d a b size ord y.ofs)
  | 0x18 => do
    let (a, b) ← decMemAB f
    let size ← decSize y.size
    let ord ← decSpOrd 2 y.ord y.scope
    need (y.hint == 0#3) .reservedField
    .ok (.sts y.guard f.d a b size ord y.ofs)
  | 0x19 => decAtomForm .atom false f (XAtom.ofWord w1)
  | 0x1A => decAtomForm .atoms true f (XAtom.ofWord w1)
  | 0x1B => do
    let z := XDep.ofWord w1
    let (a, b) ← decMemAB f
    let op ← decDepOp z.opn
    let ty ← decTy3 z.typ.toNat
    need (z.z == 0#8) .unusedField
    .ok (.dep z.guard f.d a b op ty z.ofs)
  | 0x1C => do
    let z := XLdv.ofWord w1
    let (a, b) ← decMemAB f
    let size ← decSize z.size
    need (size == .b32 || size == .b64 || size == .b128) .reservedField
    let ord ← decLdOrd z.ord z.scope
    need ord.noRemote .reservedField
    .ok (.ldv z.guard f.d z.vd a b size ord z.ofs)
  | 0x1D => do
    let z := XCasv.ofWord w1
    let (a, b) ← decMemAB f
    let c ← decSel z.c
    need (!z.size.getLsbD 1) .reservedField
    let ord ← decAtOrd z.ord z.scope
    .ok (.casv z.guard f.d z.v a b c (z.size.getLsbD 0) ord z.ofw)
  | 0x1E => do
    let z := XVal.ofWord w1
    let (a, b) ← decMemAB f
    let c ← decSel z.c
    let d ← decSel z.d
    need (!z.size.getLsbD 1) .reservedField
    need (z.w || (d == .v 0#7 && !z.size.getLsbD 0)) .unusedField
    need (z.z == 0#6) .unusedField
    .ok (.valset z.guard f.d a b c d (z.size.getLsbD 0) z.w z.vp)
  | 0x1F => do
    noN f
    need (f.d == 0#7 && f.a == 0#8 && f.b == 0#8 && x.c == 0#8 && x.m == 0#4) .unusedField
    .ok (.bra x.guard x.imm)
  | 0x20 => do
    let d ← decHDst f.d
    let a ← decSel f.a
    need (f.b == 0#8) .unusedField
    let _ ← hdOk x false
    .ok (.hcvt f.n x.guard d a)
  | 0x21 => do
    need (f.b == 0#8) .unusedField
    let _ ← hdOk x false
    .ok (.hexp f.n x.guard f.d f.a)
  | 0x22 => do
    let _ ← hdOk x false
    .ok (.hdot f.n x.guard f.d f.a f.b)
  | 0x23 => do
    let d ← decHDst f.d
    let neg ← hdOk x true
    .ok (.hadd f.n x.guard d f.a f.b neg)
  | 0x24 => do
    let d ← decHDst f.d
    let b ← decSel f.b
    let neg ← hdOk x true
    .ok (.hscl f.n x.guard d f.a b neg)
  | 0x25 => do
    need (f.b == 0#8) .unusedField
    let _ ← hdOk x false
    .ok (.hnrm f.n x.guard f.d f.a)
  | 0x26 => do
    let z := XOw.ofWord w1
    noN f
    need (z.z == 0#13) .unusedField
    let cells ← decCells z.cnt.toNat f.a f.b z.c z.d
    .ok (.owfoot f.d cells)
  | 0x27 => do
    let z := XMma.ofWord w1
    noN f
    need (f.d == 0#7) .unusedField
    let a ← decSel f.a
    let b ← decSel f.b
    let c ← decSel z.c
    let fmt ← decMmaFmt z.fmt.toNat
    let blka ← decBlk z.blka
    let blkb ← decBlk z.blkb
    need (mmaOk fmt blka blkb z.mxa z.mxb) .reservedField
    need (z.z == 0#7) .unusedField
    .ok (.mma z.guard a b c fmt blka blkb z.mxa z.mxb z.clr)
  | 0x28 => decAcc .accld f x
  | 0x29 => decAcc .accst f x
  | 0x2A => do
    noN f
    let t ← decTDst f.d
    noC x
    noImm x
    if x.m = 0#4 then do
      need (f.a == 0#8 && f.b == 0#8) .unusedField
      .ok (.tcopy x.guard t .strided)
    else if x.m = 1#4 then do
      let a ← decSel f.a
      let b ← decSel f.b
      .ok (.tcopy x.guard t (.gather a b))
    else .error .reservedField
  | _ => .error .reservedOpcode

/-- A uniform single word with destination and two sources. -/
def decUBin (mk : BitVec 6 → USel → USel → Instr) (f : W1) : Dec Instr := do
  let d ← decUDst f.d
  let a ← decUSel f.a
  let b ← decUSel f.b
  .ok (mk d a b)

/-- A uniform single word whose fields are all 0. -/
def decUNone (i : Instr) (f : W1) : Dec Instr := do
  need (f.d == 0#7 && f.a == 0#8 && f.b == 0#8) .unusedField
  .ok i

/-- A uniform single word with source A only. -/
def decUA (mk : USel → Instr) (f : W1) : Dec Instr := do
  need (f.d == 0#7 && f.b == 0#8) .unusedField
  let a ← decUSel f.a
  .ok (mk a)

/-- `TRAIL` (R394). -/
def decTrail (f : W1) : Dec Instr :=
  if f.b.getLsbD 7 then do
    need (f.d == 0#7 && f.a == 0#8 && f.b == 0x80#8) .unusedField
    .ok (.trail none)
  else if f.d.getLsbD 6 then .error .reservedField
  else .ok (.trail (some (f.a.setWidth 7, f.b.setWidth 7,
    BitVec.ofBool (f.a.getLsbD 7) ++ f.d.setWidth 6)))

/-- Uniform set, single words (R76). -/
def decUni0 (f : W1) : Dec Instr := do
  need (!f.n) .reservedField
  match f.op.toNat with
  | 0x00 => decUNone .nop f
  | 0x01 => do
    let d ← decUDst f.d
    let a ← decUSel f.a
    need (f.b == 0#8) .unusedField
    .ok (.movUniform d a)
  | 0x02 => decUBin .iaddUniform f
  | 0x03 => decUBin .isubUniform f
  | 0x04 => decUBin .imulUniform f
  | 0x05 => decUBin .andUniform f
  | 0x06 => decUBin .orUniform f
  | 0x07 => decUBin .xorUniform f
  | 0x08 => decUBin .shlUniform f
  | 0x09 => decUBin .shrN32Uniform f
  | 0x0A => decUBin .shrS32Uniform f
  | 0x0B => decUBin .iminS32Uniform f
  | 0x0C => decUBin .imaxS32Uniform f
  | 0x0D => decUA .qsend f
  | 0x0E => do
    let d ← decUDst f.d
    need (f.a == 0#8 && f.b == 0#8) .unusedField
    .ok (.qtake d)
  | 0x0F => do
    let d ← decUDst f.d
    need (f.b == 0#8) .unusedField
    need (decide (0x40 ≤ f.a.toNat) && decide (f.a.toNat < 0x80)) .reservedField
    let r ← decSReg (f.a.toNat - 0x40)
    .ok (.movs d r)
  | 0x10 => decUNone .join f
  | 0x11 => do
    need (f.d == 0#7 && f.b == 0#8) .unusedField
    .ok (.ret f.a)
  | 0x12 => decUNone .exit f
  | 0x13 => decTrail f
  | 0x14 => decUNone .ofence f
  | 0x15 => do
    need (f.d == 0#7 && f.b == 0#8) .unusedField
    need (decide (0x41 ≤ f.a.toNat) && decide (f.a.toNat ≤ 0x4F)) .reservedField
    .ok (.pfence (f.a.setWidth 4))
  | 0x16 => decUNone .yield f
  | 0x17 => decUNone .bpt f
  | 0x18 => decUNone .trapret f
  | 0x19 => decUA .setem f
  | 0x1A => decUA .setpart f
  | 0x1B => decUNone .mmwait f
  | 0x1C => decUNone .ownext f
  | _ => .error .reservedOpcode

/-- `GATE` (R157). -/
def decGate (f : W1) (w1 : Word) : Dec Instr := do
  need (w1.extractLsb' 19 13 == 0#13) .unusedField
  let base ← decUSel f.a
  let ofs := w1.extractLsb' 0 16
  match (w1.extractLsb' 16 3).toNat with
  | 0 => do
    let d ← decUDst f.d
    need (f.b == 0#8) .unusedField
    .ok (.gate (.arrive d) base ofs)
  | 1 => do
    let d ← decUDst f.d
    need (f.b == 0#8) .unusedField
    .ok (.gate (.sync d) base ofs)
  | 2 => do
    need (f.d == 0#7) .unusedField
    let p ← decUSel f.b
    .ok (.gate (.wait p) base ofs)
  | 3 => do
    need (f.d == 0#7) .unusedField
    let p ← decUSel f.b
    .ok (.gate (.expect p) base ofs)
  | _ => .error .reservedField

/-- SIZE, bits [22:20] and, with `.64`, an even register, of `LDU` and `STU` (R347, R348, R391). -/
def decLduSize (x : XLdu) (d : BitVec 6) : Dec Bool := do
  need (x.z == 0#3) .unusedField
  need (x.size == 2#3 || x.size == 3#3) .reservedField
  let wide := x.size == 3#3
  need (!(wide && d.getLsbD 0)) .reservedDst
  .ok wide

/-- Uniform set with extension word (R76). -/
def decUni1 (f : W1) (w1 : Word) : Dec Instr := do
  need (!f.n) .reservedField
  let x := XCtl.ofWord w1
  match f.op.toNat with
  | 0x00 => do
    let d ← decUDst f.d
    need (f.a == 0#8 && f.b == 0#8) .unusedField
    .ok (.moviUniform d w1)
  | 0x01 => do
    let d ← decUDst f.d
    let a ← decUSel f.a
    let b ← decUSel f.b
    need (w1.extractLsb' 4 28 == 0#28) .unusedField
    let c ← decICmp (w1.setWidth 4).toNat
    .ok (.isetpUniform d a b c)
  | 0x02 => do
    let d ← decUDst f.d
    let a ← decUSel f.a
    let b ← decUSel f.b
    need (w1.extractLsb' 8 24 == 0#24) .unusedField
    let c ← decUSel (w1.setWidth 8)
    .ok (.selUniform d a b c)
  | 0x03 => do
    need (f.d == 0#7 && f.b == 0#8) .unusedField
    need (x.scope == 0#4) .unusedField
    let t ← decCondTest x.cond f.a
    .ok (.jmp t x.wofs)
  | 0x04 => do
    let d ← decUDst f.d
    need (f.b == 0#8) .unusedField
    need (x.scope == 0#4) .unusedField
    let t ← decCondTest x.cond f.a
    .ok (.call d t x.wofs)
  | 0x05 => do
    need (f.d == 0#7 && f.a == 0#8 && f.b == 0#8 && x.cond == 0#4 && x.scope == 0#4) .unusedField
    .ok (.mark x.wofs)
  | 0x06 => do
    need (f.d == 0#7 && f.a == 0#8 && f.b == 0#8 && x.wofs == 0#24) .unusedField
    let k ← decFenceKind x.cond x.scope
    .ok (.fence k)
  | 0x07 => do
    need (f.d == 0#7 && f.b == 0#8) .unusedField
    let a ← decUSel f.a
    need (w1.extractLsb' 9 23 == 0#23 && w1.extractLsb' 5 3 == 0#3) .unusedField
    let id := w1.extractLsb' 0 5
    need (decide (id.toNat < 24)) .reservedField
    .ok (.bar (w1.getLsbD 8) id a)
  | 0x08 => decGate f w1
  | 0x09 => do
    need (f.d == 0#7 && f.b == 0#8) .unusedField
    let a ← decUSel f.a
    need (w1.extractLsb' 3 29 == 0#29) .unusedField
    let p ← decPath (w1.setWidth 3).toNat
    .ok (.waitc p a)
  | 0x0A => do
    let y := XLdu.ofWord w1
    let d ← decUDst f.d
    let b ← decUSel f.b
    let wide ← decLduSize y d
    let ord ← decLdOrd y.ord y.scope
    need ord.noRemote .reservedField
    .ok (.ldu d f.a b wide ord y.ofs)
  | 0x0B => do
    let y := XLdu.ofWord w1
    let d ← decUDst f.d
    let b ← decUSel f.b
    let wide ← decLduSize y d
    let ord ← decStOrd y.ord y.scope
    need ord.noPost .reservedField
    .ok (.stu d f.a b wide ord y.ofs)
  | 0x0C => do
    let d ← decUDst f.d
    let a ← decUSel f.a
    need (f.b == 0#8 && w1 == 0#32) .unusedField
    .ok (.acqb d a)
  | 0x0D => do
    need (f.d == 0#7 && w1 == 0#32) .unusedField
    let a ← decUSel f.a
    let b ← decUSel f.b
    .ok (.relb a b)
  | 0x0E => do
    let d ← decUDst f.d
    need (f.b == 0#8 && w1 == 0#32) .unusedField
    .ok (.launch d f.a)
  | 0x0F => do
    need (f.d == 0#7) .unusedField
    let b ← decUSel f.b
    need (w1.extractLsb' 2 30 == 0#30) .unusedField
    need (!w1.getLsbD 1) .reservedField
    .ok (.signal (w1.getLsbD 0) f.a b)
  | 0x10 => do
    let d ← decUDst f.d
    let b ← decUSel f.b
    need (w1.extractLsb' 6 26 == 0#26 && !w1.getLsbD 3) .unusedField
    let ty ← decTy3 (w1.extractLsb' 4 2).toNat
    let op ← decCollOp (w1.setWidth 3).toNat
    need (collOk op ty) .reservedField
    .ok (.coll d f.a b op ty)
  | 0x11 => do
    need (f.d == 0#7 && f.a == 0#8 && f.b == 0#8 && w1.extractLsb' 16 16 == 0#16) .unusedField
    .ok (.trap (w1.setWidth 16))
  | 0x12 => do
    let d ← decUDst f.d
    need (f.b == 0#8 && w1.extractLsb' 8 24 == 0#24) .unusedField
    .ok (.fwcall d f.a (w1.setWidth 8))
  | 0x13 => do
    need (f.d == 0#7 && f.b == 0#8 && w1.extractLsb' 8 24 == 0#24) .unusedField
    let a ← decUSel f.a
    let r ← decSReg (w1.setWidth 8).toNat
    .ok (.mtsr r a)
  | 0x14 => do
    let d ← decUDst f.d
    need (f.b == 0#8) .unusedField
    .ok (.extmap d f.a w1)
  | 0x15 => do
    let d ← decUDst f.d
    let b ← decUSel f.b
    need (w1.extractLsb' 3 29 == 0#29) .unusedField
    let g ← decGran (w1.setWidth 3).toNat
    .ok (.owbegin d f.a b g)
  | 0x16 => do
    let t ← decTDst f.d
    need (f.a == 0#8 && f.b == 0#8 && w1 == 0#32) .unusedField
    .ok (.tstore t)
  | 0x17 => do
    let d ← decUDst f.d
    let b ← decUSel f.b
    need (w1.extractLsb' 15 16 == 0#16) .unusedField
    let gadr := w1.extractLsb' 0 15
    if w1.getLsbD 31 then .ok (.copy d f.a b (some gadr))
    else do
      need (gadr == 0#15) .unusedField
      .ok (.copy d f.a b none)
  | 0x18 => do
    let t ← decTDst f.d
    need (f.b == 0#8) .unusedField
    .ok (.tld t f.a w1)
  | _ => .error .reservedOpcode

/-- The decoder (R56, R76): `w1` is the extension word, read only when the first word's X bit is 1. -/
def decode (w0 w1 : Word) : Dec Instr :=
  let f := W1.ofWord w0
  match f.s, f.x with
  | false, false => decLane0 f
  | false, true => if f.op.toNat < 0x13 then decLane1a f w1 else decLane1b f w1
  | true, false => decUni0 f
  | true, true => decUni1 f w1

/-- Whether a first word announces an extension word (R56). -/
def hasExt (w0 : Word) : Bool := w0.getLsbD 30

/-- The instruction read from an opcode-table word: bits 31..0 are the first word and bits 63..32 the extension word.
`nbits` may be shorter than the instruction; the bits above it are 0. -/
def decodeTableWord (nbits w : Nat) : Option Instr :=
  let x := w % 2 ^ nbits
  match decode (BitVec.ofNat 32 x) (BitVec.ofNat 32 (x / 2 ^ 32)) with
  | .ok i => some i
  | .error _ => none

/-! The encoder. -/

/-- A lane first word. -/
def encLane (x : Bool) (op : BitVec 6) (n : Bool) (d : BitVec 7) (a b : BitVec 8) : Word :=
  W1.toWord { s := false, x := x, op := op, n := n, d := d, a := a, b := b }

/-- A uniform first word. -/
def encUni (x : Bool) (op : BitVec 6) (d : BitVec 7) (a b : BitVec 8) : Word :=
  W1.toWord { s := true, x := x, op := op, n := false, d := d, a := a, b := b }

/-- A default extension word. -/
def encX (g : Guard) (c : BitVec 8) (m : BitVec 4) (imm : BitVec 16) : Word :=
  XDef.toWord { gn := g.neg, gp := g.p, c := c, m := m, imm := imm }

/-- A memory-form extension word. -/
def encXMem (g : Guard) (size ord scope hint : BitVec 3) (ofs : BitVec 16) : Word :=
  XMem.toWord { gn := g.neg, gp := g.p, size := size, ord := ord, scope := scope, hint := hint, ofs := ofs }

/-- The words of an instruction: the first word and, if it has one, the extension word. -/
abbrev Code := Word × Option Word

def enc0 (op : BitVec 6) (nw : Bool) (d : BitVec 7) (a b : Sel) : Code :=
  (encLane false op nw d (encSel a) (encSel b), none)

def enc0u (op : BitVec 6) (nw : Bool) (d : BitVec 7) (a : Sel) : Code :=
  (encLane false op nw d (encSel a) 0#8, none)

def encU2 (op : BitVec 6) (d : BitVec 6) (a b : USel) : Code :=
  (encUni false op (d.setWidth 7) (encUSel a) (encUSel b), none)

def encUz (op : BitVec 6) : Code := (encUni false op 0#7 0#8 0#8, none)

def packM (sat : Bool) (ty : PackTy) : BitVec 4 := BitVec.ofBool sat ++ encPackTy ty

def encPack (op : BitVec 6) (nw : Bool) (g : Guard) (d : BitVec 7) (a b : Sel) (c : BitVec 8) (sat : Bool)
    (ty : PackTy) : Code :=
  (encLane true op nw d (encSel a) (encSel b), some (encX g c (packM sat ty) 0#16))

def encAtomForm (op : BitVec 6) (g : Guard) (d : BitVec 7) (a b c : Sel) (aop : AtOp) (ord : AtOrd) (ty : AtTy)
    (agg nd : Bool) (ofw : BitVec 7) : Code :=
  (encLane true op false d (encSel a) (encSel b),
   some (XAtom.toWord { gn := g.neg, gp := g.p, c := encSel c, aop := encAtOp aop, ord := (encAtOrd ord).1,
                        scope := (encAtOrd ord).2, typ := encAtTy ty, agg := agg, nd := nd, ofw := ofw }))

/-- The selector of cell `k` of `OWFOOT`, 0 beyond the list. -/
def cellSel (cells : List Sel) (k : Nat) : BitVec 8 :=
  match cells[k]? with
  | some c => encSel c
  | none => 0#8

/-- The words of an instruction; `none` for the steps that have no encoding. On a well-formed instruction `decode`
reads it back. -/
def encode (i : Instr) : Option Code :=
  match i with
  | .movLane nw d a => some (enc0u 0x01#6 nw d a)
  | .iaddLane nw d a b => some (enc0 0x02#6 nw d a b)
  | .isubLane nw d a b => some (enc0 0x03#6 nw d a b)
  | .imulLane nw d a b => some (enc0 0x04#6 nw d a b)
  | .imulhiS32 nw d a b => some (enc0 0x05#6 nw d a b)
  | .imulhiN32 nw d a b => some (enc0 0x06#6 nw d a b)
  | .iminS32Lane nw d a b => some (enc0 0x07#6 nw d a b)
  | .iminN32 nw d a b => some (enc0 0x08#6 nw d a b)
  | .imaxS32Lane nw d a b => some (enc0 0x09#6 nw d a b)
  | .imaxN32 nw d a b => some (enc0 0x0A#6 nw d a b)
  | .andLane nw d a b => some (enc0 0x0B#6 nw d a b)
  | .orLane nw d a b => some (enc0 0x0C#6 nw d a b)
  | .xorLane nw d a b => some (enc0 0x0D#6 nw d a b)
  | .notLane nw d a => some (enc0u 0x0E#6 nw d a)
  | .shlLane nw d a b => some (enc0 0x0F#6 nw d a b)
  | .shrN32Lane nw d a b => some (enc0 0x10#6 nw d a b)
  | .shrS32Lane nw d a b => some (enc0 0x11#6 nw d a b)
  | .popc nw d a => some (enc0u 0x12#6 nw d a)
  | .clz nw d a => some (enc0u 0x13#6 nw d a)
  | .fadd nw d a b => some (enc0 0x14#6 nw d a b)
  | .fsub nw d a b => some (enc0 0x15#6 nw d a b)
  | .fmul nw d a b => some (enc0 0x16#6 nw d a b)
  | .fmin nw d a b => some (enc0 0x17#6 nw d a b)
  | .fmax nw d a b => some (enc0 0x18#6 nw d a b)
  | .qret a => some (enc0u 0x19#6 false 0#7 a)
  | .dsc w k => some (encLane false 0x1A#6 false 0#7 0#8 (0#3 ++ (BitVec.ofBool w ++ k)), none)
  | .hmov nw d a => some (encLane false 0x1B#6 nw (d.setWidth 7) a 0#8, none)
  | .imad nw g d a b c form => some (encLane true 0x00#6 nw d (encSel a) (encSel b),
      some (encX g (encSel c) (BitVec.ofNat 4 (encSatForm form)) 0#16))
  | .ffma nw g d a b c => some (encLane true 0x01#6 nw d (encSel a) (encSel b), some (encX g (encSel c) 0#4 0#16))
  | .isetpLane nw g p a b cmp => some (encLane true 0x02#6 nw (p.setWidth 7) (encSel a) (encSel b),
      some (encX g 0#8 (BitVec.ofNat 4 (encICmp cmp)) 0#16))
  | .fsetp nw g p a b cmp => some (encLane true 0x03#6 nw (p.setWidth 7) (encSel a) (encSel b),
      some (encX g 0#8 (BitVec.ofNat 4 (encFCmp cmp)) 0#16))
  | .selLane nw g d a b neg p => some (encLane true 0x04#6 nw d (encSel a) (encSel b),
      some (encX g 0#8 (BitVec.ofBool neg ++ p) 0#16))
  | .bfe nw g d a pos len signed => some (encLane true 0x05#6 nw d (encSel a) (encSel pos),
      some (encX g (encSel len) (0#3 ++ BitVec.ofBool signed) 0#16))
  | .bfi nw g d a b (.const pos len) => some (encLane true 0x06#6 nw d (encSel a) (encSel b),
      some (encX g 0#8 0#4 (0#4 ++ (len ++ pos))))
  | .bfi nw g d a b (.reg c) => some (encLane true 0x06#6 nw d (encSel a) (encSel b),
      some (encX g (encSel c) 1#4 0#16))
  | .fcvt nw g d a base sat rnd di si df sf => some (encLane true 0x07#6 nw d (encSel a) (encSel base),
      some (encX g 0#8 (0#1 ++ (BitVec.ofBool sat ++ encRnd rnd))
        (0#2 ++ (di ++ (si ++ (encCvtFmt df ++ encCvtFmt sf))))))
  | .frnd nw g d a rnd => some (encLane true 0x08#6 nw d (encSel a) 0#8, some (encX g 0#8 (0#2 ++ encRnd rnd) 0#16))
  | .fsfu g d a fn => some (encLane true 0x09#6 false d (encSel a) 0#8,
      some (encX g 0#8 (BitVec.ofNat 4 (encSfuFn fn)) 0#16))
  | .moviLane nw d imm => some (encLane true 0x0A#6 nw d 0#8 0#8, some imm)
  | .padd nw g d a b sat ty => some (encPack 0x0B#6 nw g d a b 0#8 sat ty)
  | .pmul nw g d a b sat ty => some (encPack 0x0C#6 nw g d a b 0#8 sat ty)
  | .pfma nw g d a b c sat ty => some (encPack 0x0D#6 nw g d a b (encSel c) sat ty)
  | .pmax nw g d a b ty => some (encPack 0x0E#6 nw g d a b 0#8 false ty)
  | .pmin nw g d a b ty => some (encPack 0x0F#6 nw g d a b 0#8 false ty)
  | .shfl g d a b mode => some (encLane true 0x10#6 false d (encSel a) (encSel b),
      some (encX g 0#8 (BitVec.ofNat 4 (encShflMode mode)) 0#16))
  | .vote g d op neg p => some (encLane true 0x11#6 false d 0#8 0#8,
      some (encX g 0#8 (BitVec.ofNat 4 (encVoteOp op)) (0#12 ++ (BitVec.ofBool neg ++ p))))
  | .red g d a op ty => some (encLane true 0x12#6 false d (encSel a) 0#8,
      some (encX g 0#8 (BitVec.ofNat 4 (encRedOp op)) (BitVec.ofNat 16 (encTy3 ty))))
  | .ld g d cap idx size ord hint ofs => some (encLane true 0x13#6 false d (encSel cap) (encSel idx),
      some (encXMem g (encSize size) (encLdOrd ord).1 (encLdOrd ord).2 (encHint hint) ofs))
  | .st g d cap idx size ord hint ofs => some (encLane true 0x14#6 false d (encSel cap) (encSel idx),
      some (encXMem g (encSize size) (encStOrd ord).1 (encStOrd ord).2 (encHint hint) ofs))
  | .ldc g d cap idx size hint ofs => some (encLane true 0x15#6 false d (encSel cap) (encSel idx),
      some (encXMem g (encSize size) 0#3 0#3 (encHint hint) ofs))
  | .smpl g d cap u v lin => some (encLane true 0x16#6 false d (encSel cap) (encSel u),
      some (encX g (encSel v) (0#3 ++ BitVec.ofBool lin) 0#16))
  | .lds g d base idx size ord ofs => some (encLane true 0x17#6 false d (encSel base) (encSel idx),
      some (encXMem g (encSize size) (encSpOrd 1#3 ord).1 (encSpOrd 1#3 ord).2 0#3 ofs))
  | .sts g d base idx size ord ofs => some (encLane true 0x18#6 false d (encSel base) (encSel idx),
      some (encXMem g (encSize size) (encSpOrd 2#3 ord).1 (encSpOrd 2#3 ord).2 0#3 ofs))
  | .atom g d cap idx data op ord ty agg nd ofw => some (encAtomForm 0x19#6 g d cap idx data op ord ty agg nd ofw)
  | .atoms g d base idx data op ord ty agg nd ofw => some (encAtomForm 0x1A#6 g d base idx data op ord ty agg nd ofw)
  | .dep g d cap idx op ty ofs => some (encLane true 0x1B#6 false d (encSel cap) (encSel idx),
      some (XDep.toWord { gn := g.neg, gp := g.p, opn := encDepOp op, typ := BitVec.ofNat 2 (encTy3 ty), z := 0#8,
                          ofs := ofs }))
  | .ldv g d vd cap idx size ord ofs => some (encLane true 0x1C#6 false d (encSel cap) (encSel idx),
      some (XLdv.toWord { gn := g.neg, gp := g.p, size := encSize size, ord := (encLdOrd ord).1,
                          scope := (encLdOrd ord).2, vd := vd, ofs := ofs }))
  | .casv g d v cap idx new wide ord ofw => some (encLane true 0x1D#6 false d (encSel cap) (encSel idx),
      some (XCasv.toWord { gn := g.neg, gp := g.p, c := encSel new, size := 0#1 ++ BitVec.ofBool wide,
                           ord := (encAtOrd ord).1, scope := (encAtOrd ord).2, v := v, ofw := ofw }))
  | .valset g d cap idx exp data wide w vp => some (encLane true 0x1E#6 false d (encSel cap) (encSel idx),
      some (XVal.toWord { gn := g.neg, gp := g.p, c := encSel exp, d := encSel data, size := 0#1 ++ BitVec.ofBool wide,
                          w := w, vp := vp, z := 0#6 }))
  | .bra g ofs => some (encLane true 0x1F#6 false 0#7 0#8 0#8, some (encX g 0#8 0#4 ofs))
  | .hcvt nw g d a => some (encLane true 0x20#6 nw (d.setWidth 7) (encSel a) 0#8, some (encX g 0#8 0#4 0#16))
  | .hexp nw g d a => some (encLane true 0x21#6 nw d a 0#8, some (encX g 0#8 0#4 0#16))
  | .hdot nw g d a b => some (encLane true 0x22#6 nw d a b, some (encX g 0#8 0#4 0#16))
  | .hadd nw g d a b neg => some (encLane true 0x23#6 nw (d.setWidth 7) a b,
      some (encX g 0#8 (0#3 ++ BitVec.ofBool neg) 0#16))
  | .hscl nw g d a f neg => some (encLane true 0x24#6 nw (d.setWidth 7) a (encSel f),
      some (encX g 0#8 (0#3 ++ BitVec.ofBool neg) 0#16))
  | .hnrm nw g d a => some (encLane true 0x25#6 nw d a 0#8, some (encX g 0#8 0#4 0#16))
  | .owfoot d cells => some (encLane true 0x26#6 false d (cellSel cells 0) (cellSel cells 1),
      some (XOw.toWord { c := cellSel cells 2, d := cellSel cells 3, cnt := BitVec.ofNat 3 cells.length, z := 0#13 }))
  | .mma g a b k fmt blka blkb mxa mxb clr => some (encLane true 0x27#6 false 0#7 (encSel a) (encSel b),
      some (XMma.toWord { gn := g.neg, gp := g.p, c := encSel k, fmt := encMmaFmt fmt, blka := encBlk blka,
                          blkb := encBlk blkb, mxa := mxa, mxb := mxb, clr := clr, z := 0#7 }))
  | .accld g d bank word w k => some (encLane true 0x28#6 false d (encSel bank) (encSel word),
      some (encX g 0#8 (BitVec.ofNat 4 (encAccWidth w)) (k.setWidth 16)))
  | .accst g d bank word w k => some (encLane true 0x29#6 false d (encSel bank) (encSel word),
      some (encX g 0#8 (BitVec.ofNat 4 (encAccWidth w)) (k.setWidth 16)))
  | .tcopy g t .strided => some (encLane true 0x2A#6 false (t.setWidth 7) 0#8 0#8, some (encX g 0#8 0#4 0#16))
  | .tcopy g t (.gather va vb) => some (encLane true 0x2A#6 false (t.setWidth 7) (encSel va) (encSel vb),
      some (encX g 0#8 1#4 0#16))
  | .nop => some (encUz 0x00#6)
  | .movUniform d a => some (encUni false 0x01#6 (d.setWidth 7) (encUSel a) 0#8, none)
  | .iaddUniform d a b => some (encU2 0x02#6 d a b)
  | .isubUniform d a b => some (encU2 0x03#6 d a b)
  | .imulUniform d a b => some (encU2 0x04#6 d a b)
  | .andUniform d a b => some (encU2 0x05#6 d a b)
  | .orUniform d a b => some (encU2 0x06#6 d a b)
  | .xorUniform d a b => some (encU2 0x07#6 d a b)
  | .shlUniform d a b => some (encU2 0x08#6 d a b)
  | .shrN32Uniform d a b => some (encU2 0x09#6 d a b)
  | .shrS32Uniform d a b => some (encU2 0x0A#6 d a b)
  | .iminS32Uniform d a b => some (encU2 0x0B#6 d a b)
  | .imaxS32Uniform d a b => some (encU2 0x0C#6 d a b)
  | .qsend a => some (encUni false 0x0D#6 0#7 (encUSel a) 0#8, none)
  | .qtake d => some (encUni false 0x0E#6 (d.setWidth 7) 0#8 0#8, none)
  | .movs d r => some (encUni false 0x0F#6 (d.setWidth 7) (BitVec.ofNat 8 (0x40 + encSReg r)) 0#8, none)
  | .join => some (encUz 0x10#6)
  | .ret link => some (encUni false 0x11#6 0#7 link 0#8, none)
  | .exit => some (encUz 0x12#6)
  | .trail none => some (encUni false 0x13#6 0#7 0#8 0x80#8, none)
  | .trail (some (a, b, c)) => some (encUni false 0x13#6 (0#1 ++ c.setWidth 6) (BitVec.ofBool (c.getLsbD 6) ++ a)
      (0#1 ++ b), none)
  | .ofence => some (encUz 0x14#6)
  | .pfence mask => some (encUni false 0x15#6 0#7 (0x4#4 ++ mask) 0#8, none)
  | .yield => some (encUz 0x16#6)
  | .bpt => some (encUz 0x17#6)
  | .trapret => some (encUz 0x18#6)
  | .setem a => some (encUni false 0x19#6 0#7 (encUSel a) 0#8, none)
  | .setpart a => some (encUni false 0x1A#6 0#7 (encUSel a) 0#8, none)
  | .mmwait => some (encUz 0x1B#6)
  | .ownext => some (encUz 0x1C#6)
  | .moviUniform d imm => some (encUni true 0x00#6 (d.setWidth 7) 0#8 0#8, some imm)
  | .isetpUniform d a b cmp => some (encUni true 0x01#6 (d.setWidth 7) (encUSel a) (encUSel b),
      some (BitVec.ofNat 32 (encICmp cmp)))
  | .selUniform d a b c => some (encUni true 0x02#6 (d.setWidth 7) (encUSel a) (encUSel b),
      some ((encUSel c).setWidth 32))
  | .jmp t ofs => some (encUni true 0x03#6 0#7 (encCondTest t).2 0#8,
      some (XCtl.toWord { cond := (encCondTest t).1, scope := 0#4, wofs := ofs }))
  | .call link t ofs => some (encUni true 0x04#6 (link.setWidth 7) (encCondTest t).2 0#8,
      some (XCtl.toWord { cond := (encCondTest t).1, scope := 0#4, wofs := ofs }))
  | .mark ofs => some (encUni true 0x05#6 0#7 0#8 0#8, some (XCtl.toWord { cond := 0#4, scope := 0#4, wofs := ofs }))
  | .fence k => some (encUni true 0x06#6 0#7 0#8 0#8,
      some (XCtl.toWord { cond := (encFenceKind k).1, scope := (encFenceKind k).2, wofs := 0#24 }))
  | .bar sync id count => some (encUni true 0x07#6 0#7 (encUSel count) 0#8,
      some (0#23 ++ (BitVec.ofBool sync ++ (0#3 ++ id))))
  | .gate (.arrive d) base ofs => some (encUni true 0x08#6 (d.setWidth 7) (encUSel base) 0#8, some (0#16 ++ ofs))
  | .gate (.sync d) base ofs => some (encUni true 0x08#6 (d.setWidth 7) (encUSel base) 0#8, some (1#16 ++ ofs))
  | .gate (.wait p) base ofs => some (encUni true 0x08#6 0#7 (encUSel base) (encUSel p), some (2#16 ++ ofs))
  | .gate (.expect n) base ofs => some (encUni true 0x08#6 0#7 (encUSel base) (encUSel n), some (3#16 ++ ofs))
  | .waitc path thr => some (encUni true 0x09#6 0#7 (encUSel thr) 0#8, some (BitVec.ofNat 32 (encPath path)))
  | .ldu d cap idx wide ord ofs => some (encUni true 0x0A#6 (d.setWidth 7) cap (encUSel idx),
      some (XLdu.toWord { size := if wide then 3#3 else 2#3, ord := (encLdOrd ord).1, scope := (encLdOrd ord).2,
                          z := 0#3, ofs := ofs }))
  | .stu d cap idx wide ord ofs => some (encUni true 0x0B#6 (d.setWidth 7) cap (encUSel idx),
      some (XLdu.toWord { size := if wide then 3#3 else 2#3, ord := (encStOrd ord).1, scope := (encStOrd ord).2,
                          z := 0#3, ofs := ofs }))
  | .acqb d count => some (encUni true 0x0C#6 (d.setWidth 7) (encUSel count) 0#8, some 0#32)
  | .relb base count => some (encUni true 0x0D#6 0#7 (encUSel base) (encUSel count), some 0#32)
  | .launch d cap => some (encUni true 0x0E#6 (d.setWidth 7) cap 0#8, some 0#32)
  | .signal add cap value => some (encUni true 0x0F#6 0#7 cap (encUSel value), some (0#31 ++ BitVec.ofBool add))
  | .coll src slot len op ty => some (encUni true 0x10#6 (src.setWidth 7) slot (encUSel len),
      some (0#26 ++ (BitVec.ofNat 2 (encTy3 ty) ++ (0#1 ++ BitVec.ofNat 3 (encCollOp op)))))
  | .trap code => some (encUni true 0x11#6 0#7 0#8 0#8, some (code.setWidth 32))
  | .fwcall d cap fn => some (encUni true 0x12#6 (d.setWidth 7) cap 0#8, some (fn.setWidth 32))
  | .mtsr r a => some (encUni true 0x13#6 0#7 (encUSel a) 0#8, some (BitVec.ofNat 32 (encSReg r)))
  | .extmap d cap ofs => some (encUni true 0x14#6 (d.setWidth 7) cap 0#8, some ofs)
  | .owbegin c cap len gran => some (encUni true 0x15#6 (c.setWidth 7) cap (encUSel len),
      some (BitVec.ofNat 32 (encGran gran)))
  | .tstore t => some (encUni true 0x16#6 (t.setWidth 7) 0#8 0#8, some 0#32)
  | .copy dst src len none => some (encUni true 0x17#6 (dst.setWidth 7) src (encUSel len), some 0#32)
  | .copy dst src len (some gadr) => some (encUni true 0x17#6 (dst.setWidth 7) src (encUSel len),
      some (1#1 ++ (0#16 ++ gadr)))
  | .tld t cap ofs => some (encUni true 0x18#6 (t.setWidth 7) cap 0#8, some ofs)
  | _ => none

end Sys2Proof
end

