-- ==== Sys2Proof/Machine/Maps.lean ====
section
/-! DEFINITION. Finite maps keyed by numbers, held as lists of pairs, and the lists of 32 lane values. A map written
only through `NMap.set` and `NMap.erase` keeps its keys strictly rising, so equal maps are equal data. -/

namespace Sys2Proof.Machine

/-- A finite map from numbers, as pairs with strictly rising keys. -/
abbrev NMap (α : Type) := List (Nat × α)

/-- The value at a key, if there is one. -/
def NMap.get? {α : Type} : NMap α → Nat → Option α
  | [], _ => none
  | (k, v) :: t, i => if k = i then some v else NMap.get? t i

/-- The value at a key, or a default. -/
def NMap.getD {α : Type} (m : NMap α) (i : Nat) (d : α) : α := (NMap.get? m i).getD d

/-- Writes one key, keeping the keys rising. -/
def NMap.set {α : Type} : NMap α → Nat → α → NMap α
  | [], i, x => [(i, x)]
  | (k, v) :: t, i, x =>
    if i < k then (i, x) :: (k, v) :: t
    else if k = i then (i, x) :: t
    else (k, v) :: NMap.set t i x

/-- Removes one key. -/
def NMap.erase {α : Type} (m : NMap α) (i : Nat) : NMap α := m.filter (fun e => e.1 != i)

/-- Changes the value at a key, if there is one. -/
def NMap.modify {α : Type} (m : NMap α) (i : Nat) (f : α → α) : NMap α :=
  match NMap.get? m i with
  | some x => NMap.set m i (f x)
  | none => m

/-- Whether a key is listed. -/
def NMap.has {α : Type} (m : NMap α) (i : Nat) : Bool := (NMap.get? m i).isSome

/-- The canonical form: keys strictly rising. -/
def NMap.sorted {α : Type} : NMap α → Bool
  | [] => true
  | [_] => true
  | a :: b :: t => decide (a.1 < b.1) && NMap.sorted (b :: t)

/-- The values of 32 lanes. -/
abbrev Lanes := List Word

/-- 32 lane values from a function of the lane number. -/
def lanesOf (f : Nat → Word) : Lanes := (List.range 32).map f

/-- One lane's value. -/
def Lanes.at (l : Lanes) (i : Nat) : Word := List.getD l i 0#32

/-- All lanes 0. -/
def Lanes.zero : Lanes := lanesOf (fun _ => 0#32)

/-- The lanes of a mask, in ascending order. -/
def maskLanes (m : Mask) : List Nat := (List.range 32).filter (fun i => m.getLsbD i)

/-- A mask from a predicate on lane numbers. -/
def maskOf (f : Nat → Bool) : Mask :=
  (List.range 32).foldl (fun m i => if f i then m ||| (1#32 <<< i) else m) 0#32

/-- `new` in the lanes of `m`, `old` in the others. -/
def Lanes.blend (m : Mask) (new old : Lanes) : Lanes :=
  lanesOf (fun i => if m.getLsbD i then Lanes.at new i else Lanes.at old i)

end Sys2Proof.Machine
end

