-- ==== Sys2Proof/Machine/State.lean ====
section
/-! DEFINITION. The machine's state as plain data: groups, quadrants, engines, basins, memory, requests in flight, and
the agenda that says which agent moves next. -/

namespace Sys2Proof.Machine

/-! ### Groups -/

/-- A rejoin-stack entry (R20). -/
structure Rejoin where
  pending : Bool
  mask : Mask
  addr : Nat
  deriving DecidableEq, Repr

/-- A heading (R207): 256 direction components, lane i holding components 8i to 8i + 7, and 16 norm entries, one a
tile. -/
structure Heading where
  dir : List Half
  norm : List Half
  deriving DecidableEq, Repr

/-- The zero-vector code in every tile (R207, R42). -/
def Heading.zero : Heading := { dir := List.replicate 256 0#16, norm := List.replicate 16 0x8000#16 }

/-- A bypass latch (R44, R210): nothing, a lane result, or a heading result. -/
inductive Latch where
  | none
  | lane (v : Lanes)
  | heading (h : Heading)
  deriving DecidableEq, Repr

/-- A register write that becomes visible at the end of its jet (R44). A heading write names the lanes whose
components it gives and the tiles, of the width in force, whose norm entries it gives. -/
inductive PendWrite where
  | v (r : Nat) (m : Mask) (x : Lanes)
  | p (r : Nat) (m : Mask) (x : Mask)
  | h (r : Nat) (m : Mask) (w : Nat) (x : Heading)
  deriving DecidableEq, Repr

/-- What a taken branch or `OWFOOT` does after its `TRAIL` (R43, R21). -/
structure PendBranch where
  em : Mask
  addr : Nat
  push : Option Rejoin
  deriving DecidableEq, Repr

/-- A result on its way to a vector register, or to a predicate under a number past theirs: in `mask`, lanes whose value is still to come or to be written; in
`raced`, lanes that a later jet has written meanwhile, so that which value remains is open (R46). -/
structure Dest where
  reg : Nat
  mask : Mask
  raced : Mask
  deriving DecidableEq, Repr

/-- A result that has arrived while a jet of its group is open: the registers it writes hold it from the end of that jet on
(R44, R46). `ix` names its free choices, `id` the instruction it belongs to. -/
structure Late where
  ix : Nat
  id : Nat
  dest : Dest
  x : List Word
  deriving DecidableEq, Repr

/-- A jet that has started (R43): its first address, the identity number from which on its own results count (R46), the
instructions issued so far, the latches newest first, the writes and flags that land at its end, the results that
arrived meanwhile, the branch that its `TRAIL` takes, the members of a descent group still
to pass, and the queue violation that preparation found (R43, `s58` 3, 4 or 5) with the position that raises it. -/
structure Jet where
  start : Nat
  first : Nat
  pos : Nat
  latches : List Latch
  pend : List PendWrite
  flags : BitVec 5
  late : List Late
  bra : Option PendBranch
  dscLeft : Nat
  plan : Option (Nat × Nat)
  deriving DecidableEq, Repr

/-- What the group's later accesses wait for (R126, R127, R130): requests and scratchpad operations that must be over;
then, if `hosts`, the host writes that are in the inbound queue by then (R133); then a promotion at this device's
quadrants if `promote`; then the invalidation of the L1 data region if `inv`. `id` is the number that the later accesses
wait for; `wide` says that a store which has entered the outbound queue is still waited for until it is acknowledged. -/
structure Order where
  id : Nat
  waits : List Nat
  wide : Bool
  hosts : Bool
  promote : Bool
  inv : Bool
  deriving DecidableEq, Repr

/-- The trap frame (R53): the saved registers and the topmost rejoin entry with the depth at entry; and, of the model's own, the
orders and the reads of a release that stand behind something which stands still while the handler runs, a suspended copy or a parked
request: they bind the group again after `TRAPRET` (R127, R198, R239). From `since` on numbers are the handler's. -/
structure Frame where
  v : NMap Lanes
  s : NMap Word
  p : NMap Mask
  em : Mask
  part : Word
  top : Option Rejoin
  depth : Nat
  orders : List Order
  relReads : List Nat
  since : Nat
  deriving DecidableEq, Repr

/-- A class V result in flight (R46, R98): its destinations and their values, the flags of `FSFU`, and the lanes of
an `LDS` or `ATOMS` that have not returned. -/
structure VFlight where
  id : Nat
  dests : List (Dest × Lanes)
  flags : BitVec 5
  waiting : Nat
  deriving DecidableEq, Repr

/-- A scoreboard entry (R46): the register a `TRAIL` names and the class V result that clears it, once issued. -/
structure ScoreEntry where
  reg : Nat
  flight : Option Nat
  deriving DecidableEq, Repr

/-- An instruction on a counted path (R99): oldest first in the group's list, so that a path's counter is lowered in
order. `ops` counts the requests still to complete; `dests` are the registers they write. -/
structure Flight where
  id : Nat
  path : Path
  ops : Nat
  dests : List Dest
  deriving DecidableEq, Repr

/-- A queued notice of an asynchronous cause (R246) with the frame values of R244, R245 and R406, and the copy that it
left suspended (R198). -/
structure Notice where
  code : Nat
  s58 : Word
  s59 : Word
  em : Mask
  v120 : Lanes
  v121 : Lanes
  v122 : Lanes
  byHandler : Bool
  job : Option Nat
  deriving DecidableEq, Repr

/-- The overwriting loop that is open for a group (R213, R214): M, the walker record's address, and B. -/
structure OpenLoop where
  m : Nat
  b : Nat
  deriving DecidableEq, Repr

/-- An `MMA` request (R201, R352, R202): operands, formats, effective priority at issue with the launch's ceiling, order
of arrival, cycles counted while eligible (R37), and in `dirty` the scratchpad bytes (first, number) that the crew has
written since the group's `OFENCE` (R204). -/
structure MmaReq where
  q : Nat
  slot : Nat
  a : Nat
  b : Nat
  k : Nat
  fmt : MmaFmt
  blka : Blk
  blkb : Blk
  mxa : Bool
  mxb : Bool
  clr : Bool
  prio : Nat
  ceil : Nat
  age : Nat
  waited : Nat
  dirty : List (Nat × Nat)
  deriving DecidableEq, Repr

/-- A condition that a catch-up instruction waits for (R35): a counter at most a threshold (R100), the counters of the
paths of a mask at 0 (R95), the group's scratchpad requests applied (R155), the crew's bank queues empty (R98, R215), no
`MMA` under way (R354), none on a run of banks (R373), no `TCOPY` incomplete (R204), no copy on a descriptor, for `TLD` but those a handler finds suspended (R193, R198), the
orders of earlier accesses met (R126), with those the reads of a release that a write follows (R129), some bytes at hand at their home (R297, R342), a request over, and room for a collective slot to
be tracked (R297). -/
inductive Cond where
  | counter (p : Path) (thr : Nat)
  | paths (mask : BitVec 4)
  | applied
  | crewIdle
  | mm
  | banks (base n : Nat)
  | tcopies
  | copyOn (t : Nat)
  | copyIdle (t : Nat)
  | orders
  | reads
  | atHand (c : DWord) (n : Nat) (write : Bool)
  | answered (r : Nat)
  | mayTrack (c : DWord)
  deriving DecidableEq, Repr

/-- What a group stands at before its next jet (R35): the catch-up instruction at its pc has issued its side of the
work and waits. The instruction takes effect when the wait is over and its jet starts. -/
inductive Wait where
  | none
  /-- the orders of the group must be met (R130); the number says how far the instruction has come -/
  | stage (n : Nat)
  /-- a condition on the machine; the instruction runs when it holds -/
  | until (c : Cond)
  /-- a barrier arrival counted or held (R153); `released` once the group may go on -/
  | bar (released : Bool)
  /-- `GATE.wait`, or `GATE.sync` after its arrival with the old phase (R158) -/
  | gate (addr : Nat) (phase : Bool) (released : Bool)
  /-- a request whose answer is still to come -/
  | request (r : Nat)
  /-- the answer has come, as words -/
  | answer (ws : List Word)
  /-- `ACQB` in the quarter's queue (R283) -/
  | acqb
  /-- `FWCALL`: the call is with the custodian (R234) -/
  | call
  /-- `FWCALL`: the status has come back -/
  | status (w : Word)
  /-- `COLL` (R274): waiting since a custodian cycle for the contributions to a slot -/
  | coll (since : Nat) (slot : DWord) (len : Nat) (op : CollOp) (ty : Ty3)
  deriving DecidableEq, Repr

/-- The state of a group slot that holds a group (R20, R40 to R55). Numbers `basin`, `launch`, `gang`, `crew` and
`grp` identify it (R17, R51); `gpc`, `cpg` and `gangs` are the launch's sizes; `code` is the ENTRY capability. For the window of R204: `mmDirty` are
the scratchpad bytes the crew has written since the `OFENCE` mark was set, `mmNamed` the banks that `MMA`s have named since
the last `MMWAIT`, `mmSpoilt` the named banks that an `ACCST` has written. -/
structure Group where
  basin : Nat
  launch : Word
  gang : Nat
  crew : Nat
  grp : Nat
  gpc : Nat
  cpg : Nat
  gangs : Nat
  vgran : Nat
  hgran : Nat
  prio : Nat
  ceil : Nat
  code : DWord
  pc : Nat
  em : Mask
  part : Word
  v : NMap Lanes
  s : NMap Word
  p : NMap Mask
  h : NMap Heading
  t : NMap (BitVec 256)
  landrec : BitVec 128
  status : BitVec 5
  jetCount : Word
  powerWait : Word
  capturedHi : Word
  stack : List Rejoin
  fwd : List Word
  fwdGrant : Bool
  ret : List Word
  handler : Bool
  frame : Option Frame
  ofence : Bool
  loop : Option OpenLoop
  loopM : Nat
  ageCount : Nat
  ageSteps : Nat
  waitSince : Nat
  yieldFor : List Nat
  jet : Option Jet
  vflights : List VFlight
  score : List ScoreEntry
  flights : List Flight
  notices : List Notice
  wait : Wait
  orders : List Order
  relReads : List Nat
  staging : Option MmaReq
  mmDirty : List (Nat × Nat)
  mmNamed : List Nat
  mmSpoilt : List Nat
  retired : Bool
  halted : Bool
  blockedSince : Option Nat
  deriving DecidableEq, Repr

/-! ### Requests (R91, R102, R128) -/

/-- Whose request it is: the quadrant and slot it came from and the group that was there (R17), so that a result never
reaches a later occupant of the slot. -/
structure Owner where
  q : Nat
  slot : Nat
  basin : Nat
  launch : Word
  gang : Nat
  crew : Nat
  grp : Nat
  deriving DecidableEq, Repr

/-- One lane's element of an atomic, a `CASV`, a deposit or a `VALSET`: the offset, the data, the compare value and
the expected version. -/
structure Elem where
  lane : Nat
  ofs : Nat
  data : DWord
  cmp : DWord
  ver : Word
  deriving DecidableEq, Repr

/-- A source of a descent group's instruction: the running value of a register of D, or a value captured at issue
(R110). -/
inductive DscSrc where
  | run (i : Nat)
  | val (w : Word)
  deriving DecidableEq, Repr

/-- A member of a descent group after its `LD` (R110): the instruction, the register of D it writes, its sources and
the bit of the predicate that `SEL` reads. -/
structure DscOp where
  op : Instr
  dst : Nat
  srcs : List DscSrc
  sel : Bool
  deriving DecidableEq, Repr

/-- A lane's descent group under way (R112): the `LD` and `ST` offsets, whether data has 64 bits, and the members. What its replay
packet holds of the issue (R258): the prefix's address, the lane's words of the captured vector registers, the captured 32-bit values, and
the instruction words. -/
structure Descent where
  lane : Nat
  dst : Nat
  wide : Bool
  ofs : Nat
  stOfs : Option Nat
  ops : List DscOp
  pc : Nat
  vecs : List Word
  vals : List Word
  words : List Word
  deriving DecidableEq, Repr

/-- A `VALSET` under way (R175). `lines` and `pins` hold keys of lines, `pins` the versions answered; an element's offset has its
object's number above bit 40. `verdict` is set when the commit or the release has gone out, and `done` are the lines whose
slice has performed it. `quiet` are the lanes that an open loop suppresses: they are compared and write nothing (R219, R399). -/
structure Valset where
  d : Nat
  elems : List Elem
  wide : Bool
  write : Bool
  vp : Nat
  em : Mask
  lines : List Nat
  pins : List (Nat × Word)
  firstPin : Option Nat
  verdict : Option Bool
  done : List Nat
  quiet : List Nat
  deriving DecidableEq, Repr

/-- What a request asks for. A `load` with `uni` delivers its bytes as words to a waiting uniform instruction; `keepL1`
is false for reads that neither hit nor fill L1. A `fetch` reads a line of a peer's memory for a copy. A `probe` is what a `COLL`, or the copy of a `LAUNCH`, leaves parked at an
absent extent: it reads and writes nothing (R239). A `store` with `outb` is an entry of the outbound queue; `merge` is a
store that still waits in the quadrant to be merged into write-combining. -/
inductive ReqKind where
  | load (path : Path) (n d : Nat) (lanes : List (Nat × Nat)) (hint : Hint) (uni keepL1 : Bool)
  | smpl (d : Nat) (lin : Bool) (word : Word) (lanes : List (Nat × Nat × Word × Word))
  | store (outb : Bool) (bytes : NMap Byte)
  | merge (bytes : NMap Byte)
  | copyWrite (bytes : NMap Byte)
  | atom (op : AtOp) (ty : AtTy) (d : Option Nat) (elems : List Elem)
  | signal (add : Bool) (value : Word) (ofs : Nat)
  | casv (wide : Bool) (d v : Nat) (elems : List Elem)
  | ldv (n d v : Nat) (lanes : List (Nat × Nat))
  | dep (op : DepOp) (ty : Ty3) (elems : List Elem)
  | descent (w : Descent)
  | valset (w : Valset)
  | promote (target : Nat)
  | fetch
  | probe (kind ofs : Nat)
  deriving DecidableEq, Repr

/-- Where a request stands: waiting in its quadrant; on its way; performed, with its answer under way; parked on an
absent extent (R239). -/
inductive ReqStatus where
  | held | sent | performed | parked
  deriving DecidableEq, Repr

/-- A request in flight. `holdFor` keeps it in its quadrant until those requests are over (R119, R126); `after` are
the requests that take their place in the line's order first (R128). `data` holds bytes read, `overlay` the group's
own write-combining bytes at issue, `writes` the register writes of the answer (register, lane, value), `ok` the
outcome of a `VALSET` or that a load hit a cached copy, `accs` the latest access of each lane of a store (lane, offset,
bytes), `landing` the nibble of a descent, `err` the reason of a data error
(R244); `ports` are the peer ports whose credits it holds (R270); `rel` marks the access of a release (R126), `wide` one at `.gang` or wider; `fall` that a descent or deposit has been
given an ordinary fill (R113, orders 3 and 6); `ord` and `scope` are the ordering codes that its replay packet shows (R69, R258). `again` marks a
replay packet of a request that had left its quadrant, which keeps what it follows (R132, R258); `freed` are the keys of the lines in whose
order a monitor has given it its place (R241); `fullAt` is since when the quadrant's full queue has kept it (R50). -/
structure Req where
  kind : ReqKind
  owner : Owner
  dev : Nat
  obj : Nat
  line : Nat
  lanes : Mask
  flight : List Nat
  st : ReqStatus
  holdFor : List Nat
  after : List Nat
  version : Word
  data : NMap Byte
  overlay : NMap Byte
  writes : List (Nat × Nat × Word)
  ok : Bool
  landing : Nat
  noFill : Bool
  sentAt : Nat
  tag : Word
  byHandler : Bool
  err : Option Nat
  replay : Bool
  again : Bool
  freed : List Nat
  fullAt : Option Nat
  rel : Bool
  wide : Bool
  fall : Bool
  ord : Nat
  scope : Nat
  ports : List Nat
  accs : List (Nat × Nat × Nat)
  deriving DecidableEq, Repr

/-- A write-combining entry (R93): one group's pending writes to one line. `leaving` is set once it has been sent, while the
outbound queue has no room for it (R128); `ticket` is the number that is over when it has entered that queue. -/
structure WcEntry where
  owner : Owner
  obj : Nat
  line : Nat
  bytes : NMap Byte
  since : Nat
  ticket : Nat
  leaving : Bool
  flight : List Nat
  byHandler : Bool
  accs : List (Nat × Nat × Nat)
  deriving DecidableEq, Repr

/-- What an access from outside the quadrants that has met an absent extent holds (R239, R241): its number in the park list, the keys of the
lines at which it stands, whether the monitor has given it its place in their order, and what stands before it there. -/
structure Parked where
  id : Nat
  keys : List Nat
  freed : Bool
  after : List Nat
  deriving DecidableEq, Repr

/-- A host write in the inbound queue (R133), already split at line borders; its number in a park list is its own. -/
structure HostWrite where
  id : Nat
  basin : Nat
  obj : Nat
  ofs : Nat
  bytes : List Byte
  park : Option Parked
  deriving DecidableEq, Repr

/-- A host read through a window that has met an absent extent (R239, R267): the window access, the capability that it reads, and the extents
that have been refused meanwhile (R242). -/
structure HostRead where
  basin : Nat
  win : Nat
  ofs : Nat
  len : Nat
  cap : DWord
  park : Parked
  refused : List Nat
  deriving DecidableEq, Repr

/-- What another device asks of this one (R134, R270). -/
inductive PeerAsk where
  | read (ofs n : Nat)
  | store (ofs : Nat) (bytes : List Byte)
  | atom (op : AtOp) (ty : AtTy) (elems : List Elem)
  | signal (add : Bool) (value : Word) (ofs : Nat)
  /-- the contribution of a rank to a collective slot at an offset of the object, with its tag (R274) -/
  | coll (slot rank tag : Nat) (bytes : List Byte)
  deriving DecidableEq, Repr

/-- A request of another device that has arrived. `id` names it to its sender; `park` what it holds once it has met an absent extent (R239). -/
structure PeerReq where
  id : Nat
  basin : Nat
  obj : Nat
  ask : PeerAsk
  park : Option Parked
  deriving DecidableEq, Repr

/-! ### Lines, blocks, extents (R102, R103, R166, R231) -/

/-- A line's state apart from its bytes: version, the dies whose home slice holds it, whether a slice holds it dirty,
poison, the `VALSET` that pins it, the descents that have gone below it and not returned (R114). -/
structure Line where
  version : Word
  res : BitVec 4
  dirty : Bool
  poisoned : Bool
  pin : Option Nat
  pend : List Nat
  deriving DecidableEq, Repr

/-- A line that nothing has touched since its extent was mapped (R232). -/
def Line.init : Line := { version := 0#32, res := 0#4, dirty := false, poisoned := false, pin := none, pend := [] }

/-- A 2 KiB block's state at the memory side (R103), the dies whose memory-side cache holds it, and whether that copy is newer
than HBM's (R106). -/
structure Block where
  comp : BitVec 2
  msc : BitVec 4
  newer : Bool
  deriving DecidableEq, Repr

/-- A scrubbed block is elided (R104, R232). -/
def Block.init : Block := { comp := 3#2, msc := 0#4, newer := false }

/-- An extent-list entry (R231), with the replicas of an extent that is still replicated (die, channel, index; R107),
the request that a collapse places first in each line's order until it performs (R108), and the requests and copies parked on it,
oldest first (R239). -/
structure Extent where
  v : Bool
  fp : Bool
  pz : Bool
  chan : Nat
  idx : Nat
  reps : List (Nat × Nat × Nat)
  first : Option Nat
  parked : List Nat
  deriving DecidableEq, Repr

/-- An entry that has never been mapped. -/
def Extent.init : Extent :=
  { v := false, fp := false, pz := false, chan := 0, idx := 0, reps := [], first := none, parked := [] }

/-- The owner of a physical extent (R232), where it is not the default: free, or in the pool of the basin that owns
its channel group. -/
inductive Own where
  | mapped (b obj ext : Nat)
  | custodian
  | retired
  deriving DecidableEq, Repr

/-! ### Basins and objects (R227, R247, R266) -/

/-- A local object's descriptor (R227). -/
structure ObjDesc where
  sizeM1 : Nat
  rd : Bool
  wr : Bool
  ex : Bool
  const : Bool
  repl : Bool
  ft : Bool
  list : Nat
  deriving DecidableEq, Repr

/-- An import descriptor (R227): an object of a peer device. -/
structure ImportDesc where
  dev : Nat
  onum : Nat
  rd : Bool
  wr : Bool
  sizeM1 : Nat
  deriving DecidableEq, Repr

/-- What OBJ_EXPORT allowed (R235). -/
structure Export where
  obj : Nat
  peer : Nat
  rd : Bool
  wr : Bool
  deriving DecidableEq, Repr

/-- The states of a basin (R250). -/
inductive Phase where
  | free | created | started | revoked
  deriving DecidableEq, Repr

/-- A control window (R266). -/
structure Window where
  tail : Nat
  head : Nat
  lqk : Nat
  lqbase : DWord
  mbox : NMap Byte
  fn : Nat
  busy : Bool
  mbstat : Word
  eqbase : DWord
  eqk : Nat
  eqhead : Word
  eqtail : Word
  eqlost : Word
  wins : NMap DWord
  deriving DecidableEq, Repr

/-- A control window at its reset values (R266). -/
def Window.init : Window :=
  { tail := 0, head := 0, lqk := 4, lqbase := 0#64, mbox := [], fn := 0, busy := false, mbstat := 0#32, eqbase := 0#64,
    eqk := 4, eqhead := 0#32, eqtail := 0#32, eqlost := 0#32, wins := [] }

/-- A named barrier (R151). Members are group numbers, for a gang barrier 16 times the crew number plus the group's. -/
structure Barrier where
  phase : Bool
  exp : Nat
  arr : Nat
  arrived : List Nat
  waiting : List Nat
  held : List (Nat × Nat × Bool)
  deriving DecidableEq, Repr

/-- A barrier at crew placement (R151). -/
def Barrier.init : Barrier := { phase := false, exp := 0, arr := 0, arrived := [], waiting := [], held := [] }

/-- A resident gang: its launch and number, its barriers 16 to 23, and how many of its groups have retired. -/
structure GangState where
  launch : Word
  gang : Nat
  bars : NMap Barrier
  retired : List Nat
  deriving DecidableEq, Repr

/-- An accepted launch (R31): its number and record (R22), its age, whether its wait signal has held, the gangs placed
and the groups retired so far, whether it was killed by a trap (R55), whether it is complete with its cascade record
still to be read, whether it is a cascade member, and of its completion store the extent on which it is parked (R239) and
whether it has been refused (R242). -/
structure Launch where
  num : Word
  record : BitVec 512
  age : Nat
  eligible : Bool
  placed : Nat
  retired : Nat
  killed : Bool
  complete : Bool
  cascade : Bool
  parked : Option Nat
  refused : Bool
  deriving DecidableEq, Repr

/-- Arrival counts of one collective slot and parity (R297): the slot object's capability and the tags of the
contributions that have arrived, by rank. -/
structure CollCount where
  slot : DWord
  parity : Nat
  ranks : List Nat
  deriving DecidableEq, Repr

/-- A call that the custodian has received (R234, R269): the function number, where its block is, and who waits; `held` is the block
as it has been read, once for the whole call (R323). -/
structure Call where
  fn : Nat
  fromGroup : Option Owner
  block : DWord
  held : Option (List Byte)
  deriving DecidableEq, Repr

/-- A basin (R247 to R250). `slots` are slot numbers of R247; `spent` counts the credits in use at each peer port;
`calls` are the calls received, oldest first; `tailWaits` the inbound host writes that the last TAIL write waits for
(R268); `moving` is set while BASIN_MOVE halts the basin; `dying` are the objects whose destruction has begun (R237);
`blockedSince` says since when the slice's ring has waited for a launch to complete (R50). -/
structure Basin where
  phase : Phase
  sliced : Bool
  control : Bool
  slices : List Nat
  groups : List Nat
  slots : List Nat
  quantum : Nat
  watchdog : Nat
  credits : Nat
  spent : NMap Nat
  key : Option Nat
  objs : NMap ObjDesc
  dying : List Nat
  imports : List ImportDesc
  exports : List Export
  peers : NMap (Nat × Nat)
  handler : Option DWord
  win : Window
  calls : List Call
  nextLaunch : Word
  launches : List Launch
  gangs : List GangState
  colls : List CollCount
  accepting : Bool
  tailWaits : List Nat
  moving : Bool
  shares : NMap Nat
  nextAge : Nat
  blockedSince : Option Nat
  deriving DecidableEq, Repr

/-! ### Quadrants and engine quarters -/

/-- What one request does to an 8-byte scratchpad word (R96): a read of a lane's bytes, a write, or atomic elements,
or the completion of bytes of a copy at its gate (R156, R158). Lanes of a read are (lane, byte address, bytes, register, byte offset in it). -/
inductive BankOp where
  | read (lanes : List (Nat × Nat × Nat × Nat))
  | write (bytes : NMap Byte)
  | atom (op : AtOp) (ty : AtTy) (d : Option Nat) (elems : List Elem)
  | gate (at_ n job : Nat)
  deriving DecidableEq, Repr

/-- A request in a scratchpad bank's queue (R96, R98), and what it must still follow (R126). -/
structure BankReq where
  id : Nat
  hold : List Nat
  slot : Nat
  word : Nat
  op : BankOp
  flight : Option Nat
  deriving DecidableEq, Repr

/-- A resident crew (R30, R96, R151): identity, scratchpad size in KiB and where its stretch, its slots and its
granules begin, scratchpad bytes, barriers. -/
structure Crew where
  launch : Word
  gang : Nat
  crew : Nat
  prio : Nat
  firstSlot : Nat
  size : Nat
  scr : Nat
  scrBase : Nat
  regBase : Nat
  regBytes : Nat
  sp : NMap Byte
  bars : NMap Barrier
  deriving DecidableEq, Repr

/-- A cached line (R92, R94): bytes, version, retention class (0 stream, 1 normal, 2 keep), the number of its last use, and for
the read-only region whether it is a sampler line. -/
structure CacheLine where
  bytes : List Byte
  version : Word
  cls : Nat
  used : Nat
  sampler : Bool
  deriving DecidableEq, Repr

/-- An entry of the descent hazard table (R119): the group's slot, the line, the descents on it; or, with `line` none,
an overflow mark. -/
structure Hazard where
  slot : Nat
  line : Option Nat
  ids : List Nat
  deriving DecidableEq, Repr

/-- A quadrant (R9), keyed by its physical identifier (R12). `relMark` is the number below which outbound entries
preceded the most recent release at `.grp` or `.crew` scope (R131); `issued` is the slot whose instruction has issued in the
current cycle (R35); `uses` counts the fills and hits of its caches (R92). -/
structure Quad where
  basin : Option Nat
  pb1 : Nat
  pb2 : Nat
  pb3 : Nat
  groups : NMap Group
  crews : List Crew
  issuing : Option Nat
  gapLeft : Nat
  issued : Option Nat
  cycle : Nat
  l1 : NMap CacheLine
  ro : NMap CacheLine
  uses : Nat
  wc : List WcEntry
  relMark : Nat
  hazards : List Hazard
  tag : Word
  olb : List (Nat × Nat)
  banks : NMap (List BankReq)
  halted : Bool
  deriving DecidableEq, Repr

/-- A quadrant that holds nothing. -/
def Quad.init : Quad :=
  { basin := none, pb1 := 0, pb2 := 0, pb3 := 0, groups := [], crews := [], issuing := none, gapLeft := 0, issued := none, cycle := 0,
    l1 := [], ro := [], uses := 0, wc := [], relMark := 0, hazards := [], tag := 0#32, olb := [], banks := [], halted := false }

/-- What a copy does (R195, R199, R299): a tile fill, strided or gathered, a tile store, or a byte copy. -/
inductive CopyKind where
  | tcopy (gather : Option (Lanes × Lanes))
  | tstore
  | copy (dst src : DWord) (len : Nat) (gate : Option Nat)
  deriving DecidableEq, Repr

/-- A copy in a copy quarter (R197, R198). `done` counts the bytes of `COPY` up to which all are written, and is 1 while
the writes of a `TSTORE` row are out; `sent` counts the bytes of `COPY` whose writes have gone out (R300); `writes` are the write requests of
its row or lines still to be acknowledged, in ascending order; `after` what leaves ahead of it (R132). `asks` are its reads of a peer's memory under way and
`got` the bytes that have come; `kept` are source bytes that the copy has overwritten in memory (R300); `parked` is the extent
that its row or line waits for, with 1 for a read and 2 for a write (R239); `freed` the keys of the lines in whose order a monitor has given
that row or line its place (R241); `bad` the reason of a data error that it has met,
with the side and the offset; `gated` that its completion has gone to its gate; `byHandler` that a handler issued it (R246). -/
structure CopyJob where
  id : Nat
  owner : Owner
  kind : CopyKind
  t : Nat
  mask : Mask
  flight : Nat
  suspended : Bool
  done : Nat
  sent : Nat
  writes : List Nat
  after : List Nat
  asks : List Nat
  got : NMap Byte
  kept : NMap Byte
  parked : Option (Nat × Nat)
  freed : List Nat
  bad : Option (Nat × Nat × Nat)
  gated : Bool
  byHandler : Bool
  deriving DecidableEq, Repr

/-- A quadrant slot's engine quarters (R10): accumulator words keyed by 512 times the bank plus the word, the holder of
each held bank, waiting `ACQB` requests, the reservation table, the group whose push has the table's reserve entry (R50), the pass in
execution with its end, and the copies. -/
structure SlotEng where
  acc : NMap Word
  holder : NMap (Nat × Nat)
  acqq : List (Nat × Nat × Nat)
  table : List MmaReq
  grant : Option (Nat × Nat)
  pass : Option (MmaReq × Nat)
  copies : List CopyJob
  nextAge : Nat
  deriving DecidableEq, Repr

/-- An engine slot that holds nothing. -/
def SlotEng.init : SlotEng :=
  { acc := [], holder := [], acqq := [], table := [], grant := none, pass := none, copies := [], nextAge := 0 }

/-- A queue that the probe token covers, where the token is, and when it set out (R50). -/
structure ProbeToken where
  origin : QueueRef
  at_ : QueueRef
  deriving DecidableEq, Repr

/-- What a halt saved (R52, R255, R257): the quadrants of a basin, their slot engines, and the replay packets in the
order of their first issue (R258). -/
structure Saved where
  quad : Nat
  image : Quad
  replay : List (Nat × Req)
  deriving DecidableEq, Repr

/-- A basin's saved slot engine. -/
structure SavedEng where
  qs : Nat
  image : SlotEng
  deriving DecidableEq, Repr

/-- A basin on its way between devices (R260): the target basin, its record, and its memory, lines, blocks and
extents keyed by object. Its quadrants are numbered 4 times the place of their slot among the basin's slots plus the core,
its engines by that place; `ids` is above every request number in it, and `slots` is how many slots the basin has. -/
structure Image where
  target : Nat
  ids : Nat
  slots : Nat
  basin : Basin
  mem : NMap Byte
  lines : NMap Line
  blocks : NMap Block
  extents : NMap Extent
  quads : List Saved
  engines : List SavedEng
  deriving DecidableEq, Repr

/-! ### Error records -/

/-- An error record (R263) before it is written: `ext` is CHAN and IDX, 0xFFFFFF for none. `queue` is a basin, or 16
for the physical function. -/
structure ErrRec where
  queue : Nat
  stamp : Nat
  count : Nat
  cause : Nat
  basin : Nat
  src : Nat
  addr : DWord
  info : Word
  ext : Nat
  first : Nat
  deriving DecidableEq, Repr

/-- What left the device, for the outside world to see. -/
inductive Sent where
  /-- an MSI-X message of a function (R265) -/
  | msix (fn vector : Nat)
  /-- a host memory write: address and bytes (R269, R275) -/
  | hostWrite (addr : DWord) (bytes : List Byte)
  /-- a completion of a window read: basin, its line parts (offset in the read, bytes, whether poisoned), or none for
  Completer Abort (R267) -/
  | readDone (basin : Nat) (parts : Option (List (Nat × List Byte × Bool)))
  /-- the answer to a peer's request: its number, the version, the bytes, whether it is an error (R134, R272) -/
  | peerAnswer (id : Nat) (version : Word) (bytes : List Byte) (err : Bool)
  /-- a request sent to a peer: the request's number (R134) -/
  | peerAsk (r : Nat)
  /-- what a read of a control window returns: function, offset, dwords (R266) -/
  | windowRead (fn ofs : Nat) (dwords : List Word)
  /-- a write that the custodian or a distributor slice sends to a peer -/
  | peerStore (basin dev obj : Nat) (bytes : NMap Byte)
  /-- the log of bring-up: the stacks and ports that failed to train and are disabled (R275) -/
  | disabled (hbm links : List Nat)
  /-- the field record (R277) -/
  | record (counters : NMap Nat)
  /-- a basin carried to a peer (R260) -/
  | moved (peer : Nat) (image : Image)
  /-- importers of a destroyed object are told (R237): peer index and object -/
  | unimport (peer obj : Nat)
  deriving DecidableEq, Repr

/-! ### Agents and moves -/

/-- Who moves next. `issue` lets a quadrant's issuing group issue one instruction; `event` is a step without an
encoding; `tick` lets core cycles pass; `control` is a host read of dwords of a control window (R266); `peer` and `image` are
arrivals from outside. -/
inductive Move where
  | issue (q : Nat)
  | event (i : Instr)
  | tick (n : Nat)
  | control (fn ofs n : Nat)
  | peer (x : PeerReq)
  | image (x : Image)
  deriving DecidableEq, Repr

/-! ### Why a step stops -/

/-- Faults: the machine cannot go on as asked. -/
inductive Fault where
  /-- Raised by an instruction (a constructor with an encoding) when no group of the current quadrant is there to
  run it. Safe: the hardware has no such situation. -/
  | noGroup
  deriving DecidableEq, Repr

/-- Refusals: the step has no meaning in the state it meets. -/
inductive Refusal where
  /-- Raised by an arm of the dispatch that has no meaning yet; safe. -/
  | notModelled (mnemonic : String)
  /-- Raised by a step without an encoding that the state does not enable (the agenda asked for something the part
  cannot do now); the string says what is missing. Safe: a step that is not enabled does not happen. -/
  | notEnabled (what : String)
  /-- Raised by a step of the agenda when a group is issuing where none may. Safe. -/
  | notIssuing
  deriving DecidableEq, Repr

/-! ### The whole machine -/

/-- The machine's state. `cur` names the quadrant and slot of the group whose instruction is executing; `granted` are the descent
queues and distributor slices whose reserve entry is taken, a descent queue's with the request that has it (R50); `downStacks` and `downPorts` failed to train (R275). -/
structure State where
  agenda : List Move
  now : Nat
  freeIx : Nat
  nextId : Nat
  cur : Nat × Nat
  outbox : List Sent
  powered : Bool
  bootFailed : Bool
  sites : List Nat
  mem : NMap Byte
  lines : NMap Line
  blocks : NMap Block
  extents : NMap Extent
  phys : NMap Own
  basins : NMap Basin
  quads : NMap Quad
  engines : NMap SlotEng
  reqs : NMap Req
  inbound : List HostWrite
  hostReads : List HostRead
  peerIn : List PeerReq
  images : List Image
  saved : List (Nat × Saved)
  savedEng : List (Nat × SavedEng)
  stackCaps : NMap (Nat × Nat)
  refills : NMap Nat
  upAt : Nat
  rings : NMap (Nat × Nat)
  gaps : NMap Nat
  gapSet : Nat
  tokensSet : Nat
  eccs : NMap Nat
  tripped : Bool
  lastThrottle : Option Nat
  errHeld : List ErrRec
  pf : Window
  pfCalls : List Call
  field : NMap Nat
  turn : Option (Nat × Nat)
  lastTurn : Nat
  probes : List ProbeToken
  granted : List (QueueRef × Option Nat)
  downStacks : List Nat
  downPorts : List Nat
  keyDraws : Nat
  deriving DecidableEq, Repr

/-- The machine right after reset: at power-on, before the custodian has brought the device up (R275). No cluster site
is enabled (log 5); every basin is Free (R250); every counter the spec does not name is 0 (log 6). -/
def State.reset : State :=
  { agenda := [], now := 0, freeIx := 0, nextId := 0, cur := (0, 0), outbox := [], powered := false, bootFailed := false,
    sites := [], mem := [], lines := [], blocks := [], extents := [], phys := [], basins := [], quads := [],
    engines := [], reqs := [], inbound := [], hostReads := [], peerIn := [], images := [], saved := [], savedEng := [], stackCaps := [],
    refills := [], upAt := 0, rings := [], gaps := [], gapSet := 0, tokensSet := 8, eccs := [], tripped := false, lastThrottle := none, errHeld := [],
    pf := Window.init, pfCalls := [], field := [], turn := none, lastTurn := 16, probes := [], granted := [], downStacks := [],
    downPorts := [], keyDraws := 0 }

end Sys2Proof.Machine
end

