-- ==== Sys2Proof/Machine/Ops.lean ====
section
/-! DEFINITION. The named operations every meaning goes through: access to quadrants, groups, registers and memory,
the checks of a capability (R229), the structure of a jet (R43, R44), taking a trap and returning from one (R53, R54),
and the scaffold that runs one instruction of a group. -/

namespace Sys2Proof.Machine

/-- The outcome type of the machine. -/
abbrev Out := Host.Outcome State Fault Refusal

/-! ### Quadrants and groups -/

def State.quad? (s : State) (q : Nat) : Option Quad := NMap.get? s.quads q

def State.setQuad (s : State) (q : Nat) (x : Quad) : State := { s with quads := NMap.set s.quads q x }

def State.modQuad (s : State) (q : Nat) (f : Quad → Quad) : State := { s with quads := NMap.modify s.quads q f }

def State.group? (s : State) (q slot : Nat) : Option Group :=
  match s.quad? q with
  | some x => NMap.get? x.groups slot
  | none => none

def Quad.setGroup (x : Quad) (slot : Nat) (g : Group) : Quad := { x with groups := NMap.set x.groups slot g }

def State.setGroup (s : State) (q slot : Nat) (g : Group) : State := s.modQuad q (fun x => x.setGroup slot g)

def State.modGroup (s : State) (q slot : Nat) (f : Group → Group) : State :=
  match s.group? q slot with
  | some g => s.setGroup q slot (f g)
  | none => s

/-- The group that the executing instruction belongs to. -/
def State.curGroup? (s : State) : Option Group := s.group? s.cur.1 s.cur.2

/-- The crew a group belongs to on its quadrant. -/
def Crew.has (c : Crew) (g : Group) : Bool := c.launch == g.launch && c.gang == g.gang && c.crew == g.crew

def Quad.crewOf? (x : Quad) (g : Group) : Option Crew := x.crews.find? (fun c => c.has g)

def Quad.modCrew (x : Quad) (g : Group) (f : Crew → Crew) : Quad :=
  { x with crews := x.crews.map (fun c => if c.has g then f c else c) }

/-! ### Registers of a group (R40) -/

def Group.getV (g : Group) (n : Nat) : Lanes := NMap.getD g.v n Lanes.zero

/-- One lane of a vector register. -/
def Group.lane (g : Group) (n l : Nat) : Word := Lanes.at (g.getV n) l

def Group.setV (g : Group) (n : Nat) (x : Lanes) : Group := { g with v := NMap.set g.v n x }

def Group.getS (g : Group) (n : Nat) : Word := NMap.getD g.s n 0#32

def Group.setS (g : Group) (n : Nat) (x : Word) : Group := { g with s := NMap.set g.s n x }

/-- An even pair of uniform registers, the low word in the even one (R40). -/
def Group.getSPair (g : Group) (n : Nat) : DWord := g.getS (n + 1) ++ g.getS n

/-- What a uniform selector delivers (R63). -/
def uAt (g : Group) (x : USel) : Word :=
  match x with
  | .s n => g.getS n.toNat
  | .imm b => b.signExtend 32

def Group.setSPair (g : Group) (n : Nat) (x : DWord) : Group :=
  (g.setS n (x.setWidth 32)).setS (n + 1) (x.extractLsb' 32 32)

/-- A predicate; `p7` reads as all ones (R40). -/
def Group.getP (g : Group) (n : Nat) : Mask := if n = 7 then Mask.all else NMap.getD g.p n 0#32

/-- Writes a predicate; a write to `p7` is ignored (R40, R59). -/
def Group.setP (g : Group) (n : Nat) (x : Mask) : Group := if n = 7 then g else { g with p := NMap.set g.p n x }

def Group.getH (g : Group) (n : Nat) : Heading := NMap.getD g.h n Heading.zero

def Group.setH (g : Group) (n : Nat) (x : Heading) : Group := { g with h := NMap.set g.h n x }

def Group.getT (g : Group) (n : Nat) : BitVec 256 := NMap.getD g.t n 0#256

def Group.setT (g : Group) (n : Nat) (x : BitVec 256) : Group := { g with t := NMap.set g.t n x }

/-- The tile width in force (R19). -/
def Group.tileWidth (g : Group) : Nat :=
  match (g.part.setWidth 3).toNat with
  | 1 => 2
  | 2 => 4
  | 3 => 8
  | 4 => 16
  | _ => 32

/-- Whether a vector register is allocated, or is one of `v120` to `v127` in a handler (R41, R53). -/
def Group.vOk (g : Group) (n : Nat) : Bool :=
  decide (n < 8 * (g.vgran + 1)) || (g.handler && decide (120 ≤ n) && decide (n < 128))

/-- Whether a heading register is allocated (R41). -/
def Group.hOk (g : Group) (n : Nat) : Bool := decide (n < 4 * g.hgran)

/-- The number of instructions in flight on a path (R99). -/
def Group.counter (g : Group) (p : Path) : Nat := (g.flights.filter (fun f => f.path == p)).length

/-! ### Memory of this device (R225, R231) -/

/-- The key of a byte: basin, object number and offset. -/
def memKey (b obj ofs : Nat) : Nat := (b * 2 ^ 14 + obj) * 2 ^ 40 + ofs

/-- The line, block and extent of a byte's key. -/
def lineOf (k : Nat) : Nat := k / 128
def blockOf (k : Nat) : Nat := k / 2048
def extOf (k : Nat) : Nat := k / 65536

/-- The byte an unlisted key reads as: mapped memory is scrubbed to 0 (R232). -/
def memDefault : Byte := 0#8

def State.readByte (s : State) (k : Nat) : Byte := NMap.getD s.mem k memDefault

/-- A write of one byte keeps the memory in its canonical form: the default is not listed. -/
def memSet (m : NMap Byte) (k : Nat) (b : Byte) : NMap Byte :=
  if b = memDefault then NMap.erase m k else NMap.set m k b

def State.writeByte (s : State) (k : Nat) (b : Byte) : State := { s with mem := memSet s.mem k b }

/-- The canonical form of memory: keys strictly rising and no listed byte equal to what an unlisted key reads as. -/
def Memory.wf (m : NMap Byte) : Bool := NMap.sorted m && m.all (fun e => e.2 != memDefault)

/-- `n` bytes from a key, lowest address first. -/
def State.readBytes (s : State) (k n : Nat) : List Byte := (List.range n).map (fun i => s.readByte (k + i))

def State.writeBytes (s : State) (k : Nat) (bs : List Byte) : State :=
  { s with mem := (bs.zipIdx).foldl (fun m e => memSet m (k + e.2) e.1) s.mem }

/-- The little-endian value of bytes (R2). -/
def leNat (bs : List Byte) : Nat := bs.foldr (fun b acc => b.toNat + 256 * acc) 0

/-- `n` little-endian bytes of a number (R2). -/
def natBytes (n x : Nat) : List Byte := (List.range n).map (fun i => BitVec.ofNat 8 (x / 256 ^ i))

/-! ### Capabilities (R225 to R229) -/

def capDev (c : DWord) : Nat := (c.extractLsb' 54 10).toNat
def capObj (c : DWord) : Nat := (c.extractLsb' 40 14).toNat
def capOfs (c : DWord) : Nat := (c.extractLsb' 0 40).toNat

/-- This device's DEV value. -/
def devHere : Nat := 0x3FF

/-- A capability with OFS replaced by the low 40 bits of an offset (R244). -/
def capAt (c : DWord) (ofs : Int) : DWord := c.extractLsb' 40 24 ++ BitVec.ofInt 40 ofs

def mkCap (dev obj ofs : Nat) : DWord := BitVec.ofNat 10 dev ++ (BitVec.ofNat 14 obj ++ BitVec.ofNat 40 ofs)

/-- The rights an access needs (R228). -/
structure Rights where
  rd : Bool
  wr : Bool
  ex : Bool
  deriving DecidableEq, Repr

def Rights.r : Rights := { rd := true, wr := false, ex := false }
def Rights.w : Rights := { rd := false, wr := true, ex := false }
def Rights.rw : Rights := { rd := true, wr := true, ex := false }
def Rights.x : Rights := { rd := false, wr := false, ex := true }
def Rights.none : Rights := { rd := false, wr := false, ex := false }

/-- The missing rights as `s59` reports them (R229). -/
def missing (need have_ : Rights) : Nat :=
  (if need.rd && !have_.rd then 1 else 0) + (if need.wr && !have_.wr then 2 else 0)
    + (if need.ex && !have_.ex then 4 else 0)

/-- A failed check: its place in the order of R229, the cause code and `s59`. -/
structure CapFail where
  step : Nat
  code : Nat
  s59 : Nat
  deriving DecidableEq, Repr

/-- The size and the rights a valid descriptor gives. -/
structure Desc where
  size : Nat
  have_ : Rights
  deriving DecidableEq, Repr

/-- The descriptor a capability names in a basin, or why there is none (R229 steps 1 and 2). -/
def findDesc (b : Basin) (c : DWord) : Except CapFail Desc :=
  if capDev c = devHere then
    match NMap.get? b.objs (capObj c) with
    | some d => .ok { size := d.sizeM1 + 1, have_ := { rd := d.rd, wr := d.wr, ex := d.ex } }
    | none => .error { step := 2, code := 0x08, s59 := 1 }
  else
    match NMap.get? b.peers (capDev c) with
    | none => .error { step := 1, code := 0x08, s59 := 2 }
    | some _ =>
      match b.imports.find? (fun d => d.dev == capDev c && d.onum == capObj c) with
      | some d => .ok { size := d.sizeM1 + 1, have_ := { rd := d.rd, wr := d.wr, ex := false } }
      | none => .error { step := 2, code := 0x08, s59 := 3 }

/-- The checks of R229 on one access of `n` bytes at an exact offset, aligned to `al` bytes. -/
def checkAccess (b : Basin) (c : DWord) (ofs : Int) (n al : Nat) (need : Rights) : Except CapFail Unit :=
  match findDesc b c with
  | .error e => .error e
  | .ok d =>
    if ofs < 0 ∨ (d.size : Int) < ofs + n then .error { step := 3, code := 0x06, s59 := 1 }
    else if ofs.toNat % al ≠ 0 then .error { step := 4, code := 0x06, s59 := 2 }
    else
      let m := missing need d.have_
      if m ≠ 0 then .error { step := 5, code := 0x07, s59 := m } else .ok ()

/-- A basin's record; a basin that is not listed is Free. -/
def Basin.free : Basin :=
  { phase := .free, sliced := false, control := false, slices := [], groups := [], slots := [], quantum := 0,
    watchdog := 0, credits := 0, spent := [], key := none, objs := [], dying := [], imports := [], exports := [],
    peers := [], handler := none, win := Window.init, calls := [], nextLaunch := 0#32, launches := [], gangs := [],
    colls := [], accepting := false, tailWaits := [], moving := false, shares := [], nextAge := 0, blockedSince := none }

def State.basin (s : State) (b : Nat) : Basin := NMap.getD s.basins b Basin.free

/-! ### Traps (R244, R245, R53, R54) -/

/-- Access kinds of `v122` (R245). -/
def kindLoad : Nat := 1
def kindStore : Nat := 2
def kindAtomResult : Nat := 3
def kindAtomNone : Nat := 4
def kindDeposit : Nat := 5
def kindDscRead : Nat := 6
def kindDscWrite : Nat := 7
def kindVersioned : Nat := 8
def kindConst : Nat := 9
def kindSampler : Nat := 10
def kindCopyRead : Nat := 11
def kindCopyWrite : Nat := 12
def kindFetch : Nat := 13
def kindScratch : Nat := 14

/-- `v122`'s value for one access (R245). -/
def v122Of (remote : Bool) (size kind : Nat) : Word :=
  BitVec.ofNat 32 ((if remote then 128 else 0) + 16 * size + kind)

/-- A trap of an instruction: the frame values of R244 with `none` where R244 gives the general value. `after` is set
by `TRAP` and `BPT`, whose `s57` is the following instruction (R54). -/
structure Trap where
  code : Nat
  s58 : Option Word
  s59 : Option Word
  em : Option Mask
  v120 : Lanes
  v121 : Lanes
  v122 : Lanes
  after : Bool
  deriving DecidableEq, Repr

/-- A trap with the general values. -/
def Trap.plain (code : Nat) : Trap :=
  { code := code, s58 := none, s59 := none, em := none, v120 := Lanes.zero, v121 := Lanes.zero, v122 := Lanes.zero,
    after := false }

/-- A trap with its own `s58` and `s59`. -/
def Trap.own (code s58 s59 : Nat) : Trap :=
  { Trap.plain code with s58 := some (BitVec.ofNat 32 s58), s59 := some (BitVec.ofNat 32 s59) }

/-- The illegal-operand trap with the general values. -/
def Trap.operand : Trap := Trap.plain 0x02

/-- A one-lane trap of lane 0 on a capability (R406). -/
def Trap.lane0 (code : Nat) (s59 : Nat) (c : DWord) (size kind : Nat) : Trap :=
  let one (w : Word) : Lanes := lanesOf (fun i => if i = 0 then w else 0#32)
  { Trap.plain code with
      s59 := some (BitVec.ofNat 32 s59), em := some 1#32, v120 := one (c.setWidth 32), v121 := one (c.extractLsb' 32 32),
      v122 := one (v122Of (capDev c != devHere) size kind) }

/-- A one-lane check of a uniform access by R229, with the frame values of R406. -/
def checkLane0 (b : Basin) (c : DWord) (ofs : Int) (n al : Nat) (need : Rights) (size kind : Nat) : Except Trap Unit :=
  match checkAccess b c ofs n al need with
  | .ok () => .ok ()
  | .error e => .error (Trap.lane0 e.code e.s59 (capAt c ofs) size kind)

/-! ### Jets (R43, R44) -/

/-- A jet that has just started. -/
def Jet.fresh (pc : Nat) : Jet :=
  { start := pc, first := 0, pos := 0, latches := [], pend := [], flags := 0#5, late := [], bra := none, dscLeft := 0,
    plan := none }

/-- The open jet of a group, or a fresh one at its pc. -/
def Group.jetOr (g : Group) : Jet := g.jet.getD (Jet.fresh g.pc)

/-- What starting a jet does to the counts of the group (R37, R51). -/
def Group.countJet (g : Group) : Group :=
  { g with jetCount := g.jetCount + 1#32, ageCount := 0, ageSteps := 0, yieldFor := [], blockedSince := none }

/-- The group with its jet open, the counts moved when the jet starts with this instruction. -/
def Group.opened (g : Group) : Group := { (if g.jetOr.pos = 0 then g.countJet else g) with jet := some g.jetOr }

/-- The number of a predicate as a destination: past the vector registers, so that a result still to come for either is followed in
the same way (R46). -/
def predReg (r : Nat) : Nat := 128 + r

/-- Marks lanes of a register as written by a later jet in a result still to come for it (R46). -/
def Dest.race (r : Nat) (m : Mask) (d : Dest) : Dest :=
  if d.reg = r then { d with raced := d.raced ||| (m &&& d.mask) } else d

/-- Marks the lanes that a jet writes in a register as raced in every result still in flight for it that an earlier jet
issued (R46): those numbered below the jet's first number. -/
def Group.raceReg (g : Group) (first r : Nat) (m : Mask) : Group :=
  { g with vflights := g.vflights.map (fun f => if f.id < first then
             { f with dests := f.dests.map (fun e => (e.1.race r m, e.2)) } else f),
           flights := g.flights.map (fun f => if f.id < first then { f with dests := f.dests.map (Dest.race r m) } else f) }

/-- The register value after a result's lanes have arrived: a lane that a later jet has written meanwhile holds one
of the two values, which is open (R46). -/
def landLanes (ix : Nat) (d : Dest) (x old : Lanes) : Lanes :=
  lanesOf (fun l =>
    if d.mask.getLsbD l then
      (if d.raced.getLsbD l && !(Config.freeBit (ix + l)) then Lanes.at old l else Lanes.at x l)
    else Lanes.at old l)

/-- The same for a predicate, whose bits arrive as lanes of 1 and 0. -/
def landBits (ix : Nat) (d : Dest) (x : Lanes) (old : Mask) : Mask :=
  maskOf (fun l => Lanes.at (landLanes ix d x (lanesOf (fun i => if old.getLsbD i then 1#32 else 0#32))) l == 1#32)

/-- A result reaches its register. -/
def Group.landDest (g : Group) (ix : Nat) (d : Dest) (x : Lanes) : Group :=
  if d.reg < 128 then g.setV d.reg (landLanes ix d x (g.getV d.reg))
  else g.setP (d.reg - 128) (landBits ix d x (g.getP (d.reg - 128)))

/-- Results of an instruction reach the group: at once between two jets, else at the end of the open jet, inside which every
operand reads the value of the jet's start (R44, R46). -/
def Group.landAll (g : Group) (ix id : Nat) (rs : List (Dest × Lanes)) : Group :=
  match g.jet with
  | none => (rs.zipIdx).foldl (fun h e => h.landDest (ix + 32 * e.2) e.1.1 e.1.2) g
  | some j => { g with jet := some { j with late := j.late ++ (rs.zipIdx).map (fun e =>
      { ix := ix + 32 * e.2, id := id, dest := e.1.1, x := e.1.2 }) } }

/-- The heading that a write to some lanes and tiles leaves (R209). -/
def Heading.merge (m : Mask) (w : Nat) (new old : Heading) : Heading :=
  { dir := (List.range 256).map (fun c => if m.getLsbD (c / 8) then new.dir.getD c 0#16 else old.dir.getD c 0#16),
    norm := (List.range 16).map (fun t =>
      if decide (t * w < 32) && m.getLsbD (t * w) then new.norm.getD t 0#16 else old.norm.getD t 0#16) }

/-- One register write landing at the end of its jet (R44), which began at an identity number. -/
def Group.land (first : Nat) (g : Group) (w : PendWrite) : Group :=
  match w with
  | .v r m x => (g.setV r (Lanes.blend m x (g.getV r))).raceReg first r m
  | .p r m x => (g.setP r ((x &&& m) ||| (g.getP r &&& ~~~m))).raceReg first (predReg r) m
  | .h r m w x => g.setH r (Heading.merge m w x (g.getH r))

/-- The lanes of a register that the jet's class F writes give (R46). -/
def Jet.wrote (j : Jet) (r : Nat) : Mask :=
  j.pend.foldl (fun a w => match w with
    | .v k m _ => if k = r then a ||| m else a
    | .p k m _ => if predReg k = r then a ||| m else a
    | _ => a) 0#32

/-- A result that arrived during a jet reaches its register at the jet's end: against the jet's own write it is raced if an
earlier jet issued it (R46). -/
def Group.landLate (j : Jet) (g : Group) (e : Late) : Group :=
  g.landDest e.ix (if e.id < j.first then e.dest.race e.dest.reg (j.wrote e.dest.reg) else e.dest) e.x

/-- The results that arrived during a jet reach their registers. -/
def Group.landJet (j : Jet) (g : Group) : Group := j.late.foldl (Group.landLate j) g

/-- A jet that has issued nothing is given up: the results that arrived since it started stay (R46). -/
def Group.leaveJet (g : Group) : Group := { g.landJet g.jetOr with jet := none }

/-- The end of a jet's writes and flags (R44, R185): its own writes, then the results that arrived meanwhile; latches are
lost, scoreboard entries whose writer never issued clear. Where one jet both issues an instruction of class V or M and writes
its destination with one of class F, the result that arrives later remains, whatever their order in the jet: R46 speaks of a write by a
later jet only (DESIGN CHOICE, log 78). -/
def Group.endJet (g : Group) : Group :=
  let j := g.jetOr
  let g := (j.pend.foldl (Group.land j.first) g).landJet j
  { g with status := g.status ||| j.flags, jet := none, score := g.score.filter (fun e => e.flight.isSome) }

/-- The instructions that must stand first in their jet (R47). -/
def isCatchUp : Instr → Bool
  | .bar .. | .gate .. | .waitc .. | .mmwait | .fence .. | .ofence | .pfence .. | .ldu .. | .stu .. | .acqb ..
  | .relb .. | .launch .. | .signal .. | .coll .. | .trap .. | .bpt | .fwcall .. | .extmap .. | .movs .. | .mtsr ..
  | .setem .. | .setpart .. | .owbegin .. | .ownext | .tstore .. | .copy .. | .tld .. | .yield | .exit
  | .trapret => true
  | _ => false

/-- Whether an instruction ends its jet (R43). -/
def isTrail (i : Instr) : Bool :=
  match i with
  | .trail _ => true
  | _ => false

/-- The same as `isCatchUp`, from the opcode of a word that does not decode: the structure of a jet is checked on its opcode. -/
def isCatchUpWord (f : W1) : Bool :=
  f.s && (if f.x then
      decide (0x06 ≤ f.op.toNat) && decide (f.op.toNat ≤ 0x18)
    else
      f.op.toNat == 0x0F || f.op.toNat == 0x12 || (decide (0x14 ≤ f.op.toNat) && decide (f.op.toNat ≤ 0x1C)))

def isTrailWord (f : W1) : Bool := f.s && !f.x && f.op.toNat == 0x13

/-- The catch-up instructions whose reference entry does not list the jet-overrun trap among its own checks. For these that check
is one of step 6 of R79, behind the conditions that raise 0x01 and 0x02 (R278); the entries of the others list it first. -/
def overrunLast : Instr → Bool
  | .bar .. | .mmwait | .ofence | .acqb .. | .relb .. | .coll .. | .trap .. | .bpt | .extmap .. | .movs .. | .mtsr .. | .setem ..
  | .setpart .. | .copy .. | .yield | .exit | .trapret => true
  | _ => false

/-- The catch-up opcodes whose entry lists the jet-overrun trap first, of a word that does not decode. -/
def overrunFirstWord (f : W1) : Bool :=
  isCatchUpWord f && (if f.x then
      [0x06, 0x08, 0x09, 0x0A, 0x0B, 0x0E, 0x0F, 0x12, 0x15, 0x16, 0x18].contains f.op.toNat
    else f.op.toNat == 0x15 || f.op.toNat == 0x1C)

/-- The structure of a jet at the instruction that would issue (R43): a queue violation found by preparation, the 24th
instruction, and a catch-up instruction that is not first. -/
def jetCheck (j : Jet) (catchUp trail : Bool) : Option Trap :=
  match j.plan with
  | some (p, code) =>
    if p = j.pos then some (Trap.own 0x03 code 0)
    else if j.pos = 23 && !trail then some (Trap.own 0x03 0 0)
    else if catchUp && j.pos != 0 then some (Trap.own 0x03 1 0) else none
  | none =>
    if j.pos = 23 && !trail then some (Trap.own 0x03 0 0)
    else if catchUp && j.pos != 0 then some (Trap.own 0x03 1 0) else none

/-- The length in bytes of an instruction's encoding (R57). -/
def instrLen (i : Instr) : Nat :=
  match encode i with
  | some (_, some _) => 8
  | _ => 4

/-- The first word and the extension word of an instruction, 0 where it has none. -/
def instrWords (i : Instr) : Word × Word :=
  match encode i with
  | some (a, some b) => (a, b)
  | some (a, none) => (a, 0#32)
  | none => (0#32, 0#32)

/-! ### Fetch (R57, R243) -/

/-- The address `n` words from an instruction (R72, R74). A negative offset is outside every object; it is kept with
its low 40 bits, above 2^40, so that fetching it fails. -/
def branchTarget (pc : Nat) (n : Int) : Nat :=
  let x : Int := (pc : Int) + 4 * n
  if x < 0 then (x % 2 ^ 40).toNat + 2 ^ 40 else x.toNat

/-- The capability of the object a group fetches from. -/
def State.codeCap (s : State) (g : Group) : DWord :=
  if g.handler then ((s.basin g.basin).handler).getD g.code else g.code

end Sys2Proof.Machine
end

