-- ==== Sys2Proof/Machine/Sampler.lean ====
section
/-! DEFINITION. The sampler's arithmetic (R384, R385): the image header, coordinates, texels and channels. -/

namespace Sys2Proof.Machine

/-! ### The header (R384) -/

/-- An image header; `ok` is false where it gives 0 in every channel and no texel is read. -/
structure ImgHdr where
  w : Nat
  h : Nat
  pitch : Nat
  rgba : Bool
  wrap : Bool
  data : Nat
  ok : Bool
  deriving DecidableEq, Repr

/-- A header from its 64 bytes. -/
def imgHdr (bs : List Byte) : ImgHdr :=
  let n (a k : Nat) : Nat := leNat ((List.range k).map (fun i => bs.getD (a + i) 0#8))
  { w := n 0 2, h := n 2 2, pitch := n 4 4, rgba := n 8 1 == 1, wrap := n 9 1 == 1, data := n 0x10 4,
    ok := n 0 2 != 0 && n 2 2 != 0 && decide (n 8 1 < 2) && decide (n 9 1 < 2) && n 0xA 6 == 0 && n 0x14 44 == 0 }

/-! ### Coordinates (R385) -/

/-- A coordinate in texels: a number, or an infinity. -/
inductive TexCo where
  | fin (n : Int)
  | inf (neg : Bool)
  deriving DecidableEq, Repr

/-- `wrap` of R385. -/
def texWrap (rep : Bool) (n : Nat) (c : TexCo) : Nat :=
  match c with
  | .fin x => if rep then (x % (n : Int)).toNat else min x.toNat (n - 1)
  | .inf neg => if rep || neg then 0 else n - 1

/-- The greatest integer at most a dyadic. -/
def Dy.floor (d : Dy) : Int := if 0 ≤ d.e then d.x * 2 ^ d.e.toNat else d.x / 2 ^ (-d.e).toNat

/-- A coordinate as an exact product with the image's size; NaN counts as 0. -/
inductive TexPos where
  | fin (d : Dy)
  | inf (neg : Bool)
  deriving DecidableEq, Repr

def texPos (u : Word) (n : Nat) : TexPos :=
  match fDecode fF32 u.toNat with
  | .nan => .fin { x := 0, e := 0 }
  | .inf neg => .inf neg
  | .fin neg m e => .fin (Dy.mul (dyOf neg m e) { x := n, e := 0 })

/-- The texel coordinates and the fraction of one axis: one for the nearest form, two with a fraction for `.lin`; no
fraction where the coordinate is infinite, for which R385 states no result (log 11). -/
structure TexAxis where
  a : Nat
  b : Nat
  f : Option Word
  deriving DecidableEq, Repr

def texAxis (lin rep : Bool) (u : Word) (n : Nat) : TexAxis :=
  match texPos u n with
  | .inf neg => let x := texWrap rep n (.inf neg); { a := x, b := x, f := none }
  | .fin d =>
    if lin then
      let t := Dy.add d { x := -1, e := -1 }
      let x0 := t.floor
      { a := texWrap rep n (.fin x0), b := texWrap rep n (.fin (x0 + 1)),
        f := some (BitVec.ofNat 32 (fRoundDy fF32 .rn false false (Dy.add t { x := -x0, e := 0 })).1) }
    else let x := texWrap rep n (.fin d.floor); { a := x, b := x, f := some 0#32 }

/-- The offset of texel (x, y). -/
def ImgHdr.texel (h : ImgHdr) (base x y : Nat) : Nat := base + h.data + y * h.pitch + 4 * x

/-- The texels that a lane reads, c00, c10, c01, c11. -/
def ImgHdr.texels (h : ImgHdr) (base : Nat) (lin : Bool) (u v : Word) : List Nat :=
  let x := texAxis lin h.wrap u h.w
  let y := texAxis lin h.wrap v h.h
  if lin then [h.texel base x.a y.a, h.texel base x.b y.a, h.texel base x.a y.b, h.texel base x.b y.b]
  else [h.texel base x.a y.a]

/-! ### Channels -/

/-- f32(byte / 255). -/
def unorm8 (b : Nat) : Word :=
  let m := b * 2 ^ 64
  BitVec.ofNat 32 (fRound fF32 .rn false false (2 * (m / 255) + (if m % 255 = 0 then 0 else 1)) (-65)).1

/-- A NaN is written as the canonical NaN (R182). -/
def canonNan (x : Word) : Word :=
  match fDecode fF32 x.toNat with
  | .nan => 0x7FC00000#32
  | _ => x

/-- A texel's channel k. -/
def texChan (rgba : Bool) (t : Word) (k : Nat) : Word :=
  if rgba then unorm8 (t.toNat / 256 ^ k % 256)
  else if k = 0 then canonNan t else if k = 3 then 0x3F800000#32 else 0#32

/-- a + f × (b − a), each operation rounded. -/
def lerp (f a b : Word) : Word := (faddW a (fmulW f (fsubW b a).1).1).1

/-- A lane's four channels from the texels it read; without a fraction the `.lin` result is open. -/
def texResult (h : ImgHdr) (lin : Bool) (u v : Word) (ix : Nat) (ts : List Word) : List Word :=
  let t (i : Nat) : Word := ts.getD i 0#32
  let x := texAxis lin h.wrap u h.w
  let y := texAxis lin h.wrap v h.h
  (List.range 4).map (fun k =>
    let c (i : Nat) : Word := texChan h.rgba (t i) k
    if lin then
      match x.f, y.f with
      | some fx, some fy => lerp fy (lerp fx (c 0) (c 1)) (lerp fx (c 2) (c 3))
      | _, _ => Config.freeWord (ix + k)
    else c 0)

end Sys2Proof.Machine
end

