-- ==== Sys2Proof/Machine/Requests.lean ====
section
/-! DEFINITION. The load-store path (R91 to R108, R128 to R135): where a line lives, its caches, the write-combining
buffer and the outbound queue, requests and what they wait for, and the delivery of their results. -/

namespace Sys2Proof.Machine

/-! ### Identities -/

/-- Who a group's requests belong to. -/
def Group.owner (g : Group) (q slot : Nat) : Owner :=
  { q := q, slot := slot, basin := g.basin, launch := g.launch, gang := g.gang, crew := g.crew, grp := g.grp }

/-- Whether a group is the one that an owner names. -/
def Owner.isGroup (o : Owner) (g : Group) : Bool :=
  o.basin == g.basin && o.launch == g.launch && o.gang == g.gang && o.crew == g.crew && o.grp == g.grp

/-- The group that an owner names, if it still holds its slot. -/
def State.ownerGroup? (s : State) (o : Owner) : Option Group :=
  match s.group? o.q o.slot with
  | some g => if o.isGroup g then some g else none
  | none => none

def State.modOwner (s : State) (o : Owner) (f : Group → Group) : State :=
  match s.ownerGroup? o with
  | some g => s.setGroup o.q o.slot (f g)
  | none => s

/-- Counts an event in the field record; its counters are 64 bits wide and saturate (R277). -/
def State.count (s : State) (k : Nat) : State :=
  { s with field := NMap.set s.field k (min (NMap.getD s.field k 0 + 1) (2 ^ 64 - 1)) }

/-- The field record's counters (R277), numbered: correctable errors per array, then per channel; retrains per port; retries per
link (R261); excursions and trips; bucket fallbacks per stack; landings per code; collapses; timeouts; retirements; settings. -/
def fieldErr (array : Nat) : Nat := array
def fieldChan (c : Nat) : Nat := 0x100 + c
def fieldLink (p : Nat) : Nat := 2 ^ 32 + 2 * p
def fieldRetry (l : Nat) : Nat := 2 ^ 32 + 2 * l + 1
def fieldExcursion : Nat := 0x300
def fieldTrip : Nat := 0x301
def fieldSetting : Nat := 0x302
def fieldFallback (stack : Nat) : Nat := 0x310 + stack
def fieldLanding (code : Nat) : Nat := 0x320 + code
def fieldCollapse : Nat := 0x330
def fieldTimeout : Nat := 0x331
def fieldRetire : Nat := 0x332
def fieldReissue : Nat := 0x333

/-- The custodian's cycle counter (R8): 500 MHz against core cycles of 3.3 GHz (log 2). -/
def State.custCycle (s : State) : Nat := s.now * 5 / 33

/-! ### Lines, blocks, extents (R101 to R107, R231) -/

/-- The key of a line of a basin's object. -/
def lineKey (b obj line : Nat) : Nat := (b * 2 ^ 14 + obj) * 2 ^ 33 + line

/-- A line's key for comparing accesses, peer devices included. -/
def anyLine (b dev obj line : Nat) : Nat := if dev = devHere then lineKey b obj line else (dev + 1) * 2 ^ 60 + obj * 2 ^ 33 + line

def blockKey (b obj line : Nat) : Nat := (b * 2 ^ 14 + obj) * 2 ^ 29 + line / 16
def extKey (b obj ext : Nat) : Nat := (b * 2 ^ 14 + obj) * 2 ^ 24 + ext

def State.line (s : State) (k : Nat) : Line := NMap.getD s.lines k Line.init
def State.setLine (s : State) (k : Nat) (l : Line) : State := { s with lines := NMap.set s.lines k l }
def State.block (s : State) (k : Nat) : Block := NMap.getD s.blocks k Block.init
def State.setBlock (s : State) (k : Nat) (x : Block) : State := { s with blocks := NMap.set s.blocks k x }
def State.extent (s : State) (k : Nat) : Extent := NMap.getD s.extents k Extent.init
def State.setExtent (s : State) (k : Nat) (x : Extent) : State := { s with extents := NMap.set s.extents k x }

/-- One instruction word at an offset of the code object, or the trap of R57: bounds, misalignment of a `RET`'s target
(R374), a missing right, and then the data error of a poisoned extent or line (R231, R262, R406). What is fetched from an absent extent is
open (log 19). -/
def State.fetchWord (s : State) (g : Group) (ofs : Nat) : Except Trap Word :=
  let c := s.codeCap g
  match checkAccess (s.basin g.basin) c ofs 4 4 Rights.x with
  | .ok () =>
    let e := s.extent (extKey g.basin (capObj c) (ofs / 65536))
    let bad (reason : Nat) : Except Trap Word :=
      .error { Trap.lane0 0x0A 0 (capAt c ofs) 2 kindFetch with s58 := some (BitVec.ofNat 32 reason) }
    if e.pz then bad 4
    else if !e.v then .ok (Config.freeWord (s.freeIx + ofs))
    else if (s.line (lineKey g.basin (capObj c) (ofs / 128))).poisoned then bad 1
    else .ok (BitVec.ofNat 32 (leNat (s.readBytes (memKey g.basin (capObj c) ofs) 4)))
  | .error e =>
    let s59 := if e.code = 0x06 ∧ e.s59 = 1 then 4 else e.s59
    .error (Trap.lane0 e.code s59 (capAt c ofs) 2 kindFetch)

/-- The home slice of a line (R101). -/
def homeSlice (b : Basin) (obj line : Nat) : Nat :=
  b.slices.getD ((line / 16 + 7 * obj) % b.slices.length) 0

/-- The die of a quadrant (R12). -/
def dieOf (q : Nat) : Nat := q / 256

/-- The home slice of a line of a replicated extent for a request from a die: one of the basin's slices on that die
(R107). -/
def replicaSlice (b : Basin) (obj line die : Nat) : Nat :=
  let mine := b.slices.filter (fun x => x / 16 == die)
  mine.getD ((line / 16 + 7 * obj) % mine.length) (16 * die)

/-- The home slice that serves a line for a request from a die (R101, R107). -/
def State.sliceFor (s : State) (b obj line die : Nat) : Nat :=
  if (s.extent (extKey b obj (line / 512))).reps.isEmpty then homeSlice (s.basin b) obj line
  else replicaSlice (s.basin b) obj line die

/-- The die of that slice. -/
def State.homeDie (s : State) (b obj line die : Nat) : Nat := s.sliceFor b obj line die / 16

/-- The basin, the object and the line of a line's key. -/
def keyBasin (k : Nat) : Nat := k / 2 ^ 47
def keyObj (k : Nat) : Nat := k / 2 ^ 33 % 2 ^ 14
def keyLine (k : Nat) : Nat := k % 2 ^ 33

/-- A set of dies with one more. -/
def dieBit (d : Nat) : BitVec 4 := 1#4 <<< d

/-- The channel behind a die for an extent (R107, R231). -/
def Extent.chanAt (e : Extent) (die : Nat) : Nat :=
  match e.reps.find? (fun x => x.1 == die) with
  | some x => x.2.1
  | none => e.chan

/-- The die whose base die caches an extent's blocks: the one of its channel (R13, R106). -/
def Extent.mscDie (e : Extent) (die : Nat) : Nat := e.chanAt die / 64

/-- CAP and RATE of a stack (R118). -/
def State.stackCfg (s : State) (stack : Nat) : Nat × Nat := NMap.getD s.stackCaps stack (0x1000, 0x0060)

/-- The channel groups of a stack that a basin holds (R117, R247). -/
def Basin.stackGroups (b : Basin) (stack : Nat) : Nat := (b.groups.filter (fun g => g / 8 == stack)).length

/-- A share's capacity (R117). -/
def State.shareCap (s : State) (b stack : Nat) : Nat := (s.stackCfg stack).1 * (s.basin b).stackGroups stack / 8

def State.share (s : State) (b stack : Nat) : Nat := NMap.getD (s.basin b).shares stack 0

def State.modBasin (s : State) (b : Nat) (f : Basin → Basin) : State := { s with basins := NMap.set s.basins b (f (s.basin b)) }

def State.takeTokens (s : State) (b stack n : Nat) : State :=
  s.modBasin b (fun x => { x with shares := NMap.set x.shares stack (s.share b stack - n) })

/-- The activation of an ordinary request (R117): 4 tokens, or all of a full share that can never hold 4. -/
def State.activate (s : State) (b stack : Nat) : Option State :=
  let cap := s.shareCap b stack
  let have_ := s.share b stack
  if 4 ≤ have_ then some (s.takeTokens b stack 4)
  else if cap < 4 ∧ have_ = cap then some (s.takeTokens b stack have_) else none

/-- Whether a fill must read the block from HBM (R103, R106): an elided block or one in the memory-side cache does
not. -/
def State.needsHbm (s : State) (b obj line die : Nat) : Bool :=
  let x := s.block (blockKey b obj line)
  x.comp != 3#2 && (x.msc &&& dieBit ((s.extent (extKey b obj (line / 512))).mscDie die)) == 0#4

/-- Lines that a home slice holds (R6): 4 MiB. -/
def sliceLines : Nat := 32768

/-- The number of lines that a home slice of a die holds now. -/
def State.sliceCount (s : State) (slice die : Nat) : Nat :=
  (s.lines.filter (fun e => (e.2.res &&& dieBit die) != 0#4 && s.sliceFor (keyBasin e.1) (keyObj e.1) (keyLine e.1) die == slice)).length

/-- The bytes that a block takes at the memory side (R103). -/
def Block.bytes (x : Block) : Nat :=
  match x.comp.toNat with
  | 0 => 2048
  | 1 => 1024
  | 2 => 512
  | _ => 0

/-- The channel of a block on a die, from the block's key. -/
def State.blockChan (s : State) (k die : Nat) : Nat :=
  (s.extent (extKey (k / 2 ^ 43) (k / 2 ^ 29 % 2 ^ 14) (k % 2 ^ 29 / 32))).chanAt die

/-- The bytes of a channel's share of the memory-side cache (R106). -/
def mscBytes : Nat := 4 * 2 ^ 20

/-- Whether a channel's share of the memory-side cache on a base die has room for a block in some state (R13, R106). -/
def State.mscRoom (s : State) (k die : Nat) (x : Block) : Bool :=
  let chan := s.blockChan k die
  decide ((s.blocks.filter (fun e => e.1 != k && (e.2.msc &&& dieBit die) != 0#4 && s.blockChan e.1 die == chan)).foldl
    (fun n e => n + e.2.bytes) 0 + x.bytes ≤ mscBytes)

/-- An ordinary fill of a line into the home slice of a die (R6, R106, R117); `none` where it waits: for a place in the slice,
for one in the memory-side cache, or for tokens. -/
def State.fillLine (s : State) (b obj line die : Nat) : Option State :=
  let k := lineKey b obj line
  let l := s.line k
  if (l.res &&& dieBit die) != 0#4 then some s
  else if sliceLines ≤ s.sliceCount (s.sliceFor b obj line die) die then none
  else
    let bk := blockKey b obj line
    let x := s.block bk
    let s1 := if s.needsHbm b obj line die then
        let e := s.extent (extKey b obj (line / 512))
        (if s.mscRoom bk (e.mscDie die) x then
          (s.activate b (e.chanAt die / 32)).map (fun s =>
            s.setBlock bk { x with msc := x.msc ||| dieBit (e.mscDie die) })
         else none)
      else some s
    s1.map (fun s => s.setLine k { s.line k with res := (s.line k).res ||| dieBit die })

/-! ### Requests -/

/-- The kinds that raise a line's version when they perform (R102, R167), a `VALSET` among them because it collapses
and pins (R175). -/
def ReqKind.writeClass : ReqKind → Bool
  | .store .. | .merge .. | .copyWrite .. | .atom .. | .signal .. | .casv .. | .dep .. | .valset .. => true
  | .descent w => w.stOfs.isSome
  | _ => false

/-- The kinds that a group's reads are (R126, R130). -/
def ReqKind.isRead : ReqKind → Bool
  | .load .. | .smpl .. | .ldv .. => true
  | .descent w => w.stOfs.isNone
  | _ => false

/-- The reads of the load-store path that an acquire or a release waits for (R126, R130): constant and sampler reads
are not among them. -/
def ReqKind.isLsRead : ReqKind → Bool
  | .load p .. => p == .ld
  | .ldv .. => true
  | .atom _ _ d _ => d.isSome
  | .casv .. => true
  | .valset .. => true
  | .descent w => w.stOfs.isNone
  | _ => false

def ReqKind.isDep : ReqKind → Bool
  | .dep .. => true
  | _ => false

def ReqKind.isCopy : ReqKind → Bool
  | .copyWrite .. => true
  | _ => false

def ReqKind.isPromote : ReqKind → Bool
  | .promote _ => true
  | _ => false

def ReqKind.isOutb : ReqKind → Bool
  | .store o _ => o
  | _ => false

def State.req? (s : State) (id : Nat) : Option Req := NMap.get? s.reqs id
def State.setReq (s : State) (id : Nat) (r : Req) : State := { s with reqs := NMap.set s.reqs id r }

/-- The key of the line a request is for. -/
def Req.key (r : Req) : Nat := anyLine r.owner.basin r.dev r.obj r.line

/-- All lines of a request: a `VALSET` has several. -/
def Req.keys (r : Req) : List Nat :=
  match r.kind with
  | .valset w => w.lines
  | _ => [r.key]

/-- Numbers of the requests for which a property holds. -/
def State.reqIds (s : State) (f : Req → Bool) : List Nat := (s.reqs.filter (fun e => f e.2)).map (fun e => e.1)

/-- A request of a group that has not been issued yet. -/
def Req.new (o : Owner) (kind : ReqKind) (dev obj line : Nat) (lanes : Mask) (flight : List Nat) (byHandler : Bool) : Req :=
  { kind := kind, owner := o, dev := dev, obj := obj, line := line, lanes := lanes, flight := flight, st := .held,
    holdFor := [], after := [], version := 0#32, data := [], overlay := [], writes := [], ok := false, landing := 7,
    noFill := false, sentAt := 0, tag := 0#32, byHandler := byHandler, err := none, replay := false, again := false, freed := [],
    fullAt := none, rel := false, wide := false, fall := false, ord := 0, scope := 0, ports := [], accs := [] }

/-- Adds a request, which waits from now on. -/
def State.addReq (s : State) (r : Req) : State :=
  { s with reqs := NMap.set s.reqs s.nextId { r with sentAt := s.now }, nextId := s.nextId + 1 }

/-- Whether a request has left its quadrant and has still to perform; a replay packet of such a one stands where it stood (R132, R258). -/
def Req.stands (r : Req) : Bool := r.st == .sent || r.st == .parked || (r.st == .held && r.again)

/-- Requests of a group on a line that have left their quadrant and have not performed yet, deposits apart (R124, R128).
One that still waits in the quadrant is younger than any that leaves. -/
def Req.blocks (r : Req) (o : Owner) (k : Nat) : Bool := r.owner == o && !r.kind.isDep && r.stands && r.keys.contains k

/-- The requests that a new request of a group on a line must follow in the line's order (R128): outbound entries of
the quadrant, and the group's own requests on the line, those that are parked among them (R239; log 79). -/
def State.lineAfter (s : State) (o : Owner) (k self : Nat) : List Nat :=
  (s.reqIds (fun r => (r.owner.q == o.q && r.kind.isOutb && r.stands && r.key == k) || r.blocks o k)).filter (· != self)

/-- Marks loads in flight whose fill is not to be installed (R128). -/
def State.dropFills (s : State) (f : Req → Bool) : State :=
  { s with reqs := s.reqs.map (fun e =>
      match e.2.kind with
      | .load .. => if e.2.st != .held && f e.2 then (e.1, { e.2 with noFill := true }) else e
      | _ => e) }

/-- Marks the loads of a quadrant on a line whose fill is overtaken by a write: those that have been sent (R128). -/
def State.overtake (s : State) (q k : Nat) : State :=
  s.dropFills (fun r => r.owner.q == q && r.key == k)

/-! ### The quadrant's caches (R92, R94, R128) -/

/-- Overlays bytes, keyed by their offset in the object, on a line's bytes. -/
def overlayLine (line : Nat) (bytes : NMap Byte) (bs : List Byte) : List Byte :=
  (bs.zipIdx).map (fun e => NMap.getD bytes (128 * line + e.2) e.1)

/-- A store entering the outbound queue, or leaving as its own request, updates the L1 copy (R92, R128). -/
def Quad.l1Update (x : Quad) (k line : Nat) (bytes : NMap Byte) : Quad :=
  { x with l1 := NMap.modify x.l1 k (fun c => { c with bytes := overlayLine line bytes c.bytes }) }

def Quad.l1Drop (x : Quad) (k : Nat) : Quad := { x with l1 := NMap.erase x.l1 k }

def Quad.l1Inv (x : Quad) : Quad := { x with l1 := [] }

/-- Lines the L1 data region holds (R88). -/
def Quad.l1Size (x : Quad) : Nat := (x.pb3 - x.pb2) * 32
def Quad.roSize (x : Quad) : Nat := (87 - x.pb3) * 32

/-- Whether a version is newer than another (R135). -/
def newer (a b : Word) : Bool := let d := (a - b).toNat; decide (0 < d) && decide (d < 2 ^ 31)

/-- The retention class of a hint (R92). -/
def hintClass : Hint → Nat
  | .stream => 0
  | .normal => 1
  | .keep => 2

/-- The line of a region that a fill replaces among those that could hold the new one: of the lowest class present, the least
recently used (R92). -/
def victim (m : NMap CacheLine) : Option Nat :=
  let low := m.foldl (fun a e => min a e.2.cls) 3
  (m.foldl (fun (best : Option (Nat × Nat)) e =>
    if e.2.cls != low then best
    else match best with
      | none => some (e.1, e.2.used)
      | some b => if e.2.used < b.2 then some (e.1, e.2.used) else some b) none).map (fun b => b.1)

/-- Puts a line into a region of a given size, with room made for it where the lines that compete for its place leave none
(R92): which lines compete is the part's (log 9). -/
def cachePut (m : NMap CacheLine) (size k : Nat) (c : CacheLine) : NMap CacheLine :=
  if size = 0 then m
  else if NMap.has m k then NMap.set m k c
  else
    let here := m.filter (fun e => Config.cachePlace e.1 == Config.cachePlace k)
    if m.length < size ∧ (here = [] ∨ here.length < Config.cacheWays size) then NMap.set m k c
    else
      match victim (if here = [] then m else here) with
      | some v => NMap.set (NMap.erase m v) k c
      | none => m

/-- The number of a use of the quadrant's caches (R92). -/
def Quad.used (x : Quad) : Quad := { x with uses := x.uses + 1 }

/-- A returning fill of the load-store path (R128): not installed when overtaken or older than the copy present. -/
def Quad.l1Fill (x : Quad) (k : Nat) (c : CacheLine) (noFill : Bool) : Quad :=
  let c := { c with used := x.uses }
  match NMap.get? x.l1 k with
  | some o =>
    if newer o.version c.version then x
    else if noFill then (if newer c.version o.version then x.l1Drop k else x)
    else { x.used with l1 := NMap.set x.l1 k c }
  | none => if noFill then x else { x.used with l1 := cachePut x.l1 x.l1Size k c }

/-- A fill of the read-only region (R94). -/
def Quad.roFill (x : Quad) (k : Nat) (c : CacheLine) : Quad :=
  { x.used with ro := cachePut x.ro x.roSize k { c with used := x.uses } }

/-- A hit counts as a use (R92, R94). -/
def Quad.l1Hit (x : Quad) (k : Nat) : Quad :=
  { x.used with l1 := NMap.modify x.l1 k (fun c => { c with used := x.uses }) }
def Quad.roHit (x : Quad) (k : Nat) : Quad :=
  { x.used with ro := NMap.modify x.ro k (fun c => { c with used := x.uses }) }

/-- The result of an atomic or of `LDV` invalidates an older L1 copy (R128, R170). -/
def Quad.l1Stale (x : Quad) (k : Nat) (v : Word) : Quad :=
  match NMap.get? x.l1 k with
  | some o => if newer v o.version then x.l1Drop k else x
  | none => x

/-- A result of a newer state of a line has reached a quadrant: an older L1 copy is invalidated, and an older fill still on
its way is not installed (R128, R129; log 60). -/
def State.l1Seen (s : State) (q k : Nat) (v : Word) : State :=
  (s.modQuad q (fun x => x.l1Stale k v)).dropFills (fun r =>
    r.owner.q == q && r.key == k && r.st == .performed && newer v r.version)

/-- Invalidates the L1 data region of a quadrant (R92): a fill that took its data before is not installed either (R129;
log 60). -/
def State.l1Invalidate (s : State) (q : Nat) : State :=
  (s.modQuad q Quad.l1Inv).dropFills (fun r => r.owner.q == q && r.st == .performed && (match r.kind with
    | .load p .. => p == .ld
    | _ => false))

/-- Invalidates the constant lines, and the sampler lines, of a quadrant's read-only region (R94, R95); the same for fills
of constant lines on their way. -/
def State.roInvalidate (s : State) (q : Nat) (cst smp : Bool) : State :=
  let s := s.modQuad q (fun x => { x with ro := x.ro.filter (fun e => if e.2.sampler then !smp else !cst) })
  if cst then s.dropFills (fun r => r.owner.q == q && r.st == .performed && (match r.kind with
    | .load p .. => p == .cst
    | _ => false)) else s

/-- The key of a line in the read-only region: constant and sampler lines are apart (R91). -/
def roKey (k : Nat) (sampler : Bool) : Nat := 2 * k + (if sampler then 1 else 0)

/-! ### Write-combining and the outbound queue (R93, R128) -/

/-- The entry of a group for a line. -/
def Quad.wcOf? (x : Quad) (o : Owner) (obj line : Nat) : Option WcEntry :=
  x.wc.find? (fun e => e.owner == o && e.obj == obj && e.line == line)

/-- A group's own write-combining bytes for a line (R128). -/
def State.wcBytes (s : State) (o : Owner) (obj line : Nat) : NMap Byte :=
  match s.quad? o.q with
  | some x => match x.wcOf? o obj line with
    | some e => e.bytes
    | none => []
  | none => []

/-! ### What is over -/

/-- A request without a number among what it waits for. -/
def Req.without (r : Req) (id : Nat) : Req :=
  { r with holdFor := r.holdFor.filter (· != id), after := r.after.filter (· != id) }

/-- A group none of whose orders waits for a number. -/
def Group.without (g : Group) (id : Nat) : Group :=
  let drop (l : List Order) : List Order := l.map (fun w => { w with waits := w.waits.filter (· != id) })
  { g with orders := drop g.orders, relReads := g.relReads.filter (· != id),
           frame := g.frame.map (fun f => { f with orders := drop f.orders, relReads := f.relReads.filter (· != id) }) }

/-- The bank requests that have not entered their queue: those that follow something, and later ones of their group to their
word (R98). -/
def outside : List BankReq → List (Nat × Nat) → List Nat
  | [], _ => []
  | r :: t, held =>
    if r.hold.isEmpty && !held.contains (r.slot, r.word) then outside t held else r.id :: outside t ((r.slot, r.word) :: held)

/-- Whether the descent hazard table has a free entry (R119). -/
def Quad.hazardRoom (x : Quad) : Bool := decide ((x.hazards.filter (fun h => h.line.isSome)).length < 32)

/-- Marks a group as *overflow* until some descents are over (R119). -/
def Quad.overflow (x : Quad) (slot : Nat) (ids : List Nat) : Quad :=
  if x.hazards.any (fun h => h.line.isNone && h.slot == slot && h.ids == ids) then x
  else { x with hazards := x.hazards ++ [{ slot := slot, line := none, ids := ids }] }

/-- Takes one hazard again in another quadrant (R259): an entry while there is room, an overflow mark else. -/
def Quad.takeHazard (x : Quad) (slot : Nat) (line : Option Nat) (ids : List Nat) : Quad :=
  if line.isSome && x.hazardRoom then { x with hazards := x.hazards ++ [{ slot := slot, line := line, ids := ids }] } else x.overflow slot ids

/-- A bank's requests after some have ceased to wait for a number: what may enter the queue now enters at its end (R98, R389). -/
def bankAfter (l : List BankReq) (f : BankReq → BankReq) : List BankReq :=
  let l1 := l.map f
  let was := outside l []
  let is_ := outside l1 []
  let enters (r : BankReq) : Bool := was.contains r.id && !is_.contains r.id
  l1.filter (fun r => !enters r) ++ l1.filter enters

def BankReq.without (r : BankReq) (ids : List Nat) : BankReq := { r with hold := r.hold.filter (fun i => !ids.contains i) }

/-- A quadrant none of whose parts waits for a number. -/
def Quad.without (x : Quad) (id : Nat) : Quad :=
  { x with
    hazards := (x.hazards.map (fun h => { h with ids := h.ids.filter (· != id) })).filter (fun h => !h.ids.isEmpty),
    groups := x.groups.map (fun (p : Nat × Group) => (p.1, p.2.without id)),
    banks := x.banks.map (fun (b : Nat × List BankReq) => (b.1, bankAfter b.2 (fun r => r.without [id]))) }

def Parked.without (p : Parked) (id : Nat) : Parked := { p with after := p.after.filter (· != id) }

/-- Changes what the accesses from outside hold that have met an absent extent. -/
def State.modParks (s : State) (f : Parked → Parked) : State :=
  { s with
      inbound := s.inbound.map (fun (h : HostWrite) => { h with park := h.park.map f }),
      hostReads := s.hostReads.map (fun (h : HostRead) => { h with park := f h.park }),
      peerIn := s.peerIn.map (fun (r : PeerReq) => { r with park := r.park.map f }) }

/-- An identity number is over: whatever waited for it waits no longer, saved contexts included. -/
def State.over (s : State) (id : Nat) : State :=
  { s.modParks (fun p => p.without id) with
      granted := s.granted.filter (fun u => u.2 != some id),
      reqs := s.reqs.map (fun e => (e.1, e.2.without id)),
      quads := s.quads.map (fun e => (e.1, e.2.without id)),
      saved := s.saved.map (fun (e : Nat × Saved) => (e.1, { e.2 with
        image := e.2.image.without id, replay := e.2.replay.map (fun p => (p.1, p.2.without id)) })),
      engines := s.engines.map (fun e => (e.1, { e.2 with
        copies := e.2.copies.map (fun c => { c with writes := c.writes.filter (· != id), after := c.after.filter (· != id) }) })) }

/-- A request has taken its place in its line's order: what follows it there may perform (R128). -/
def State.placed (s : State) (id : Nat) : State :=
  { s.modParks (fun p => p.without id) with
           reqs := s.reqs.map (fun e => (e.1, { e.2 with after := e.2.after.filter (· != id) })),
           engines := s.engines.map (fun e => (e.1, { e.2 with copies := e.2.copies.map (fun c =>
             { c with after := c.after.filter (· != id) }) })),
           extents := s.extents.map (fun e => if e.2.first = some id then (e.1, { e.2 with first := none }) else e) }

/-- A collapse waits no longer for a request to perform first (R108). -/
def State.unfirst (s : State) (id : Nat) : State :=
  { s with extents := s.extents.map (fun e => if e.2.first = some id then (e.1, { e.2 with first := none }) else e) }

/-! ### The outbound queue (R93, R128) -/

/-- Replaces a number by others in what something waits for. -/
def follow (old : Nat) (new : List Nat) (l : List Nat) : List Nat :=
  if l.contains old then l.filter (· != old) ++ new else l

def Quad.follow (x : Quad) (old : Nat) (new : List Nat) (narrow : Bool) : Quad :=
  { x with
    groups := x.groups.map (fun (p : Nat × Group) =>
      let move (l : List Order) : List Order := l.map (fun w =>
        if narrow || w.wide then { w with waits := Machine.follow old new w.waits } else w)
      (p.1, { p.2 with orders := move p.2.orders, frame := p.2.frame.map (fun f => { f with orders := move f.orders }) })),
    banks := x.banks.map (fun (b : Nat × List BankReq) => (b.1, b.2.map (fun r =>
      if narrow then { r with hold := Machine.follow old new r.hold } else r))) }

/-- A store that releases and copies wait for has moved on under other numbers: copies and the releases at `.gang` and wider
wait for those instead, the narrower releases too with `narrow` (R126, R132). -/
def State.follow (s : State) (old : Nat) (new : List Nat) (narrow : Bool) : State :=
  { s with
      reqs := s.reqs.map (fun e => if e.2.rel && (narrow || e.2.wide) then (e.1, { e.2 with holdFor := Machine.follow old new e.2.holdFor }) else e),
      quads := s.quads.map (fun e => (e.1, e.2.follow old new narrow)),
      engines := s.engines.map (fun e => (e.1, { e.2 with copies := e.2.copies.map (fun c =>
        { c with after := Machine.follow old new c.after }) })) }

/-- What took a place in a line's order ahead of others is now other requests: those follow these (R128, R241). -/
def State.succeed (s : State) (old : Nat) (new : List Nat) : State :=
  { s with
      reqs := s.reqs.map (fun e => (e.1, { e.2 with after := Machine.follow old new e.2.after })),
      engines := s.engines.map (fun e => (e.1, { e.2 with copies := e.2.copies.map (fun c =>
        { c with after := Machine.follow old new c.after }) })) }

/-- Whether a release or a copy waits for a number (R119, R126, R132). -/
def State.releaseWaits (s : State) (id : Nat) : Bool :=
  s.reqs.any (fun e => e.2.rel && e.2.holdFor.contains id)
    || s.quads.any (fun e => e.2.banks.any (fun b => b.2.any (fun r => r.hold.contains id))
      || e.2.groups.any (fun p => p.2.orders.any (fun w => w.waits.contains id)))
    || s.engines.any (fun e => e.2.copies.any (fun c => c.after.contains id))

/-- The entries of a quadrant's outbound queue that wait to perform, oldest first. -/
def State.outbound (s : State) (q : Nat) : List Nat := s.reqIds (fun r => r.owner.q == q && r.kind.isOutb && r.st == .sent)

/-- Line entries of an outbound queue (R128). -/
def outboundMax : Nat := 32

def WcEntry.is (e : WcEntry) (o : Owner) (obj line : Nat) : Bool := e.owner == o && e.obj == obj && e.line == line

/-- A write-combining entry enters the outbound queue: it updates the L1 copy and overtakes the fills of its line (R128). -/
def State.wcEnter (s : State) (e : WcEntry) : State :=
  let k := lineKey e.owner.basin e.obj e.line
  let id := s.nextId
  let after := s.lineAfter e.owner k id
  let s := s.modQuad e.owner.q (fun x =>
    { (x.l1Update k e.line e.bytes) with wc := x.wc.filter (fun w => !w.is e.owner e.obj e.line) })
  let s := s.overtake e.owner.q k
  let r := { Req.new e.owner (.store true e.bytes) devHere e.obj e.line 0#32 e.flight e.byHandler with
    st := .sent, accs := e.accs, after := after, sentAt := s.now, tag := ((s.quad? e.owner.q).map (fun x => x.tag)).getD 0#32 }
  ((s.addReq r).follow e.ticket [id] false).over e.ticket

/-- The entries of a quadrant that have been sent enter the outbound queue, oldest first, while it has room (R128). One older
than the last narrow release was moved by it, and counts among the entries before it (R131). -/
def State.drainWc (s : State) (q : Nat) : State :=
  match s.quad? q with
  | none => s
  | some x => (x.wc.filter (fun e => e.leaving)).foldl (fun s e =>
      if (s.outbound q).length < outboundMax then
        let s := s.wcEnter e
        s.modQuad q (fun x => { x with relMark := if e.ticket < x.relMark then s.nextId else x.relMark })
      else s) s

/-- Sends a group's entries for which a property holds (R93). -/
def State.wcFlush (s : State) (o : Owner) (f : WcEntry → Bool) : State :=
  (s.modQuad o.q (fun x => { x with wc := x.wc.map (fun e => if e.owner == o && f e then { e with leaving := true } else e) })).drainWc o.q

/-- The numbers of a group's entries that have been sent and wait for room. -/
def State.ticketsOf (s : State) (o : Owner) : List Nat :=
  match s.quad? o.q with
  | some x => (x.wc.filter (fun e => e.owner == o && e.leaving)).map (fun e => e.ticket)
  | none => []

/-- Entries of a quadrant's write-combining buffer (R93). -/
def wcMax : Nat := 16

/-- Merges store bytes into the group's entry for the line (R93): an entry whose 128 bytes are all written is sent. When the
buffer needs an entry it sends the oldest (DESIGN CHOICE, log 61); `none` where that one has to wait for the outbound queue. -/
def State.wcMerge (s : State) (o : Owner) (obj line : Nat) (bytes : NMap Byte) (flight : List Nat) (byHandler : Bool)
    (accs : List (Nat × Nat × Nat)) : Option State :=
  match s.quad? o.q with
  | none => none
  | some x =>
    let full (m : NMap Byte) : Bool := m.length == 128
    match x.wcOf? o obj line with
    | some e =>
      let bs := bytes.foldl (fun m b => NMap.set m b.1 b.2) e.bytes
      let e' := { e with bytes := bs, flight := e.flight ++ flight, leaving := e.leaving || full bs,
                         accs := e.accs.filter (fun a => accs.all (fun b => b.1 != a.1)) ++ accs }
      some (s.modQuad o.q (fun x => { x with wc := x.wc.map (fun w => if w.is o obj line then e' else w) }))
    | none =>
      let s := if x.wc.length < wcMax then s else
        match x.wc with
        | e :: _ => s.wcFlush e.owner (fun w => w.obj == e.obj && w.line == e.line)
        | [] => s
      let bs := bytes.foldl (fun m b => NMap.set m b.1 b.2) []
      let e : WcEntry := { owner := o, obj := obj, line := line, bytes := bs, since := s.now, ticket := s.nextId, leaving := full bs,
                           flight := flight, byHandler := byHandler, accs := accs }
      if ((s.quad? o.q).map (fun x => x.wc.length)).getD wcMax < wcMax then
        some ({ s with nextId := s.nextId + 1 }.modQuad o.q (fun x => { x with wc := x.wc ++ [e] }))
      else none

/-! ### Sending requests -/

/-- What goes before a request on the line that it stands at (R128): a `VALSET` takes its lines one by one (R175). -/
def State.heldBack (s : State) (r : Req) : List Nat :=
  match r.kind with
  | .valset _ => r.after.filter (fun i => (s.req? i).all (fun o => o.keys.contains r.key))
  | _ => r.after

/-- The plane and port of a request to a peer (R270). -/
def peerPort (obj line : Nat) : Nat := (7 * obj + line) % 36

/-- The image header that a sampler request has read (R384): at a peer, from the bytes that have come. -/
def Req.peerHdr (r : Req) (a : Nat) : ImgHdr := imgHdr ((List.range 64).map (fun i => NMap.getD r.data (a + i) 0#8))

/-- The texels that a lane of a sampler request to a peer reads once its header has come. -/
def Req.peerTexels (r : Req) (lin : Bool) (e : Nat × Nat × Word × Word) : List Nat :=
  let h := r.peerHdr e.2.1
  if h.ok then h.texels e.2.1 lin e.2.2.1 e.2.2.2 else []

/-- The lines that a request to a peer asks for, with their objects: each is a request of its own on its line's port (R175, R270,
R385). A sampler request asks for the headers first, then for the texels. -/
def Req.peerLines (r : Req) : List (Nat × Nat) :=
  match r.kind with
  | .valset w => w.lines.map (fun k => (keyObj k, keyLine k))
  | .smpl _ lin _ ls =>
    ((if r.data.isEmpty then ls.map (fun e => e.2.1) else ls.flatMap (r.peerTexels lin)).map (fun a => (r.obj, a / 128))).eraseDups
  | _ => [(r.obj, r.line)]

/-- The ports of those lines. -/
def Req.peerPorts (r : Req) : List Nat := r.peerLines.map (fun x => peerPort x.1 x.2)

/-- Whether a request to a peer may be answered: no port of it has failed to train (R275). -/
def State.portUp (s : State) (r : Req) : Bool := r.peerPorts.all (fun p => !s.downPorts.contains p)

/-- Whether a basin has a credit left on a port (R249, R270). -/
def Basin.hasCredit (b : Basin) (port : Nat) : Bool := decide (NMap.getD b.spent port 0 < b.credits)

/-- Spends credits for the lines of a request, each on its port, where every port has one (R270): a line that finds the others of its
request ahead of it on the last credit of its port follows when that comes back. The ports whose credits are spent come with the basin. -/
def Basin.spend (b : Basin) (ports : List Nat) : Option (Basin × List Nat) :=
  if ports.all b.hasCredit then
    some (ports.foldl (fun (acc : Basin × List Nat) p =>
      if acc.1.hasCredit p then ({ acc.1 with spent := NMap.set acc.1.spent p (NMap.getD acc.1.spent p 0 + 1) }, acc.2 ++ [p]) else acc) (b, []))
  else none

/-- Credits come back to a basin (R270). -/
def Basin.regain (b : Basin) (ports : List Nat) : Basin :=
  { b with spent := ports.foldl (fun m p => NMap.set m p (NMap.getD m p 0 - 1)) b.spent }

/-- The credits that a request holds come back. -/
def State.regain (s : State) (r : Req) : State :=
  if r.ports.isEmpty then s else s.modBasin r.owner.basin (fun b => b.regain r.ports)

/-- The units of read-type requests that a quadrant has outstanding (R255). -/
def State.readUnits (s : State) (q : Nat) : Nat :=
  (s.reqs.filter (fun e => e.2.owner.q == q && e.2.st != .held)).foldl (fun n e =>
    match e.2.kind with
    | .descent w => if w.stOfs.isNone then n + 12 else n
    | .load .. | .smpl .. | .ldv .. => n + 1
    | _ => n) 0

def ReqKind.units : ReqKind → Nat
  | .descent w => if w.stOfs.isNone then 12 else 0
  | .load .. | .smpl .. | .ldv .. => 1
  | _ => 0

def ReqKind.isDescent : ReqKind → Bool
  | .descent _ => true
  | _ => false

/-- Whether a group's own request on a line keeps a load of that line from hitting: a read or an atomic that has not returned,
so that the load returns nothing older than it (R129, R137; log 60). Stores have updated the copy, and deposits are
ordered by fences alone (R124, R128). -/
def Req.barsHit (r : Req) (o : Owner) (k : Nat) : Bool :=
  r.owner == o && (r.st != .held || r.again) && r.keys.contains k && (match r.kind with
    | .load p .. => p == .ld && !r.ok
    | .ldv .. | .atom .. | .signal .. | .casv .. | .valset .. | .descent .. => true
    | _ => false)

/-- A store leaves the quadrant into its group's write-combining entry; with a release or a copy behind it, the entry is
sent, and they wait for the entry's number (R119, R126). -/
def State.merge (s : State) (id : Nat) (r : Req) (bytes : NMap Byte) : State :=
  match ({ s with reqs := NMap.erase s.reqs id }).wcMerge r.owner r.obj r.line bytes r.flight r.byHandler r.accs with
  | none => s
  | some s1 =>
    if s.releaseWaits id then
      let t := ((s1.quad? r.owner.q).bind (fun x => x.wcOf? r.owner r.obj r.line)).map (fun e => e.ticket)
      let s2 := ((s1.follow id t.toList true).wcFlush r.owner (fun e => e.obj == r.obj && e.line == r.line)).over id
      s2.modQuad r.owner.q (fun x => { x with relMark := s2.nextId })
    else (s1.over id).drainWc r.owner.q

/-- Whether the quadrant's queue has no room for a request. The spec gives the descent request queue no size: it is full where the
quadrant's 1,024 units of outstanding reads are in use (R50, R255; DESIGN CHOICE, log 80). -/
def State.queueFull (s : State) (q : Nat) (r : Req) : Bool := decide (1024 < s.readUnits q + r.kind.units)

/-- A full queue keeps a request's push: since when, the probe token asks (R50). -/
def State.keptOut (s : State) (id : Nat) (r : Req) : State :=
  if r.fullAt.isSome then s else s.setReq id { r with fullAt := some s.now }

/-- Sends one request of a group that waits for nothing more in its quadrant: a hit in a cache answers at once, a
store is merged, and everything else goes to its home slice, a peer, or the wait for credits (R91, R128, R134). With the queue full the one push
that holds the reserve entry leaves all the same (R50). A request that is sent again after a halt follows what it followed when it first
left (R132, R259). -/
def State.depart (s : State) (id : Nat) (r : Req) : State :=
  let o := r.owner
  let k := r.key
  match s.quad? o.q with
  | none => s
  | some x =>
    let out : Req := { r with st := .sent, sentAt := s.now, tag := x.tag, landing := 7, again := false, fullAt := none }
    let stay : State := if r.fullAt.isSome then s.setReq id { r with fullAt := none } else s
    let behind (s : State) (k : Nat) : List Nat := if r.again then r.after else s.lineAfter o k id
    let sent (s : State) (r : Req) : State := s.setReq id { r with after := behind s k }
    if s.queueFull o.q r && !(s.granted.contains (.descent o.q, some id)) then s.keptOut id r
    else if r.dev ≠ devHere then
      match (s.basin o.basin).spend r.peerPorts with
      | some p => sent { s.modBasin o.basin (fun _ => p.1) with outbox := s.outbox ++ [.peerAsk id] } { out with ports := p.2 }
      | none => stay
    else
      match r.kind with
      | .merge bytes => s.merge id r bytes
      | .load p _ _ _ _ _ keep =>
        let bars := (r.again && !r.after.isEmpty) || s.reqs.any (fun e => e.1 != id && e.2.barsHit o k)
        let hit := if !keep then none
          else if p = .ld then (if bars then none else NMap.get? x.l1 k)
          else NMap.get? x.ro (roKey k false)
        let ov := if p = .ld then (if r.again then r.overlay else s.wcBytes o r.obj r.line) else []
        match hit with
        | some c =>
          let s := s.modQuad o.q (fun x => if p = .ld then x.l1Hit k else x.roHit (roKey k false))
          s.setReq id { out with
            st := .performed, version := c.version, overlay := ov, noFill := true, ok := true, landing := 0,
            after := if p = .ld then behind s k else [],
            data := (c.bytes.zipIdx).map (fun e => (128 * r.line + e.2, e.1)) }
        | none => if p = .ld then sent s { out with overlay := ov } else s.setReq id out
      | .smpl .. | .promote .. | .copyWrite .. => s.setReq id out
      | .store true bytes => sent ((s.modQuad o.q (fun x => x.l1Update k r.line bytes)).overtake o.q k) out
      | kind =>
        let s := if r.again then s else s.wcFlush o (fun e => r.keys.contains (lineKey e.owner.basin e.obj e.line))
        let mine := ((s.quad? o.q).map (fun x => x.wc.any (fun e => e.owner == o && r.keys.contains (lineKey e.owner.basin e.obj e.line)))).getD false
        if mine && !r.again then s
        else
          match kind with
          | .dep .. => ((s.modQuad o.q (fun x => x.l1Drop k)).overtake o.q k).setReq id out
          | .store _ bytes => sent ((s.modQuad o.q (fun x => x.l1Update k r.line bytes)).overtake o.q k) out
          | .valset w =>
            let after := (r.keys.flatMap (behind s)).eraseDups
            let s := if w.write then r.keys.foldl (fun s k => s.overtake o.q k) s else s
            s.setReq id { out with after := after }
          | .descent w => sent (if w.stOfs.isSome then (s.modQuad o.q (fun x => x.l1Drop k)).overtake o.q k else s) out
          | .ldv .. => sent s out
          | _ => sent (s.overtake o.q k) out

/-- The quadrants of a basin that hold groups. -/
def State.quadsOf (s : State) (b : Nat) : List Nat := (s.quads.filter (fun e => e.2.basin == some b)).map (fun e => e.1)

/-- The generation tag that a quadrant's requests carry (R258). -/
def State.tagOf (s : State) (q : Nat) : Word := ((s.quad? q).map (fun x => x.tag)).getD 0#32

/-- Sends the promote requests of an acquire (R131), one to every quadrant of the basin; their numbers. -/
def State.sendPromotes (s : State) (o : Owner) : State × List Nat :=
  (s.quadsOf o.basin).foldl (fun (acc : State × List Nat) q2 =>
    let r := { Req.new o (.promote q2) devHere 0 0 0#32 [] false with st := .sent, sentAt := s.now, tag := s.tagOf o.q }
    (acc.1.addReq r, acc.2 ++ [acc.1.nextId])) (s, [])

/-- Carries the first order of a group on as far as it goes: when its waits are over it promotes, then invalidates
the L1 data region, and the next order follows (R126, R131). At `.sys` it first waits for the host writes that are in the inbound
queue once its read has returned: later than when the acquire issued, which R149 asks for (R133; log 62). -/
def State.stepOrder (s : State) (q slot : Nat) : State :=
  match s.group? q slot with
  | none => s
  | some g =>
    match g.orders with
    | [] => s
    | w :: rest =>
      if !w.waits.isEmpty then s
      else if w.hosts then
        s.modGroup q slot (fun h => { h with orders :=
          { w with waits := (s.inbound.filter (fun x => x.basin == g.basin)).map (fun x => x.id), hosts := false } :: rest })
      else if w.promote then
        let p := s.sendPromotes (g.owner q slot)
        p.1.modGroup q slot (fun h => { h with orders := { w with waits := p.2, promote := false } :: rest })
      else
        let s := if w.inv then s.l1Invalidate q else s
        (s.modGroup q slot (fun h => { h with orders := rest })).over w.id

/-- A promote request that a quadrant has taken up is acknowledged once its entries are (R131). -/
def State.ackPromotes (s : State) : State :=
  s.reqs.foldl (fun s e =>
    if (s.req? e.1).any (fun r => r.kind.isPromote && r.st == .performed && r.holdFor.isEmpty) then
      ({ s with reqs := NMap.erase s.reqs e.1 }).over e.1
    else s) s

/-- One round of what follows by itself: promote acknowledgements, requests that may leave, orders that are met. -/
def State.settle1 (s : State) : State :=
  let s := s.ackPromotes
  let s := s.reqs.foldl (fun s e =>
    match s.req? e.1 with
    | some r => if r.st = .held ∧ r.holdFor = [] then s.depart e.1 r else s
    | none => s) s
  let s := s.quads.foldl (fun s e => s.drainWc e.1) s
  s.quads.foldl (fun s e => e.2.groups.foldl (fun s p => p.2.orders.foldl (fun s _ => s.stepOrder e.1 p.1) s) s) s

/-- The rounds that can follow one another: a promotion sent, acknowledged, and the invalidation. -/
def State.settle (s : State) : State := s.settle1.settle1.settle1.settle1

/-- A request is over and its answer has been used. -/
def State.finish (s : State) (id : Nat) : State :=
  let s := match s.req? id with
    | some r => s.regain r
    | none => s
  (({ s with reqs := NMap.erase s.reqs id }).placed id |>.over id).settle

/-! ### Counted instructions (R99) -/

/-- A destination whose lanes have just been issued. -/
def Dest.new (r : Nat) (m : Mask) : Dest := { reg := r, mask := m, raced := 0#32 }

/-- Removes completed instructions in order: one that is complete waits for every older one of its path. -/
def Group.lower (g : Group) : Group :=
  { g with flights := (g.flights.foldl (fun (acc : List Flight) f =>
      if f.ops = 0 ∧ acc.all (fun e => e.path != f.path) then acc else acc ++ [f]) []) }

/-- Counts an instruction on its path; with no operations it is complete at once. -/
def Group.launchFlight (g : Group) (id : Nat) (p : Path) (ops : Nat) (dests : List Dest) : Group :=
  Group.lower { g with flights := g.flights ++ [{ id := id, path := p, ops := ops, dests := dests }] }

/-- One operation of each of some instructions is complete. -/
def Group.flightDone (g : Group) (ids : List Nat) : Group :=
  (ids.foldl (fun g id => { g with flights := g.flights.map (fun f => if f.id = id then { f with ops := f.ops - 1 } else f) }) g).lower

/-- Results of a request reach registers (R46): register, lane, value. A lane that a later jet has written meanwhile
holds one of the two values. -/
def Group.deliver (g : Group) (ix : Nat) (fid : List Nat) (ws : List (Nat × Nat × Word)) : Group :=
  let regs := (ws.map (fun w => w.1)).eraseDups
  let raced (r : Nat) : Mask := g.flights.foldl (fun a f => if fid.contains f.id then
    f.dests.foldl (fun a d => if d.reg = r then a ||| d.raced else a) a else a) 0#32
  let mask (r : Nat) : Mask := maskOf (fun l => ws.any (fun w => w.1 == r && w.2.1 == l))
  let g := g.landAll ix (fid.headD 0) (regs.map (fun r =>
    ({ reg := r, mask := mask r, raced := raced r },
     lanesOf (fun l => ((ws.find? (fun w => w.1 == r && w.2.1 == l)).map (fun w => w.2.2)).getD 0#32))))
  { g with flights := g.flights.map (fun f => if fid.contains f.id then
      { f with dests := f.dests.map (fun d => if regs.contains d.reg then { d with mask := d.mask &&& ~~~(mask d.reg) } else d) } else f) }

/-! ### Error records (R263, R264) -/

/-- Writes a held record into its queue (R264, R269): a full queue loses it. -/
def State.writeErr (s : State) (e : ErrRec) : State :=
  let put (w : Window) : Window × Option (DWord × Nat) :=
    if (w.eqtail - w.eqhead).toNat ≥ 2 ^ w.eqk then
      ({ w with eqlost := BitVec.ofNat 32 (w.eqlost.toNat + e.count) }, none)
    else ({ w with eqtail := w.eqtail + 1#32 }, some (w.eqbase, w.eqtail.toNat % 2 ^ w.eqk))
  let bytes := natBytes 32 (e.stamp * 2 ^ 192 + e.count * 2 ^ 160 + e.cause * 2 ^ 152 + e.basin * 2 ^ 144 + e.src * 2 ^ 136
    + e.addr.toNat * 2 ^ 64 + e.info.toNat * 2 ^ 32 + e.ext)
  let send (s : State) (x : Option (DWord × Nat)) : State :=
    match x with
    | some (base, i) =>
      { s with outbox := s.outbox ++ [.hostWrite (base + BitVec.ofNat 64 (32 * i)) bytes, .msix (if e.queue = 16 then 0 else e.queue + 1) 0] }
    | none => s
  if e.queue = 16 then
    let r := put s.pf
    send { s with pf := r.1 } r.2
  else if (s.basin e.queue).phase = .free ∨ (s.basin e.queue).phase = .created then s
  else
    let r := put (s.basin e.queue).win
    send (s.modBasin e.queue (fun b => { b with win := r.1 })) r.2

/-- Whether two records merge (R264). -/
def ErrRec.merges (a b : ErrRec) : Bool :=
  a.queue == b.queue && a.cause == b.cause && a.basin == b.basin && a.info == b.info && a.addr.extractLsb' 16 48 == b.addr.extractLsb' 16 48
    && decide (b.stamp < a.first + 2 ^ 20)

/-- Logs a record for one queue. -/
def State.logErr1 (s : State) (e : ErrRec) : State :=
  if e.cause = 0x24 then s.writeErr e
  else if s.errHeld.any (fun h => h.merges e) then
    { s with errHeld := s.errHeld.map (fun h => if h.merges e then { h with count := h.count + e.count } else h) }
  else
    let mine := s.errHeld.filter (fun h => h.queue == e.queue)
    let s := if mine.length < 16 then s else
      match mine with
      | h :: _ => ({ s with errHeld := s.errHeld.erase h }).writeErr h
      | [] => s
    { s with errHeld := s.errHeld ++ [e] }

/-- Logs an error record for the basin's supervisor and for the hypervisor (R264). -/
def State.logErr (s : State) (cause basin src : Nat) (addr : DWord) (info : Word) (ext : Nat) : State :=
  let e (q : Nat) : ErrRec :=
    { queue := q, stamp := s.custCycle, count := 1, cause := cause, basin := basin, src := src, addr := addr, info := info,
      ext := ext, first := s.custCycle }
  (s.logErr1 (e basin)).logErr1 (e 16)

/-! ### Notices (R244, R246) -/

/-- A notice of an asynchronous cause for the lanes of a request. -/
def noticeOf (code : Nat) (s58 s59 : Word) (em : Mask) (caps : List (Nat × DWord)) (kind : Word) (byHandler : Bool) : Notice :=
  let cap (l : Nat) : DWord := ((caps.find? (fun e => e.1 == l)).map (fun e => e.2)).getD 0#64
  { code := code, s58 := s58, s59 := s59, em := em,
    v120 := lanesOf (fun l => if em.getLsbD l then (cap l).setWidth 32 else 0#32),
    v121 := lanesOf (fun l => if em.getLsbD l then (cap l).extractLsb' 32 32 else 0#32),
    v122 := lanesOf (fun l => if em.getLsbD l then kind else 0#32), byHandler := byHandler, job := none }

/-- Queues a notice in the group that owns a request (R246). -/
def State.notify (s : State) (o : Owner) (n : Notice) : State :=
  s.modOwner o (fun g => if g.retired then g else { g with notices := g.notices ++ [n] })

def sizeCode (n : Nat) : Nat := if n = 1 then 0 else if n = 2 then 1 else if n = 4 then 2 else if n = 8 then 3 else if n = 16 then 4 else 0

/-- The kind and size that `v122` reports for a request (R245). -/
def ReqKind.v122 (k : ReqKind) (remote : Bool) : Word :=
  match k with
  | .load p n _ _ _ _ _ => v122Of remote (sizeCode n) (if p = .cst then kindConst else kindLoad)
  | .smpl .. => v122Of remote 2 kindSampler
  | .store .. | .merge .. => v122Of remote 2 kindStore
  | .copyWrite .. => v122Of remote 0 kindCopyWrite
  | .atom _ ty d _ => v122Of remote (if ty = .s64 then 3 else 2) (if d.isSome then kindAtomResult else kindAtomNone)
  | .signal .. => v122Of remote 2 kindAtomNone
  | .casv w _ _ _ => v122Of remote (if w then 3 else 2) kindVersioned
  | .ldv n _ _ _ => v122Of remote (sizeCode n) kindVersioned
  | .dep .. => v122Of remote 2 kindDeposit
  | .descent w => v122Of remote (if w.wide then 3 else 2) (if w.stOfs.isSome then kindDscWrite else kindDscRead)
  | .valset w => v122Of remote (if w.wide then 3 else 2) kindVersioned
  | .promote _ | .fetch => 0#32
  | .probe kind _ => v122Of remote 0 kind

/-- The lanes of a request and their offsets; a request without lanes counts as lane 0 (R406). A `VALSET` makes one
request for each of its lines (R175): the lanes are those on the line it stands at. -/
def Req.laneOfs (r : Req) : List (Nat × Nat) :=
  match r.kind with
  | .load _ _ _ ls _ _ _ => ls
  | .ldv _ _ _ ls => ls
  | .smpl _ _ _ ls => ls.map (fun e => (e.1, ((r.accs.find? (fun a => a.1 == e.1)).map (fun a => a.2.1)).getD e.2.1))
  | .atom _ _ _ es | .casv _ _ _ es | .dep _ _ es => es.map (fun e => (e.lane, e.ofs))
  | .valset w => (w.elems.filter (fun e => e.ofs / 2 ^ 40 == r.obj && e.ofs % 2 ^ 40 / 128 == r.line)).map (fun e => (e.lane, e.ofs))
  | .descent w => [(w.lane, w.ofs)]
  | .signal _ _ ofs => [(0, ofs)]
  | .store _ bs | .merge bs | .copyWrite bs =>
    let first := (bs.head?.map (fun b => b.1)).getD (128 * r.line)
    if !r.accs.isEmpty then r.accs.map (fun a => (a.1, a.2.1))
    else if r.lanes = 0#32 then [(0, first)] else (maskLanes r.lanes).map (fun l => (l, first))
  | .promote _ => []
  | .fetch => [(0, 128 * r.line)]
  | .probe _ ofs => [(0, ofs)]

def Req.mask (r : Req) : Mask := maskOf (fun l => r.laneOfs.any (fun e => e.1 == l))

/-- The capabilities of a request's lanes (R244). -/
def Req.caps (r : Req) : List (Nat × DWord) :=
  r.laneOfs.map (fun e => (e.1, match r.kind with
    | .valset _ => mkCap r.dev (e.2 / 2 ^ 40) (e.2 % 2 ^ 40)
    | _ => mkCap r.dev r.obj e.2))

/-- The kind and size of one lane's access (R245). -/
def Req.v122At (r : Req) (remote : Bool) (l : Nat) : Word :=
  match r.kind, r.accs.find? (fun a => a.1 == l) with
  | .store .., some a | .merge .., some a => v122Of remote (sizeCode a.2.2) kindStore
  | k, _ => k.v122 remote

/-- A notice about a request, each lane with its own kind and size (R244, R245). -/
def Req.notice (r : Req) (code : Nat) (s58 s59 : Word) : Notice :=
  let n := noticeOf code s58 s59 r.mask r.caps 0#32 r.byHandler
  { n with v122 := lanesOf (fun l => if r.mask.getLsbD l then r.v122At (r.dev != devHere) l else 0#32) }

/-- The data-error notice of a request (R244, R262, R242, R272). -/
def Req.dataError (r : Req) (reason : Nat) : Notice := r.notice 0x0A (BitVec.ofNat 32 reason) 0#32

/-! ### What stands at a line's home (R102, R108, R176, R231, R262) -/

/-- What a request meets at its home slice. -/
inductive Home where
  | wait
  | absent
  | bad (reason : Nat)
  | ok
  deriving DecidableEq, Repr

/-- Whether an object of a basin is there for requests that have passed their checks: until its destruction is over (R237). -/
def State.objHere (s : State) (b obj : Nat) : Bool := NMap.has (s.basin b).objs obj || (s.basin b).dying.contains obj

/-- Whether a line of an object lies in an absent extent that a request parks on: during its object's destruction a request is
refused there at once (R237, R239). -/
def State.lineAbsent (s : State) (b obj line : Nat) : Bool :=
  NMap.has (s.basin b).objs obj && !(s.extent (extKey b obj (line / 512))).v

/-- The engine slot of a quadrant (R10): the slot's cluster and index. -/
def slotOf (q : Nat) : Nat := 4 * (q / 16) + q % 4

/-- Whether a halt has been asked for in a slot: its quarters take up nothing new (R257). -/
def State.slotStops (s : State) (qs : Nat) : Bool := s.quads.any (fun e => slotOf e.1 == qs && e.2.halted)

/-- The accesses from outside the quadrants that have met an absent extent (R239). -/
def State.parks (s : State) : List Parked :=
  s.inbound.filterMap (fun h => h.park) ++ s.hostReads.map (fun h => h.park) ++ s.peerIn.filterMap (fun r => r.park)

/-- Whether something stands behind a number in a line's order, at any remove. `n` bounds the length of the chain. -/
def State.follows (s : State) (id : Nat) : Nat → Nat → Bool
  | 0, _ => false
  | n + 1, x =>
    let before : List Nat := ((s.req? x).map (fun r => r.after)).getD []
      ++ ((s.engines.flatMap (fun e => e.2.copies)).filter (fun c => c.id == x)).flatMap (fun c => c.after)
      ++ (s.parks.filter (fun p => p.id == x)).flatMap (fun p => p.after)
    before.any (fun y => y == id || s.follows id n y)

/-- The accesses that have taken a place in a line's order at the release from their park list and have still to perform (R241): numbers. A
copy that a halt stops gives its place up. -/
def State.freedAt (s : State) (k : Nat) : List Nat :=
  s.reqIds (fun r => r.st == .sent && r.freed.contains k)
    ++ (s.engines.flatMap (fun e => e.2.copies.filter (fun c => c.freed.contains k
        && !s.slotStops (slotOf c.owner.q) && !(s.ownerGroup? c.owner).any (fun g => g.halted)))).map (fun c => c.id)
    ++ (s.parks.filter (fun p => p.freed && p.keys.contains k)).map (fun p => p.id)

/-- Whether one of those goes before an access on the line that has no such place; those among themselves stand in park order (R241). -/
def State.freedAhead (s : State) (id k : Nat) : Bool :=
  let ids := s.freedAt k
  !ids.contains id && ids.any (fun x => !s.follows id s.nextId x)

/-- What a request on one line meets. `write`: it is of the write class. `full`: it writes all 128 bytes. `fills`: it
would fill the line. `id` is the identity that may pass a collapse. -/
def State.homeMeets (s : State) (id b obj line die : Nat) (write full fills : Bool) : Home :=
  let e := s.extent (extKey b obj (line / 512))
  let l := s.line (lineKey b obj line)
  if !s.objHere b obj then .bad 2
  else if !e.v then (if s.lineAbsent b obj line then .absent else .bad 2)
  else if e.first.isSome && e.first != some id then .wait
  else if s.freedAhead id (lineKey b obj line) then .wait
  else if write && !e.reps.isEmpty then .wait
  else if e.pz then .bad 4
  else if write && (l.pin.isSome || !l.pend.isEmpty) then .wait
  else if !write && fills && (l.res &&& dieBit die) == 0#4 && !l.pend.isEmpty then .wait
  else if l.poisoned && !(write && full) then .bad 1
  else .ok

/-- Writes bytes of an object, keyed by their offset. -/
def State.putBytes (s : State) (b obj : Nat) (bytes : NMap Byte) : State :=
  { s with mem := bytes.foldl (fun m (e : Nat × Byte) => memSet m (memKey b obj e.1) e.2) s.mem }

/-- A write-class request performs on one line (R102, R166, R167, R262): its bytes, the version raised, dirty at its
home. -/
def State.performInc (s : State) (b obj line die inc : Nat) (bytes : NMap Byte) : State :=
  let k := lineKey b obj line
  let l := s.line k
  (s.putBytes b obj bytes).setLine k { l with
    version := l.version + BitVec.ofNat 32 inc, dirty := true, res := l.res ||| dieBit die,
    poisoned := l.poisoned && bytes.length != 128 }

/-- The same with one increment. -/
def State.performWrite (s : State) (b obj line die : Nat) (bytes : NMap Byte) : State := s.performInc b obj line die 1 bytes

/-- The 128 bytes of a line, keyed by their offset in the object. -/
def State.lineBytes (s : State) (b obj line : Nat) : NMap Byte :=
  (List.range 128).map (fun i => (128 * line + i, s.readByte (memKey b obj (128 * line + i))))

/-- The error record that an access to a poisoned line leaves (R262): cause 0x22, from the home slice if it holds the line, else
from the memory side, naming the address and its extent. -/
def State.homeError (s : State) (b obj ofs reason : Nat) : State :=
  let e := s.extent (extKey b obj (ofs / 65536))
  let src := if (s.line (lineKey b obj (ofs / 128))).res = 0#4 then 2 else 1
  if reason = 1 then s.logErr 0x22 b src (mkCap devHere obj ofs) 0#32 (e.chan * 65536 + e.idx) else s

/-- Removes a request's pins from its lines. -/
def State.unpin (s : State) (id : Nat) (ks : List Nat) : State :=
  ks.foldl (fun s k => if (s.line k).pin = some id then s.setLine k { s.line k with pin := none } else s) s

/-- A request is answered with an error (R262, R272); a `VALSET` holds no pin from then on. -/
def State.failReq (s : State) (id : Nat) (r : Req) (reason : Nat) : State :=
  let s := match r.kind with
    | .valset w => s.unpin id (w.pins.map (fun (p : Nat × Word) => p.1))
    | _ => s
  (s.homeError r.owner.basin r.obj ((r.laneOfs.head?.map (fun (e : Nat × Nat) => e.2)).getD (128 * r.line)) reason).placed id
    |>.setReq id { r with st := .performed, err := some reason, after := [] }

/-- An error in place of a peer's answer leaves a record (R272). -/
def State.peerError (s : State) (r : Req) : State × Req :=
  let c := ((r.caps.head?).map (fun e => e.2)).getD (mkCap r.dev r.obj (128 * r.line))
  (s.logErr 0x0A r.owner.basin 5 c 0#32 0xFFFFFF, { r with err := some 3 })

/-- The answer of a peer: whether it is an error response is open (R253, R272). -/
def State.peerAnswer (s : State) (r : Req) (peer : Bool) (ix : Nat) : State × Req :=
  if peer && Config.freeBit ix then s.peerError r else (s, r)

end Sys2Proof.Machine
end

