-- ==== Sys2Proof/Machine/Retire.lean ====
section
/-! DEFINITION. Named barriers as data (R151 to R154), the retirement of a group (R32, R304) and the end of a launch by a
trap that no handler can take (R55, R243). -/

namespace Sys2Proof.Machine

/-! ### Barriers -/

/-- What a change of a barrier does to its members: those that go on, and those that trap with a count that differs
from EXP. -/
structure BarOut where
  bar : Barrier
  go : List Nat
  trapped : List Nat
  deriving DecidableEq, Repr

/-- Counts an arrival (R153, "admit"). -/
def Barrier.accept (b : Barrier) (m n : Nat) (sync : Bool) : Barrier :=
  { b with exp := if b.exp = 0 then n else b.exp, arr := b.arr + 1, arrived := b.arrived ++ [m],
           waiting := if sync then b.waiting ++ [m] else b.waiting }

/-- The phase completes (R153): PHASE flips and nobody has arrived; the held list is still to be admitted again. -/
def Barrier.complete (b : Barrier) : Barrier :=
  { b with phase := !b.phase, exp := 0, arr := 0, arrived := [], waiting := [], held := [] }

/-- Admits arrivals in list order (R153), completing phases as they fill. -/
def Barrier.admitAll : Nat → List (Nat × Nat × Bool) → Barrier → List Nat → List Nat → BarOut
  | 0, rest, b, go, tr => { bar := { b with held := b.held ++ rest }, go := go, trapped := tr }
  | _, [], b, go, tr => { bar := b, go := go, trapped := tr }
  | f + 1, (m, n, sy) :: rest, b, go, tr =>
    if b.exp ≠ 0 ∧ n ≠ b.exp then Barrier.admitAll f rest b go (tr ++ [m])
    else if b.arrived.contains m then Barrier.admitAll f rest { b with held := b.held ++ [(m, n, sy)] } go tr
    else
      let b1 := b.accept m n sy
      let go1 := if sy then go else go ++ [m]
      if b1.arr = b1.exp then Barrier.admitAll f (b1.held ++ rest) b1.complete (go1 ++ b1.waiting) tr
      else Barrier.admitAll f rest b1 go1 tr

/-- An arrival (R153): its count has been checked before its release, and only a held one is checked again. -/
def Barrier.arrive (b : Barrier) (m n : Nat) (sync : Bool) : BarOut :=
  if b.arrived.contains m then { bar := { b with held := b.held ++ [(m, n, sync)] }, go := [], trapped := [] }
  else
    let b1 := b.accept m n sync
    let go := if sync then [] else [m]
    if b1.arr = b1.exp then Barrier.admitAll (2 * b.held.length + 64) b1.held b1.complete (go ++ b1.waiting) []
    else { bar := b1, go := go, trapped := [] }

/-- Whether a member stands at the barrier, waiting or held. -/
def Barrier.stands (b : Barrier) (m : Nat) : Bool := b.waiting.contains m || b.held.any (fun e => e.1 == m)

/-- A member that stands at the barrier leaves it: it neither waits nor is held any more, and what it counted stays (R246). -/
def Barrier.leave (b : Barrier) (m : Nat) : Barrier :=
  { b with waiting := b.waiting.filter (· != m), held := b.held.filter (fun e => e.1 != m) }

/-- The number of a group in a barrier's instance: a crew barrier has an id below 16 (R151). -/
def Group.member (g : Group) (id : Nat) : Nat := if id < 16 then g.grp else 16 * g.crew + g.grp

/-- Whether a group belongs to the instance of a barrier of another. -/
def Group.sameInst (a b : Group) (id : Nat) : Bool :=
  a.basin == b.basin && a.launch == b.launch && a.gang == b.gang && (decide (16 ≤ id) || a.crew == b.crew)

/-- The size of an instance (R153). -/
def Group.instSize (g : Group) (id : Nat) : Nat := if id < 16 then g.gpc + 1 else (g.gpc + 1) * (g.cpg + 1)

/-- Every group slot that holds a group, with its place. -/
def State.allGroups (s : State) : List (Nat × Nat × Group) :=
  s.quads.flatMap (fun e => e.2.groups.map (fun p => (e.1, p.1, p.2)))

/-- Every group that holds its slot, those in saved contexts included (R154), with its place. -/
def State.everyGroup (s : State) : List (Nat × Nat × Group) :=
  s.allGroups ++ s.saved.flatMap (fun e => e.2.image.groups.map (fun p => (e.2.quad, p.1, p.2)))

/-- Changes a group wherever it is: at its place, or in a saved context. -/
def State.modAny (s : State) (o : Owner) (f : Group → Group) : State :=
  { s.modOwner o f with saved := s.saved.map (fun (e : Nat × Saved) => if e.2.quad = o.q then
      (e.1, { e.2 with image := { e.2.image with groups := e.2.image.groups.map (fun (p : Nat × Group) =>
        (p.1, if p.1 = o.slot ∧ o.isGroup p.2 = true then f p.2 else p.2)) } }) else e) }

/-- A gang's record in the distributor slice. -/
def GangState.is (x : GangState) (launch : Word) (gang : Nat) : Bool := x.launch == launch && x.gang == gang

def Basin.gang? (b : Basin) (launch : Word) (gang : Nat) : Option GangState := b.gangs.find? (fun x => x.is launch gang)

/-- The barrier of an id for a group (R151). -/
def State.barrier (s : State) (q : Nat) (g : Group) (id : Nat) : Barrier :=
  if id < 16 then
    match (s.quad? q).bind (fun x => x.crewOf? g) with
    | some c => NMap.getD c.bars id Barrier.init
    | none => Barrier.init
  else
    match (s.basin g.basin).gang? g.launch g.gang with
    | some x => NMap.getD x.bars id Barrier.init
    | none => Barrier.init

def State.setBarrier (s : State) (q : Nat) (g : Group) (id : Nat) (b : Barrier) : State :=
  if id < 16 then s.modQuad q (fun x => x.modCrew g (fun c => { c with bars := NMap.set c.bars id b }))
  else s.modBasin g.basin (fun x => { x with gangs := x.gangs.map (fun y =>
    if y.is g.launch g.gang then { y with bars := NMap.set y.bars id b } else y) })

/-- The groups of an instance that a list of members names. -/
def State.members (s : State) (g : Group) (id : Nat) (ms : List Nat) : List (Nat × Nat × Group) :=
  s.everyGroup.filter (fun e => e.2.2.sameInst g id && ms.contains (e.2.2.member id))

/-- A barrier-count trap of a group that stands at its `BAR` (R154): taken where it stands. -/
def barrierNotice (g : Group) (id reason : Nat) : Notice :=
  { code := 0x0E, s58 := BitVec.ofNat 32 id, s59 := BitVec.ofNat 32 reason, em := g.em, v120 := Lanes.zero,
    v121 := Lanes.zero, v122 := Lanes.zero, byHandler := g.handler, job := none }

/-- A group that stands at its `BAR` takes a barrier-count trap there. -/
def Group.barrierFails (id reason : Nat) (h : Group) : Group :=
  if h.retired then h else { h with wait := .none, notices := barrierNotice h id reason :: h.notices }

/-- Applies what a change of a barrier does to its members. -/
def State.barrierOut (s : State) (q : Nat) (g : Group) (id : Nat) (o : BarOut) : State :=
  let s := s.setBarrier q g id o.bar
  let s := (s.members g id o.go).foldl (fun s e => s.modAny (e.2.2.owner e.1 e.2.1) (fun h =>
    match h.wait with
    | .bar _ => { h with wait := .bar true }
    | _ => h)) s
  (s.members g id o.trapped).foldl (fun s e => s.modAny (e.2.2.owner e.1 e.2.1) (Group.barrierFails id 2)) s

/-- Whether a phase can no longer complete (R154, reason 3), the retiring group counted as gone. -/
def State.phaseLost (s : State) (g : Group) (id : Nat) (b : Barrier) : Bool :=
  let left := s.everyGroup.filter (fun e => e.2.2.sameInst g id && !e.2.2.retired && !b.arrived.contains (e.2.2.member id))
  b.exp != 0 && decide (b.arr + left.length < b.exp)

/-- Tests one barrier after a retirement (R154). -/
def State.testBarrier (s : State) (q : Nat) (g : Group) (id : Nat) : State :=
  let b := s.barrier q g id
  if s.phaseLost g id b then
    let ms := b.waiting ++ b.held.map (fun h => h.1)
    let s := s.setBarrier q g id { b with exp := 0, arr := 0, arrived := [], waiting := [], held := [] }
    (s.members g id ms).foldl (fun s e => s.modAny (e.2.2.owner e.1 e.2.1) (Group.barrierFails id 3)) s
  else s

/-! ### Retirement -/

/-- The cycles after the one in which a jet ends until the next jet may start: the gap of throttling (R276). -/
def State.jetGap (s : State) (q : Nat) : Nat := match NMap.getD s.gaps (q / 256) 0 with
  | 0 => 0
  | n + 1 => n + 2

def State.engine (s : State) (qs : Nat) : SlotEng := NMap.getD s.engines qs SlotEng.init
def State.modEngine (s : State) (qs : Nat) (f : SlotEng → SlotEng) : State :=
  { s with engines := NMap.set s.engines qs (f (s.engine qs)) }

/-- A wait whose instruction has taken its effect elsewhere and has still to be finished by a jet (R257, R323). -/
def Wait.pending : Wait → Bool
  | .call | .status _ | .answer _ | .bar true | .gate _ _ true => true
  | _ => false

/-- Whether a migration has told a group to stop: its entries are withdrawn until it goes on (R33, R205). -/
def State.crewStops (s : State) (q slot : Nat) : Bool := (s.group? q slot).any (fun g => g.halted)

/-- A reservation table after entries have left it: the reserve entry is free again when the entry in it has drained (R50). -/
def SlotEng.shrink (x : SlotEng) (t : List MmaReq) : SlotEng :=
  { x with table := t, grant := if x.table.length ≤ 16 ∨ 16 < t.length then x.grant else none }

/-- The banks a group holds, ascending (R203). -/
def State.banksOf (s : State) (q slot : Nat) : List Nat :=
  ((s.engine (slotOf q)).holder.filter (fun e => e.2 == (q, slot))).map (fun e => e.1)

/-- Frees a bank and zeroes it (R203). -/
def SlotEng.freeBank (x : SlotEng) (k : Nat) : SlotEng :=
  { x with holder := NMap.erase x.holder k, acc := x.acc.filter (fun e => e.1 / 512 != k) }

/-- A request or a copy out of every park list. -/
def State.unpark (s : State) (id : Nat) : State :=
  { s with extents := s.extents.map (fun e => if e.2.parked.contains id then (e.1, { e.2 with parked := e.2.parked.filter (· != id) }) else e) }

/-- A read of a group that has retired leaves its park list and counts as complete (R32). -/
def State.dropRead (s : State) (id : Nat) (r : Req) : State :=
  ((s.unpark id).modOwner r.owner (fun g => g.flightDone r.flight)).finish id

/-- The parked reads of a group leave their park lists and count as complete (R32, R242); its other reads stay counted until their
responses arrive. -/
def State.dropParked (s : State) (o : Owner) : State :=
  (s.reqIds (fun r => r.owner == o && !r.kind.writeClass && r.st == .parked)).foldl (fun s id =>
    match s.req? id with
    | none => s
    | some r => s.dropRead id r) s

/-- A copy is over: it leaves the quarter and lowers c.cpy (R200); fences that wait for it go on. -/
def State.copyDone (s : State) (c : CopyJob) : State :=
  ((((s.unpark c.id).modEngine (slotOf c.owner.q) (fun x => { x with copies := x.copies.filter (fun d => d.id != c.id) })).modOwner c.owner
    (fun g => g.flightDone [c.flight])).over c.id).settle

/-- Whether `EXIT` discards a copy: a suspended one, and one whose read is parked (R32, R198). -/
def CopyJob.exitDrops (c : CopyJob) : Bool := c.suspended || (c.parked.map (fun p => p.2)) == some 1

/-- The copies of a group that `EXIT` discards; they count as complete (R32, R198). -/
def State.dropCopies (s : State) (o : Owner) : State :=
  ((s.engine (slotOf o.q)).copies.filter (fun c => c.owner == o && c.exitDrops)).foldl State.copyDone s

/-- The suspended copies of a group whose notice has been taken go on (R198). -/
def State.resumeCopies (s : State) (o : Owner) (g : Group) : State :=
  s.modEngine (slotOf o.q) (fun x => { x with copies := x.copies.map (fun c =>
    if c.owner == o && g.notices.all (fun n => n.job != some c.id) then { c with suspended := false } else c) })

/-- The handler of a group has ended: what it issued is the group's like anything else from then on (R246). -/
def State.handlerOver (s : State) (o : Owner) : State :=
  let s := { s with reqs := s.reqs.map (fun (e : Nat × Req) => if e.2.owner = o then (e.1, { e.2 with byHandler := false }) else e) }
  let s := s.modQuad o.q (fun x => { x with wc := x.wc.map (fun (w : WcEntry) => if w.owner = o then { w with byHandler := false } else w) })
  let s := s.modEngine (slotOf o.q) (fun x => { x with copies := x.copies.map (fun (c : CopyJob) =>
    if c.owner = o then { c with byHandler := false } else c) })
  s.modOwner o (fun g => { g with notices := g.notices.map (fun (n : Notice) => { n with byHandler := false }) })

/-- A group that has retired (R32): it runs no more. -/
def Group.retire (g : Group) : Group :=
  { g with retired := true, jet := none, wait := .none, notices := [], orders := [], relReads := [], stack := [], fwd := [], ret := [],
           frame := none, handler := false, loop := none, score := [], vflights := [] }

/-- Counts a group's retirement in its launch and its gang. -/
def State.countRetired (s : State) (g : Group) : State :=
  s.modBasin g.basin (fun b => { b with
    launches := b.launches.map (fun l => if l.num = g.launch ∧ l.complete = false then { l with retired := l.retired + 1 } else l),
    gangs := b.gangs.map (fun x => if x.is g.launch g.gang then { x with retired := x.retired ++ [16 * g.crew + g.grp] } else x) })

/-- Retires a group (R32, R304): its reads' results will be discarded, its writes go on, what it still held is gone, hazard
entries of descents still in flight apart (R119), and the barriers of its crew and gang are tested. A `YIELD` waits for it no
longer (R404). -/
def State.retireGroup (s : State) (q slot : Nat) : State :=
  match s.group? q slot with
  | none => s
  | some g =>
    let o := g.owner q slot
    let s := s.wcFlush o (fun _ => true)
    let s := (g.orders ++ (g.frame.map (fun f => f.orders)).getD []).foldl (fun s w => s.over w.id) ((s.dropParked o).dropCopies o)
    let s := s.modGroup q slot Group.retire
    let s := s.modQuad q (fun x =>
      { x with issuing := if x.issuing = some slot then none else x.issuing,
               gapLeft := if x.issuing = some slot then s.jetGap q else x.gapLeft,
               groups := x.groups.map (fun (p : Nat × Group) => (p.1, { p.2 with yieldFor := p.2.yieldFor.filter (· != slot) })) })
    let s := s.countRetired g
    (List.range 24).foldl (fun s id => s.testBarrier q g id) s

/-- A push that is over, or has ended, holds no reserve entry that it has not used (R50). -/
def SlotEng.ungrant (x : SlotEng) (q slot : Nat) : SlotEng :=
  if x.grant = some (q, slot) ∧ x.table.length ≤ 16 then { x with grant := none } else x

/-- Frees everything a group holds in its engine quarters: its banks, its waiting requests and its entries (R55). -/
def State.dropEngine (s : State) (q slot : Nat) : State :=
  let s := (s.banksOf q slot).foldl (fun s k => s.modEngine (slotOf q) (fun x => x.freeBank k)) s
  let s := s.modEngine (slotOf q) (fun x => { x.shrink (x.table.filter (fun e => !(e.q == q && e.slot == slot))) with
    acqq := x.acqq.filter (fun e => !(e.1 == q && e.2.1 == slot)),
    pass := x.pass.filter (fun e => !(e.1.q == q && e.1.slot == slot)) }.ungrant q slot)
  s.modGroup q slot (fun g => { g with staging := none })

/-- A saved engine without what a group holds in it: banks, waiting requests, entries, and the copies that `EXIT` discards. -/
def SlotEng.without (x : SlotEng) (o : Owner) : SlotEng :=
  let y := ((x.holder.filter (fun e => e.2 == (o.q, o.slot))).map (fun e => e.1)).foldl SlotEng.freeBank x
  { y.shrink (y.table.filter (fun e => !(e.q == o.q && e.slot == o.slot))) with
    acqq := y.acqq.filter (fun e => !(e.1 == o.q && e.2.1 == o.slot)),
    copies := y.copies.filter (fun c => !(c.owner == o && c.exitDrops)) }.ungrant o.q o.slot

/-- The replay packets of a saved group that end with it: its reads (R32). -/
def State.savedReads (s : State) (o : Owner) : List Nat :=
  s.saved.flatMap (fun e => (e.2.replay.filter (fun p => p.2.owner == o && !p.2.kind.writeClass)).map (fun p => p.1))

/-- Ends a group that is in a saved context (R55): what it still reads is discarded, with its hazards (R119, R121), and what it writes
stays to be drained. -/
def State.retireSaved (s : State) (q slot : Nat) (g : Group) : State :=
  let o := g.owner q slot
  let s := (s.savedReads o).foldl State.over s
  let s := { s with
    saved := s.saved.map (fun (e : Nat × Saved) => if e.1 = g.basin ∧ e.2.quad = q then
      (e.1, { e.2 with
        replay := e.2.replay.filter (fun p => p.2.owner != o || p.2.kind.writeClass),
        image := { e.2.image with banks := e.2.image.banks.map (fun (k : Nat × List BankReq) => (k.1, k.2.filter (fun r => r.slot != slot))) } })
      else e),
    savedEng := s.savedEng.map (fun (e : Nat × SavedEng) => if e.1 = g.basin ∧ e.2.qs = slotOf q then
      (e.1, { e.2 with image := e.2.image.without o }) else e) }
  let left := s.savedEng.any (fun e => e.1 == g.basin && e.2.qs == slotOf q && e.2.image.copies.any (fun c => c.owner == o))
  let keep (f : Flight) : Bool := f.path == .st || (f.path == .cpy && left)
  (s.modAny o (fun h => { h.retire with staging := none, flights := h.flights.filter keep })).countRetired g

/-- A trap that no handler can take ends the launch (R55, R243): its groups are halted, those in saved contexts too, their writes
drain, their banks are free, they retire, and the record names the cause. -/
def State.killLaunch (s : State) (b : Nat) (launch : Word) (cause inner : Nat) : State :=
  let mine (e : Nat × Nat × Group) : Bool := e.2.2.basin == b && e.2.2.launch == launch && !e.2.2.retired
  let live := s.allGroups.filter mine
  let away := (s.everyGroup.drop s.allGroups.length).filter mine
  let s := s.modBasin b (fun x => { x with
    launches := x.launches.map (fun l => if l.num = launch ∧ l.complete = false then { l with killed := true } else l) })
  let s := live.foldl (fun s e => if (s.group? e.1 e.2.1).any (fun g => g.basin == b && g.launch == launch) then
    (s.dropEngine e.1 e.2.1).retireGroup e.1 e.2.1 else s) s
  let s := away.foldl (fun s e => s.retireSaved e.1 e.2.1 e.2.2) s
  s.logErr cause b 0 0#64 (BitVec.ofNat 32 inner) 0xFFFFFF

end Sys2Proof.Machine
end

