-- ==== Sys2Proof/Machine/Traps.lean ====
section
/-! DEFINITION. Taking a trap and returning from one (R53 to R55, R243 to R246), and the scaffold that runs one
instruction of the current group. -/

namespace Sys2Proof.Machine

/-! ### Trap entry and return -/

/-- Whether a first word is that of `LDU` (R347). -/
def isLduWord (f : W1) : Bool := f.s && f.x && f.op == 0x0A#6

/-- The lane 0 values of a synchronous trap of `LDU` whose cause sets none (R348): the capability of SELA where it names a pair, with the
access offset of the index and OFS as they stand in the words (R244), KIND 1, the size that the extension word names, and whether the
object is a peer's (R245). -/
def lduFrame (words : Word × Word) (g : Group) : DWord × Word :=
  let w1 := W1.ofWord words.1
  let a := w1.a.toNat
  let size := words.2.toNat / 2 ^ 29
  let c := g.getSPair a
  let idx : Int := match decUSel w1.b with
    | .ok u => (uAt g u).toInt
    | .error _ => 0
  let pair := decide (a < 0x40) && a % 2 == 0
  (if pair then capAt c ((capOfs c : Int) + idx + (words.2.extractLsb' 0 20).toInt) else 0#64,
   v122Of (pair && capDev c != devHere) (if size = 2 ∨ size = 3 then size else 0) kindLoad)

/-- A trap of an instruction with the general values of R244 filled in: the first word in `s58`, the extension word in
`s59` for cause 0x01 and 0 otherwise, the group's `em`. Every synchronous trap of `LDU` is lane 0's (R348; DEDUCED, log 86). -/
def Trap.resolve (t : Trap) (words : Word × Word) (g : Group) : Notice :=
  let n : Notice :=
    { code := t.code, s58 := t.s58.getD words.1, s59 := t.s59.getD (if t.code = 0x01 then words.2 else 0#32),
      em := t.em.getD g.em, v120 := t.v120, v121 := t.v121, v122 := t.v122, byHandler := g.handler,
      job := none }
  if isLduWord (W1.ofWord words.1) && t.em.isNone then
    let f := lduFrame words g
    let lane0 (w : Word) : Lanes := lanesOf (fun l => if l = 0 then w else 0#32)
    { n with em := 1#32, v120 := lane0 (f.1.setWidth 32), v121 := lane0 (f.1.extractLsb' 32 32), v122 := lane0 f.2 }
  else n

/-- The frame that trap entry saves (R53). -/
def Group.saveFrame (g : Group) (since : Nat) : Frame :=
  { v := if g.vgran = 15 then (List.range 8).map (fun i => (120 + i, g.getV (120 + i))) else [],
    s := (List.range 8).map (fun i => (56 + i, g.getS (56 + i))),
    p := (List.range 7).map (fun i => (i, g.getP i)),
    em := g.em, part := g.part, top := g.stack.head?, depth := g.stack.length, orders := [], relReads := [], since := since }

/-- Trap entry's register writes (R53, R54 step 3, R244, R245): `v120:v121` and `v122` in the listed lanes, 0 in
`v123` to `v127`, the cause registers, the handler flag, and fetch at the handler. A fence the group stood in runs again
after the handler (R313), so its orders are dropped. -/
def Group.enterHandler (g : Group) (n : Notice) (s57 entry since : Nat) : Group :=
  let f := g.saveFrame since
  let g := { g with em := n.em, handler := true, frame := some f, pc := entry, jet := none, wait := .none,
                    orders := match g.wait with
                      | .stage _ => []
                      | _ => g.orders }
  let g := (((g.setS 56 (BitVec.ofNat 32 n.code)).setS 57 (BitVec.ofNat 32 s57)).setS 58 n.s58).setS 59 n.s59
  let g := ((g.setV 120 n.v120).setV 121 n.v121).setV 122 n.v122
  (List.range 5).foldl (fun h i => h.setV (123 + i) Lanes.zero) g

/-- Whether a number stands still while a group's handler runs: a suspended or parked copy, a parked request that is not the handler's
own, or a request behind one (R198, R239). `n` bounds the length of the chain. -/
def State.standsStill (s : State) (o : Owner) (since : Nat) : Nat → Nat → Bool
  | 0, _ => false
  | n + 1, id =>
    (match s.req? id with
      | some r => (r.st == .parked && !(r.owner == o && decide (since ≤ id)))
          || (r.st != .performed && (r.holdFor ++ r.after).any (s.standsStill o since n))
      | none => false)
    || (s.engine (slotOf o.q)).copies.any (fun c => c.id == id && (c.suspended || c.parked.isSome))

/-- The orders of the interrupted program that wait for something which stands still, and those behind them. -/
def Group.lateOrders (g : Group) (since : Nat) (still : Nat → Bool) : List Order :=
  (g.orders.filter (fun w => decide (w.id < since))).dropWhile (fun w => !w.waits.any still)

/-- Puts such orders aside in the frame, and the reads of a release that stand still: they bind the group again after `TRAPRET`, when what
they wait for goes on (R127, R198, R239; DEDUCED, log 95). -/
def Group.shelve (g : Group) (f : Frame) (still : Nat → Bool) : Group :=
  let late := g.lateOrders f.since still
  { g with orders := g.orders.filter (fun w => !late.contains w), relReads := g.relReads.filter (fun i => !still i),
           frame := some { f with orders := f.orders ++ late, relReads := f.relReads ++ g.relReads.filter still } }

/-- What a handler has issued waits for some numbers no longer. -/
def State.handlerWithout (s : State) (o : Owner) (since : Nat) (ids : List Nat) : State :=
  let drop (l : List Nat) : List Nat := l.filter (fun i => !ids.contains i)
  { s with
    reqs := s.reqs.map (fun e => if e.2.owner = o ∧ since ≤ e.1 then (e.1, { e.2 with holdFor := drop e.2.holdFor }) else e),
    quads := s.quads.map (fun (e : Nat × Quad) => if e.1 = o.q then (e.1, { e.2 with banks := e.2.banks.map (fun (b : Nat × List BankReq) =>
      (b.1, bankAfter b.2 (fun r => if r.slot = o.slot ∧ since ≤ r.id then r.without ids else r))) }) else e),
    engines := s.engines.map (fun (e : Nat × SlotEng) => (e.1, { e.2 with copies := e.2.copies.map (fun c =>
      if c.owner = o ∧ since ≤ c.id then { c with after := drop c.after } else c) })) }

/-- A group in its handler is not bound by what stands still: at trap entry, and whenever something of the interrupted program comes to
stand still (R239). -/
def State.shelve (s : State) (o : Owner) : State :=
  match s.ownerGroup? o with
  | none => s
  | some g =>
    match g.frame with
    | none => s
    | some f =>
      let still := s.standsStill o f.since s.nextId
      let late := (g.lateOrders f.since still).map (fun w => w.id) ++ g.relReads.filter still
      (s.setGroup o.q o.slot (g.shelve f still)).handlerWithout o f.since late

/-- `TRAPRET`'s effect (R54 step 5, R397): the frame is restored, `s57` excepted, the rejoin depth and top entry are
set back, the flag is cleared, and a new jet starts at `s57`. -/
def Group.leaveHandler (g : Group) : Group :=
  let g := g.leaveJet
  match g.frame with
  | none => { g with handler := false, pc := (g.getS 57).toNat, jet := none, wait := .none }
  | some f =>
    let s57 := g.getS 57
    let g := f.v.foldl (fun h e => h.setV e.1 e.2) g
    let g := f.s.foldl (fun h e => h.setS e.1 e.2) g
    let g := f.p.foldl (fun h e => h.setP e.1 e.2) g
    let g := g.setS 57 s57
    let st := g.stack.drop (g.stack.length - f.depth)
    let st := match f.top with
      | some e => e :: st.drop 1
      | none => st
    { g with em := f.em, part := f.part, stack := st, handler := false, frame := none, pc := s57.toNat, jet := none,
             wait := .none, orders := f.orders ++ g.orders, relReads := f.relReads ++ g.relReads }

/-- The end of a jet in a quadrant: the gap of throttling follows it (R276). -/
def State.endIssue (s : State) (q : Nat) : State := s.modQuad q (fun x => { x with issuing := none, gapLeft := s.jetGap q })

/-- The state of a quadrant, or of one that holds nothing. -/
def State.quadOf (s : State) (q : Nat) : Quad := (s.quad? q).getD Quad.init

/-- Takes a resolved trap in a group (R54, R55, R243): into the handler, or, with the handler flag set or no handler
registered, the end of the group's launch with cause 0x80 or 0x81 and the trap's cause in the record. -/
def State.takeNotice (s : State) (q slot : Nat) (n : Notice) (s57 : Nat) : State :=
  match s.group? q slot with
  | none => s
  | some g =>
    let cut : Bool := (s.quad? q).any (fun x => x.issuing == some slot)
    let g := { g.endJet with waitSince := if cut then (s.quadOf q).cycle else g.waitSince }
    let s := (if cut then s.endIssue q else s).setGroup q slot g
    if g.handler then s.killLaunch g.basin g.launch 0x80 n.code
    else
      match (s.basin g.basin).handler with
      | some h => (s.setGroup q slot (g.enterHandler n s57 (capOfs h) s.nextId)).shelve (g.owner q slot)
      | none => s.killLaunch g.basin g.launch 0x81 n.code

/-- A trap raised by an instruction (R54 step 1): the earlier instructions of the jet write back, the trapping
instruction has no effect. -/
def State.takeTrap (s : State) (q slot : Nat) (words : Word × Word) (len : Nat) (t : Trap) : State :=
  match s.group? q slot with
  | none => s
  | some g => s.takeNotice q slot (t.resolve words g) (if t.after then g.pc + len else g.pc)

/-- The notice that is taken next: outside a handler the oldest, inside one the oldest that the handler caused. -/
def Group.nextNotice (g : Group) : Option Notice :=
  if g.handler then g.notices.find? (fun n => n.byHandler) else g.notices.head?

/-! ### Running one instruction -/

/-- What the body of an instruction answers: an effect, its latch, and the next pc where it is not the following
word; a wait before the jet, with the instruction's side of the work done; a trap; a state in which nothing more is to
be advanced; or a stall, in which an instruction of the engines waits at its issue (R392) and a cycle passes. -/
inductive Res where
  | next (s : State) (l : Latch) (pc : Option Nat)
  | wait (s : State) (w : Wait)
  | trap (t : Trap)
  | final (s : State)
  | stall

/-- The group after an instruction that issued: pc, position and latches (R43, R44, R57). -/
def Group.advance (g : Group) (l : Latch) (pc : Nat) : Group :=
  let j := g.jetOr
  { g with pc := pc, wait := .none, jet := some { j with pos := j.pos + 1, latches := l :: j.latches } }

/-- The group at the boundary before a jet whose first instruction waits: the jet has not started (R35, R47). -/
def Group.stand (g old : Group) (w : Wait) : Group :=
  { g.leaveJet with
           wait := w, jetCount := old.jetCount, ageCount := old.ageCount, ageSteps := old.ageSteps,
           yieldFor := old.yieldFor, blockedSince := old.blockedSince }

/-- Whether the group tries its instruction again in the next cycle, so that the try takes this one. -/
def Group.tries (g : Group) (w : Wait) : Bool :=
  match w with
  | .none | .answer _ | .status _ => true
  | .stage _ => g.orders.isEmpty
  | _ => false

/-- Frees the issue slot of a quadrant whose group waits before its jet (R35): an instruction that only found out that it must wait has
issued nothing, and another jet may start in the cycle. -/
def State.freeIssue (s : State) (q : Nat) (again : Bool) : State :=
  s.modQuad q (fun x => { x with issuing := none, issued := if again then x.issued else none })

/-- The body of an instruction: state, quadrant, slot and group, the jet being open. -/
abbrev Body := State → Nat → Nat → Group → Res

/-- The trap of a catch-up instruction that is not first, where its entry leaves that check to the last: what its body finds for
0x01 and 0x02 goes before (R79, R278). -/
def Res.orOverrun (r : Res) (t : Trap) : Trap :=
  match r with
  | .trap u => if u.code = 0x01 ∨ u.code = 0x02 then u else t
  | _ => t

/-- Runs an instruction of the current group: the structure of the jet, the body, and the advance or the trap. -/
def runInstr (s : State) (i : Instr) (body : Body) : Out :=
  let q := s.cur.1
  let slot := s.cur.2
  match s.group? q slot with
  | none => .fault .noGroup
  | some g =>
    let g1 := g.opened
    let s1 := s.setGroup q slot g1
    match jetCheck g.jetOr (isCatchUp i) (isTrail i) with
    | some t =>
      let t := if overrunLast i && t == Trap.own 0x03 1 0 then (body s1 q slot g1).orOverrun t else t
      .next (s1.takeTrap q slot (instrWords i) (instrLen i) t)
    | none =>
      match body s1 q slot g1 with
      | .trap t => .next ({ s1 with freeIx := s1.freeIx + 1 }.takeTrap q slot (instrWords i) (instrLen i) t)
      | .stall => .next s
      | .wait s2 w => .next ((s2.modGroup q slot (fun h => h.stand g w)).freeIssue q ((s2.group? q slot).any (fun h => h.tries w)))
      | .next s2 l pc => .next (s2.modGroup q slot (fun h => h.advance l (pc.getD (g.pc + instrLen i))))
      | .final s2 => .next s2

/-- A body that changes the group only. -/
def groupBody (f : Group → Except Trap (Group × Latch × Option Nat)) : Body := fun s q slot g =>
  match f g with
  | .error t => .trap t
  | .ok (g', l, pc) => .next (s.setGroup q slot g') l pc

end Sys2Proof.Machine
end

