-- ==== Sys2Proof/Machine/Operands.lean ====
section
/-! DEFINITION. Operands: what each selector delivers (R60 to R63), which operands raise 0x02 (R41, R44, R48, R62),
the guard (R65), and the bodies shared by the instructions of one shape. -/

namespace Sys2Proof.Machine

/-! ### Selectors -/

/-- The float constants of R61. -/
def fconstWord (k : BitVec 4) : Word :=
  match k.toNat with
  | 0 => 0x00000000#32 | 1 => 0x3F000000#32 | 2 => 0x3F800000#32 | 3 => 0x40000000#32
  | 4 => 0x40800000#32 | 5 => 0xBF000000#32 | 6 => 0xBF800000#32 | 7 => 0xC0000000#32
  | 8 => 0xC0800000#32 | 9 => 0x7F800000#32 | 10 => 0xFF800000#32 | 11 => 0x7F7FFFFF#32
  | 12 => 0x3F3504F3#32 | 13 => 0x3FB8AA3B#32 | 14 => 0x3F317218#32 | _ => 0x40490FDB#32

/-- The latch a selector `b1` to `b8` reaches: the result of the instruction that many positions earlier in the jet
(R44). -/
def Jet.latch (j : Jet) (k : BitVec 3) : Latch := j.latches.getD k.toNat .none

/-- Whether a lane selector can be read: an allocated register, a latch that holds a lane result, a forward-queue
entry (R41, R44, R48). -/
def selOk (g : Group) (x : Sel) : Bool :=
  match x with
  | .v n => g.vOk n.toNat
  | .latch k => match g.jetOr.latch k with
    | .lane _ => true
    | _ => false
  | .fq => !g.fwd.isEmpty
  | _ => true

/-- What a lane selector delivers in a lane (R60). -/
def selAt (g : Group) (x : Sel) (l : Nat) : Word :=
  match x with
  | .v n => g.lane n.toNat l
  | .latch k => match g.jetOr.latch k with
    | .lane v => Lanes.at v l
    | _ => 0#32
  | .fq => g.fwd.headD 0#32
  | .laneid => BitVec.ofNat 32 l
  | .zero => 0#32
  | .tileid => BitVec.ofNat 32 (l / g.tileWidth)
  | .imm b => BitVec.ofNat 32 b.toNat - 16#32
  | .fconst k => fconstWord k
  | .s n => g.getS n.toNat

/-- A selector that names the forward queue consumes its head once, when the instruction issues (R48). -/
def Group.takeFq (g : Group) (sels : List Sel) : Group :=
  if sels.contains .fq then { g with fwd := g.fwd.drop 1 } else g

/-- An even pair named by a lane selector: an even `v` or `s` register (R62); `none` raises 0x02. -/
inductive PairSel where
  | v (n : Nat)
  | s (n : Nat)
  deriving DecidableEq, Repr

def pairSel (g : Group) (x : Sel) : Option PairSel :=
  match x with
  | .v n => if n.toNat % 2 = 0 ∧ g.vOk n.toNat ∧ g.vOk (n.toNat + 1) then some (.v n.toNat) else none
  | .s n => if n.toNat % 2 = 0 then some (.s n.toNat) else none
  | _ => none

/-- A pair's value in a lane. -/
def pairAt (g : Group) (x : PairSel) (l : Nat) : DWord :=
  match x with
  | .v n => g.lane (n + 1) l ++ g.lane n l
  | .s n => g.getSPair n

/-- The even `s` pair that a uniform instruction's SELA names (R62): 0x00 to 0x3E; any other value raises 0x02. -/
def capPair (g : Group) (a : BitVec 8) : Option DWord :=
  if a.toNat < 0x40 ∧ a.toNat % 2 = 0 then some (g.getSPair a.toNat) else none

/-! ### Guards -/

/-- The lanes that take part (R65). -/
def guardMask (g : Group) (x : Guard) : Mask :=
  let p := g.getP x.p.toNat
  g.em &&& (if x.neg then ~~~p else p)

/-! ### Shared bodies -/

/-- Puts a class F result where it goes: the latch, and unless `.nw` a write that lands at the end of the jet; the
flags join at the end of the jet (R44, R45, R185). -/
def Group.pendV (g : Group) (nw : Bool) (d : Nat) (m : Mask) (x : Lanes) (fl : Flags) : Group :=
  let j := g.jetOr
  { g with jet := some { j with pend := if nw then j.pend else j.pend ++ [.v d m x], flags := j.flags ||| fl } }

/-- A class F lane instruction: `f` gives a lane's result and flags from the values of the selectors (R44, R46, R65).
The latch of a lane that takes no part holds the destination's old value. -/
def laneBody (nw : Bool) (d : Nat) (m : Group → Mask) (sels : List Sel)
    (f : Group → Nat → List Word → Word × Flags) : Body :=
  groupBody fun g =>
    if g.vOk d && sels.all (selOk g) then
      let msk := m g
      let r := fun l => f g l (sels.map (fun x => selAt g x l))
      let out := lanesOf (fun l => if msk.getLsbD l then (r l).1 else g.lane d l)
      let fl := flJoin ((maskLanes msk).map (fun l => (r l).2))
      .ok (((g.takeFq sels).pendV nw d msk out fl), .lane out, none)
    else .error Trap.operand

/-- A class F lane instruction without flags. -/
def laneInt (nw : Bool) (d : BitVec 7) (m : Group → Mask) (sels : List Sel) (f : List Word → Word) : Body :=
  laneBody nw d.toNat m sels (fun _ _ xs => (f xs, flNone))

/-- A class F lane instruction that writes a predicate (R59, R44): bit L of the destination in each lane that takes
part; the latch holds 1 or 0. -/
def predBody (nw : Bool) (p : Nat) (m : Group → Mask) (sels : List Sel) (f : List Word → Bool × Flags) : Body :=
  groupBody fun g =>
    if sels.all (selOk g) then
      let msk := m g
      let r := fun l => f (sels.map (fun x => selAt g x l))
      let bits := maskOf (fun l => msk.getLsbD l && (r l).1)
      let out := lanesOf (fun l => if msk.getLsbD l then boolWord (r l).1 else boolWord ((g.getP p).getLsbD l))
      let fl := flJoin ((maskLanes msk).map (fun l => (r l).2))
      let g := g.takeFq sels
      let j := g.jetOr
      let j := { j with pend := if nw then j.pend else j.pend ++ [.p p msk bits], flags := j.flags ||| fl }
      .ok ({ g with jet := some j }, .lane out, none)
    else .error Trap.operand

/-- The lanes of a single-word lane instruction: those in `em` (R67). -/
def emMask (g : Group) : Mask := g.em

/-- A uniform instruction that writes one uniform register (R73). -/
def uniBody (d : BitVec 6) (f : Group → Word) : Body :=
  groupBody fun g => .ok (g.setS d.toNat (f g), .none, none)

/-- First, second and third operand value. -/
def op1 (xs : List Word) : Word := xs.getD 0 0#32
def op2 (xs : List Word) : Word := xs.getD 1 0#32
def op3 (xs : List Word) : Word := xs.getD 2 0#32

end Sys2Proof.Machine
end

