-- ==== Sys2Proof/Machine/Integer.lean ====
section
/-! DEFINITION. The integer instructions: the lane and uniform families of R334, `IMAD` (R337), shifts (R380), logic
(R284, R360, R362, R403), moves (R355, R356), comparisons and selections (R338, R375), bit fields (R286 to R289) and
counts (R295, R368). -/

namespace Sys2Proof.Machine

/-! ### Results -/

/-- Bits [63:32] of the signed 64-bit product (R334). -/
def imulhiS (a b : Word) : Word := (a.signExtend 64 * b.signExtend 64).extractLsb' 32 32

/-- Bits [63:32] of the unsigned 64-bit product (R334). -/
def imulhiN (a b : Word) : Word := (a.setWidth 64 * b.setWidth 64).extractLsb' 32 32

def iminS (a b : Word) : Word := if a.slt b then a else b
def iminN (a b : Word) : Word := if a.ult b then a else b
def imaxS (a b : Word) : Word := if a.slt b then b else a
def imaxN (a b : Word) : Word := if a.ult b then b else a

/-- Shift results (R380); the count is b [7:0]. -/
def shlW (a b : Word) : Word := a <<< (b.setWidth 8).toNat
def shrN (a b : Word) : Word := a >>> (b.setWidth 8).toNat
def shrS (a b : Word) : Word := a.sshiftRight (b.setWidth 8).toNat

/-- An integer clamped to a range (R184, R337). -/
def clampInt (lo hi x : Int) : Int := if x < lo then lo else if hi < x then hi else x

/-- `IMAD`'s three forms (R337). -/
def imadW (form : SatForm) (a b c : Word) : Word :=
  match form with
  | .wrap => a * b + c
  | .satS => BitVec.ofInt 32 (clampInt (-2147483648) 2147483647 (a.toInt * b.toInt + c.toInt))
  | .satN => BitVec.ofNat 32 (min (a.toNat * b.toNat + c.toNat) 4294967295)

/-- Integer comparisons (R338). -/
def icmpW (c : ICmp) (a b : Word) : Bool :=
  match c with
  | .eq => a == b
  | .ne => a != b
  | .ltS => a.slt b
  | .leS => a.sle b
  | .gtS => b.slt a
  | .geS => b.sle a
  | .ltN => a.ult b
  | .leN => a.ule b
  | .gtN => b.ult a
  | .geN => b.ule a

/-- The number of set bits (R368). -/
def popcW (a : Word) : Word := BitVec.ofNat 32 ((List.range 32).filter (fun i => a.getLsbD i)).length

/-- The number of zero bits above the highest set bit (R295). -/
def clzW (a : Word) : Word := BitVec.ofNat 32 (((List.range 32).takeWhile (fun i => !a.getLsbD (31 - i))).length)

/-- `BFE` (R287). -/
def bfeW (signed : Bool) (a pos len : Word) : Word :=
  let x : DWord := if signed then a.signExtend 64 else a.setWidth 64
  let p := min (pos.setWidth 8).toNat 63
  let n := min (len.setWidth 8).toNat 32
  let f := (if signed then x.sshiftRight p else x >>> p).toNat % 2 ^ n
  if signed && decide (0 < n) && f.testBit (n - 1) then BitVec.ofInt 32 ((f : Int) - 2 ^ n) else BitVec.ofNat 32 f

/-- `BFI` (R289). -/
def bfiW (a b : Word) (pos len : Nat) : Word :=
  let p := min pos 32
  let n := min len (32 - p)
  let mask : Word := BitVec.ofNat 32 ((2 ^ n - 1) * 2 ^ p)
  (b &&& ~~~mask) ||| ((a <<< p) &&& mask)

/-! ### Lane instructions -/

/-- Lane `IADD` (R334). -/
def execIaddLane (nw : Bool) (d : BitVec 7) (a b : Sel) (s : State) : Out :=
  runInstr s (.iaddLane nw d a b) (laneInt nw d emMask [a, b] (fun xs => op1 xs + op2 xs))

/-- Lane `ISUB` (R334). -/
def execIsubLane (nw : Bool) (d : BitVec 7) (a b : Sel) (s : State) : Out :=
  runInstr s (.isubLane nw d a b) (laneInt nw d emMask [a, b] (fun xs => op1 xs - op2 xs))

/-- Lane `IMUL` (R334). -/
def execImulLane (nw : Bool) (d : BitVec 7) (a b : Sel) (s : State) : Out :=
  runInstr s (.imulLane nw d a b) (laneInt nw d emMask [a, b] (fun xs => op1 xs * op2 xs))

/-- `IMULHI.s32` (R334). -/
def execImulhiS32 (nw : Bool) (d : BitVec 7) (a b : Sel) (s : State) : Out :=
  runInstr s (.imulhiS32 nw d a b) (laneInt nw d emMask [a, b] (fun xs => imulhiS (op1 xs) (op2 xs)))

/-- `IMULHI.n32` (R334). -/
def execImulhiN32 (nw : Bool) (d : BitVec 7) (a b : Sel) (s : State) : Out :=
  runInstr s (.imulhiN32 nw d a b) (laneInt nw d emMask [a, b] (fun xs => imulhiN (op1 xs) (op2 xs)))

/-- Lane `IMIN.s32` (R334). -/
def execIminS32Lane (nw : Bool) (d : BitVec 7) (a b : Sel) (s : State) : Out :=
  runInstr s (.iminS32Lane nw d a b) (laneInt nw d emMask [a, b] (fun xs => iminS (op1 xs) (op2 xs)))

/-- `IMIN.n32` (R334). -/
def execIminN32 (nw : Bool) (d : BitVec 7) (a b : Sel) (s : State) : Out :=
  runInstr s (.iminN32 nw d a b) (laneInt nw d emMask [a, b] (fun xs => iminN (op1 xs) (op2 xs)))

/-- Lane `IMAX.s32` (R334). -/
def execImaxS32Lane (nw : Bool) (d : BitVec 7) (a b : Sel) (s : State) : Out :=
  runInstr s (.imaxS32Lane nw d a b) (laneInt nw d emMask [a, b] (fun xs => imaxS (op1 xs) (op2 xs)))

/-- `IMAX.n32` (R334). -/
def execImaxN32 (nw : Bool) (d : BitVec 7) (a b : Sel) (s : State) : Out :=
  runInstr s (.imaxN32 nw d a b) (laneInt nw d emMask [a, b] (fun xs => imaxN (op1 xs) (op2 xs)))

/-- Lane `AND` (R284). -/
def execAndLane (nw : Bool) (d : BitVec 7) (a b : Sel) (s : State) : Out :=
  runInstr s (.andLane nw d a b) (laneInt nw d emMask [a, b] (fun xs => op1 xs &&& op2 xs))

/-- Lane `OR` (R362). -/
def execOrLane (nw : Bool) (d : BitVec 7) (a b : Sel) (s : State) : Out :=
  runInstr s (.orLane nw d a b) (laneInt nw d emMask [a, b] (fun xs => op1 xs ||| op2 xs))

/-- Lane `XOR` (R403). -/
def execXorLane (nw : Bool) (d : BitVec 7) (a b : Sel) (s : State) : Out :=
  runInstr s (.xorLane nw d a b) (laneInt nw d emMask [a, b] (fun xs => op1 xs ^^^ op2 xs))

/-- Lane `SHL` (R380). -/
def execShlLane (nw : Bool) (d : BitVec 7) (a b : Sel) (s : State) : Out :=
  runInstr s (.shlLane nw d a b) (laneInt nw d emMask [a, b] (fun xs => shlW (op1 xs) (op2 xs)))

/-- Lane `SHR.n32` (R380). -/
def execShrN32Lane (nw : Bool) (d : BitVec 7) (a b : Sel) (s : State) : Out :=
  runInstr s (.shrN32Lane nw d a b) (laneInt nw d emMask [a, b] (fun xs => shrN (op1 xs) (op2 xs)))

/-- Lane `SHR.s32` (R380). -/
def execShrS32Lane (nw : Bool) (d : BitVec 7) (a b : Sel) (s : State) : Out :=
  runInstr s (.shrS32Lane nw d a b) (laneInt nw d emMask [a, b] (fun xs => shrS (op1 xs) (op2 xs)))

/-- Lane `MOV` (R355). -/
def execMovLane (nw : Bool) (d : BitVec 7) (a : Sel) (s : State) : Out :=
  runInstr s (.movLane nw d a) (laneInt nw d emMask [a] (fun xs => op1 xs))

/-- `NOT` (R360). -/
def execNotLane (nw : Bool) (d : BitVec 7) (a : Sel) (s : State) : Out :=
  runInstr s (.notLane nw d a) (laneInt nw d emMask [a] (fun xs => ~~~(op1 xs)))

/-- `POPC` (R368). -/
def execPopc (nw : Bool) (d : BitVec 7) (a : Sel) (s : State) : Out :=
  runInstr s (.popc nw d a) (laneInt nw d emMask [a] (fun xs => popcW (op1 xs)))

/-- `CLZ` (R295). -/
def execClz (nw : Bool) (d : BitVec 7) (a : Sel) (s : State) : Out :=
  runInstr s (.clz nw d a) (laneInt nw d emMask [a] (fun xs => clzW (op1 xs)))

/-- Lane `MOVI` (R68, R356). -/
def execMoviLane (nw : Bool) (d : BitVec 7) (imm : Word) (s : State) : Out :=
  runInstr s (.moviLane nw d imm) (laneInt nw d emMask [] (fun _ => imm))

/-- `IMAD` (R337). -/
def execImad (nw : Bool) (g : Guard) (d : BitVec 7) (a b c : Sel) (form : SatForm) (s : State) : Out :=
  runInstr s (.imad nw g d a b c form)
    (laneInt nw d (fun x => guardMask x g) [a, b, c] (fun xs => imadW form (op1 xs) (op2 xs) (op3 xs)))

/-- Lane `ISETP` (R338). -/
def execIsetpLane (nw : Bool) (g : Guard) (p : BitVec 3) (a b : Sel) (cmp : ICmp) (s : State) : Out :=
  runInstr s (.isetpLane nw g p a b cmp)
    (predBody nw p.toNat (fun x => guardMask x g) [a, b] (fun xs => (icmpW cmp (op1 xs) (op2 xs), flNone)))

/-- Lane `SEL` (R375). -/
def execSelLane (nw : Bool) (g : Guard) (d : BitVec 7) (a b : Sel) (neg : Bool) (p : BitVec 3) (s : State) : Out :=
  runInstr s (.selLane nw g d a b neg p)
    (laneBody nw d.toNat (fun x => guardMask x g) [a, b]
      (fun x l xs => (if (x.getP p.toNat).getLsbD l != neg then op1 xs else op2 xs, flNone)))

/-- `BFE` (R287). -/
def execBfe (nw : Bool) (g : Guard) (d : BitVec 7) (a pos len : Sel) (signed : Bool) (s : State) : Out :=
  runInstr s (.bfe nw g d a pos len signed)
    (laneInt nw d (fun x => guardMask x g) [a, pos, len] (fun xs => bfeW signed (op1 xs) (op2 xs) (op3 xs)))

/-- `BFI` (R288, R289): position and length from the immediate, or from c [7:0] and c [15:8]. -/
def execBfi (nw : Bool) (g : Guard) (d : BitVec 7) (a b : Sel) (src : BfiSrc) (s : State) : Out :=
  match src with
  | .const pos len =>
    runInstr s (.bfi nw g d a b (.const pos len))
      (laneInt nw d (fun x => guardMask x g) [a, b] (fun xs => bfiW (op1 xs) (op2 xs) pos.toNat len.toNat))
  | .reg c =>
    runInstr s (.bfi nw g d a b (.reg c))
      (laneInt nw d (fun x => guardMask x g) [a, b, c] (fun xs =>
        bfiW (op1 xs) (op2 xs) ((op3 xs).setWidth 8).toNat ((op3 xs).extractLsb' 8 8).toNat))

/-! ### Uniform instructions -/

/-- Uniform `IADD` (R334). -/
def execIaddUniform (d : BitVec 6) (a b : USel) (s : State) : Out :=
  runInstr s (.iaddUniform d a b) (uniBody d (fun g => uAt g a + uAt g b))

/-- Uniform `ISUB` (R334). -/
def execIsubUniform (d : BitVec 6) (a b : USel) (s : State) : Out :=
  runInstr s (.isubUniform d a b) (uniBody d (fun g => uAt g a - uAt g b))

/-- Uniform `IMUL` (R334). -/
def execImulUniform (d : BitVec 6) (a b : USel) (s : State) : Out :=
  runInstr s (.imulUniform d a b) (uniBody d (fun g => uAt g a * uAt g b))

/-- Uniform `AND` (R284). -/
def execAndUniform (d : BitVec 6) (a b : USel) (s : State) : Out :=
  runInstr s (.andUniform d a b) (uniBody d (fun g => uAt g a &&& uAt g b))

/-- Uniform `OR` (R362). -/
def execOrUniform (d : BitVec 6) (a b : USel) (s : State) : Out :=
  runInstr s (.orUniform d a b) (uniBody d (fun g => uAt g a ||| uAt g b))

/-- Uniform `XOR` (R403). -/
def execXorUniform (d : BitVec 6) (a b : USel) (s : State) : Out :=
  runInstr s (.xorUniform d a b) (uniBody d (fun g => uAt g a ^^^ uAt g b))

/-- Uniform `SHL` (R380). -/
def execShlUniform (d : BitVec 6) (a b : USel) (s : State) : Out :=
  runInstr s (.shlUniform d a b) (uniBody d (fun g => shlW (uAt g a) (uAt g b)))

/-- Uniform `SHR.n32` (R380). -/
def execShrN32Uniform (d : BitVec 6) (a b : USel) (s : State) : Out :=
  runInstr s (.shrN32Uniform d a b) (uniBody d (fun g => shrN (uAt g a) (uAt g b)))

/-- Uniform `SHR.s32` (R380). -/
def execShrS32Uniform (d : BitVec 6) (a b : USel) (s : State) : Out :=
  runInstr s (.shrS32Uniform d a b) (uniBody d (fun g => shrS (uAt g a) (uAt g b)))

/-- Uniform `IMIN.s32` (R334). -/
def execIminS32Uniform (d : BitVec 6) (a b : USel) (s : State) : Out :=
  runInstr s (.iminS32Uniform d a b) (uniBody d (fun g => iminS (uAt g a) (uAt g b)))

/-- Uniform `IMAX.s32` (R334). -/
def execImaxS32Uniform (d : BitVec 6) (a b : USel) (s : State) : Out :=
  runInstr s (.imaxS32Uniform d a b) (uniBody d (fun g => imaxS (uAt g a) (uAt g b)))

/-- Uniform `MOV` (R355). -/
def execMovUniform (d : BitVec 6) (a : USel) (s : State) : Out :=
  runInstr s (.movUniform d a) (uniBody d (fun g => uAt g a))

/-- Uniform `MOVI` (R74, R356). -/
def execMoviUniform (d : BitVec 6) (imm : Word) (s : State) : Out :=
  runInstr s (.moviUniform d imm) (uniBody d (fun _ => imm))

/-- Uniform `ISETP` (R338): 1 or 0. -/
def execIsetpUniform (d : BitVec 6) (a b : USel) (cmp : ICmp) (s : State) : Out :=
  runInstr s (.isetpUniform d a b cmp) (uniBody d (fun g => boolWord (icmpW cmp (uAt g a) (uAt g b))))

/-- Uniform `SEL` (R375). -/
def execSelUniform (d : BitVec 6) (a b c : USel) (s : State) : Out :=
  runInstr s (.selUniform d a b c) (uniBody d (fun g => if uAt g c != 0#32 then uAt g a else uAt g b))

end Sys2Proof.Machine
end

