-- ==== Sys2Proof/Machine/Control.lean ====
section
/-! DEFINITION. Control flow (R20, R21, R43, R291 to R293, R339, R340, R350, R374, R394), the queues between the
uniform side and the lanes (R48, R49, R369, R370), special registers (R51, R357, R358), the mask and the partition
(R376, R377), software traps and their return (R290, R396, R397), and `NOP`. -/

namespace Sys2Proof.Machine

/-- The rejoin-stack trap (R21). -/
def stackTrap (g : Group) (s58 : Nat) : Trap := Trap.own 0x05 s58 g.stack.length

def rejoinMax : Nat := 16

/-- `NOP` (R359). -/
def execNop (s : State) : Out :=
  runInstr s .nop (groupBody fun g => .ok (g, .none, none))

/-- `MARK` (R21, R350). -/
def execMark (ofs : BitVec 24) (s : State) : Out :=
  runInstr s (.mark ofs) (groupBody fun g =>
    if g.stack.length < rejoinMax then
      let e : Rejoin := { pending := false, mask := g.em, addr := branchTarget g.pc ofs.toInt }
      .ok ({ g with stack := e :: g.stack }, .none, none)
    else .error (stackTrap g 0))

/-- What `BRA` does after its `TRAIL` (R21): T the lanes of `em` whose guard holds. -/
def braEffect (g : Group) (x : Guard) (ofs : BitVec 16) : Except Trap (Option PendBranch) :=
  let t := guardMask g x
  let f := g.em &&& ~~~t
  let target := branchTarget g.pc ofs.toInt
  if t = 0#32 then .ok none
  else if f = 0#32 then .ok (some { em := g.em, addr := target, push := none })
  else if g.stack.length < rejoinMax then
    .ok (some { em := f, addr := g.pc + 12, push := some { pending := true, mask := t, addr := target } })
  else .error (stackTrap g 0)

/-- Whether the word at an offset is a `TRAIL`, for the instructions that one must follow (R43, R217). -/
def State.trailAt (s : State) (g : Group) (ofs : Nat) : Bool :=
  match s.fetchWord g ofs with
  | .ok w => isTrailWord (W1.ofWord w)
  | .error _ => false

/-- `BRA` (R21, R43, R72, R291): the branch takes effect after the `TRAIL` that must follow. -/
def execBra (g : Guard) (ofs : BitVec 16) (s : State) : Out :=
  runInstr s (.bra g ofs) fun s q slot x =>
    if s.trailAt x (x.pc + 8) then
      match braEffect x g ofs with
      | .error t => .trap t
      | .ok b => .next (s.setGroup q slot { x with jet := some { x.jetOr with bra := b } }) .none none
    else .trap (Trap.own 0x03 2 0)

/-- `JOIN` (R21, R340): in a handler it never pops below the depth saved at trap entry. -/
def execJoin (s : State) : Out :=
  runInstr s .join (groupBody fun g =>
    let floor := if g.handler then (g.frame.map (fun f => f.depth)).getD 0 else 0
    if g.stack.length ≤ floor then .error (stackTrap g 1)
    else
      match g.stack with
      | [] => .error (stackTrap g 1)
      | e :: t => .ok ({ g with stack := t, em := e.mask }, .none, some e.addr))

/-- Whether a condition holds (R75). -/
def condHolds (g : Group) (t : CondTest) : Bool :=
  match t with
  | .always => true
  | .test c a =>
    let x := uAt g a
    match c with
    | .z => x == 0#32
    | .nz => x != 0#32
    | .lt => x.slt 0#32
    | .ge => !(x.slt 0#32)
    | .gt => (0#32 : Word).slt x
    | .le => !((0#32 : Word).slt x)

/-- `JMP` (R339). -/
def execJmp (t : CondTest) (ofs : BitVec 24) (s : State) : Out :=
  runInstr s (.jmp t ofs) (groupBody fun g =>
    .ok (g, .none, if condHolds g t then some (branchTarget g.pc ofs.toInt) else none))

/-- `CALL` (R293). -/
def execCall (link : BitVec 6) (t : CondTest) (ofs : BitVec 24) (s : State) : Out :=
  runInstr s (.call link t ofs) (groupBody fun g =>
    if condHolds g t then
      .ok (g.setS link.toNat (BitVec.ofNat 32 (g.pc + 8)), .none, some (branchTarget g.pc ofs.toInt))
    else .ok (g, .none, none))

/-- `RET` (R374). -/
def execRet (link : BitVec 8) (s : State) : Out :=
  runInstr s (.ret link) (groupBody fun g =>
    if link.toNat < 0x40 then .ok (g, .none, some (g.getS link.toNat).toNat) else .error Trap.operand)

/-- The end of a jet (R43, R395): writes and flags land, a branch takes effect, the issue slot is free. -/
def Group.trail (g : Group) (cycle : Nat) : Group :=
  let bra := g.jetOr.bra
  let pc := g.pc + 4
  let g := g.endJet
  let g := { g with waitSince := cycle, wait := .none }
  match bra with
  | none => { g with pc := pc }
  | some b =>
    { g with pc := b.addr, em := b.em,
             stack := match b.push with
               | some e => e :: g.stack
               | none => g.stack }

/-- `TRAIL` (R394, R395). -/
def execTrail (names : Option (BitVec 7 × BitVec 7 × BitVec 7)) (s : State) : Out :=
  runInstr s (.trail names) fun s q slot g =>
    let cycle := ((s.quad? q).map (fun x => x.cycle)).getD 0
    .final ((s.setGroup q slot (g.trail cycle)).endIssue q)

/-- `TRAP` (R396). -/
def execTrap (code : BitVec 16) (s : State) : Out :=
  runInstr s (.trap code) fun _ _ _ _ => .trap { Trap.own 0x0F code.toNat 0 with after := true }

/-- `BPT` (R290). -/
def execBpt (s : State) : Out :=
  runInstr s .bpt fun _ _ _ _ => .trap { Trap.own 0x10 0 0 with after := true }

/-- `TRAPRET` (R54 step 5, R198, R397): with the handler flag at 0 it is the privileged-instruction trap. -/
def execTrapret (s : State) : Out :=
  runInstr s .trapret fun s q slot g =>
    if g.handler then
      .final ((((s.setGroup q slot { g.leaveHandler with waitSince := (s.quadOf q).cycle }).endIssue q).resumeCopies (g.owner q slot) g).handlerOver
        (g.owner q slot))
    else .trap (Trap.plain 0x13)

/-- `SETEM` (R376). -/
def execSetem (a : USel) (s : State) : Out :=
  runInstr s (.setem a) (groupBody fun g => .ok ({ g with em := uAt g a }, .none, none))

/-- WIDTH for a tile width in lanes (R377). -/
def widthCode (w : Word) : Option Nat :=
  match w.toNat with
  | 2 => some 1
  | 4 => some 2
  | 8 => some 3
  | 16 => some 4
  | 32 => some 5
  | _ => none

/-- A heading with the stale code in each of its norm entries (R209). -/
def Heading.stale (h : Heading) : Heading := { h with norm := List.replicate 16 0x8001#16 }

/-- The stale code goes into every norm entry of every allocated heading at the end of the jet, like every write of a heading (R44, R209,
R210). -/
def Group.staleHeadings (g : Group) : Group :=
  let j := g.jetOr
  { g with jet := some { j with pend := j.pend ++ (List.range (4 * g.hgran)).map (fun n => .h n Mask.all 2 (g.getH n).stale) } }

/-- `SETPART` (R377): the width holds from here on in its jet, as a catch-up instruction takes effect in program order (R47; DEDUCED,
log 71). -/
def execSetpart (a : USel) (s : State) : Out :=
  runInstr s (.setpart a) (groupBody fun g =>
    match widthCode (uAt g a) with
    | some c => .ok ({ g.staleHeadings with part := BitVec.ofNat 32 c }, .none, none)
    | none => .error Trap.operand)

/-- `QSEND` (R48): appends one value. What a full queue means is found when the jet is prepared. -/
def execQsend (a : USel) (s : State) : Out :=
  runInstr s (.qsend a) (groupBody fun g => .ok ({ g with fwd := g.fwd ++ [uAt g a] }, .none, none))

/-- `QTAKE` (R49): removes the oldest entry; an empty queue that no earlier `QRET` will fill is a trap. -/
def execQtake (d : BitVec 6) (s : State) : Out :=
  runInstr s (.qtake d) (groupBody fun g =>
    match g.ret with
    | [] => .error (Trap.own 0x03 4 0)
    | x :: t => .ok ({ g.setS d.toNat x with ret := t }, .none, none))

/-- `QRET` (R49, R370): appends the value in the lowest lane of `em`, or 0 when `em` is 0. -/
def execQret (a : Sel) (s : State) : Out :=
  runInstr s (.qret a) (groupBody fun g =>
    if selOk g a then
      let x := match maskLanes g.em with
        | l :: _ => selAt g a l
        | [] => 0#32
      .ok ({ g.takeFq [a] with ret := g.ret ++ [x] }, .none, none)
    else .error Trap.operand)

/-- The value of a special register (R51, R357). -/
def specialValue (q : Nat) (cycle : Nat) (g : Group) (r : SReg) : Word :=
  let n : Nat → Word := BitVec.ofNat 32
  match r with
  | .em => g.em
  | .part => g.part
  | .landrec w => g.landrec.extractLsb' (32 * w.toNat) 32
  | .depth => n g.stack.length
  | .handler => boolWord g.handler
  | .cLd => n (g.counter .ld)
  | .cSt => n (g.counter .st)
  | .cCst => n (g.counter .cst)
  | .cSmp => n (g.counter .smp)
  | .cDsc => n (g.counter .dsc)
  | .cCpy => n (g.counter .cpy)
  | .fwdFree => n (16 - g.fwd.length)
  | .retFree => n (8 - g.ret.length)
  | .status => g.status.setWidth 32
  | .cycLo => n cycle
  | .cycHi => g.capturedHi
  | .jetCount => g.jetCount
  | .powerWait => g.powerWait
  | .group => n g.grp
  | .crew => n g.crew
  | .gang => n g.gang
  | .launch => g.launch
  | .basin => n g.basin
  | .quadrant => n q
  | .core => n (q / 4)
  | .cluster => n (q / 16)

/-- `MOVS` (R357): a read of 0x11 captures the counter's high word. -/
def execMovs (d : BitVec 6) (r : SReg) (s : State) : Out :=
  runInstr s (.movs d r) fun s q slot g =>
    let cycle := ((s.quad? q).map (fun x => x.cycle)).getD 0
    let g' := g.setS d.toNat (specialValue q cycle g r)
    let g' := if r = .cycLo then { g' with capturedHi := BitVec.ofNat 32 (cycle / 2 ^ 32) } else g'
    .next (s.setGroup q slot g') .none none

/-- `MTSR` (R358): the status word, the jet count and the power-token wait; every other special traps. -/
def execMtsr (r : SReg) (a : USel) (s : State) : Out :=
  runInstr s (.mtsr r a) (groupBody fun g =>
    match r with
    | .status => .ok ({ g with status := (uAt g a).setWidth 5 }, .none, none)
    | .jetCount => .ok ({ g with jetCount := uAt g a }, .none, none)
    | .powerWait => .ok ({ g with powerWait := uAt g a }, .none, none)
    | _ => .error Trap.operand)

end Sys2Proof.Machine
end

