-- ==== Sys2Proof/Machine/Special.lean ====
section
/-! DEFINITION. The special functions of `FSFU` (R320, R321): exact results as intervals of fixed-point numbers, the
bounds of the table, and the device's fixed mapping inside them. -/

namespace Sys2Proof.Machine

/-! ### Fixed-point enclosures -/

/-- The number of fraction bits of the fixed-point numbers. -/
def fxP : Nat := 256

def fxOne : Int := 2 ^ fxP

/-- The product of two fixed-point numbers, rounded down. -/
def fxMul (a b : Int) : Int := a * b / fxOne

/-- A dyadic number as fixed point, rounded down; bits below the fraction are lost. -/
def fxOf (d : Dy) : Int :=
  let k := d.e + fxP
  if 0 ≤ k then d.x * 2 ^ k.toNat else d.x / 2 ^ (-k).toNat

/-- Sum of a series: `n` terms, each got from the one before, scaled by a divisor. -/
def fxSeries (n : Nat) (term : Int) (next : Nat → Int → Int) (part : Nat → Int → Int) : Int :=
  ((List.range n).foldl (fun (acc : Int × Int) k => (acc.1 + part k acc.2, next k acc.2)) (0, term)).1

/-- exp z for 0 ≤ z < 1. -/
def fxExp (z : Int) : Int := fxSeries 64 fxOne (fun k t => fxMul t z / (k + 1)) (fun _ t => t)

/-- 2 artanh t for |t| ≤ 1/3, which is ln ((1 + t) / (1 − t)). -/
def fxLogT (t : Int) : Int :=
  let t2 := fxMul t t
  2 * fxSeries 90 t (fun _ p => fxMul p t2) (fun k p => p / (2 * k + 1))

/-- ln 2. -/
def fxLn2 : Int := fxLogT (fxOne / 3)

/-- arctan (1 / n). -/
def fxAtanInv (n : Nat) : Int :=
  fxSeries 60 (fxOne / n) (fun _ p => -(p / (n * n))) (fun k p => p / (2 * k + 1))

/-- π, by Machin's formula. -/
def fxPi : Int := 16 * fxAtanInv 5 - 4 * fxAtanInv 239

/-- sin z for 0 ≤ z ≤ π/2. -/
def fxSin (z : Int) : Int :=
  let z2 := fxMul z z
  fxSeries 40 z (fun k p => -(fxMul p z2 / ((2 * k + 2) * (2 * k + 3)))) (fun _ p => p)

/-- An exact result as an interval [lo, hi] × 2^e of a positive magnitude. -/
structure Encl where
  lo : Nat
  hi : Nat
  e : Int
  deriving DecidableEq, Repr

/-- A fixed-point value with a margin of 2^16 units of its last place on each side. -/
def enclOf (x : Int) (shift : Int) : Encl :=
  { lo := (x - 65536).toNat, hi := (x + 65536).toNat, e := shift - fxP }

/-- 2^a for a dyadic a with |a| below 4,096. -/
def ex2Encl (a : Dy) : Encl :=
  let n : Int := if 0 ≤ a.e then a.x * 2 ^ a.e.toNat else a.x / 2 ^ (-a.e).toNat
  let f := fxOf (a.add { x := -n, e := 0 })
  enclOf (fxExp (fxMul f fxLn2)) n

/-- log2 of m × 2^e, m positive: the sign and the magnitude. -/
def lg2Encl (m : Nat) (e : Int) : Bool × Encl :=
  let l := bitLen m
  let k : Int := e + l - 1
  let x : Int := ((m * 2 ^ fxP / 2 ^ (l - 1) : Nat) : Int)
  let t := (x - fxOne) * fxOne / (x + fxOne)
  let y : Int := k * fxOne + fxLogT t * fxOne / fxLn2
  (decide (y < 0), enclOf y.natAbs 0)

/-- |sin (π r)| for a fixed-point r in [0, 1]. -/
def sinpiFx (r : Int) : Int :=
  let r := if fxOne < 2 * r then fxOne - r else r
  fxSin (fxMul r fxPi)

/-- sin (π a): the sign and the magnitude; a is reduced exactly modulo 2. -/
def sinpiEncl (a : Dy) : Bool × Encl :=
  let r := fxOf { x := if 0 ≤ a.e then a.x * 2 ^ a.e.toNat % 2 else a.x % 2 ^ ((-a.e).toNat + 1), e := min a.e 0 }
  if r < fxOne then (false, enclOf (sinpiFx r) 0) else (true, enclOf (sinpiFx (r - fxOne)) 0)

/-- tanh of a positive dyadic: (e^2a − 1) / (e^2a + 1), and 1 − 2^−160 or more beyond 64. -/
def tanhEncl (a : Dy) : Encl :=
  if ({ x := 64, e := 0 } : Dy).lt a then { lo := 2 ^ 256 - 2 ^ 96, hi := 2 ^ 256 - 1, e := -256 }
  else
    let z := 2 * fxOf a
    let n := z / fxLn2
    let p := fxExp (z - n * fxLn2) * 2 ^ n.toNat
    let y := (p - fxOne) * fxOne / (p + fxOne)
    enclOf y 0

/-- √(m × 2^e) or 1/√(m × 2^e), as an interval of width one unit in 2^−120 of the value. -/
def sqrtEncl (m : Nat) (e : Int) : Encl :=
  let (m, e) := if e % 2 = 0 then (m, e) else (2 * m, e - 1)
  let k : Nat := 256
  let r := isqrt (m * 2 ^ (2 * k))
  { lo := r, hi := if r * r = m * 2 ^ (2 * k) then r else r + 1, e := e / 2 - k }

def rsqrtEncl (m : Nat) (e : Int) : Encl :=
  let (m, e) := if e % 2 = 0 then (m, e) else (2 * m, e - 1)
  let k : Nat := 256 + bitLen m
  let r := isqrt (2 ^ (2 * k) / m)
  { lo := r, hi := r + 1, e := -(e / 2) - k }

/-! ### Results inside their bounds -/

/-- The unit in the last place of a magnitude as f32 has it: 2 to this exponent. -/
def ulpExp (c : Encl) : Int := max (-149) ((bitLen c.lo : Int) - 1 + c.e - 23)

/-- A finite f32 pattern as a dyadic. -/
def dyOfPat (x : Nat) : Option Dy :=
  match fDecode fF32 x with
  | .fin s m e => some (dyOf s m e)
  | _ => none

def Dy.le (a b : Dy) : Bool := !(b.lt a)

/-- Whether a pattern lies within `b` of every point of a signed interval. -/
def inBound (r : Nat) (neg : Bool) (c : Encl) (b : Dy) : Bool :=
  match dyOfPat r with
  | none => false
  | some d =>
    let lo : Dy := dyOf neg (if neg then c.hi else c.lo) c.e
    let hi : Dy := dyOf neg (if neg then c.lo else c.hi) c.e
    let nb : Dy := { x := -b.x, e := b.e }
    (hi.add nb).le d && d.le (lo.add b)

/-- The device's result for an exact result in an interval (R320): the fixed mapping's pattern if it lies within the
bound, the rounding to nearest otherwise; overflow, tininess and the inexact flag are those of the exact result. -/
def sfuPick (fn : Nat) (x : Word) (neg : Bool) (c : Encl) (b : Dy) : Nat × Flags :=
  let (r, fl) := fRound fF32 .rn false neg (2 * c.lo + 1) (c.e - 1)
  let fl := fl ||| flNX
  if fl &&& flOF != flNone then (r, fl)
  else
    let y := (Config.sfuFree fn x).toNat
    if inBound y neg c b then (y, fl) else (r, fl)

/-- The bound of the table of R320: `n` ulp, or an absolute bound below a threshold on the result. -/
def sfuBound (c : Encl) (n : Nat) (below : Option (Dy × Dy)) : Dy :=
  let u : Dy := { x := n, e := ulpExp c }
  match below with
  | some (limit, abs) => if ({ x := c.hi, e := c.e } : Dy).lt limit then abs else u
  | none => u

/-- Whether a dyadic is an integer, and whether it is one half more than an integer. -/
def Dy.isInt (a : Dy) : Bool := decide (0 ≤ a.e) || decide (a.x % 2 ^ (-a.e).toNat = 0)
def Dy.twice (a : Dy) : Dy := { a with e := a.e + 1 }

/-- The integer a dyadic holds. -/
def Dy.int (a : Dy) : Int := if 0 ≤ a.e then a.x * 2 ^ a.e.toNat else a.x / 2 ^ (-a.e).toNat

/-- `sinpi` of a finite value, exact where 2a is an integer (R321). -/
def sinpiW (fn : Nat) (x : Word) (neg : Bool) (a : Dy) : Nat × Flags :=
  if a.isInt then (fF32.signBit neg, flNone)
  else if a.twice.isInt then
    (if a.twice.int % 4 = 1 then 0x3F800000 else 0xBF800000, flNone)
  else
    let (sn, c) := sinpiEncl a
    sfuPick fn x sn c (sfuBound c 1 (some ({ x := 1, e := -2 }, { x := 1, e := -24 })))

/-- `cospi` of a finite value (R321): +0 at n + 0.5. -/
def cospiW (fn : Nat) (x : Word) (a : Dy) : Nat × Flags :=
  if a.isInt then (if a.int % 2 = 0 then 0x3F800000 else 0xBF800000, flNone)
  else if a.twice.isInt then (0, flNone)
  else
    let (sn, c) := sinpiEncl (a.add { x := 1, e := -1 })
    sfuPick fn x sn c (sfuBound c 1 (some ({ x := 1, e := -2 }, { x := 1, e := -24 })))

/-- `FSFU`'s result and flags in one lane (R320, R321). -/
def sfuW (fn : SfuFn) (x : Word) : Word × Flags :=
  let nanDom : Nat × Flags := fNanRes fF32 flNV
  let one := 0x3F800000
  w32 <| match fDecode fF32 x.toNat with
  | .nan => fNanRes fF32 flNone
  | .inf s =>
    match fn with
    | .rcp => (fF32.signBit s, flNone)
    | .rsqrt => if s then nanDom else (0, flNone)
    | .sqrt => if s then nanDom else (fF32.infPat, flNone)
    | .ex2 => if s then (0, flNone) else (fF32.infPat, flNone)
    | .lg2 => if s then nanDom else (fF32.infPat, flNone)
    | .sinpi => nanDom
    | .cospi => nanDom
    | .tanh => (fF32.signBit s + one, flNone)
  | .fin s m e =>
    if m = 0 then
      match fn with
      | .rcp => (fF32.signBit s + fF32.infPat, flNone)
      | .rsqrt => (fF32.signBit s + fF32.infPat, flNone)
      | .sqrt => (fF32.signBit s, flNone)
      | .ex2 => (one, flNone)
      | .lg2 => (0x80000000 + fF32.infPat, flNone)
      | .sinpi => (0, flNone)
      | .cospi => (one, flNone)
      | .tanh => (fF32.signBit s, flNone)
    else
      let a := dyOf s m e
      match fn with
      | .rcp =>
        let k := 64 + bitLen m
        let q := 2 ^ k / m
        let rest := if 2 ^ k % m = 0 then 0 else 1
        fRound fF32 .rn false s (2 * q + rest) (-e - k - 1)
      | .sqrt =>
        if s then nanDom
        else
          let c := sqrtEncl m e
          fRound fF32 .rn false false (c.lo + c.hi) (c.e - 1)
      | .rsqrt =>
        if s then nanDom
        else
          let l : Int := (bitLen m : Int) - 1 + e
          if m = 2 ^ (bitLen m - 1) ∧ l % 2 = 0 then fRound fF32 .rn false false 1 (-(l / 2))
          else
            let c := rsqrtEncl m e
            sfuPick 1 x false c (sfuBound c 1 none)
      | .ex2 =>
        if a.isInt ∧ a.lt { x := 128, e := 0 } ∧ ({ x := -150, e := 0 } : Dy).lt a then fRound fF32 .rn false false 1 a.int
        else if ({ x := 4000, e := 0 } : Dy).lt a then fOverflow fF32 .rn false false
        else
          let c := if a.lt { x := -4000, e := 0 } then { lo := 1, hi := 2, e := -4001 } else ex2Encl a
          sfuPick 3 x false c (sfuBound c 2 none)
      | .lg2 =>
        if s then nanDom
        else if m = 2 ^ (bitLen m - 1) then
          let l : Int := (bitLen m : Int) - 1 + e
          fRound fF32 .rn false (decide (l < 0)) l.natAbs 0
        else
          let (sn, c) := lg2Encl m e
          sfuPick 4 x sn c (sfuBound c 2 (some ({ x := 1, e := 0 }, { x := 1, e := -22 })))
      | .sinpi => sinpiW 5 x s a
      | .cospi => cospiW 6 x a
      | .tanh =>
        let c := tanhEncl (dyOf false m e)
        sfuPick 7 x s c (sfuBound c 2 none)

end Sys2Proof.Machine
end

