-- ==== Sys2Proof/Machine/Variable.lean ====
section
/-! DEFINITION. Class V results (R46): putting one in flight, its arrival, and the instructions `FSFU` (R320 to R322),
`SHFL` (R378, R379), `VOTE` (R400, R401) and `RED` (R371, R372). -/

namespace Sys2Proof.Machine

/-! ### Results in flight -/

/-- Puts a class V result in flight (R46): the scoreboard entries of the jet that name its registers will clear with
it. -/
def Group.fly (g : Group) (id : Nat) (dests : List (Dest × Lanes)) (fl : Flags) (waiting : Nat) : Group :=
  let regs := dests.map (fun e => e.1.reg)
  { g with vflights := g.vflights ++ [{ id := id, dests := dests, flags := fl, waiting := waiting }],
           score := g.score.map (fun e => if regs.contains e.reg then { e with flight := some id } else e) }

/-- Puts a class V result of the current instruction in flight. -/
def State.flyV (s : State) (q slot : Nat) (g : Group) (dests : List (Dest × Lanes)) (fl : Flags) (waiting : Nat) :
    State :=
  { s.setGroup q slot (g.fly s.nextId dests fl waiting) with nextId := s.nextId + 1 }

/-- The arrival of a class V result (R46, R185): registers, flags, scoreboard. -/
def Group.arriveV (g : Group) (ix : Nat) (f : VFlight) : Group :=
  let g := g.landAll ix f.id f.dests
  { g with status := g.status ||| f.flags,
           vflights := g.vflights.filter (fun e => e.id != f.id),
           score := g.score.filter (fun e => e.flight != some f.id) }

/-- `CLASS_V_RESULT` (R46): the result at a place of the group's list arrives; an `LDS` or `ATOMS` arrives once its
last lane has returned (R98). -/
def execClassVResult (q slot ix : Nat) (s : State) : Out :=
  match s.group? q slot with
  | none => .refused (.notEnabled "CLASS_V_RESULT: no group in the slot")
  | some g =>
    match g.vflights[ix]? with
    | none => .refused (.notEnabled "CLASS_V_RESULT: no such result in flight")
    | some f =>
      if f.waiting = 0 then
        .next { s.setGroup q slot (g.arriveV s.freeIx f) with freeIx := s.freeIx + 32 * f.dests.length }
      else .refused (.notEnabled "CLASS_V_RESULT: lanes are still outstanding")

/-- A class V instruction: operands checked, one destination, values and flags by lane from the group. -/
def varBody (d : BitVec 7) (gd : Guard) (sels : List Sel) (f : Group → Mask → Nat → Word × Flags) : Body :=
  fun s q slot g =>
    if g.vOk d.toNat && sels.all (selOk g) then
      let m := guardMask g gd
      let out := lanesOf (fun l => if m.getLsbD l then (f g m l).1 else 0#32)
      let fl := flJoin ((maskLanes m).map (fun l => (f g m l).2))
      .next (s.flyV q slot (g.takeFq sels) [(Dest.new d.toNat m, out)] fl 0) .none none
    else .trap Trap.operand

/-! ### Instructions -/

/-- `FSFU` (R320, R321). -/
def execFsfu (g : Guard) (d : BitVec 7) (a : Sel) (fn : SfuFn) (s : State) : Out :=
  runInstr s (.fsfu g d a fn) (varBody d g [a] (fun x _ l => sfuW fn (selAt x a l)))

/-- The lane `SHFL` reads in a tile of width w (R379). -/
def shflLane (mode : ShflMode) (w l : Nat) (b : Word) : Nat :=
  let t := l / w
  let i := l % w
  let n := b.toNat
  let j := match mode with
    | .idx => n % w
    | .up => if n ≤ i then i - n else i
    | .down => if i + n < w then i + n else i
    | .bfly => i ^^^ (n % w)
  t * w + j

/-- `SHFL` (R378, R379): the source lane is read whether or not it takes part. -/
def execShfl (g : Guard) (d : BitVec 7) (a b : Sel) (mode : ShflMode) (s : State) : Out :=
  runInstr s (.shfl g d a b mode)
    (varBody d g [a, b] (fun x _ l => (selAt x a (shflLane mode x.tileWidth l (selAt x b l)), flNone)))

/-- The lanes of `m` in the tile of lane `l`, ascending. -/
def tileLanes (w : Nat) (m : Mask) (l : Nat) : List Nat := (maskLanes m).filter (fun k => k / w == l / w)

/-- `VOTE`'s word in a lane (R401). -/
def voteWord (op : VoteOp) (w : Nat) (q : Nat → Bool) (ls : List Nat) : Word :=
  match op with
  | .ballot => BitVec.ofNat 32 (ls.foldl (fun acc k => if q k then acc + 2 ^ (k % w) else acc) 0)
  | .any => boolWord (ls.any q)
  | .all => boolWord (ls.all q)

/-- `VOTE` (R400, R401). -/
def execVote (g : Guard) (d : BitVec 7) (op : VoteOp) (neg : Bool) (p : BitVec 3) (s : State) : Out :=
  runInstr s (.vote g d op neg p)
    (varBody d g [] (fun x m l =>
      let q := fun k => (x.getP p.toNat).getLsbD k != neg
      (voteWord op x.tileWidth q (tileLanes x.tileWidth m l), flNone)))

/-- One step of a reduction (R372); min and max compare signed for s32 and unsigned for n32. -/
def redStep (op : RedOp) (ty : Ty3) (a b : Word) : Word :=
  match op, ty with
  | .add, .f32 => (faddW a b).1
  | .add, _ => a + b
  | .min, .s32 => if b.slt a then b else a
  | .min, .n32 => if b.ult a then b else a
  | .min, .f32 => (fminW a b).1
  | .max, .s32 => if a.slt b then b else a
  | .max, .n32 => if a.ult b then b else a
  | .max, .f32 => (fmaxW a b).1
  | .and, _ => a &&& b
  | .or, _ => a ||| b
  | .xor, _ => a ^^^ b

/-- The value that a reduction begins with, which one lane alone writes as its result: of a NaN the canonical one (R182). -/
def redFirst (op : RedOp) (ty : Ty3) (a : Word) : Word :=
  match op, ty with
  | .add, .f32 | .min, .f32 | .max, .f32 => if fDecode fF32 a.toNat = .nan then 0x7FC00000#32 else a
  | _, _ => a

/-- A reduction over lanes in ascending order (R372). -/
def redFold (op : RedOp) (ty : Ty3) (f : Nat → Word) (ls : List Nat) : Word :=
  match ls with
  | [] => 0#32
  | l :: t => t.foldl (fun acc k => redStep op ty acc (f k)) (redFirst op ty (f l))

/-- `RED` (R371, R372). -/
def execRed (g : Guard) (d : BitVec 7) (a : Sel) (op : RedOp) (ty : Ty3) (s : State) : Out :=
  runInstr s (.red g d a op ty)
    (varBody d g [a] (fun x m l =>
      (redFold op ty (fun k => selAt x a k) (tileLanes x.tileWidth m l), flNone)))

end Sys2Proof.Machine
end

