-- ==== Sys2Proof/Machine/Scratch.lean ====
section
/-! DEFINITION. The scratchpad (R96 to R98): bank queues, `LDS` (R346), `STS` (R389), `ATOMS` (R165), the service of a
bank, gates and `GATE` (R156 to R160), and the fences that several instructions act as (R126, R127, R130). -/

namespace Sys2Proof.Machine

/-! ### Scratchpad bytes -/

def Crew.byte (c : Crew) (a : Nat) : Byte := NMap.getD c.sp a 0#8

/-- `n` bytes of a crew's scratchpad as a number (R2). -/
def Crew.num (c : Crew) (a n : Nat) : Nat := leNat ((List.range n).map (fun i => c.byte (a + i)))

/-- A write keeps only bytes that are not 0, which is what a byte nothing has written reads (R90). -/
def spSet (m : NMap Byte) (a : Nat) (b : Byte) : NMap Byte := if b = 0#8 then NMap.erase m a else NMap.set m a b

def Crew.put (c : Crew) (bytes : NMap Byte) : Crew :=
  { c with sp := bytes.foldl (fun m (e : Nat × Byte) => spSet m e.1 e.2) c.sp }

def Crew.putNum (c : Crew) (a n x : Nat) : Crew := c.put ((natBytes n x).zipIdx.map (fun e => (a + e.2, e.1)))

/-- Notes that the crew of a group has written scratchpad bytes: in every group of the crew whose `OFENCE` mark is set,
and in every `MMA` request of the crew that is not over (R204). -/
def State.markTile (s : State) (q : Nat) (g : Group) (a n : Nat) : State :=
  match (s.quad? q).bind (fun x => x.crewOf? g) with
  | none => s
  | some c =>
    let add (r : MmaReq) : MmaReq := { r with dirty := r.dirty ++ [(a, n)] }
    let mine (r : MmaReq) : Bool := r.q == q && (match s.group? q r.slot with
      | some h => c.has h
      | none => false)
    let s := s.modQuad q (fun x => { x with groups := x.groups.map (fun (e : Nat × Group) =>
      if c.has e.2 && (e.2.ofence || e.2.staging.isSome) then
        (e.1, { e.2 with mmDirty := if e.2.ofence then e.2.mmDirty ++ [(a, n)] else e.2.mmDirty, staging := e.2.staging.map add })
      else e) })
    { s with engines := s.engines.map (fun (e : Nat × SlotEng) => (e.1, { e.2 with
        table := e.2.table.map (fun r => if mine r then add r else r),
        pass := e.2.pass.map (fun p => if mine p.1 then (add p.1, p.2) else p) })) }

/-- The crew of a group. -/
def State.crew? (s : State) (q : Nat) (g : Group) : Option Crew := (s.quad? q).bind (fun x => x.crewOf? g)

def State.modCrew (s : State) (q : Nat) (g : Group) (f : Crew → Crew) : State := s.modQuad q (fun x => x.modCrew g f)

/-- Whether an access of n bytes at an address is within the crew's scratchpad and aligned (R97). -/
def Crew.spOk (c : Crew) (a n : Nat) : Bool := decide (a + n ≤ c.scr * 1024) && decide (a % n = 0)

/-- A scratchpad address (R70). -/
def spAddr (base idx : Word) (ofs : Int) : Nat := (base + idx + BitVec.ofInt 32 ofs).toNat

/-- The bounds trap of a scratchpad access (R97, R244). -/
def spTrap (fails : Mask) (addr : Nat → Nat) (size : Nat) : Trap :=
  { Trap.plain 0x06 with
      s59 := some 3#32, em := some fails,
      v120 := lanesOf (fun l => if fails.getLsbD l then BitVec.ofNat 32 (addr l) else 0#32),
      v122 := lanesOf (fun l => if fails.getLsbD l then v122Of false size kindScratch else 0#32) }

/-! ### Bank queues (R96, R98) -/

/-- A bank's queue. -/
def Quad.bank (x : Quad) (k : Nat) : List BankReq := NMap.getD x.banks k []

/-- Enters a request into its bank's queue: behind all that came before it, those of the staging entries among them, which the
model keeps in one list in order of arrival and without a limit (DESIGN CHOICE, log 66). -/
def Quad.bankPush (x : Quad) (r : BankReq) : Quad :=
  let k := r.word % 16
  { x with banks := NMap.set x.banks k (x.bank k ++ [r]) }

/-- Whether a request is a group's own, not the completion of a copy. -/
def BankReq.own (r : BankReq) : Bool :=
  match r.op with
  | .gate .. => false
  | _ => true

/-- The numbers of a group slot's requests that its banks have not applied. -/
def Quad.bankIds (x : Quad) (slot : Nat) : List Nat :=
  (x.banks.flatMap (fun e => e.2)).filterMap (fun r => if r.slot = slot ∧ r.own then some r.id else none)

/-- Whether a group has staging entries occupied (R96): requests behind the 8 places of a bank's queue. -/
def Quad.staged (x : Quad) (slot : Nat) : Bool :=
  x.banks.any (fun e => (e.2.drop 8).any (fun r => r.slot == slot && r.own))

/-- Whether no bank queue holds a request of a group's crew. -/
def Quad.crewIdle (x : Quad) (g : Group) : Bool :=
  (x.banks.flatMap (fun e => e.2)).all (fun r => match NMap.get? x.groups r.slot with
    | some h => !(h.launch == g.launch && h.gang == g.gang && h.crew == g.crew)
    | none => true)

/-- Groups items by scratchpad word, in the order in which the words first appear. -/
def byWord {α : Type} (items : List (Nat × α)) : List (Nat × List α) :=
  ((items.map (fun e => e.1)).eraseDups).map (fun w => (w, (items.filter (fun e => e.1 == w)).map (fun e => e.2)))

/-- Enters requests for several words, numbered from `nextId`; they follow some numbers first. -/
def State.bankEnter (s : State) (q slot : Nat) (hold : List Nat) (flight : Option Nat) (ops : List (Nat × BankOp)) : State :=
  ops.foldl (fun s e =>
    { s.modQuad q (fun x => x.bankPush { id := s.nextId, hold := hold, slot := slot, word := e.1, op := e.2, flight := flight }) with
        nextId := s.nextId + 1 }) s

/-! ### Atomics (R162) -/

/-- The new word of an atomic on one 32-bit word. -/
def atomWord (op : AtOp) (ty : AtTy) (old data cmp : Word) : Word :=
  match op, ty with
  | .add, .f32 => (faddW old data).1
  | .add, _ => old + data
  | .min, .n32 => if data.ult old then data else old
  | .min, .f32 => (fminW old data).1
  | .min, _ => if data.slt old then data else old
  | .max, .n32 => if old.ult data then data else old
  | .max, .f32 => (fmaxW old data).1
  | .max, _ => if old.slt data then data else old
  | .and, _ => old &&& data
  | .or, _ => old ||| data
  | .xor, _ => old ^^^ data
  | .xchg, _ => data
  | .cas, _ => if old = cmp then data else old

/-- The new word of an atomic on one 64-bit word. -/
def atomDWord (op : AtOp) (old data cmp : DWord) : DWord :=
  match op with
  | .add => old + data
  | .min => if data.slt old then data else old
  | .max => if old.slt data then data else old
  | .and => old &&& data
  | .or => old ||| data
  | .xor => old ^^^ data
  | .xchg => data
  | .cas => if old = cmp then data else old

/-- The new word of an atomic, of the type's width. -/
def atomNew (op : AtOp) (ty : AtTy) (old data cmp : DWord) : DWord :=
  if ty = .s64 then atomDWord op old data cmp
  else (atomWord op ty (old.setWidth 32) (data.setWidth 32) (cmp.setWidth 32)).setWidth 64

def atomBytes (ty : AtTy) : Nat := if ty = .s64 then 8 else 4

/-- The register writes that one lane's old word gives (R163). -/
def atomWrites (ty : AtTy) (d : Option Nat) (lane : Nat) (old : DWord) : List (Nat × Nat × Word) :=
  match d with
  | none => []
  | some r => if ty = .s64 then [(r, lane, old.setWidth 32), (r + 1, lane, old.extractLsb' 32 32)]
    else [(r, lane, old.setWidth 32)]

/-! ### Fences (R126, R127, R130) -/

/-- Kinds of fence: release, acquire, both, acquire with promotion. -/
def fenceRel : FenceKind → Option Scope
  | .rel sc | .acqrel sc => some sc
  | _ => none

def fenceAcq : FenceKind → Option (Scope × Bool)
  | .acq sc | .acqrel sc => some (sc, false)
  | .acqRemote dev => some (if dev then .dev else .gang, true)
  | _ => none

/-- Whether a scope is `.gang` or wider. -/
def scopeWide : Scope → Bool
  | .grp | .crew => false
  | _ => true

/-- The outstanding reads of a group on the load-store path (R126, R130). -/
def State.readsOf (s : State) (o : Owner) : List Nat := s.reqIds (fun r => r.owner == o && r.kind.isLsRead)

/-- The outstanding write-class requests of a group (R126, R130), with or without deposits and copy-engine writes. -/
def State.writesOf (s : State) (o : Owner) (all : Bool) : List Nat :=
  s.reqIds (fun r => r.owner == o && r.kind.writeClass && (all || (!r.kind.isDep && !r.kind.isCopy)))

/-- Requests of a group that still wait in the quadrant to be merged into write-combining. -/
def State.mergesOf (s : State) (o : Owner) : List Nat :=
  s.reqIds (fun r => r.owner == o && (match r.kind with | .merge _ => true | _ => false))

/-- A release moves the group's write-combining entries into the outbound queue; at a narrow scope the quadrant notes
where the queue stood (R126, R131). -/
def State.releaseMove (s : State) (o : Owner) (sc : Scope) : State :=
  let s := s.wcFlush o (fun _ => true)
  if scopeWide sc then s else s.modQuad o.q (fun x => { x with relMark := s.nextId })

/-- Adds an order to a group: what it waits for, whether at a wide scope, whether it waits for the host, promotes, invalidates. -/
def State.addOrder (s : State) (q slot : Nat) (waits : List Nat) (wide hosts promote inv : Bool) : State :=
  { s.modGroup q slot (fun h => { h with
      orders := h.orders ++ [{ id := s.nextId, waits := waits, wide := wide, hosts := hosts, promote := promote, inv := inv }] }) with
    nextId := s.nextId + 1 }

/-- The numbers of the orders that a group's next access must follow (R126). -/
def Group.orderIds (g : Group) : List Nat := g.orders.map (fun w => w.id)

/-- The copies of a group that have writes still to send (R130): a suspended one has none until it is resumed. -/
def State.copiesOf (s : State) (o : Owner) : List Nat :=
  ((s.engine (slotOf o.q)).copies.filter (fun c => c.owner == o && !c.suspended && (match c.kind with
    | .tcopy _ => false
    | _ => true))).map (fun c => c.id)

/-- What a release waits for besides reads (R126, R130): the group's stores until they have entered the outbound queue, those that a
hazard or an order still holds back among them; at a wide scope the acknowledgement of its writes, deposits and copy-engine writes among
them with `all`: for a fence, and not for a release on an access. -/
def State.releaseWrites (s : State) (o : Owner) (sc : Scope) (all : Bool) : List Nat :=
  s.mergesOf o ++ s.ticketsOf o ++ (if scopeWide sc then s.writesOf o all else []) ++ (if scopeWide sc && all then s.copiesOf o else [])

/-- The release side of an access, or of an instruction that acts as a fence and then writes itself: the reads that came before must have
returned too, as they happen before that write (R126, R129; DEDUCED, log 30). -/
def State.fenceRelease (s : State) (q slot : Nat) (o : Owner) (sc : Scope) (all : Bool) : State :=
  let s := s.releaseMove o sc
  s.addOrder q slot (s.readsOf o ++ s.releaseWrites o sc all) (scopeWide sc) false false false

/-- The release side of a `FENCE` (R127, R130): it waits for writes only, and each write that follows it waits for the reads before it, as
they happen before that write (R129; DEDUCED, log 30). -/
def State.fenceMove (s : State) (q slot : Nat) (o : Owner) (sc : Scope) : State :=
  let s := s.releaseMove o sc
  let s := s.modGroup q slot (fun h => { h with relReads := (h.relReads ++ s.readsOf o).eraseDups })
  s.addOrder q slot (s.releaseWrites o sc true) (scopeWide sc) false false false

/-- The acquire side of a fence (R126, R130): it waits for the group's reads, and at `.sys` for the inbound host writes
(R133). -/
def State.fenceAcquire (s : State) (q slot : Nat) (o : Owner) (sc : Scope) (promote : Bool) : State :=
  s.addOrder q slot (s.readsOf o) false (sc == .sys) promote (scopeWide sc)

/-- What a fence puts in front of the group's later accesses. -/
def State.fence (s : State) (q slot : Nat) (g : Group) (k : FenceKind) : State :=
  let o := g.owner q slot
  let s := match fenceRel k with
    | none => s
    | some sc => s.fenceMove q slot o sc
  let s := match fenceAcq k with
    | none => s
    | some (sc, rem) => s.fenceAcquire q slot o sc rem
  s.settle

/-- Runs something that orders accesses in front of a catch-up instruction: `body` follows once the orders are met. -/
def orderThen (order : State → Nat → Nat → Group → State) (body : Body) : Body := fun s q slot g =>
  match g.wait with
  | .none | .until _ =>
    if g.orders ≠ [] then .wait s (.until .orders)
    else
      let s := order s q slot g
      match s.group? q slot with
      | none => .stall
      | some h => if h.orders = [] then body s q slot h else .wait s (.stage 1)
  | _ => body s q slot g

/-- Runs a fence in front of a catch-up instruction (R130). -/
def fenceThen (k : FenceKind) (body : Body) : Body :=
  orderThen (fun s q slot g => s.fence q slot g k) body

/-- Runs the release of an instruction that writes itself after it (R129, R155). -/
def relThen (sc : Scope) (body : Body) : Body :=
  orderThen (fun s q slot g => (s.fenceRelease q slot (g.owner q slot) sc true).settle) body

/-- Waits for a condition before the rest of a catch-up instruction. -/
def untilThen (c : Cond) (met : State → Nat → Nat → Group → Bool) (body : Body) : Body := fun s q slot g =>
  if met s q slot g then body s q slot g else .wait s (.until c)

/-- Whether the group's scratchpad requests have been applied at their banks (R155). -/
def State.applied (s : State) (q slot : Nat) : Bool := match s.quad? q with
  | some x => (x.bankIds slot).isEmpty
  | none => true

def State.crewIdle (s : State) (q : Nat) (g : Group) : Bool := match s.quad? q with
  | some x => x.crewIdle g
  | none => true

/-! ### Overwriting loops: whether one is open (R220) -/

/-- Whether the checks of an open loop apply: a handler runs free of them. -/
def Group.inLoop (g : Group) : Bool := g.loop.isSome && !g.handler

/-- The undeclared-store trap with a reason whose `s58` the spec does not state (R224, log 10). -/
def loopTrap (s : State) (reason : Nat) : Trap :=
  { Trap.own 0x0D 0 reason with s58 := some (Config.freeWord s.freeIx) }

/-! ### `LDS`, `STS`, `ATOMS` -/

/-- The bytes of a lane's data registers, lowest first (R70). -/
def Group.dataBytes (g : Group) (d n l : Nat) : List Byte :=
  natBytes n ((List.range 4).foldl (fun a i => if 4 * i < n then a + (g.lane (d + i) l).toNat * 2 ^ (32 * i) else a) 0)

def sizeBytes : Size → Nat
  | .b8 => 1
  | .b16 => 2
  | .b32 => 4
  | .b64 => 8
  | .b128 => 16

def sizeField : Size → Nat
  | .b8 => 0
  | .b16 => 1
  | .b32 => 2
  | .b64 => 3
  | .b128 => 4

/-- The number of registers an access of a size names (R70). -/
def regCount (n : Nat) : Nat := if n ≤ 4 then 1 else n / 4

/-- Whether a data register, pair or quad is aligned and allocated (R41, R70). -/
def Group.dataOk (g : Group) (d n : Nat) : Bool :=
  decide (d % regCount n = 0) && (List.range (regCount n)).all (fun i => g.vOk (d + i))

/-- The destinations of an access of a size. -/
def dataDests (d n : Nat) (m : Mask) : List Dest := (List.range (regCount n)).map (fun i => Dest.new (d + i) m)

/-- The parts of a lane's read by scratchpad word (R96): lane, first byte, bytes, first register. -/
def readParts (lane a n d : Nat) : List (Nat × (Nat × Nat × Nat × Nat)) :=
  if n = 16 then [(a / 8, (lane, a, 8, d)), (a / 8 + 1, (lane, a + 8, 8, d + 2))] else [(a / 8, (lane, a, n, d))]

/-- `LDS` (R346, R71, R98). -/
def execLds (gd : Guard) (d : BitVec 7) (base idx : Sel) (size : Size) (ord : SpOrd) (ofs : BitVec 16) (s : State) : Out :=
  runInstr s (.lds gd d base idx size ord ofs) fun s q slot g =>
    let n := sizeBytes size
    if !(g.dataOk d.toNat n && selOk g base && selOk g idx) then .trap Trap.operand
    else
      match s.crew? q g with
      | none => .trap (spTrap g.em (fun _ => 0) (sizeField size))
      | some c =>
        let m := guardMask g gd
        let a := fun l => spAddr (selAt g base l) (selAt g idx l) ofs.toInt
        let fails := maskOf (fun l => m.getLsbD l && !c.spOk (a l) n)
        if fails ≠ 0#32 then .trap (spTrap fails a (sizeField size))
        else
          let g := g.takeFq [base, idx]
          let parts := (maskLanes m).flatMap (fun l => readParts l (a l) n d.toNat)
          let ops := (byWord parts).map (fun e => (e.1, BankOp.read e.2))
          let fid := s.nextId
          let s := s.flyV q slot g ((dataDests d.toNat n m).map (fun x => (x, Lanes.zero))) flNone ops.length
          let ids := (List.range ops.length).map (fun i => s.nextId + i)
          let s := s.bankEnter q slot g.orderIds (some fid) ops
          match ord with
          | .plain => .next s .none none
          | .ordered crew =>
            if m = 0#32 then
              match s.group? q slot with
              | none => .stall
              | some h => .next (s.fence q slot h (.acq (if crew then .crew else .grp))) .none none
            else .next (s.addOrder q slot ids false false false false).settle .none none

/-- What a narrow release on a scratchpad access follows (R126, R389): the group's reads, its earlier scratchpad requests,
and its stores that a hazard or an order holds back. -/
def State.spReleaseHold (s : State) (q slot : Nat) (o : Owner) : List Nat :=
  s.readsOf o ++ (match s.quad? q with
    | some x => x.bankIds slot
    | none => []) ++ s.mergesOf o ++ s.ticketsOf o

/-- `STS` (R389, R71, R96). An ordered one in which no lane takes part is a fence, which raises no trap in an open loop (R127); it
still raises 0x02 for its operands, which are no lane's (DESIGN CHOICE, log 83). -/
def execSts (gd : Guard) (data : BitVec 7) (base idx : Sel) (size : Size) (ord : SpOrd) (ofs : BitVec 16) (s : State) : Out :=
  runInstr s (.sts gd data base idx size ord ofs) fun s q slot g =>
    let n := sizeBytes size
    if !(g.dataOk data.toNat n && selOk g base && selOk g idx) then .trap Trap.operand
    else
      match s.crew? q g with
      | none => .trap (spTrap g.em (fun _ => 0) (sizeField size))
      | some c =>
        let m := guardMask g gd
        let a := fun l => spAddr (selAt g base l) (selAt g idx l) ofs.toInt
        let fails := maskOf (fun l => m.getLsbD l && !c.spOk (a l) n)
        if fails ≠ 0#32 then .trap (spTrap fails a (sizeField size))
        else if g.inLoop && (m != 0#32 || ord == .plain) then .trap (loopTrap s 3)
        else
          let enter (s : State) (hold : List Nat) : State :=
            let items := (maskLanes m).flatMap (fun l =>
              ((g.dataBytes data.toNat n l).zipIdx).map (fun b => ((a l + b.2) / 8, (a l + b.2, b.1))))
            let ops := (byWord items).map (fun e => (e.1, BankOp.write (e.2.foldl (fun w (b : Nat × Byte) => NMap.set w b.1 b.2) [])))
            (s.setGroup q slot (g.takeFq [base, idx])).bankEnter q slot (g.orderIds ++ g.relReads ++ hold) none ops
          match ord with
          | .plain => .next (enter s []) .none none
          | .ordered crew =>
            let sc : Scope := if crew then .crew else .grp
            if m = 0#32 then .next ((s.setGroup q slot (g.takeFq [base, idx])).fence q slot (g.takeFq [base, idx]) (.rel sc)) .none none
            else
              let s := s.releaseMove (g.owner q slot) sc
              .next (enter s (s.spReleaseHold q slot (g.owner q slot))).settle .none none

/-- `ATOMS` (R161, R162, R165, R285); a combined form gives the same results, so `.agg` changes nothing (R164). -/
def execAtoms (gd : Guard) (d : BitVec 7) (base idx data : Sel) (op : AtOp) (ord : AtOrd) (ty : AtTy) (agg nd : Bool)
    (ofw : BitVec 7) (s : State) : Out :=
  runInstr s (.atoms gd d base idx data op ord ty agg nd ofw) fun s q slot g =>
    let n := atomBytes ty
    let dp := if ty = .s64 then pairSel g data else none
    let okD := nd || g.dataOk d.toNat n
    let okData := if ty = .s64 then dp.isSome else selOk g data
    if !(okD && okData && selOk g base && selOk g idx) then .trap Trap.operand
    else
      let size := if ty = .s64 then 3 else 2
      match s.crew? q g with
      | none => .trap (spTrap g.em (fun _ => 0) size)
      | some c =>
        let m := guardMask g gd
        let a := fun l => spAddr (selAt g base l) (selAt g idx l) (4 * ofw.toNat : Int)
        let fails := maskOf (fun l => m.getLsbD l && !c.spOk (a l) n)
        if fails ≠ 0#32 then .trap (spTrap fails a size)
        else if g.inLoop && (m != 0#32 || ord == .plain) then .trap (loopTrap s 3)
        else
          let val := fun l => match dp with
            | some x => pairAt g x l
            | none => (selAt g data l).setWidth 64
          let cmp := fun l => if ty = .s64 then g.lane (d.toNat + 1) l ++ g.lane d.toNat l else (g.lane d.toNat l).setWidth 64
          let dest := if nd then none else some d.toNat
          let items := (maskLanes m).map (fun l =>
            (a l / 8, ({ lane := l, ofs := a l, data := val l, cmp := cmp l, ver := 0#32 } : Elem)))
          let ops := (byWord items).map (fun e => (e.1, BankOp.atom op ty dest e.2))
          let sels := [base, idx, data]
          let acq : Option Scope := match ord with
            | .acq sc | .acqrel sc => some sc
            | _ => none
          let rel : Option Scope := match ord with
            | .rel sc | .acqrel sc => some sc
            | _ => none
          let g1 := g.takeFq sels
          if m = 0#32 then
            let k : Option FenceKind := match ord with
              | .plain => none
              | .acq sc => some (.acq sc)
              | .rel sc => some (.rel sc)
              | .acqrel sc => some (.acqrel sc)
            let s := if nd then s.setGroup q slot g1
              else s.flyV q slot g1 ((dataDests d.toNat n 0#32).map (fun x => (x, Lanes.zero))) flNone 0
            match k, s.group? q slot with
            | some k, some h => .next (s.fence q slot h k) .none none
            | _, _ => .next s .none none
          else
            let s := match rel with
              | some sc => s.releaseMove (g.owner q slot) sc
              | none => s
            let fid := s.nextId
            let s := if nd then s.setGroup q slot g1
              else s.flyV q slot g1 ((dataDests d.toNat n m).map (fun x => (x, Lanes.zero))) flNone ops.length
            let ids := (List.range ops.length).map (fun i => s.nextId + i)
            let hold := if rel.isSome then s.spReleaseHold q slot (g.owner q slot) else []
            let s := s.bankEnter q slot (g.orderIds ++ g.relReads ++ hold) (if nd then none else some fid) ops
            .next (if acq.isSome then s.addOrder q slot ids false false false false else s).settle .none none

/-! ### Gates (R156, R158, R159) -/

/-- A gate's fields (R156). -/
def gatePH (w : Nat) : Bool := w.testBit 63
def gateEXPA (w : Nat) : Nat := w / 2 ^ 48 % 2 ^ 15
def gatePENA (w : Nat) : Nat := w / 2 ^ 32 % 2 ^ 15
def gatePENB (w : Nat) : Nat := w % 2 ^ 32

/-- A gate from its fields: bit 47 is written 0 (R156). -/
def gateOf (ph : Bool) (expa pena penb : Nat) : Nat := (if ph then 2 ^ 63 else 0) + expa * 2 ^ 48 + pena * 2 ^ 32 + penb

/-- The test of R158: with nothing pending the phase flips and the arrivals start again. -/
def gateTest (ph : Bool) (expa pena penb : Nat) : Nat :=
  if pena = 0 ∧ penb = 0 then gateOf (!ph) expa expa 0 else gateOf ph expa pena penb

/-- `arrive` (R158). -/
def gateArrive (w : Nat) : Nat := gateTest (gatePH w) (gateEXPA w) ((gatePENA w + 2 ^ 15 - 1) % 2 ^ 15) (gatePENB w)

/-- `expect` (R158). -/
def gateExpect (w n : Nat) : Nat := gateTest (gatePH w) (gateEXPA w) (gatePENA w) ((gatePENB w + n) % 2 ^ 32)

/-- A copy's completion of k bytes (R158). -/
def gateCopied (w k : Nat) : Nat := gateTest (gatePH w) (gateEXPA w) (gatePENA w) ((gatePENB w + 2 ^ 32 - k % 2 ^ 32) % 2 ^ 32)

/-- The sluice of a bank (R159): groups of the crew that wait on the gate at a word are released when the stored phase
differs from the one they wait with. -/
def State.sluice (s : State) (q : Nat) (g : Group) (word : Nat) : State :=
  match s.crew? q g with
  | none => s
  | some c =>
    let ph := gatePH (c.num (8 * word) 8)
    s.modQuad q (fun x => { x with groups := x.groups.map (fun e =>
      if c.has e.2 then
        match e.2.wait with
        | .gate a p false => if a / 8 = word ∧ p ≠ ph then (e.1, { e.2 with wait := .gate a p true }) else e
        | _ => e
      else e) })

/-- Runs the sluices of the words at some addresses that have been written (R159). -/
def State.sluices (s : State) (q : Nat) (g : Group) (as : List Nat) : State :=
  ((as.map (fun a => a / 8)).eraseDups).foldl (fun s w => s.sluice q g w) s

/-- The walker or a copy writes a run of scratchpad bytes, and the sluices watch it (R159, R215). -/
def State.sluiceRun (s : State) (q : Nat) (g : Group) (a n : Nat) : State :=
  s.sluices q g ((List.range ((a + n + 7) / 8 - a / 8)).map (fun i => 8 * (a / 8 + i)))

/-- Changes a gate in one indivisible step, then runs the sluice. -/
def State.gateStep (s : State) (q : Nat) (g : Group) (a : Nat) (f : Nat → Nat) : State :=
  ((s.modCrew q g (fun c => c.putNum a 8 (f (c.num a 8)))).markTile q g a 8).sluice q g (a / 8)

/-- The bounds trap of a gate's address (R324): the address in every lane of `em`. -/
def gateTrap (g : Group) (a : Nat) : Trap := spTrap g.em (fun _ => a) 3

/-- `GATE` (R157, R158, R160, R324). An operation enters the gate's bank queue behind the crew's earlier requests. A group
that its gate has released goes on: its address is not formed again from registers that `.sync` may have written. -/
def execGate (op : GateOp) (base : USel) (ofs : BitVec 16) (s : State) : Out :=
  runInstr s (.gate op base ofs) fun s q slot g =>
    let a := spAddr (uAt g base) 0#32 ofs.toInt
    let badPhase := match op with
      | .wait ph => decide (1 < (uAt g ph).toNat)
      | _ => false
    let okAddr := match s.crew? q g with
      | some c => c.spOk a 8
      | none => false
    let over_ : Bool := match g.wait with
      | .gate .. => true
      | _ => false
    if over_ then .next s .none none
    else if badPhase then .trap Trap.operand
    else if !okAddr then .trap (gateTrap g a)
    else
      let now := fun (s : State) => match s.crew? q g with
        | some c => c.num a 8
        | none => 0
      let arrive (d : BitVec 6) (sync : Bool) : Body := relThen .crew
        (untilThen .applied (fun s q slot _ => s.applied q slot)
          (untilThen .crewIdle (fun s q _ g => s.crewIdle q g) fun s q slot g =>
            let ph := gatePH (now s)
            let s := (s.setGroup q slot (g.setS d.toNat (boolWord ph))).gateStep q g a gateArrive
            if sync && gatePH (now s) == ph then .wait s (.gate a ph false) else .next s .none none))
      match op with
      | .arrive d => arrive d false s q slot g
      | .sync d => arrive d true s q slot g
      | .wait ph =>
        if g.orders ≠ [] then .wait s (.until .orders)
        else untilThen .crewIdle (fun s q _ g => s.crewIdle q g) (fun s _ _ g =>
          let p := (uAt g ph).toNat == 1
          if gatePH (now s) != p then .next s .none none else .wait s (.gate a p false)) s q slot g
      | .expect n =>
        if g.orders ≠ [] ∨ g.relReads ≠ [] then .wait s (.until .reads)
        else untilThen .crewIdle (fun s q _ g => s.crewIdle q g) (fun s q _ g =>
          .next (s.gateStep q g a (fun w => gateExpect w (uAt g n).toNat)) .none none) s q slot g

/-! ### The service of a bank (R98) -/

/-- Adds values to a class V result under way: register, lane, word; and one request less is outstanding. -/
def VFlight.take (f : VFlight) (ws : List (Nat × Nat × Word)) : VFlight :=
  { f with waiting := f.waiting - 1,
           dests := f.dests.map (fun e => (e.1, lanesOf (fun l =>
             match ws.find? (fun w => w.1 == e.1.reg && w.2.1 == l) with
             | some w => w.2.2
             | none => Lanes.at e.2 l))) }

/-- The register writes of a read of a word's lanes. -/
def readWrites (c : Crew) (lanes : List (Nat × Nat × Nat × Nat)) : List (Nat × Nat × Word) :=
  lanes.flatMap (fun e =>
    let x := c.num e.2.1 e.2.2.1
    if e.2.2.1 = 8 then [(e.2.2.2, e.1, BitVec.ofNat 32 x), (e.2.2.2 + 1, e.1, BitVec.ofNat 32 (x / 2 ^ 32))]
    else [(e.2.2.2, e.1, BitVec.ofNat 32 x)])

/-- Performs a request at its bank: the crew's scratchpad after it, the register writes, whether it wrote. -/
def BankOp.perform (op : BankOp) (c : Crew) : Crew × List (Nat × Nat × Word) × Bool :=
  match op with
  | .read ls => (c, readWrites c ls, false)
  | .write bs => (c.put bs, [], true)
  | .atom op ty d es =>
    let r := es.foldl (fun (acc : Crew × List (Nat × Nat × Word)) e =>
      let n := atomBytes ty
      let old : DWord := BitVec.ofNat 64 (acc.1.num e.ofs n)
      (acc.1.putNum e.ofs n (atomNew op ty old e.data e.cmp).toNat, acc.2 ++ atomWrites ty d e.lane old)) (c, [])
    (r.1, r.2, true)
  | .gate a n _ => (c.putNum a 8 (gateCopied (c.num a 8) n), [], true)

/-- A group's crew as it will be when the group's own requests in the bank queues have been applied, each bank's in its order: what the
group's walker finds, which comes behind them (R215). -/
def State.walkerCrew (s : State) (q slot : Nat) (g : Group) : Option Crew :=
  (s.quad? q).bind (fun x => (x.crewOf? g).map (fun c =>
    ((x.banks.flatMap (fun e => e.2)).filter (fun r => r.slot == slot && r.own)).foldl (fun c r => (r.op.perform c).1) c))

/-- Runs of scratchpad bytes that a group's crew has written: the operand windows and the gates notice them (R159, R204). -/
def State.spWritten (s : State) (q : Nat) (g : Group) (runs : List (Nat × Nat)) : State :=
  runs.foldl (fun s (e : Nat × Nat) => (s.markTile q g e.1 e.2).sluiceRun q g e.1 e.2) s

/-- Runs of bytes that a group's walker writes: at once, or behind the group's own requests that have still to enter the bank queues
(R98, R215). -/
def State.walkerWrite (s : State) (q slot : Nat) (g : Group) (runs : List (Nat × List Byte)) : State :=
  let bytes : NMap Byte := runs.flatMap (fun e => e.2.zipIdx.map (fun b => (e.1 + b.2, b.1)))
  if (s.quad? q).all (fun x => (x.bankIds slot).isEmpty) then
    (s.modCrew q g (fun c => c.put bytes)).spWritten q g (runs.map (fun e => (e.1, e.2.length)))
  else s.bankEnter q slot [] none ((byWord (bytes.map (fun e => (e.1 / 8, e)))).map (fun e => (e.1, .write e.2)))

/-- The request of a bank's queue that is served next, the oldest that has entered it (R98), and the bank's requests without
it. -/
def pickReq (l : List BankReq) : Option (BankReq × List BankReq) :=
  (l.find? (fun r => !(outside l []).contains r.id)).map (fun r => (r, l.filter (fun o => o.id != r.id)))

/-- A bank serves the oldest request that has entered its queue (R96, R98, R159); `none` where there is none. -/
def State.serveBank (s : State) (q bank : Nat) : Option State :=
  (s.quad? q).bind fun x => (pickReq (x.bank bank)).map fun (p : BankReq × List BankReq) =>
    let r := p.1
    let s := s.setQuad q { x with banks := if p.2.isEmpty then NMap.erase x.banks bank else NMap.set x.banks bank p.2 }
    match NMap.get? x.groups r.slot with
    | none => (s.over r.id).settle
    | some g =>
      match x.crewOf? g with
      | none => (s.over r.id).settle
      | some c =>
        let p := r.op.perform c
        let s := if p.2.2 then ((s.modCrew q g (fun _ => p.1)).markTile q g (8 * r.word) 8).sluice q g r.word else s
        let s := match r.flight with
          | none => s
          | some id => s.modGroup q r.slot (fun g => { g with vflights := g.vflights.map (fun (f : VFlight) =>
              if f.id = id then f.take p.2.1 else f) })
        (s.over r.id).settle

/-- `SCRATCHPAD_BANK_SERVICE` (R96, R98, R159): the oldest request of a bank that follows nothing more is served. -/
def execScratchpadBankService (q bank : Nat) (s : State) : Out :=
  match s.quad? q with
  | none => .refused (.notEnabled "SCRATCHPAD_BANK_SERVICE: no quadrant")
  | some _ =>
    match s.serveBank q bank with
    | none => .refused (.notEnabled "SCRATCHPAD_BANK_SERVICE: no request can be served")
    | some t => .next t

/-- A bank serves what has entered its queue, at most `n` requests. -/
def State.drainBank (s : State) (q bank : Nat) : Nat → State
  | 0 => s
  | n + 1 =>
    match s.serveBank q bank with
    | none => s
    | some t => t.drainBank q bank n

/-- The banks of a quadrant serve what has entered their queues: before the walker touches its record in the middle of a jet, which
never waits there (R35, R215; DESIGN CHOICE, log 66). -/
def State.drainBanks (s : State) (q : Nat) : State :=
  match s.quad? q with
  | none => s
  | some x => x.banks.foldl (fun s (e : Nat × List BankReq) => s.drainBank q e.1 e.2.length) s

/-- Runs a body once the banks have served what entered them before. -/
def drainedThen (drains : Bool) (body : Body) : Body := fun s q slot g =>
  if !drains then body s q slot g
  else
    let s := s.drainBanks q
    match s.group? q slot with
    | none => .stall
    | some g => body s q slot g

/-- A write in an open loop reads the walker's record, behind the crew's requests in the bank queues (R215). -/
def inLoopOrder (writes : Bool) (body : Body) : Body := fun s q slot g =>
  drainedThen (writes && g.inLoop && !s.crewIdle q g) body s q slot g

end Sys2Proof.Machine
end

