-- ==== Sys2Proof/Machine/Loops.lean ====
section
/-! DEFINITION. Overwriting loops (R213 to R224, R363): the walker record in scratchpad, the classes of a write in an
open loop, and `OWBEGIN`, `OWFOOT` and `OWNEXT`. -/

namespace Sys2Proof.Machine

/-! ### The walker record (R214) -/

/-- What the walker reads of a record. -/
structure Walker where
  cap : DWord
  len : Nat
  n : Nat
  k : Nat
  gran : Nat
  depth : Nat
  active : Mask
  deriving DecidableEq, Repr

def Crew.walker (c : Crew) (m : Nat) : Walker :=
  let w := c.num (m + 0x14) 4
  { cap := BitVec.ofNat 64 (c.num m 8), len := c.num (m + 8) 4, n := c.num (m + 0xC) 4, k := c.num (m + 0x10) 4,
    gran := 4 * 2 ^ (w % 8), depth := w / 256 % 32, active := BitVec.ofNat 32 (c.num (m + 0x18) 4) }

/-- An unused slot (R214). -/
def noCell : Nat := 0xFFFFFFFF

/-- The declared cells of a lane, by slot. -/
def Crew.cells (c : Crew) (m l : Nat) : List Nat := (List.range 4).map (fun j => c.num (m + 0x20 + 16 * l + 4 * j) 4)

/-- Whether lane l owns the cell in its slot j. -/
def Crew.owns (c : Crew) (m l j : Nat) : Bool := (c.num (m + 0x220) 16).testBit (4 * l + j)

/-- The mantle's bit for a cell. -/
def Crew.mantle (c : Crew) (m cell : Nat) : Bool := (c.byte (m + 0x240 + cell / 8)).getLsbD (cell % 8)

/-- The size of a record (R214). -/
def walkerSize (cells : Nat) : Nat := 0x240 + 8 * ((cells + 63) / 64)

/-- The iteration number of a lane in the batch (R218). -/
def Walker.iter (w : Walker) (l : Nat) : Int := (w.n : Int) - 1 - 32 * w.k - l

/-! ### The class of a byte (R219) -/

/-- How a byte that a lane would write is classed. -/
inductive LoopByte where
  | outside | undeclared | suppressed | performed
  deriving DecidableEq, Repr

def Crew.loopByte (c : Crew) (m l dev obj x : Nat) : LoopByte :=
  let w := c.walker m
  let base := capOfs w.cap
  if dev ≠ capDev w.cap ∨ obj ≠ capObj w.cap ∨ x < base ∨ base + w.len ≤ x then .outside
  else
    let cell := (x - base) / w.gran
    let slots := (c.cells m l).zipIdx
    if !(slots.any (fun e => e.1 == cell)) then .undeclared
    else if slots.any (fun e => e.1 == cell && c.owns m l e.2) then .performed else .suppressed

/-- One lane's write: lane, device, object, offset, bytes. -/
structure LaneWrite where
  lane : Nat
  dev : Nat
  obj : Nat
  ofs : Nat
  n : Nat
  deriving DecidableEq, Repr

/-- The check of an open loop on the lanes' writes (R219): the trap, or whether a byte of a lane is kept. -/
def State.loopCheck (s : State) (q slot : Nat) (g : Group) (ws : List LaneWrite) (size kind : Nat) : Except Trap (Nat → Nat → Bool) :=
  match g.loop, s.walkerCrew q slot g with
  | some lp, some c =>
    if !g.inLoop then .ok (fun _ _ => true)
    else
      let cls := fun (w : LaneWrite) (i : Nat) => c.loopByte lp.m w.lane w.dev w.obj (w.ofs + i)
      let has := fun (w : LaneWrite) (k : LoopByte) => (List.range w.n).any (fun i => cls w i == k)
      let fail := fun (reason : Nat) (bad : List LaneWrite) =>
        let em := maskOf (fun l => bad.any (fun w => w.lane == l))
        let low := (maskLanes em).headD 0
        let cap := fun l => ((bad.find? (fun w => w.lane == l)).map (fun w => mkCap w.dev w.obj w.ofs)).getD 0#64
        { Trap.own 0x0D 0 reason with
            s58 := some (BitVec.ofInt 32 ((c.walker lp.m).iter low)), em := some em,
            v120 := lanesOf (fun l => (cap l).setWidth 32), v121 := lanesOf (fun l => (cap l).extractLsb' 32 32),
            v122 := lanesOf (fun l => if em.getLsbD l then v122Of (bad.any (fun w => w.lane == l && w.dev != devHere)) size kind else 0#32) }
      let out := ws.filter (fun w => has w .outside)
      let und := ws.filter (fun w => has w .undeclared)
      if !out.isEmpty then .error (fail 1 out)
      else if !und.isEmpty then .error (fail 2 und)
      else .ok (fun l x => match ws.find? (fun w => w.lane == l) with
        | some w => c.loopByte lp.m l w.dev w.obj x == .performed
        | none => true)
  | _, _ => .ok (fun _ _ => true)

/-- The lanes none of whose bytes are suppressed (R219): the others are suppressed whole. -/
def wholeLanes (ws : List LaneWrite) (keep : Nat → Nat → Bool) : Mask :=
  maskOf (fun l => ws.any (fun w => w.lane == l && (List.range w.n).all (fun i => keep l (w.ofs + i))))

/-! ### The instructions -/

def granCode : Gran → Nat
  | .g4 => 0
  | .g8 => 1
  | .g16 => 2
  | .g32 => 3
  | .g64 => 4
  | .g128 => 5

/-- Step 3 of R216: the region as one access. -/
def checkRegion (b : Basin) (c : DWord) (len gran : Nat) : Except Trap Unit :=
  let bad (code s59 : Nat) : Except Trap Unit := .error (Trap.lane0 code s59 c 0 kindStore)
  match checkAccess b c (capOfs c) len 1 Rights.none with
  | .error e => bad e.code e.s59
  | .ok () =>
    if len = 0 then bad 0x06 1
    else if len % gran ≠ 0 ∨ capOfs c % gran ≠ 0 then bad 0x06 2
    else
      match checkAccess b c (capOfs c) len 1 Rights.w with
      | .error e => bad e.code e.s59
      | .ok () => .ok ()

/-- `OWBEGIN` (R216, R363). The walker's writes follow the crew's requests in the bank queues (R215). In a handler an open loop is no
reason to trap (R220), and the loop that `OWBEGIN` opens replaces it. DESIGN CHOICE (log 72): A and the reserved word 0x01C are written
with 0, which R216 does not state; unsafe for a claim on their contents before the first `OWFOOT`. -/
def execOwbegin (cr : BitVec 6) (cap : BitVec 8) (len : USel) (gran : Gran) (s : State) : Out :=
  runInstr s (.owbegin cr cap len gran) fun s q slot g =>
    match capPair g cap with
    | none => .trap Trap.operand
    | some c =>
      if cr.toNat % 2 ≠ 0 then .trap Trap.operand
      else if g.em ≠ Mask.all then .trap (Trap.own 0x04 g.em.toNat 0)
      else if g.inLoop then .trap (loopTrap s 3)
      else
        let l := (uAt g len).toNat
        let gs := 4 * 2 ^ granCode gran
        match checkRegion (s.basin g.basin) c l gs with
        | .error t => .trap t
        | .ok () =>
          let cells := l / gs
          let m := (g.getS (cr.toNat + 1)).toNat
          let n := (g.getS cr.toNat).toNat
          let scr := ((s.crew? q g).map (fun x => x.scr)).getD 0
          if 262144 < cells then .trap Trap.operand
          else if m % 8 ≠ 0 ∨ scr * 1024 < m + walkerSize cells then .trap (spTrap 1#32 (fun _ => m) 0)
          else
            match s.fetchWord g (g.pc + 8) with
            | .error t => .trap t
            | .ok w =>
              let f := W1.ofWord w
              if f.s || !f.x || f.op.toNat != 0x26 then .trap (loopTrap s 4)
              else if g.orders ≠ [] then .wait s (.until .orders)
              else untilThen .crewIdle (fun s q _ g => s.crewIdle q g) (fun s q slot g =>
                let s := s.modCrew q g (fun x =>
                  let x := (((x.putNum m 8 c.toNat).putNum (m + 8) 4 l).putNum (m + 0xC) 4 n).putNum (m + 0x10) 4 0
                  let x := (x.putNum (m + 0x14) 4 (granCode gran + 256 * g.stack.length)).putNum (m + 0x18) 8 0
                  { x with sp := x.sp.filter (fun e => !(decide (m + 0x240 ≤ e.1) && decide (e.1 < m + walkerSize cells))) })
                let s := s.modGroup q slot (fun h => { h with loop := some { m := m, b := g.pc + 8 }, loopM := m })
                .next (s.spWritten q g [(m, walkerSize cells)]) .none none) s q slot g

/-- The cells that a lane declares, each once (R217). DESIGN CHOICE (log 73): a cell that a lane names again leaves a last slot unused;
unsafe for a claim on which slots of the record hold the cells. -/
def declared (gran : Nat) (offs : List Nat) : List Nat := (offs.map (fun o => o / gran)).eraseDups

/-- The lanes of W before l that declare a cell. -/
def coveredBy (cells : Nat → List Nat) (w : List Nat) (l cell : Nat) : Bool :=
  w.any (fun k => decide (k < l) && (cells k).contains cell)

/-- The record that the walker of a group touches. A handler runs free of the loop's checks (R220), so that without an open loop it walks
the record at the M that the group slot keeps, the last loop's, or 0 before any (R214; DESIGN CHOICE, log 87); an `OWFOOT` there counts as
being at B. -/
def Group.walks (g : Group) : Option OpenLoop :=
  match g.loop with
  | some lp => some lp
  | none => if g.handler then some { m := g.loopM, b := g.pc } else none

/-- `OWFOOT` (R217, R218, R363): the walker touches its record behind the requests in the bank queues (R215). A handler is free of its
reasons 4 and 5 (R220). Reason 5 reports of each lane the first selector whose offset is not below len, with no kind of access in `v122`
(R224; DESIGN CHOICE, log 88). -/
def execOwfoot (d : BitVec 7) (sels : List Sel) (s : State) : Out :=
  runInstr s (.owfoot d sels) fun s q slot g => drainedThen (!s.crewIdle q g) (fun s q slot g =>
    if !(g.vOk d.toNat && sels.all (selOk g)) then .trap Trap.operand
    else if !s.trailAt g (g.pc + 8) then .trap (Trap.own 0x03 2 0)
    else
      match g.walks, s.walkerCrew q slot g with
      | some lp, some c =>
        if !g.handler && g.pc != lp.b then .trap (loopTrap s 4)
        else
          let w := c.walker lp.m
          let ls := (List.range 32).filter (fun l => decide (0 ≤ w.iter l))
          let offs := fun l => sels.map (fun x => (selAt g x l).toNat)
          let bad := ls.filter (fun l => (offs l).any (fun o => decide (w.len ≤ o)))
          if !g.handler && !bad.isEmpty then
            let em := maskOf (fun l => bad.contains l)
            let cap := fun l => if bad.contains l then
              capAt w.cap ((capOfs w.cap : Int) + (((offs l).find? (fun o => decide (w.len ≤ o))).getD 0 : Nat)) else 0#64
            .trap { loopTrap s 5 with em := some em, v120 := lanesOf (fun l => (cap l).setWidth 32),
                                      v121 := lanesOf (fun l => (cap l).extractLsb' 32 32) }
          else if rejoinMax ≤ g.stack.length then .trap (stackTrap g 0)
          else
            let cells := fun l => if ls.contains l then declared w.gran (offs l) else []
            let own := fun l j => match (cells l)[j]? with
              | some x => !c.mantle lp.m x && !coveredBy cells ls l x
              | none => false
            let active := maskOf (fun l => ls.contains l && (List.range 4).any (fun j => own l j))
            let ownBits := (List.range 128).foldl (fun a i => if own (i / 4) (i % 4) then a + 2 ^ i else a) 0
            let e : Rejoin := { pending := false, mask := g.em, addr := lp.b }
            let it := lanesOf (fun l => BitVec.ofInt 32 (w.iter l))
            let wm := maskOf (fun l => ls.contains l)
            let g := (g.takeFq sels).pendV false d.toNat wm it flNone
            let out := lanesOf (fun l => if wm.getLsbD l then Lanes.at it l else g.lane d.toNat l)
            .next ((s.setGroup q slot { g with stack := e :: g.stack, em := active }).walkerWrite q slot g
              [(lp.m + 0x18, natBytes 4 active.toNat),
               (lp.m + 0x20, (List.range 128).flatMap (fun i => natBytes 4 ((cells (i / 4)).getD (i % 4) noCell))),
               (lp.m + 0x220, natBytes 16 ownBits)]) (.lane out) none
      | _, _ => .trap (loopTrap s 4)) s q slot g

/-- `OWNEXT` (R221, R363). A handler is free of its reasons 4 and 6 (R220); without an open loop it goes back to the address in the entry
that it pops, and without an entry it goes on (DESIGN CHOICE, log 87). Where a handler has changed what the record says of cells and
GRAN, so that a mantle bit lies past the crew's scratchpad, that address of the scratchpad is read and written all the same: the device
checks nothing (R215; DESIGN CHOICE, log 89). -/
def execOwnext (s : State) : Out :=
  runInstr s .ownext fun s q slot g =>
    match g.walks, s.crew? q g with
    | some lp, some c =>
      if g.orders ≠ [] then .wait s (.until .orders)
      else if !s.crewIdle q g then .wait s (.until .crewIdle)
      else if !g.handler && g.stack.length != (c.walker lp.m).depth + 1 then .trap (loopTrap s 6)
      else
        let w := c.walker lp.m
        let owned := (maskLanes w.active).flatMap (fun l =>
          ((c.cells lp.m l).zipIdx.filter (fun e => e.1 != noCell && c.owns lp.m l e.2)).map (fun e => e.1))
        let k := (w.k + 1) % 2 ^ 32
        let s := s.modCrew q g (fun x =>
          (owned.foldl (fun x cell =>
            let a := lp.m + 0x240 + cell / 8
            x.put [(a, x.byte a ||| (1#8 <<< (cell % 8)))]) x).putNum (lp.m + 0x10) 4 k)
        let top := g.stack.head?
        let g := { g with stack := g.stack.drop 1, em := (top.map (fun e => e.mask)).getD g.em }
        let back := if g.loop.isSome then some lp.b else top.map (fun e => e.addr)
        let runs := (lp.m + 0x10, 4) :: owned.map (fun cell => (lp.m + 0x240 + cell / 8, 1))
        if 32 * k < w.n then .next ((s.setGroup q slot g).spWritten q g runs) .none back
        else .next ((s.setGroup q slot { g with loop := none }).spWritten q g runs) .none none
    | _, _ => .trap (loopTrap s 4)

end Sys2Proof.Machine
end

