-- ==== Sys2Proof/Machine/Access.lean ====
section
/-! DEFINITION. Capability accesses at their issue (R70, R79, R119, R229): the checks of the taking-part lanes, their
distinct lines, the descent hazards, the requests, and the orderings on an access (R126, R127). -/

namespace Sys2Proof.Machine

/-! ### Lanes -/

/-- One lane's access: the capability and the exact offset (R70). -/
structure LaneAcc where
  lane : Nat
  cap : DWord
  ofs : Int
  deriving DecidableEq, Repr

/-- The accesses of the lanes of a mask. -/
def laneAccs (g : Group) (m : Mask) (p : PairSel) (idx : Sel) (ofs : Int) : List LaneAcc :=
  (maskLanes m).map (fun l =>
    let c := pairAt g p l
    { lane := l, cap := c, ofs := (capOfs c : Int) + (selAt g idx l).toInt + ofs })

/-- The offset after a check has passed. -/
def LaneAcc.at (x : LaneAcc) : Nat := x.ofs.toNat
def LaneAcc.dev (x : LaneAcc) : Nat := capDev x.cap
def LaneAcc.obj (x : LaneAcc) : Nat := capObj x.cap
def LaneAcc.line (x : LaneAcc) : Nat := x.at / 128

/-- The trap of the lanes that fail one cause (R229, R244, R245). -/
def laneTrap (code s59 : Nat) (bad : List LaneAcc) (size kind : Nat) : Trap :=
  let em := maskOf (fun l => bad.any (fun x => x.lane == l))
  let cap (l : Nat) : DWord := ((bad.find? (fun x => x.lane == l)).map (fun x => capAt x.cap x.ofs)).getD 0#64
  let rem (l : Nat) : Bool := bad.any (fun x => x.lane == l && x.dev != devHere)
  { Trap.plain code with
      s59 := some (BitVec.ofNat 32 s59), em := some em,
      v120 := lanesOf (fun l => (cap l).setWidth 32), v121 := lanesOf (fun l => (cap l).extractLsb' 32 32),
      v122 := lanesOf (fun l => if em.getLsbD l then v122Of (rem l) size kind else 0#32) }

/-- The checks of R229 for some accesses, each with the rights it needs: the first cause in its order that any lane fails,
with the lanes that fail it. Lanes that fail one step with different `s59` count as one cause, reported with the lowest lane's value
(R229 does not say; DESIGN CHOICE, log 91). -/
def checkAccs (b : Basin) (xs : List (LaneAcc × Rights)) (n al : Nat) (size kind : Nat) : Except Trap Unit :=
  let fails := xs.filterMap (fun x =>
    match checkAccess b x.1.cap x.1.ofs n al x.2 with
    | .ok () => none
    | .error e => some (x.1, e))
  match fails with
  | [] => .ok ()
  | (_, e0) :: _ =>
    let step := fails.foldl (fun a e => min a e.2.step) e0.step
    let mine := fails.filter (fun e => e.2.step == step)
    match mine with
    | [] => .ok ()
    | (_, e) :: _ => .error (laneTrap e.code e.s59 (mine.map (fun x => x.1)) size kind)

/-- The same for one access a lane, all with the same rights. -/
def checkLanes (b : Basin) (xs : List LaneAcc) (n al : Nat) (need : Rights) (size kind : Nat) : Except Trap Unit :=
  checkAccs b (xs.map (fun x => (x, need))) n al size kind

/-- The distinct lines of some accesses, in the order in which the lanes first name them, with the lanes of each. -/
def byLine (xs : List LaneAcc) : List ((Nat × Nat × Nat) × List LaneAcc) :=
  ((xs.map (fun x => (x.dev, x.obj, x.line))).eraseDups).map (fun k =>
    (k, xs.filter (fun x => (x.dev, x.obj, x.line) == k)))

def accMask (xs : List LaneAcc) : Mask := maskOf (fun l => xs.any (fun x => x.lane == l))

/-! ### The object lookaside buffer (R230) -/

/-- The buffer after some objects' descriptors have been used: most recent first, at most 96, valid ones only. -/
def Quad.olbTouch (x : Quad) (ks : List (Nat × Nat)) : Quad :=
  { x with olb := ks.foldl (fun o k => (k :: o.filter (· != k)).take 96) x.olb }

/-! ### Hazards and requests (R119) -/

/-- What a younger access of a group to some lines waits for in the quadrant: matching hazard entries and overflow
marks (R119), and the requests of the group's older instructions on the line that still wait there. -/
def State.holdsOf (s : State) (o : Owner) (keys flight : List Nat) : List Nat :=
  let hz := match s.quad? o.q with
    | some x => (x.hazards.filter (fun h => h.slot == o.slot && (match h.line with
        | none => true
        | some k => keys.contains k))).flatMap (fun h => h.ids)
    | none => []
  let own := s.reqIds (fun r => r.owner == o && r.st == .held && !r.again && (flight.isEmpty || r.flight != flight) && r.keys.any (fun k => keys.contains k))
  (hz ++ own).eraseDups

/-- The orders that the accesses of an owner follow (R126), with the reads that a write follows after a release fence (R129). -/
def State.ordersOf (s : State) (o : Owner) (write : Bool) : List Nat :=
  ((s.ownerGroup? o).map (fun g => g.orderIds ++ (if write then g.relReads else []))).getD []

/-- What an access's ordering brings to its request: of a release what it must follow, and whether its scope is wide (R126); the
codes of the ordering and its scope (R69). -/
structure RelHold where
  on : Bool
  wide : Bool
  ids : List Nat
  ord : Nat
  scope : Nat
  deriving DecidableEq, Repr

/-- No ordering. -/
def RelHold.none : RelHold := { on := false, wide := false, ids := [], ord := 0, scope := 0 }

/-- Issues one request of the load-store path; its ordering brings what it must follow. -/
def State.issueReq (s : State) (o : Owner) (r : Req) (h : RelHold) : State :=
  s.addReq { r with
    holdFor := (s.holdsOf o r.keys r.flight ++ s.ordersOf o r.kind.writeClass ++ h.ids).eraseDups, rel := h.on, wide := h.wide, ord := h.ord,
    scope := h.scope }

/-- Issues one request of another path: it never waits in the hazard table (R119). -/
def State.issueFree (s : State) (r : Req) : State := s.addReq { r with holdFor := s.ordersOf r.owner r.kind.writeClass }

/-- Counts an instruction on its path and issues its requests: `mk` makes a request from a line and its lanes. The
numbers of the requests come with the state. -/
def State.issueLines (s : State) (q slot : Nat) (g : Group) (p : Path) (dests : List Dest)
    (ls : List ((Nat × Nat × Nat) × List LaneAcc)) (hold : RelHold) (mk : List LaneAcc → ReqKind) (n : Nat := 4) :
    State × List Nat :=
  let fid := s.nextId
  let o := g.owner q slot
  let s := { s with nextId := s.nextId + 1 }
  let s := s.setGroup q slot (g.launchFlight fid p ls.length dests)
  let s := s.modQuad q (fun x => x.olbTouch (ls.map (fun l => (l.1.1, l.1.2.1))).eraseDups)
  let ids := (List.range ls.length).map (fun i => s.nextId + i)
  let s := ls.foldl (fun s l =>
    let r := { Req.new o (mk l.2) l.1.1 l.1.2.1 l.1.2.2 (accMask l.2) [fid] g.handler with
      accs := l.2.map (fun x => (x.lane, x.at, n)) }
    if p = .cst ∨ p = .smp then s.issueFree r else s.issueReq o r hold) s
  (s, ids)

/-! ### Orderings on an access (R126, R127) -/

/-- What a release on an access waits for, its entries having been sent (R126): the group's reads, its stores until they have
entered the outbound queue, and at a wide scope the acknowledgement of its writes. -/
def State.releaseHold (s : State) (o : Owner) (sc : Scope) : RelHold :=
  { RelHold.none with
    on := true, wide := scopeWide sc,
    ids := s.readsOf o ++ s.releaseWrites o sc false }

/-- The release and acquire sides of an access's ordering, with its codes (R69). -/
structure Ords where
  rel : Option Scope
  acq : Option (Scope × Bool)
  ord : Nat
  scope : Nat
  deriving DecidableEq, Repr

def ldOrds (x : LdOrd) : Ords :=
  let e := encLdOrd x
  { rel := none, ord := e.1.toNat, scope := e.2.toNat,
    acq := match x with
      | .plain => none
      | .acq sc => some (sc, false)
      | .acqRemote dev => some (if dev then .dev else .gang, true) }

def stOrds (x : StOrd) : Ords :=
  let e := encStOrd x
  { acq := none, ord := e.1.toNat, scope := e.2.toNat,
    rel := match x with
      | .rel sc => some sc
      | _ => none }

def atOrds (x : AtOrd) : Ords :=
  let e := encAtOrd x
  { ord := e.1.toNat, scope := e.2.toNat,
    rel := match x with
      | .rel sc | .acqrel sc => some sc
      | _ => none,
    acq := match x with
      | .acq sc | .acqrel sc => some (sc, false)
      | _ => none }

/-- An ordered instruction in which no lane takes part acts as a fence of its kind (R127). -/
def State.ordFence (s : State) (q slot : Nat) (o : Owner) (k : Ords) : State :=
  let s := match k.rel with
    | some sc => s.fenceMove q slot o sc
    | none => s
  match k.acq with
  | some (sc, rem) => s.fenceAcquire q slot o sc rem
  | none => s

/-- Runs an access with its ordering: the release before it, the requests, the order that an acquire leaves behind. -/
def State.ordered (s : State) (q slot : Nat) (o : Owner) (k : Ords) (none_ : Bool)
    (issue : State → RelHold → State × List Nat) : State :=
  if none_ then ((issue s RelHold.none).1.ordFence q slot o k).settle
  else
    let s := match k.rel with
      | some sc => s.releaseMove o sc
      | none => s
    let hold := match k.rel with
      | some sc => s.releaseHold o sc
      | none => RelHold.none
    let r := issue s { hold with ord := k.ord, scope := k.scope }
    let s := match k.acq with
      | some (sc, rem) => r.1.addOrder q slot r.2 false (sc == Scope.sys) rem (scopeWide sc)
      | none => r.1
    s.settle

end Sys2Proof.Machine
end

