-- ==== Sys2Proof/Machine/LoadStore.lean ====
section
/-! DEFINITION. The instructions of the load-store, constant and sampler paths at their issue: `LD` (R343, R344), `ST`
(R387, R388), `LDC` (R345), `SMPL` (R383 to R386), `LDU` (R347, R348), `STU` (R390, R391), `LDV` (R169, R170), `CASV`
(R171, R172), `VALSET` (R173 to R175), `ATOM` (R161 to R164), `DEP` (R122, R123). -/

namespace Sys2Proof.Machine

/-- `LD` (R343, R344). Its operand fields are checked though no lane takes part, an ordered one's too, as are those of `LDV`, `ST`, `ATOM` and
`CASV` (R79; DESIGN CHOICE, log 83). -/
def execLd (gd : Guard) (d : BitVec 7) (cap idx : Sel) (size : Size) (ord : LdOrd) (hint : Hint) (ofs : BitVec 16)
    (s : State) : Out :=
  runInstr s (.ld gd d cap idx size ord hint ofs) fun s q slot g =>
    let n := sizeBytes size
    match pairSel g cap with
    | none => .trap Trap.operand
    | some p =>
      if !(g.dataOk d.toNat n && selOk g idx) then .trap Trap.operand
      else
        let m := guardMask g gd
        let xs := laneAccs g m p idx ofs.toInt
        match checkLanes (s.basin g.basin) xs n n Rights.r (sizeField size) kindLoad with
        | .error t => .trap t
        | .ok () =>
          let g := g.takeFq [idx]
          .next (s.ordered q slot (g.owner q slot) (ldOrds ord) (m == 0#32) (fun s hold =>
            s.issueLines q slot g .ld (dataDests d.toNat n m) (byLine xs) hold (fun ls =>
              .load .ld n d.toNat (ls.map (fun x => (x.lane, x.at))) hint false
                (match ls with
                  | x :: _ => x.dev == devHere
                  | [] => true)))) .none none

/-- `LDC` (R345): the constant path, without hazards and write-combining bytes. -/
def execLdc (gd : Guard) (d : BitVec 7) (cap idx : Sel) (size : Size) (hint : Hint) (ofs : BitVec 16) (s : State) : Out :=
  runInstr s (.ldc gd d cap idx size hint ofs) fun s q slot g =>
    let n := sizeBytes size
    match pairSel g cap with
    | none => .trap Trap.operand
    | some p =>
      if !(g.dataOk d.toNat n && selOk g idx) then .trap Trap.operand
      else
        let m := guardMask g gd
        let xs := laneAccs g m p idx ofs.toInt
        match checkLanes (s.basin g.basin) xs n n Rights.r (sizeField size) kindConst with
        | .error t => .trap t
        | .ok () =>
          let g := g.takeFq [idx]
          let r := s.issueLines q slot g .cst (dataDests d.toNat n m) (byLine xs) RelHold.none (fun ls =>
            .load .cst n d.toNat (ls.map (fun x => (x.lane, x.at))) hint false
              (match ls with
                | x :: _ => x.dev == devHere
                | [] => true))
          .next r.1.settle .none none

/-- `SMPL` (R383, R386): the header is checked at the instruction, rights before bounds as the entry lists them. -/
def execSmpl (gd : Guard) (d : BitVec 7) (cap u v : Sel) (lin : Bool) (s : State) : Out :=
  runInstr s (.smpl gd d cap u v lin) fun s q slot g =>
    match pairSel g cap with
    | none => .trap Trap.operand
    | some p =>
      if !(g.dataOk d.toNat 16 && selOk g u && selOk g v) then .trap Trap.operand
      else
        let m := guardMask g gd
        let xs := (maskLanes m).map (fun l => ({ lane := l, cap := pairAt g p l, ofs := capOfs (pairAt g p l) } : LaneAcc))
        let b := s.basin g.basin
        let noRd := xs.filter (fun x => match findDesc b x.cap with
          | .ok e => !e.have_.rd
          | .error _ => false)
        let absent := checkLanes b (xs.filter (fun x => match findDesc b x.cap with
          | .ok _ => false
          | .error _ => true)) 64 64 Rights.r 2 kindSampler
        match absent with
        | .error t => .trap t
        | .ok () =>
          if !noRd.isEmpty then .trap (laneTrap 0x07 1 noRd 2 kindSampler)
          else
            match checkLanes b xs 64 64 Rights.r 2 kindSampler with
            | .error t => .trap t
            | .ok () =>
              let g := g.takeFq [u, v]
              let fid := s.nextId
              let o := g.owner q slot
              let objs := (xs.map (fun x => (x.dev, x.obj))).eraseDups
              let s := ({ s with nextId := s.nextId + 1 }).setGroup q slot
                (g.launchFlight fid .smp objs.length (dataDests d.toNat 16 m))
              let s := s.modQuad q (fun x => x.olbTouch objs)
              let s := objs.foldl (fun s k =>
                let ls := xs.filter (fun x => (x.dev, x.obj) == k)
                s.issueFree (Req.new o (.smpl d.toNat lin (instrWords (.smpl gd d cap u v lin)).1 (ls.map (fun x => (x.lane, x.at, selAt g u x.lane, selAt g v x.lane))))
                  k.1 k.2 ((ls.head?.map (fun x => x.line)).getD 0) (accMask ls) [fid] g.handler)) s
              .next s.settle .none none

/-- The bytes that the lanes of one line store, merged in ascending lane order (R128), those that `keep` leaves. -/
def mergeBytes (g : Group) (data n : Nat) (xs : List LaneAcc) (keep : Nat → Nat → Bool) : NMap Byte :=
  xs.foldl (fun m x => ((g.dataBytes data n x.lane).zipIdx).foldl (fun m (b : Byte × Nat) =>
    if keep x.lane (x.at + b.2) then NMap.set m (x.at + b.2) b.1 else m) m) []

def LaneAcc.write (x : LaneAcc) (n : Nat) : LaneWrite := { lane := x.lane, dev := x.dev, obj := x.obj, ofs := x.at, n := n }

/-- `ST` (R387, R388, R219). An ordered one in an open loop, all of whose bytes are suppressed, stores nothing and orders as the `FENCE` of
R127, lanes taking part or not (DESIGN CHOICE, log 101). -/
def execSt (gd : Guard) (data : BitVec 7) (cap idx : Sel) (size : Size) (ord : StOrd) (hint : Hint) (ofs : BitVec 16)
    (s : State) : Out :=
  runInstr s (.st gd data cap idx size ord hint ofs) <| inLoopOrder true fun s q slot g =>
    let n := sizeBytes size
    match pairSel g cap with
    | none => .trap Trap.operand
    | some p =>
      if !(g.dataOk data.toNat n && selOk g idx) then .trap Trap.operand
      else
        let m := guardMask g gd
        let xs := laneAccs g m p idx ofs.toInt
        match checkLanes (s.basin g.basin) xs n n Rights.w (sizeField size) kindStore with
        | .error t => .trap t
        | .ok () =>
          match s.loopCheck q slot g (xs.map (fun x => x.write n)) (sizeField size) kindStore with
          | .error t => .trap t
          | .ok keep =>
            let g1 := g.takeFq [idx]
            let ls := ((byLine xs).map (fun l => (l.1, l.2.filter (fun x => !(mergeBytes g data.toNat n [x] keep).isEmpty)))).filter
              (fun l => !l.2.isEmpty)
            .next (s.ordered q slot (g.owner q slot) (stOrds ord) (ls.isEmpty) (fun s hold =>
              s.issueLines q slot g1 .st [] ls hold (fun xs =>
                let bytes := mergeBytes g data.toNat n xs keep
                if ord = .post ∨ xs.any (fun x => x.dev != devHere) then .store false bytes else .merge bytes) n)) .none none

/-- `LDV` (R169, R170, R349). -/
def execLdv (gd : Guard) (d vd : BitVec 7) (cap idx : Sel) (size : Size) (ord : LdOrd) (ofs : BitVec 12) (s : State) : Out :=
  runInstr s (.ldv gd d vd cap idx size ord ofs) fun s q slot g =>
    let n := sizeBytes size
    let within := decide (d.toNat ≤ vd.toNat) && decide (vd.toNat < d.toNat + regCount n)
    match pairSel g cap with
    | none => .trap Trap.operand
    | some p =>
      if !(g.dataOk d.toNat n && g.vOk vd.toNat && selOk g idx) || within then .trap Trap.operand
      else
        let m := guardMask g gd
        let xs := laneAccs g m p idx ofs.toInt
        match checkLanes (s.basin g.basin) xs n n Rights.r (sizeField size) kindVersioned with
        | .error t => .trap t
        | .ok () =>
          let g := g.takeFq [idx]
          .next (s.ordered q slot (g.owner q slot) (ldOrds ord) (m == 0#32) (fun s hold =>
            s.issueLines q slot g .ld (dataDests d.toNat n m ++ [Dest.new vd.toNat m]) (byLine xs) hold (fun ls =>
              .ldv n d.toNat vd.toNat (ls.map (fun x => (x.lane, x.at)))))) .none none

/-- A lane's value of a data selector, as a pair where the access has 64 bits (R60, R62). -/
def dataSel (g : Group) (wide : Bool) (x : Sel) : Option (Nat → DWord) :=
  if wide then (pairSel g x).map (fun p l => pairAt g p l)
  else if selOk g x then some (fun l => (selAt g x l).setWidth 64) else none

/-- A register or pair as a lane's 64-bit value. -/
def Group.regVal (g : Group) (wide : Bool) (d l : Nat) : DWord :=
  if wide then g.lane (d + 1) l ++ g.lane d l else (g.lane d l).setWidth 64

/-- `ATOM` (R161 to R164, R285); a combined form gives the same results, word and version (R164). -/
def execAtom (gd : Guard) (d : BitVec 7) (cap idx data : Sel) (op : AtOp) (ord : AtOrd) (ty : AtTy) (agg nd : Bool)
    (ofw : BitVec 7) (s : State) : Out :=
  runInstr s (.atom gd d cap idx data op ord ty agg nd ofw) <| inLoopOrder true fun s q slot g =>
    let n := atomBytes ty
    let wide := ty == .s64
    let size := if wide then 3 else 2
    let kind := if nd then kindAtomNone else kindAtomResult
    match pairSel g cap, dataSel g wide data with
    | some p, some val =>
      if !((nd || g.dataOk d.toNat n) && selOk g idx) then .trap Trap.operand
      else
        let m0 := guardMask g gd
        let xs0 := laneAccs g m0 p idx (4 * ofw.toNat)
        match checkLanes (s.basin g.basin) xs0 n n (if nd then Rights.w else Rights.rw) size kind with
        | .error t => .trap t
        | .ok () =>
          match s.loopCheck q slot g (xs0.map (fun x => x.write n)) size kind with
          | .error t => .trap t
          | .ok keep =>
            let ok := wholeLanes (xs0.map (fun x => x.write n)) keep
            let xs := xs0.filter (fun x => ok.getLsbD x.lane)
            let g1 := g.takeFq [idx, data]
            let dest := if nd then none else some d.toNat
            .next (s.ordered q slot (g.owner q slot) (atOrds ord) (xs.isEmpty) (fun s hold =>
              s.issueLines q slot g1 (if nd then .st else .ld) (if nd then [] else dataDests d.toNat n (accMask xs)) (byLine xs) hold
                (fun ls => .atom op ty dest (ls.map (fun x =>
                  { lane := x.lane, ofs := x.at, data := val x.lane, cmp := g.regVal wide d.toNat x.lane, ver := 0#32 }))))) .none none
    | _, _ => .trap Trap.operand

/-- `CASV` (R171, R172, R294). -/
def execCasv (gd : Guard) (d v : BitVec 7) (cap idx new : Sel) (wide : Bool) (ord : AtOrd) (ofw : BitVec 6) (s : State) : Out :=
  runInstr s (.casv gd d v cap idx new wide ord ofw) <| inLoopOrder true fun s q slot g =>
    let n := if wide then 8 else 4
    let size := if wide then 3 else 2
    let within := decide (d.toNat ≤ v.toNat) && decide (v.toNat < d.toNat + regCount n)
    match pairSel g cap, dataSel g wide new with
    | some p, some val =>
      if !(g.dataOk d.toNat n && g.vOk v.toNat && selOk g idx) || within then .trap Trap.operand
      else
        let m0 := guardMask g gd
        let xs0 := laneAccs g m0 p idx (4 * ofw.toNat)
        match checkLanes (s.basin g.basin) xs0 n n Rights.rw size kindVersioned with
        | .error t => .trap t
        | .ok () =>
          match s.loopCheck q slot g (xs0.map (fun x => x.write n)) size kindVersioned with
          | .error t => .trap t
          | .ok keep =>
            let ok := wholeLanes (xs0.map (fun x => x.write n)) keep
            let xs := xs0.filter (fun x => ok.getLsbD x.lane)
            let g1 := g.takeFq [idx, new]
            .next (s.ordered q slot (g.owner q slot) (atOrds ord) (xs.isEmpty) (fun s hold =>
              s.issueLines q slot g1 .ld (dataDests d.toNat n (accMask xs) ++ [Dest.new v.toNat (accMask xs)]) (byLine xs) hold
                (fun ls => .casv wide d.toNat v.toNat (ls.map (fun x =>
                  { lane := x.lane, ofs := x.at, data := val x.lane, cmp := g.regVal wide d.toNat x.lane,
                    ver := g.lane v.toNat x.lane }))))) .none none
    | _, _ => .trap Trap.operand

/-- `DEP` (R122, R123, R302): one request a line, with the pairs in ascending lane order. -/
def execDep (gd : Guard) (data : BitVec 7) (cap idx : Sel) (op : DepOp) (ty : Ty3) (ofs : BitVec 16) (s : State) : Out :=
  runInstr s (.dep gd data cap idx op ty ofs) <| inLoopOrder true fun s q slot g =>
    match pairSel g cap with
    | none => .trap Trap.operand
    | some p =>
      if !(g.vOk data.toNat && selOk g idx) then .trap Trap.operand
      else
        let m := guardMask g gd
        let xs0 := laneAccs g m p idx ofs.toInt
        match checkLanes (s.basin g.basin) xs0 4 4 Rights.w 2 kindDeposit with
        | .error t => .trap t
        | .ok () =>
          match s.loopCheck q slot g (xs0.map (fun x => x.write 4)) 2 kindDeposit with
          | .error t => .trap t
          | .ok keep =>
            let ok := wholeLanes (xs0.map (fun x => x.write 4)) keep
            let xs := xs0.filter (fun x => ok.getLsbD x.lane)
            let g1 := g.takeFq [idx]
            let s := (byLine xs).foldl (fun s l => s.modQuad q (fun x => x.l1Drop (anyLine g.basin l.1.1 l.1.2.1 l.1.2.2))) s
            let r := s.issueLines q slot g1 .st [] (byLine xs) RelHold.none (fun ls => .dep op ty (ls.map (fun x =>
              { lane := x.lane, ofs := x.at, data := (g.lane data.toNat x.lane).setWidth 64, cmp := 0#64, ver := 0#32 })))
            .next r.1.settle .none none

/-- The place of a line in the order of pins (R175): home slice, then address. -/
def pinOrder (b : Basin) (xs : List LaneAcc) : List Nat :=
  let ks := (xs.map (fun x => (if x.dev = devHere then homeSlice b x.obj x.line else 0, x.obj, x.line, x.dev))).eraseDups
  let le (a c : Nat × Nat × Nat × Nat) : Bool :=
    decide (a.1 < c.1) || (a.1 == c.1 && (decide (a.2.1 < c.2.1) || (a.2.1 == c.2.1 && decide (a.2.2.1 ≤ c.2.2.1))))
  (ks.mergeSort le).map (fun k => anyLine 0 k.2.2.2 k.2.1 k.2.2.1)

/-- The set of a `VALSET` from its taking-part lanes, which one device holds (R175), and those of them that are suppressed. -/
def valsetOf (g : Group) (b : Basin) (d : Nat) (wide w : Bool) (vp : Nat) (xs : List LaneAcc) (quiet : List Nat) (val : Nat → DWord)
    (exp : Nat → Word) : Valset :=
  { d := d, quiet := quiet, wide := wide, write := w, vp := vp, em := g.em, pins := [], firstPin := none, verdict := none, done := [],
    lines := (pinOrder b xs).map (fun k => if xs.all (fun x => x.dev == devHere) then lineKey g.basin 0 0 + k else k),
    elems := xs.map (fun x => { lane := x.lane, ofs := x.obj * 2 ^ 40 + x.at, data := val x.lane, cmp := 0#64, ver := exp x.lane }) }

/-- `VALSET` (R173 to R175, R219, R399): one request that pins its lines in order. A set of more than 8 lanes on more than one
device is reported as the former, `s59` = 1: R174 gives no order of the two (DESIGN CHOICE, log 81). A lane that an open loop
suppresses is compared and its line counts, but it writes nothing and its word of D stays (R219, R399; log 82). -/
def execValset (gd : Guard) (d : BitVec 7) (cap idx exp data : Sel) (wide w : Bool) (vp : BitVec 3) (s : State) : Out :=
  runInstr s (.valset gd d cap idx exp data wide w vp) <| inLoopOrder w fun s q slot g =>
    let n := if wide then 8 else 4
    let size := if wide then 3 else 2
    match pairSel g cap, (if w then dataSel g wide data else some (fun _ => 0#64)) with
    | some p, some val =>
      if !(g.vOk d.toNat && selOk g idx && selOk g exp) then .trap Trap.operand
      else
        let xs0 := laneAccs g (guardMask g gd) p idx 0
        if 8 < xs0.length then .trap (Trap.own 0x12 xs0.length 1)
        else if 1 < ((xs0.map (fun x => x.dev)).eraseDups).length then .trap (Trap.own 0x12 xs0.length 2)
        else
          match checkLanes (s.basin g.basin) xs0 n n (if w then Rights.rw else Rights.r) size kindVersioned with
          | .error t => .trap t
          | .ok () =>
            match (if w then s.loopCheck q slot g (xs0.map (fun x => x.write n)) size kindVersioned else .ok (fun _ _ => true)) with
            | .error t => .trap t
            | .ok keep =>
              let ok := wholeLanes (xs0.map (fun x => x.write n)) keep
              let quiet := (xs0.filter (fun x => w && !ok.getLsbD x.lane)).map (fun x => x.lane)
              let told := xs0.filter (fun x => !quiet.contains x.lane)
              let g1 := g.takeFq (if w then [idx, exp, data] else [idx, exp])
              let fid := s.nextId
              let o := g.owner q slot
              let s := ({ s with nextId := s.nextId + 1 }).setGroup q slot
                (g1.launchFlight fid .ld (if xs0.isEmpty then 0 else 1)
                  (if xs0.isEmpty then [] else [Dest.new d.toNat (accMask told), Dest.new (predReg vp.toNat) g.em]))
              match xs0 with
              | [] => .next s .none none
              | x :: _ =>
                let vs := valsetOf g (s.basin g.basin) d.toNat wide w vp.toNat xs0 quiet val (fun l => selAt g exp l)
                let r := Req.new o (.valset vs) x.dev x.obj x.line (accMask xs0) [fid] g.handler
                let s := s.modQuad q (fun y => y.olbTouch (xs0.map (fun x => (x.dev, x.obj))).eraseDups)
                .next (s.issueReq o r RelHold.none).settle .none none
    | _, _ => .trap Trap.operand

/-! ### The uniform load and store -/

/-- The words of a uniform answer in an `s` register or pair. -/
def Group.setAnswer (g : Group) (d : Nat) (wide : Bool) (ws : List Word) : Group :=
  let g := g.setS d (ws.getD 0 0#32)
  if wide then g.setS (d + 1) (ws.getD 1 0#32) else g

/-- `LDU` (R347, R348): one read of the load-store path, awaited before the next instruction. -/
def execLdu (d : BitVec 6) (cap : BitVec 8) (idx : USel) (wide : Bool) (ord : LdOrd) (ofs : BitVec 20) (s : State) : Out :=
  runInstr s (.ldu d cap idx wide ord ofs) fun s q slot g =>
    let n := if wide then 8 else 4
    match capPair g cap with
    | none => .trap Trap.operand
    | some c =>
      match g.wait with
      | .answer ws =>
        let g := g.setAnswer d.toNat wide ws
        let s := s.setGroup q slot g
        let s := match (ldOrds ord).acq with
          | some (sc, rem) => s.addOrder q slot [] false (sc == Scope.sys) rem (scopeWide sc)
          | none => s
        .next s.settle .none none
      | _ =>
        let x : LaneAcc := { lane := 0, cap := c, ofs := (capOfs c : Int) + (uAt g idx).toInt + ofs.toInt }
        match checkLane0 (s.basin g.basin) c x.ofs n n Rights.r (if wide then 3 else 2) kindLoad with
        | .error t => .trap t
        | .ok () =>
          if g.orders ≠ [] then .wait s (.until .orders)
          else
            let o := g.owner q slot
            let id := s.nextId
            let r := Req.new o (.load .ld n 0 [(0, x.at)] .normal true (x.dev == devHere)) x.dev x.obj x.line 1#32 [] g.handler
            let s := s.modQuad q (fun y => y.olbTouch [(x.dev, x.obj)])
            let k := ldOrds ord
            .wait ((s.issueReq o r { RelHold.none with ord := k.ord, scope := k.scope }).modGroup q slot (fun h => { h with wait := .request id })).settle (.request id)

/-- `STU` (R390, R391): one store, merged into the write-combining buffer. -/
def execStu (data : BitVec 6) (cap : BitVec 8) (idx : USel) (wide : Bool) (ord : StOrd) (ofs : BitVec 20) (s : State) : Out :=
  runInstr s (.stu data cap idx wide ord ofs) fun s q slot g =>
    let n := if wide then 8 else 4
    if g.inLoop then .trap (loopTrap s 3)
    else
      match capPair g cap with
      | none => .trap Trap.operand
      | some c =>
        let x : LaneAcc := { lane := 0, cap := c, ofs := (capOfs c : Int) + (uAt g idx).toInt + ofs.toInt }
        match checkLane0 (s.basin g.basin) c x.ofs n n Rights.w (if wide then 3 else 2) kindStore with
        | .error t => .trap t
        | .ok () =>
          let store : Body := fun s q slot g =>
            let v : DWord := if wide then g.getSPair data.toNat else (g.getS data.toNat).setWidth 64
            let bytes : NMap Byte := (natBytes n v.toNat).zipIdx.map (fun e => (x.at + e.2, e.1))
            let r := s.issueLines q slot g .st [] [((x.dev, x.obj, x.line), [x])] RelHold.none (fun _ =>
              if x.dev = devHere then .merge bytes else .store false bytes) n
            .next r.1.settle .none none
          match ord with
          | .rel sc => orderThen (fun s q slot g => (s.fenceRelease q slot (g.owner q slot) sc false).settle) store s q slot g
          | _ => if g.orders ≠ [] then .wait s (.until .orders) else store s q slot g

end Sys2Proof.Machine
end

