-- ==== Sys2Proof/Machine/Waits.lean ====
section
/-! DEFINITION. The catch-up instructions that wait: `FENCE` (R130, R313), `PFENCE` (R95, R367), `WAITC` (R100, R402),
`OFENCE` (R204, R361), `MMWAIT` (R204, R354), `BAR` (R152 to R155), and `EXIT` (R32, R304). -/

namespace Sys2Proof.Machine

/-- `FENCE` (R130, R313). -/
def execFence (k : FenceKind) (s : State) : Out :=
  runInstr s (.fence k) (fenceThen k fun s _ _ _ => .next s .none none)

/-! ### Paths (R91, R95) -/

/-- The counters of the paths of a `PFENCE` mask. -/
def maskPaths (m : BitVec 4) : List Path :=
  (if m.getLsbD 0 then [Path.ld, Path.st, Path.dsc] else []) ++ (if m.getLsbD 1 then [Path.cst] else [])
    ++ (if m.getLsbD 2 then [Path.smp] else []) ++ (if m.getLsbD 3 then [Path.cpy] else [])

/-- Invalidates the quadrant's caches of the paths of a mask. -/
def State.pathInv (s : State) (q : Nat) (m : BitVec 4) : State :=
  let s := if m.getLsbD 0 then s.l1Invalidate q else s
  if m.getLsbD 1 || m.getLsbD 2 then s.roInvalidate q (m.getLsbD 1) (m.getLsbD 2) else s

/-- Whether the counters of some paths are 0. -/
def Group.quiet (g : Group) (m : BitVec 4) : Bool := (maskPaths m).all (fun p => g.counter p == 0)

/-- `PFENCE` (R95). -/
def execPfence (mask : BitVec 4) (s : State) : Out :=
  runInstr s (.pfence mask) fun s q slot g =>
    let s := if mask.getLsbD 0 then (s.wcFlush (g.owner q slot) (fun _ => true)).settle else s
    match s.group? q slot with
    | none => .stall
    | some h =>
      if h.quiet mask then .next (s.pathInv q mask) .none none else .wait s (.until (.paths mask))

/-- `WAITC` (R100). -/
def execWaitc (path : Path) (thr : USel) (s : State) : Out :=
  runInstr s (.waitc path thr) fun s q slot g =>
    let n := (uAt g thr).toNat
    let s := if path = .st then (s.wcFlush (g.owner q slot) (fun _ => true)).settle else s
    match s.group? q slot with
    | none => .stall
    | some h => if h.counter path ≤ n then .next s .none none else .wait s (.until (.counter path n))

/-! ### The engines (R204) -/

/-- Whether a copy fills a tile (R195). -/
def CopyKind.isTcopy : CopyKind → Bool
  | .tcopy _ => true
  | _ => false

/-- Whether every `TCOPY` of a group is complete. -/
def State.tcopiesDone (s : State) (q slot : Nat) (g : Group) : Bool :=
  (s.engine (slotOf q)).copies.all (fun c => !(c.owner == g.owner q slot && c.kind.isTcopy))

/-- Whether a copy is one of a group on a tile descriptor. -/
def CopyJob.on (c : CopyJob) (o : Owner) (t : Nat) : Bool :=
  c.owner == o && c.t == t && (match c.kind with
    | .copy .. => false
    | _ => true)

/-- Whether no copy of a group on a tile descriptor is incomplete or suspended (R199, R392). -/
def State.copyIdle (s : State) (q slot : Nat) (g : Group) (t : Nat) : Bool :=
  (s.engine (slotOf q)).copies.all (fun c => !c.on (g.owner q slot) t)

/-- The same for a `TLD` (R193). A handler may reload the descriptor of a suspended copy (R198, R393). -/
def State.copyFree (s : State) (q slot : Nat) (g : Group) (t : Nat) : Bool :=
  (s.engine (slotOf q)).copies.all (fun c => !(c.on (g.owner q slot) t && !(g.handler && c.suspended)))

/-- `OFENCE` (R204, R361). -/
def execOfence (s : State) : Out :=
  runInstr s .ofence (untilThen .applied (fun s q slot _ => s.applied q slot)
    (untilThen .tcopies (fun s q slot g => s.tcopiesDone q slot g) fun s q slot g =>
      .next (s.setGroup q slot { g with ofence := true, mmDirty := [] }) .none none))

/-- The `MMA` requests of a group that are not over (R354): staging, reservation table, pass. -/
def State.mmas (s : State) (q slot : Nat) (g : Group) : List MmaReq :=
  let x := s.engine (slotOf q)
  g.staging.toList ++ x.table.filter (fun e => e.q == q && e.slot == slot)
    ++ (x.pass.toList.map (fun e => e.1)).filter (fun e => e.q == q && e.slot == slot)

/-- Every element of a bank that an `ACCST` wrote in the window is unpredictable after `MMWAIT` (R204): a free value. -/
def SlotEng.spoil (x : SlotEng) (ix : Nat) (bs : List Nat) : SlotEng :=
  { x with acc := (bs.zipIdx).foldl (fun m e => (List.range 512).foldl (fun m w =>
      NMap.set m (512 * e.1 + w) (Config.freeWord (ix + 512 * e.2 + w))) m) x.acc }

/-- `MMWAIT` (R354) ends the window of R204. -/
def execMmwait (s : State) : Out :=
  runInstr s .mmwait (untilThen .mm (fun s q slot g => (s.mmas q slot g).isEmpty) fun s q slot g =>
    let ix := s.freeIx
    let s := s.setGroup q slot { g with mmNamed := [], mmSpoilt := [] }
    if g.mmSpoilt = [] then .next s .none none
    else .next { s.modEngine (slotOf q) (fun x => x.spoil ix g.mmSpoilt) with freeIx := ix + 512 * g.mmSpoilt.length } .none none)

/-! ### Barriers (R152 to R155) -/

def barrierTrap (id reason : Nat) : Trap := Trap.own 0x0E id reason

/-- The count check of R153. -/
def State.barCheck (s : State) (q : Nat) (g : Group) (id n : Nat) : Option Trap :=
  let b := s.barrier q g id
  if n = 0 ∨ g.instSize id < n then some (barrierTrap id 1)
  else if b.exp ≠ 0 ∧ n ≠ b.exp then some (barrierTrap id 2) else none

/-- The scope of a barrier (R155). -/
def barScope (id : Nat) : Scope := if id < 16 then .crew else .gang

/-- The arrival of a group at a barrier (R153); the acquire follows for `.sync`. -/
def barArrive (id : Nat) (n : Nat) (sync : Bool) : Body := fun s q slot g =>
  let m := g.member id
  let o := (s.barrier q g id).arrive m n sync
  let s := s.barrierOut q g id o
  if o.trapped.contains m then .trap (barrierTrap id 2)
  else if o.go.contains m then
    match s.group? q slot with
    | none => .stall
    | some h => .next (if sync then s.fence q slot h (.acq (barScope id)) else s) .none none
  else .wait s (.bar false)

/-- `BAR` (R152 to R155): its count is checked when it issues, not again when its release is over (R153). -/
def execBar (sync : Bool) (id : BitVec 5) (count : USel) (s : State) : Out :=
  runInstr s (.bar sync id count) fun s q slot g =>
    let n := (uAt g count).toNat
    let i := id.toNat
    match g.wait with
    | .bar _ => .next (if sync then s.fence q slot g (.acq (barScope i)) else s) .none none
    | w =>
      match (if w = .none then s.barCheck q g i n else none) with
      | some t => .trap t
      | none =>
        relThen (barScope i) (untilThen .applied (fun s q slot _ => s.applied q slot)
          (barArrive i n sync)) s q slot g

/-! ### The end of a group (R32, R304) -/

/-- `EXIT` (R304). -/
def execExit (s : State) : Out :=
  runInstr s .exit fun s q slot _ =>
    match s.banksOf q slot with
    | [] => .final (s.retireGroup q slot).settle
    | b :: rest => .trap (Trap.own 0x0B (b :: rest).length b)

end Sys2Proof.Machine
end

