-- ==== Sys2Proof/Machine/Descent.lean ====
section
/-! DEFINITION. Descent groups: `DSC` and its checks (R109 to R112, R303), the landing of a lane's group (R113, R114,
R117) and its return (R115, R116). -/

namespace Sys2Proof.Machine

/-! ### The members of a group (R110) -/

/-- A member as its words stand behind the prefix: position from 1, decoding. -/
structure DscMember where
  pos : Nat
  ins : Dec Instr

/-- The members found, and the position at which the group leaves its jet or meets a uniform instruction. -/
structure DscScan where
  mem : List DscMember
  bad : Option Nat

/-- Reads the members behind a prefix (R110, "Place"): `room` instructions may still stand before the `TRAIL`. A word that cannot be fetched
is the fetch trap at the prefix, before the reasons of R111 (DESIGN CHOICE, log 100). -/
def State.dscScan (s : State) (g : Group) : Nat → Nat → Nat → Nat → Except Trap DscScan
  | 0, _, _, _ => .ok { mem := [], bad := none }
  | n + 1, i, room, ofs =>
    if room = 0 then .ok { mem := [], bad := some i }
    else
      match s.fetchWord g ofs with
      | .error t => .error t
      | .ok w0 =>
        let f := W1.ofWord w0
        if f.s then .ok { mem := [], bad := some i }
        else
          match (if f.x then s.fetchWord g (ofs + 4) else .ok 0#32) with
          | .error t => .error t
          | .ok w1 =>
            match s.dscScan g n (i + 1) (room - 1) (ofs + (if f.x then 8 else 4)) with
            | .error t => .error t
            | .ok r => .ok { r with mem := { pos := i, ins := decode w0 w1 } :: r.mem }

/-- A member of the subset (R110): destination, sources, whether it is guarded, whether N = 1; for `SEL` also whether
the predicate is negated, and its number. -/
structure DscForm where
  dst : Nat
  srcs : List Sel
  guarded : Bool
  nw : Bool
  pred : Option (Bool × Nat)

def noGuard (x : Guard) : Bool := !x.neg && x.p == 7#3

/-- The subset of R110. -/
def dscForm (i : Instr) : Option DscForm :=
  let bin (nw : Bool) (d : BitVec 7) (a b : Sel) : Option DscForm :=
    some { dst := d.toNat, srcs := [a, b], guarded := false, nw := nw, pred := none }
  let tri (nw : Bool) (x : Guard) (d : BitVec 7) (a b c : Sel) : Option DscForm :=
    some { dst := d.toNat, srcs := [a, b, c], guarded := !noGuard x, nw := nw, pred := none }
  match i with
  | .iaddLane nw d a b | .isubLane nw d a b | .imulLane nw d a b | .iminS32Lane nw d a b | .iminN32 nw d a b
  | .imaxS32Lane nw d a b | .imaxN32 nw d a b | .andLane nw d a b | .orLane nw d a b | .xorLane nw d a b
  | .shlLane nw d a b | .shrN32Lane nw d a b | .shrS32Lane nw d a b | .fadd nw d a b | .fmul nw d a b
  | .fmin nw d a b | .fmax nw d a b => bin nw d a b
  | .imad nw x d a b c .wrap => tri nw x d a b c
  | .ffma nw x d a b c => tri nw x d a b c
  | .selLane nw x d a b neg p =>
    some { dst := d.toNat, srcs := [a, b], guarded := !noGuard x, nw := nw, pred := some (neg, p.toNat) }
  | _ => none

/-- The plain `LD` of 32 or 64 bits that begins a group. -/
structure DscLd where
  guard : Guard
  d : Nat
  cap : Sel
  idx : Sel
  wide : Bool
  ofs : Int

def dscLd (i : Dec Instr) : Option DscLd :=
  match i with
  | .ok (.ld x d cap idx .b32 .plain _ ofs) =>
    some { guard := x, d := d.toNat, cap := cap, idx := idx, wide := false, ofs := ofs.toInt }
  | .ok (.ld x d cap idx .b64 .plain _ ofs) =>
    some { guard := x, d := d.toNat, cap := cap, idx := idx, wide := true, ofs := ofs.toInt }
  | _ => none

/-- The plain `ST` that ends a `.w` group, of the size of the `LD`. -/
structure DscSt where
  guarded : Bool
  data : Nat
  cap : Sel
  idx : Sel
  ofs : Int

def dscSt (wide : Bool) (i : Dec Instr) : Option DscSt :=
  match i with
  | .ok (.st x data cap idx size .plain _ ofs) =>
    if size = (if wide then Size.b64 else Size.b32) then
      some { guarded := !noGuard x, data := data.toNat, cap := cap, idx := idx, ofs := ofs.toInt } else none
  | _ => none

/-- The registers of D (R110). -/
def dscRegs (ld : DscLd) : List Nat := if ld.wide then [ld.d, ld.d + 1] else [ld.d]

def selBad (x : Sel) : Bool :=
  match x with
  | .latch _ | .fq => true
  | _ => false

/-- The selectors that a member names: address operands with the mark of a pair, other sources. -/
def memberSels (i : Dec Instr) : List (Bool × Sel) :=
  match i with
  | .ok (.ld _ _ cap idx _ _ _ _) => [(true, cap), (false, idx)]
  | .ok (.st _ _ cap idx _ _ _ _) => [(true, cap), (false, idx)]
  | .ok j => match dscForm j with
    | some f => f.srcs.map (fun x => (false, x))
    | none => []
  | .error _ => []

/-- The vector registers that a member captures (R110): a pair counts as one, and a register of D that is no address
operand is not captured. -/
def captured (regs : List Nat) (i : Dec Instr) : List (Bool × Nat) :=
  let addr := match i with
    | .ok (.ld ..) | .ok (.st ..) => true
    | _ => false
  (memberSels i).filterMap (fun e => match e.2 with
    | .v n => if addr || !regs.contains n.toNat then some (e.1, n.toNat) else none
    | _ => none)

/-- The position at which a fourth register is captured. A register that is captured both in a capability pair and by itself
counts for each (DESIGN CHOICE, log 63). -/
def captureOver (regs : List Nat) : List DscMember → List (Bool × Nat) → Option Nat
  | [], _ => none
  | m :: t, acc =>
    let acc := (acc ++ captured regs m.ins).eraseDups
    if 3 < acc.length then some m.pos else captureOver regs t acc

/-- Reasons 3 and 6 and 7 of one member after the `LD`. -/
def memberOutside (w : Bool) (k : Nat) (ld : DscLd) (m : DscMember) : Bool :=
  match m.ins with
  | .error _ => true
  | .ok i =>
    match dscSt ld.wide m.ins with
    | some _ => !w || m.pos != k
    | none => (dscForm i).isNone || (w && m.pos == k)

def memberDst (regs : List Nat) (ld : DscLd) (m : DscMember) : Bool :=
  match m.ins with
  | .error _ => false
  | .ok i =>
    match dscSt ld.wide m.ins, dscForm i with
    | some st, _ => st.data != ld.d
    | none, some f => !regs.contains f.dst
    | none, none => false

def memberGuard (ld : DscLd) (m : DscMember) : Bool :=
  match m.ins with
  | .error _ => false
  | .ok i =>
    match dscSt ld.wide m.ins, dscForm i with
    | some st, _ => st.guarded
    | none, some f => f.guarded || f.nw
    | none, none => false

/-- Reasons 2 to 7 of R111: reason and position. -/
def dscReasons (w : Bool) (k : Nat) (ms : List DscMember) : Option (Nat × Nat) :=
  match ms with
  | [] => some (2, 1)
  | m :: rest =>
    match dscLd m.ins with
    | none => some (2, 1)
    | some ld =>
      let regs := dscRegs ld
      let first (r : Nat) (p : DscMember → Bool) (l : List DscMember) : Option (Nat × Nat) :=
        (l.find? p).map (fun x => (r, x.pos))
      (first 3 (memberOutside w k ld) rest)
        <|> (first 4 (fun x => (memberSels x.ins).any (fun e => selBad e.2)) ms)
        <|> ((captureOver regs ms []).map (fun p => (5, p)))
        <|> (first 6 (memberDst regs ld) rest)
        <|> (first 7 (memberGuard ld) rest)

/-- The operand checks of step 3 of R111. -/
def memberOperand (g : Group) (wide : Bool) (m : DscMember) : Bool :=
  let n := if wide then 8 else 4
  match m.ins with
  | .error _ => true
  | .ok (.ld _ d cap idx _ _ _ _) => (pairSel g cap).isSome && g.dataOk d.toNat n && selOk g idx
  | .ok (.st _ d cap idx _ _ _ _) => (pairSel g cap).isSome && g.dataOk d.toNat n && selOk g idx
  | .ok i => match dscForm i with
    | some f => f.srcs.all (selOk g) && g.vOk f.dst
    | none => true

/-! ### Capture and execution -/

/-- The sources of a member as they are captured for a lane. -/
def captureOp (g : Group) (regs : List Nat) (l : Nat) (i : Instr) : Option DscOp :=
  (dscForm i).map (fun f =>
    { op := i, dst := f.dst,
      srcs := f.srcs.map (fun x => match x with
        | .v n => if regs.contains n.toNat then .run (n.toNat - regs.headD 0) else .val (selAt g x l)
        | _ => .val (selAt g x l)),
      sel := match f.pred with
        | some (neg, p) => (g.getP p).getLsbD l != neg
        | none => false })

/-- The lane's words of the vector registers that a group captures, in the order in which its sources first name them, a pair as two
(R110, R258; the order is the model's: DESIGN CHOICE, log 77). -/
def capturedVecs (g : Group) (regs : List Nat) (l : Nat) (ms : List (Dec Instr)) : List Word :=
  ((ms.flatMap (captured regs)).eraseDups).flatMap (fun e => if e.1 then [g.lane e.2 l, g.lane (e.2 + 1) l] else [g.lane e.2 l])

/-- The captured 32-bit values in the order in which a group's sources name them: uniform registers, a pair as two, and the predicate
masks of `SEL` (R258). -/
def capturedVals (g : Group) (ms : List (Dec Instr)) : List Word :=
  ms.flatMap (fun i => (memberSels i).flatMap (fun e => match e.2 with
      | .s n => if e.1 then [g.getS n.toNat, g.getS (n.toNat + 1)] else [g.getS n.toNat]
      | _ => [])
    ++ (match i with
      | .ok j => ((dscForm j).bind (fun f => f.pred)).toList.map (fun p => g.getP p.2)
      | .error _ => []))

/-- The words of a group's instructions as they issued. -/
def memberWords (ms : List (Dec Instr)) : List Word :=
  ms.flatMap (fun i => match i with
    | .ok j => if instrLen j = 8 then [(instrWords j).1, (instrWords j).2] else [(instrWords j).1]
    | .error _ => [])

/-- The value a member computes. -/
def dscValue (o : DscOp) (a b c : Word) : Word :=
  match o.op with
  | .iaddLane .. => a + b
  | .isubLane .. => a - b
  | .imulLane .. => a * b
  | .iminS32Lane .. => iminS a b
  | .iminN32 .. => iminN a b
  | .imaxS32Lane .. => imaxS a b
  | .imaxN32 .. => imaxN a b
  | .andLane .. => a &&& b
  | .orLane .. => a ||| b
  | .xorLane .. => a ^^^ b
  | .shlLane .. => shlW a b
  | .shrN32Lane .. => shrN a b
  | .shrS32Lane .. => shrS a b
  | .fadd .. => (faddW a b).1
  | .fmul .. => (fmulW a b).1
  | .fmin .. => (fminW a b).1
  | .fmax .. => (fmaxW a b).1
  | .imad .. => a * b + c
  | .ffma .. => (ffmaW a b c).1
  | .selLane .. => if o.sel then a else b
  | _ => a

/-- Runs the members on the data read (R110, R115): the final value of D. Float members set no flag (R185). -/
def Descent.run (w : Descent) (data : DWord) : DWord :=
  w.ops.foldl (fun (d : DWord) o =>
    let v (k : Nat) : Word := match o.srcs.getD k (DscSrc.val 0#32) with
      | .run i => if i = 0 then d.setWidth 32 else d.extractLsb' 32 32
      | .val x => x
    let x := dscValue o (v 0) (v 1) (v 2)
    if o.dst = w.dst then d.extractLsb' 32 32 ++ x else x ++ d.setWidth 32) data

/-- The register writes that a group's result makes in its lane. -/
def Descent.result (w : Descent) (d : DWord) : List (Nat × Nat × Word) :=
  if w.wide then [(w.dst, w.lane, d.setWidth 32), (w.dst + 1, w.lane, d.extractLsb' 32 32)]
  else [(w.dst, w.lane, d.setWidth 32)]

/-! ### `DSC` (R109 to R112) -/

/-- `landrec` at a prefix (R112): no lane takes part. -/
def landrecNone : BitVec 128 := 0x77777777777777777777777777777777#128

/-- Enters the hazards of a prefix (R119): one entry for each line while the table has room, an overflow mark else. -/
def Quad.enterHazards (x : Quad) (slot : Nat) (lines : List (Nat × List Nat)) (ids : List Nat) : Quad :=
  lines.foldl (fun x l =>
    if x.hazardRoom then { x with hazards := x.hazards ++ [{ slot := slot, line := some l.1, ids := l.2 }] } else x.overflow slot ids) x

/-- A lane of a prefix: its `LD` access and, in a `.w` group, its `ST` access. -/
structure DscLane where
  ld : LaneAcc
  st : Option LaneAcc

/-- Whether a lane breaks reason 8 at its `LD`, and at its `ST`. -/
def DscLane.ldBad (x : DscLane) (n : Nat) : Bool := decide (x.ld.at % n ≠ 0)
def DscLane.stBad (x : DscLane) (n : Nat) : Bool :=
  match x.st with
  | none => false
  | some y => decide (y.at % n ≠ 0) || y.dev != x.ld.dev || y.obj != x.ld.obj || y.line != x.ld.line

/-- What the issue of a prefix does to the lines of its lanes (R112, R120): a `.w` group invalidates the quadrant's L1 copies, a
fill under way among them, and the group's own write-combining entries are sent. -/
def State.dscLines (s : State) (q : Nat) (o : Owner) (write : Bool) (keys : List Nat) : State :=
  let s := if write then keys.foldl (fun s k => (s.modQuad q (fun x => x.l1Drop k)).overtake q k) s else s
  s.wcFlush o (fun e => keys.contains (lineKey e.owner.basin e.obj e.line))

/-- The departure of a group's lanes (R112): counter, `landrec`, requests, hazards. -/
def State.dscDepart (s : State) (q slot : Nat) (g : Group) (k : Nat) (ld : DscLd) (ms : List DscMember)
    (ls : List DscLane) : State :=
  let o := g.owner q slot
  let regs := dscRegs ld
  let ins := ms.map (fun x => x.ins)
  let ops := (ins.drop 1).filterMap (fun x => match x with
    | .ok i => some i
    | .error _ => none)
  let fid := s.nextId
  let dests := regs.map (fun r => Dest.new r (accMask (ls.map (fun x => x.ld))))
  let g := { g with landrec := landrecNone, jet := some { g.jetOr with dscLeft := k } }
  let s := ({ s with nextId := s.nextId + 1 }).setGroup q slot (g.launchFlight fid .dsc ls.length dests)
  let s := s.modQuad q (fun x => x.olbTouch (ls.map (fun x => (x.ld.dev, x.ld.obj))).eraseDups)
  let key (x : DscLane) : Nat := anyLine g.basin x.ld.dev x.ld.obj x.ld.line
  let s := s.dscLines q o (ls.any (fun x => x.st.isSome)) (ls.map key).eraseDups
  let r := ls.foldl (fun (acc : State × List (Nat × Nat)) x =>
    let w : Descent :=
      { lane := x.ld.lane, dst := ld.d, wide := ld.wide, ofs := x.ld.at, stOfs := x.st.map LaneAcc.at,
        ops := ops.filterMap (captureOp g regs x.ld.lane), pc := g.pc, vecs := capturedVecs g regs x.ld.lane ins,
        vals := capturedVals g ins, words := memberWords ins }
    let req := Req.new o (.descent w) x.ld.dev x.ld.obj x.ld.line (accMask [x.ld]) [fid] g.handler
    (acc.1.issueReq o req RelHold.none, acc.2 ++ [(key x, acc.1.nextId)])) (s, [])
  let lines := ((r.2.map (fun e => e.1)).eraseDups).map (fun l =>
    (l, (r.2.filter (fun e => e.1 == l)).map (fun e => e.2)))
  (r.1.modQuad q (fun x => x.enterHazards slot lines (r.2.map (fun e => e.2)))).settle

/-- `DSC` (R109 to R112): every check is made at the prefix, before any lane's group departs. -/
def execDsc (w : Bool) (k : BitVec 4) (s : State) : Out :=
  runInstr s (.dsc w k) <| inLoopOrder w fun s q slot g =>
    let k := k.toNat
    match s.dscScan g k 1 (22 - g.jetOr.pos) (g.pc + 4) with
    | .error t => .trap t
    | .ok sc =>
      match sc.bad with
      | some p => .trap (Trap.own 0x11 p 1)
      | none =>
        match dscReasons w k sc.mem, sc.mem with
        | some (r, p), _ => .trap (Trap.own 0x11 p r)
        | none, [] => .trap (Trap.own 0x11 1 2)
        | none, m :: rest =>
          match dscLd m.ins with
          | none => .trap (Trap.own 0x11 1 2)
          | some ld =>
            let n := if ld.wide then 8 else 4
            let size := if ld.wide then 3 else 2
            let kind := if w then kindDscWrite else kindDscRead
            match (m :: rest).find? (fun x => !memberOperand g ld.wide x) with
            | some x => .trap (Trap.own 0x02 x.pos 0)
            | none =>
              let st := (rest.getLast?).bind (fun x => dscSt ld.wide x.ins)
              match pairSel g ld.cap, st.map (fun y => pairSel g y.cap) with
              | none, _ => .trap (Trap.own 0x02 1 0)
              | _, some none => .trap (Trap.own 0x02 k 0)
              | some p, sp =>
                let mask := guardMask g ld.guard
                let lds := laneAccs g mask p ld.idx ld.ofs
                let sts := match st, sp with
                  | some y, some (some p2) => laneAccs g mask p2 y.idx y.ofs
                  | _, _ => []
                match checkAccs (s.basin g.basin)
                    (lds.map (fun x => (x, if w then Rights.rw else Rights.r)) ++ sts.map (fun x => (x, Rights.w))) n 1 size kind with
                | .error t => .trap t
                | .ok () =>
                  let lanes := lds.map (fun x =>
                    ({ ld := x, st := sts.find? (fun y => y.lane == x.lane) } : DscLane))
                  let bad := lanes.filter (fun x => x.ldBad n || x.stBad n)
                  if !bad.isEmpty then
                    .trap { Trap.own 0x11 (if lanes.any (fun x => x.ldBad n) then 1 else k) 8 with
                            em := some (accMask (bad.map (fun x => x.ld))) }
                  else
                    match s.loopCheck q slot g (sts.map (fun x => x.write n)) size kind with
                    | .error t => .trap t
                    | .ok keep =>
                      let ok := wholeLanes (sts.map (fun x => x.write n)) keep
                      let ls := if w then lanes.filter (fun x => ok.getLsbD x.ld.lane) else lanes
                      .next (s.dscDepart q slot g k ld (m :: rest) ls) .none none

/-- A member of a group that has departed passes in its own cycle without an effect of its own (R109, R110): it
writes no latch. -/
def dscPass (s : State) (len : Nat) : Out :=
  let q := s.cur.1
  let slot := s.cur.2
  match s.group? q slot with
  | none => .fault .noGroup
  | some g =>
    let j := g.jetOr
    .next (s.setGroup q slot (Group.advance { g with jet := some { j with dscLeft := j.dscLeft - 1 } } .none (g.pc + len)))

/-! ### Landing (R113, R114) -/

/-- Where a lane's group lands: the code, and the state after what the landing itself costs; or it waits; or it falls to an
ordinary fill that has to wait (R113, orders 3 and 6; R117). -/
inductive Landing where
  | wait (what : String)
  | fall (s : State)
  | bad (reason : Nat)
  | absent
  | quad
  | at_ (code : Nat) (s : State)
  deriving DecidableEq, Repr

/-- Whether the L1 copy of a quadrant serves a read group (R113, order 1): no earlier request of the group on the line
is under way. -/
def State.l1Serves (s : State) (r : Req) : Bool :=
  match s.quad? r.owner.q with
  | none => false
  | some x => NMap.has x.l1 r.key && r.after.all (fun i => match s.req? i with
    | some o => !(o.owner == r.owner)
    | none => true)

/-- The place below L1 (R113, orders 2 to 6). A descent or deposit never waits for tokens (R117): one that falls back has an
ordinary fill from then on, decided and counted once. -/
def State.landing (s : State) (id : Nat) (r : Req) (write : Bool) : Landing :=
  let b := r.owner.basin
  let die := s.homeDie b r.obj r.line (dieOf r.owner.q)
  let l := s.line r.key
  let blk := s.block (blockKey b r.obj r.line)
  let stack := (s.extent (extKey b r.obj (r.line / 512))).chanAt die / 32
  let have_ := s.share b stack
  let res := (l.res &&& dieBit die) != 0#4
  let inMsc := (blk.msc &&& dieBit ((s.extent (extKey b r.obj (r.line / 512))).mscDie die)) != 0#4
  let short := if inMsc then decide (have_ < 2) else decide (have_ < 6)
  let below := !res && !r.fall && blk.comp == 0#2 && !short
  match s.homeMeets id b r.obj r.line die write false (!below) with
  | .wait => .wait "DESCENT_LANDING: the line is held"
  | .absent => .absent
  | .bad n => .bad n
  | .ok =>
    if res then .at_ (if r.fall then 2 else 1) s
    else if below then .at_ (if inMsc then 3 else 4) (s.takeTokens b stack (if inMsc then 2 else 6))
    else
      let s := if blk.comp = 0#2 ∧ r.fall = false then s.count (fieldFallback stack) else s
      match s.fillLine b r.obj r.line die with
      | none => if r.fall then .wait "DESCENT_LANDING: the fill waits" else .fall (s.setReq id { r with fall := true })
      | some s => .at_ 2 s

/-- A write performed below the home slice (R113, R115): the data and the version go to where the line is. In the memory-side
cache its block is newer than HBM's from then on (R106). -/
def State.performBelow (s : State) (b obj line : Nat) (cached : Bool) (bytes : NMap Byte) : State :=
  let k := lineKey b obj line
  let l := s.line k
  let bk := blockKey b obj line
  let s := (s.putBytes b obj bytes).setLine k { l with version := l.version + 1#32 }
  if cached then s.setBlock bk { s.block bk with newer := true } else s

/-- The bytes of a group's `ST`. -/
def Descent.stBytes (w : Descent) (d : DWord) : NMap Byte :=
  match w.stOfs with
  | none => []
  | some a => (natBytes (if w.wide then 8 else 4) d.toNat).zipIdx.map (fun e => (a + e.2, e.1))

/-- The value of a lane's `LD` in memory. -/
def State.dscRead (s : State) (b obj : Nat) (w : Descent) : DWord :=
  BitVec.ofNat 64 (leNat (s.readBytes (memKey b obj w.ofs) (if w.wide then 8 else 4)))

/-- The value of a lane's `LD` in an L1 copy. -/
def l1Value (c : CacheLine) (w : Descent) : DWord :=
  BitVec.ofNat 64 (leNat ((List.range (if w.wide then 8 else 4)).map (fun i => c.bytes.getD ((w.ofs + i) % 128) 0#8)))

/-- A landing's nibble: its code, with bit 3 set when the `ST` performed (R115, R116); a replayed lane records 0b101 with bit 3
clear (R121). -/
def landCode (r : Req) (code : Nat) : Nat := if r.replay then 5 else code
def landNibble (r : Req) (nibble : Nat) : Nat := if r.replay then 5 else nibble

/-- `DESCENT_LANDING` (R113): a lane's group lands and runs. -/
def execDescentLanding (r : Nat) (s : State) : Out :=
  match s.req? r with
  | none => .refused (.notEnabled "DESCENT_LANDING: no such request")
  | some rq =>
    match rq.kind with
    | .descent w =>
      if rq.st ≠ .sent ∨ rq.dev ≠ devHere then .refused (.notEnabled "DESCENT_LANDING: the request is not on its way here")
      else
        let b := rq.owner.basin
        let write := w.stOfs.isSome
        let done (s : State) (d : DWord) (code : Nat) (v : Word) : Out :=
          let s := s.count (fieldLanding (landCode rq code))
          .next ((s.setReq r { rq with st := .performed, writes := w.result d, version := v,
                                       landing := code + (if write then 8 else 0) }).placed r).settle
        match (s.quad? rq.owner.q).bind (fun x => if !write && s.l1Serves rq then NMap.get? x.l1 rq.key else none) with
        | some c => done (s.modQuad rq.owner.q (fun x => x.l1Hit rq.key)) (w.run (l1Value c w)) 0 c.version
        | none =>
          if rq.after ≠ [] then .refused (.notEnabled "DESCENT_LANDING: earlier requests on the line")
          else
            match s.landing r rq write with
            | .wait what => .refused (.notEnabled what)
            | .fall s => .next s
            | .absent => .refused (.notEnabled "DESCENT_LANDING: the extent is absent")
            | .quad => .refused (.notEnabled "DESCENT_LANDING: no copy")
            | .bad n => .next (s.failReq r rq n).settle
            | .at_ code s =>
              let d := w.run (s.dscRead b rq.obj w)
              let s := if 3 ≤ code then
                  let s := if write then s.performBelow b rq.obj rq.line (code == 3) (w.stBytes d) else s
                  s.setLine rq.key { s.line rq.key with pend := (s.line rq.key).pend ++ [r] }
                else if write then
                  s.performWrite b rq.obj rq.line (s.homeDie b rq.obj rq.line (dieOf rq.owner.q)) (w.stBytes d)
                else s
              done s d code (s.line rq.key).version
    | _ => .refused (.notEnabled "DESCENT_LANDING: not a descent")

/-! ### Return (R115, R116) -/

/-- Writes a lane's nibble of `landrec` if the group of requests is the youngest issued (R116). -/
def Group.recordLanding (g : Group) (fid : List Nat) (lane code : Nat) : Group :=
  match (g.flights.filter (fun f => f.path == .dsc)).getLast? with
  | some f =>
    if fid.contains f.id then
      { g with landrec := (g.landrec &&& ~~~(0xF#128 <<< (4 * lane))) ||| (BitVec.ofNat 128 (code % 16) <<< (4 * lane)) }
    else g
  | none => g

/-- A group that has ended returns to its lane (R115, R116): its register writes and its nibble of `landrec`, and the line's
descent-pending mark goes. -/
def State.dscBack (s : State) (id : Nat) (rq : Req) (w : Descent) (ix : Nat) (ws : List (Nat × Nat × Word)) (nibble : Nat) : State :=
  let s := s.modOwner rq.owner (fun g =>
    ((g.deliver ix rq.flight ws).recordLanding rq.flight w.lane nibble).flightDone rq.flight)
  let l := s.line rq.key
  let s := if l.pend.contains id then s.setLine rq.key { l with pend := l.pend.filter (· != id) } else s
  s.finish id

/-- A group that a data error has stopped: the notice, and nothing is written (R115). Its nibble of `landrec` stays at 0b0111, since it has not
landed (R116 states no code; DESIGN CHOICE, log 99). -/
def State.dscError (s : State) (id : Nat) (rq : Req) (n : Nat) : State :=
  ((s.notify rq.owner (rq.dataError n)).modOwner rq.owner (fun g => g.flightDone rq.flight)).finish id

/-- The landing code of a group that a peer has run: a place below L1, which one is open (R113, R134). -/
def peerCode (ix : Nat) : Nat := 1 + Config.freeNat ix % 4

/-- `DESCENT_RETURN` (R115): the final value of D reaches its lane. What a peer's memory held is open (R134); with an error
nothing is written. -/
def execDescentReturn (r : Nat) (s : State) : Out :=
  match s.req? r with
  | none => .refused (.notEnabled "DESCENT_RETURN: no such request")
  | some rq =>
    match rq.kind with
    | .descent w =>
      let ix := s.freeIx
      let s := { s with freeIx := ix + 128 }
      if rq.st = .performed then
        match rq.err with
        | some n => .next (s.dscError r rq n)
        | none => .next ((s.l1Seen rq.owner.q rq.key rq.version).dscBack r rq w ix rq.writes (landNibble rq rq.landing))
      else if rq.dev != devHere && rq.st == .sent && s.portUp rq then
        let p := s.peerAnswer rq true (ix + 67)
        if p.2.err.isSome then .next (p.1.dscError r rq 3)
        else
          let d := w.run (Config.freeWord (ix + 64) ++ Config.freeWord (ix + 65))
          .next (p.1.dscBack r rq w ix (w.result d) (landNibble rq (peerCode (ix + 66) + (if w.stOfs.isSome then 8 else 0))))
      else .refused (.notEnabled "DESCENT_RETURN: the group has not landed")
    | _ => .refused (.notEnabled "DESCENT_RETURN: not a descent")

end Sys2Proof.Machine
end

