-- ==== Sys2Proof/Machine/Fabric.lean ====
section
/-! DEFINITION. The steps of requests between a quadrant and the home slices: write-combining time-outs (R93), stores,
reads, atomics, `CASV`, `LDV`, deposits and `VALSET` at home (R102, R123, R163, R170, R172, R175 to R177), the answers
(R128, R135), collapse (R108), write-back (R103, R104, R106), promotion (R131), energy
refill (R117) and time-outs (R261, R272). -/

namespace Sys2Proof.Machine

/-! ### At home -/

/-- What a request finds before it performs on its line: refused while it must wait, failed, or performing with the line
filled (R102, R106). -/
def State.atHome (s : State) (what : String) (id : Nat) (r : Req) (write full : Bool) (k : State → Nat → Out) : Out :=
  if r.st ≠ .sent ∨ r.dev ≠ devHere then .refused (.notEnabled (what ++ ": the request is not on its way here"))
  else if s.heldBack r ≠ [] then .refused (.notEnabled (what ++ ": earlier requests on the line"))
  else
    let b := r.owner.basin
    let die := s.homeDie b r.obj r.line (dieOf r.owner.q)
    match s.homeMeets id b r.obj r.line die write full true with
    | .wait => .refused (.notEnabled (what ++ ": the line is held"))
    | .absent => .refused (.notEnabled (what ++ ": the extent is absent"))
    | .bad n => .next (s.failReq id r n).settle
    | .ok =>
      match s.fillLine b r.obj r.line die with
      | none => .refused (.notEnabled (what ++ ": the fill waits for tokens"))
      | some s => k s die

/-- A posted store that has performed brings the quadrant's L1 copy up to date where that holds the state before it (R92, R128);
every other older copy goes. -/
def State.l1Post (s : State) (q k line : Nat) (bytes : NMap Byte) : State :=
  let v := (s.line k).version
  (s.modQuad q (fun x =>
    match NMap.get? x.l1 k with
    | none => x
    | some c =>
      if v = c.version + 1#32 then
        { x with l1 := NMap.set x.l1 k { c with bytes := overlayLine line bytes c.bytes, version := v } }
      else x)).l1Seen q k v

/-- The caches of a quadrant follow its writes that have performed past the outbound queue: no later hit returns data
older than they are, whether from a copy or from a fill on its way (R128; log 60). The versions that a `VALSET` answers count too when it writes nothing (R175; DESIGN CHOICE,
log 60). -/
def State.l1Behind (s : State) (r : Req) : State :=
  if r.dev ≠ devHere then s
  else
    match r.kind with
    | .store false bytes => s.l1Post r.owner.q r.key r.line bytes
    | .store true _ => s
    | k => if k.writeClass then r.keys.foldl (fun s k => s.l1Seen r.owner.q k (s.line k).version) s else s

/-- A request has performed: its answer is under way. -/
def State.performed (s : State) (id : Nat) (r : Req) : State :=
  (((s.l1Behind r).setReq id { r with st := .performed, after := [] }).placed id).settle

/-- The version of a request's line. -/
def State.reqVersion (s : State) (r : Req) : Word := (s.line r.key).version

/-! ### Stores (R93, R102, R128) -/

/-- `WC_TIMEOUT` (R93): 64 cycles after its first write an entry is sent. -/
def execWcTimeout (q ix : Nat) (s : State) : Out :=
  match (s.quad? q).bind (fun x => x.wc[ix]?) with
  | none => .refused (.notEnabled "WC_TIMEOUT: no such entry")
  | some e =>
    if e.since + 64 ≤ s.now then .next (s.wcFlush e.owner (fun w => w.obj == e.obj && w.line == e.line)).settle
    else .refused (.notEnabled "WC_TIMEOUT: 64 cycles have not passed")

/-- The bytes that a store-like request writes. -/
def ReqKind.storeBytes : ReqKind → Option (NMap Byte)
  | .store _ bs => some bs
  | .copyWrite bs => some bs
  | .signal false v ofs => some ((natBytes 4 v.toNat).zipIdx.map (fun e => (ofs + e.2, e.1)))
  | _ => none

/-- The writes of a `COPY` that are under way, in ascending order, to which a write request belongs; none for a row of a tile (R300). -/
def State.copyLines (s : State) (id : Nat) (r : Req) : List Nat :=
  if r.kind.isCopy then
    (((s.engine (slotOf r.owner.q)).copies.filter (fun c => c.writes.contains id && (match c.kind with
      | .copy .. => true
      | _ => false))).flatMap (fun c => c.writes))
  else []

/-- The lower lines of its copy whose writes have not performed (R300). -/
def State.copyLower (s : State) (id : Nat) (r : Req) : List Nat :=
  ((s.copyLines id r).takeWhile (· != id)).filter (fun i => (s.req? i).any (fun o => o.st == .sent || o.err.isSome))

/-- What a copy's write would meet at its home. -/
def State.writeMeets (s : State) (id : Nat) (r : Req) : Home :=
  s.homeMeets id r.owner.basin r.obj r.line (s.homeDie r.owner.basin r.obj r.line (dieOf r.owner.q)) true
    (((r.kind.storeBytes).map (fun b => b.length)).getD 0 == 128) true

/-- Whether a write of a `COPY` may perform ahead of lower lines: writes to different lines perform in any order, and no line from one that
meets a fault on is written, so that each lower one must be going to perform, and a write that is refused is the lowest (R300, R301;
DESIGN CHOICE, log 97). -/
def State.copyMayWrite (s : State) (id : Nat) (r : Req) : Bool :=
  let ok (i : Nat) (o : Req) : Bool := match s.writeMeets i o with
    | .ok | .wait => o.err.isNone
    | _ => false
  let lower := s.copyLower id r
  lower.isEmpty || (ok id r && lower.all (fun i => (s.req? i).all (ok i)))

/-- The higher lines of a copy that has met a fault are not written: they are to be done again (R301). -/
def State.cancelAbove (s : State) (id : Nat) (r : Req) : State :=
  (((s.copyLines id r).dropWhile (· != id)).drop 1).foldl State.finish s

/-- `STORE_PERFORM` (R128): a store, a copy-engine write or a signal's store performs at its home slice. -/
def execStorePerform (r : Nat) (s : State) : Out :=
  match s.req? r with
  | none => .refused (.notEnabled "STORE_PERFORM: no such request")
  | some rq =>
    match rq.kind.storeBytes with
    | none => .refused (.notEnabled "STORE_PERFORM: not a store")
    | some bs =>
      if !s.copyMayWrite r rq then .refused (.notEnabled "STORE_PERFORM: lower lines of the copy go first")
      else
      let s := match s.writeMeets r rq with
        | .bad _ => s.cancelAbove r rq
        | _ => s
      s.atHome "STORE_PERFORM" r rq true (bs.length == 128) (fun s die =>
        let s := s.performWrite rq.owner.basin rq.obj rq.line die bs
        .next (s.performed r { rq with version := s.reqVersion rq }))

/-! ### Reads (R102, R128, R385) -/

/-- A byte as the sampler path reads it: from a sampler line of the quadrant, or at home. -/
def State.smplByte (s : State) (q b obj a : Nat) : Byte :=
  match (s.quad? q).bind (fun x => NMap.get? x.ro (roKey (lineKey b obj (a / 128)) true)) with
  | some c => c.bytes.getD (a % 128) 0#8
  | none => s.readByte (memKey b obj a)

def State.smplHdr (s : State) (q b obj a : Nat) : ImgHdr := imgHdr ((List.range 64).map (fun i => s.smplByte q b obj (a + i)))

/-- Whether a sampler line of the quadrant holds an address. -/
def State.smplHas (s : State) (r : Req) (a : Nat) : Bool :=
  ((s.quad? r.owner.q).bind (fun x => NMap.get? x.ro (roKey (lineKey r.owner.basin r.obj (a / 128)) true))).isSome

/-- The texels of a lane: none where the header gives 0. -/
def State.smplTexels (s : State) (r : Req) (lin : Bool) (e : Nat × Nat × Word × Word) : List Nat :=
  let h := s.smplHdr r.owner.q r.owner.basin r.obj e.2.1
  if h.ok then h.texels e.2.1 lin e.2.2.1 e.2.2.2 else []

/-- The first of some texels that a check refuses, with the failure (R229). A texel of an object that has been destroyed since the
issue fails the second step, with `s59` = 1, and R386 gives texels cause 0x06 only: it is reported so (DESIGN CHOICE, log 84). -/
def State.texelFault (s : State) (r : Req) (as_ : List Nat) : Option (Nat × CapFail) :=
  as_.findSome? (fun (a : Nat) =>
    match checkAccess (s.basin r.owner.basin) (mkCap r.dev r.obj 0) a 4 4 Rights.r with
    | .ok () => none
    | .error f => some (a, f))

/-- The first texel of a lane that a check refuses. -/
def State.smplFault (s : State) (r : Req) (lin : Bool) (e : Nat × Nat × Word × Word) : Option (Nat × CapFail) :=
  s.texelFault r (s.smplTexels r lin e)

/-- The addresses that a lane reads: its header, and its texels once the header can be read and they pass the checks. -/
def State.smplReads (s : State) (r : Req) (lin : Bool) (e : Nat × Nat × Word × Word) : List Nat :=
  let readable := s.smplHas r e.2.1 || (s.extent (extKey r.owner.basin r.obj (e.2.1 / 65536))).v
  e.2.1 :: (if !readable || (s.smplFault r lin e).isSome then [] else s.smplTexels r lin e)

/-- What an address of a sampler read meets: nothing where the quadrant holds its line (R94). -/
def State.smplMeets (s : State) (id : Nat) (r : Req) (a : Nat) : Home :=
  if s.smplHas r a then .ok
  else s.homeMeets id r.owner.basin r.obj (a / 128) (s.homeDie r.owner.basin r.obj (a / 128) (dieOf r.owner.q)) false false true

/-- The lanes of a sampler read that meet something, each with the first address that does. -/
def State.smplAt (s : State) (id : Nat) (r : Req) (p : Home → Bool) : List (Nat × Nat) :=
  match r.kind with
  | .smpl _ lin _ ls =>
    ls.filterMap (fun (e : Nat × Nat × Word × Word) => ((s.smplReads r lin e).find? (fun a => p (s.smplMeets id r a))).map (fun a => (e.1, a)))
  | _ => []

/-- The lines that a request needs at its home: those of a sampler request that no sampler line of the quadrant
holds, the next line of a `VALSET`, else its own. -/
def State.needs (s : State) (r : Req) : List (Nat × Nat) :=
  match r.kind with
  | .smpl _ lin _ ls =>
    (((ls.flatMap (fun e => s.smplReads r lin e)).filter (fun a => !s.smplHas r a)).map (fun a => (r.obj, a / 128))).eraseDups
  | .valset w => if w.verdict = none then (w.lines[w.pins.length]?.map (fun k => (keyObj k, keyLine k))).toList else []
  | _ => [(r.obj, r.line)]

/-- A sampler request for some of its lanes. -/
def Req.smplOnly (r : Req) (p : Nat → Bool) : Req :=
  match r.kind with
  | .smpl d lin word ls => { r with kind := .smpl d lin word (ls.filter (fun e => p e.1)), lanes := r.lanes &&& maskOf p,
                                    accs := r.accs.filter (fun a => p a.1) }
  | _ => r

/-- Parts the lanes of a sampler request that meet something from the others (R244, R386): each texel is a read of its own. The
number and the request of the parted lanes, whose accesses are the addresses they meet it at. -/
def State.smplPart (s : State) (id : Nat) (r : Req) (out : List (Nat × Nat)) : State × Nat × Req :=
  let p (l : Nat) : Bool := out.any (fun e => e.1 == l)
  let b := { r.smplOnly p with accs := out.map (fun e => (e.1, e.2, 4)) }
  let rest := r.smplOnly (fun l => !p l)
  if rest.laneOfs = [] then (s.setReq id b, id, b)
  else
    let s := (s.setReq id rest).modOwner r.owner (fun g => { g with flights := g.flights.map (fun f =>
      if r.flight.contains f.id then { f with ops := f.ops + 1 } else f) })
    (s.addReq b, s.nextId, b)

/-- Fills lines for the sampler path into the home slices and the quadrant's read-only region. -/
def State.smplFill (s : State) (r : Req) : List (Nat × Nat) → Option State
  | [] => some s
  | e :: t =>
    let b := r.owner.basin
    match s.fillLine b e.1 e.2 (s.homeDie b e.1 e.2 (dieOf r.owner.q)) with
    | none => none
    | some s =>
      let k := lineKey b e.1 e.2
      let c : CacheLine := { bytes := (s.lineBytes b e.1 e.2).map (fun x => x.2), version := (s.line k).version, cls := 1,
                             used := 0, sampler := true }
      State.smplFill (s.modQuad r.owner.q (fun x => x.roFill (roKey k true) c)) r t

/-- The notice of the lanes whose texels a check refuses, the first cause of R229's order (R386). -/
def State.smplNotice (s : State) (r : Req) (word : Word) (faults : List (Nat × Nat × CapFail)) : State :=
  match faults with
  | [] => s
  | f :: _ =>
    let step := faults.foldl (fun a (x : Nat × Nat × CapFail) => min a x.2.2.step) f.2.2.step
    let mine := faults.filter (fun (x : Nat × Nat × CapFail) => x.2.2.step == step)
    let em := maskOf (fun l => mine.any (fun x => x.1 == l))
    s.notify r.owner (noticeOf 0x06 word (BitVec.ofNat 32 ((mine.head?.map (fun x => x.2.2.s59)).getD 0)) em
      (mine.map (fun x => (x.1, mkCap r.dev r.obj x.2.1))) (v122Of (r.dev != devHere) 2 kindSampler) r.byHandler)

/-- A sampler request at home: every line it needs is read, and the lanes' channels are computed (R385); a hit counts as a use
of its line (R94). Lanes that meet a data error end with it, apart from the others; a texel that a check refuses is a notice for
its lanes (R386). -/
def State.smplRead (s : State) (id : Nat) (r : Req) (d : Nat) (lin : Bool) (word : Word) (ls : List (Nat × Nat × Word × Word)) : Out :=
  let isBad (n : Nat) (h : Home) : Bool := h == .bad n
  match s.smplAt id r (fun h => match h with | .bad _ => true | _ => false) with
  | x :: _ =>
    match s.smplMeets id r x.2 with
    | .bad n =>
      let p := s.smplPart id r (s.smplAt id r (isBad n))
      .next (p.1.failReq p.2.1 p.2.2 n).settle
    | _ => .refused (.notEnabled "READ_REQUEST: a line is held")
  | [] =>
    if s.smplAt id r (fun h => h == .wait) ≠ [] then .refused (.notEnabled "READ_REQUEST: a line is held")
    else if s.smplAt id r (fun h => h == .absent) ≠ [] then .refused (.notEnabled "READ_REQUEST: an extent is absent")
    else
      let faults : List (Nat × Nat × CapFail) := ls.filterMap (fun e => (s.smplFault r lin e).map (fun f => (e.1, f)))
      let good := ls.filter (fun e => (s.smplFault r lin e).isNone)
      let b := r.owner.basin
      let out := good.flatMap (fun e =>
        let h := s.smplHdr r.owner.q b r.obj e.2.1
        let ts := (s.smplTexels r lin e).map (fun a => BitVec.ofNat 32 (leNat ((List.range 4).map (fun i => s.smplByte r.owner.q b r.obj (a + i)))))
        let cs := if h.ok then texResult h lin e.2.2.1 e.2.2.2 (s.freeIx + 4 * e.1) ts else [0#32, 0#32, 0#32, 0#32]
        (cs.zipIdx).map (fun c => (d + c.2, e.1, c.1)))
      let hits := ((ls.flatMap (fun e => s.smplReads r lin e)).filter (fun a => s.smplHas r a)).map (fun a => roKey (lineKey b r.obj (a / 128)) true)
      match (s.modQuad r.owner.q (fun x => hits.eraseDups.foldl Quad.roHit x)).smplFill r (s.needs r) with
      | none => .refused (.notEnabled "READ_REQUEST: a fill waits")
      | some s =>
        let s := { s with freeIx := s.freeIx + 128 }
        let s := s.smplNotice r word faults
        .next (s.performed id { r with writes := out })

/-- The landing code of the level that serves a read here (R113, R258): its home slice, or an ordinary fill. -/
def State.levelHere (s : State) (r : Req) : Nat :=
  if ((s.line r.key).res &&& dieBit (s.homeDie r.owner.basin r.obj r.line (dieOf r.owner.q))) != 0#4 then 1 else 2

/-- `READ_REQUEST` (R102): a read takes its place at the home slice and the line's state goes back. -/
def execReadRequest (r : Nat) (s : State) : Out :=
  match s.req? r with
  | none => .refused (.notEnabled "READ_REQUEST: no such request")
  | some rq =>
    match rq.kind with
    | .load .. =>
      let level := s.levelHere rq
      s.atHome "READ_REQUEST" r rq false false (fun s _ =>
        .next (s.performed r { rq with data := s.lineBytes rq.owner.basin rq.obj rq.line, version := s.reqVersion rq, landing := level }))
    | .smpl d lin word ls =>
      if rq.st ≠ .sent ∨ rq.dev ≠ devHere then .refused (.notEnabled "READ_REQUEST: the request is not on its way here")
      else if rq.after ≠ [] then .refused (.notEnabled "READ_REQUEST: earlier requests on the line")
      else s.smplRead r rq d lin word ls
    | _ => .refused (.notEnabled "READ_REQUEST: not a read")

/-- `LDV_REQUEST` (R170): data and version of one state of the line. -/
def execLdvRequest (r : Nat) (s : State) : Out :=
  match s.req? r with
  | none => .refused (.notEnabled "LDV_REQUEST: no such request")
  | some rq =>
    match rq.kind with
    | .ldv .. =>
      let level := s.levelHere rq
      s.atHome "LDV_REQUEST" r rq false false (fun s _ =>
        .next (s.performed r { rq with data := s.lineBytes rq.owner.basin rq.obj rq.line, version := s.reqVersion rq, landing := level }))
    | _ => .refused (.notEnabled "LDV_REQUEST: not an LDV")

/-! ### Atomics (R163, R172) -/

/-- `n` bytes of an object as a number. -/
def State.objNum (s : State) (b obj a n : Nat) : Nat := leNat (s.readBytes (memKey b obj a) n)

/-- `n` bytes of a number, keyed by their offset. -/
def bytesAt (a n x : Nat) : NMap Byte := (natBytes n x).zipIdx.map (fun e => (a + e.2, e.1))

/-- The elements of an atomic in order: the state's bytes, the results, whether something was written. -/
def State.atomElems (s : State) (b obj : Nat) (op : AtOp) (ty : AtTy) (d : Option Nat) (es : List Elem) :
    State × List (Nat × Nat × Word) × Bool :=
  es.foldl (fun acc e =>
    let n := atomBytes ty
    let old : DWord := BitVec.ofNat 64 (acc.1.objNum b obj e.ofs n)
    let hit := op != .cas || old == (if ty = .s64 then e.cmp else (e.cmp.setWidth 32).setWidth 64)
    (acc.1.putBytes b obj (bytesAt e.ofs n (atomNew op ty old e.data e.cmp).toNat),
     acc.2.1 ++ atomWrites ty d e.lane old, acc.2.2 || hit)) (s, [], false)

/-- `ATOM_REQUEST` (R163): an atomic, or the addition of a `SIGNAL`, performs at its place in the line's order. -/
def execAtomRequest (r : Nat) (s : State) : Out :=
  match s.req? r with
  | none => .refused (.notEnabled "ATOM_REQUEST: no such request")
  | some rq =>
    let b := rq.owner.basin
    match rq.kind with
    | .atom op ty d es => s.atHome "ATOM_REQUEST" r rq true false (fun s die =>
        let x := s.atomElems b rq.obj op ty d es
        let s := if x.2.2 then x.1.performInc b rq.obj rq.line die 1 [] else s
        .next (s.performed r { rq with writes := x.2.1, version := s.reqVersion rq }))
    | .signal true v ofs => s.atHome "ATOM_REQUEST" r rq true false (fun s die =>
        let x := s.objNum b rq.obj ofs 4 + v.toNat
        let s := s.performInc b rq.obj rq.line die 1 (bytesAt ofs 4 (x % 2 ^ 32))
        .next (s.performed r { rq with version := s.reqVersion rq }))
    | _ => .refused (.notEnabled "ATOM_REQUEST: not an atomic")

/-- One lane of a `CASV` (R172): both comparisons see the line as the lower lanes left it. -/
def State.casvElem (s : State) (b obj line die : Nat) (wide : Bool) (d v : Nat) (e : Elem) : State × List (Nat × Nat × Word) :=
  let n := if wide then 8 else 4
  let old : DWord := BitVec.ofNat 64 (s.objNum b obj e.ofs n)
  let ov := (s.line (lineKey b obj line)).version
  let hit := old == (if wide then e.cmp else (e.cmp.setWidth 32).setWidth 64) && ov == e.ver
  let s := if hit then s.performInc b obj line die 1 (bytesAt e.ofs n e.data.toNat) else s
  (s, (if wide then [(d, e.lane, old.setWidth 32), (d + 1, e.lane, old.extractLsb' 32 32)]
       else [(d, e.lane, old.setWidth 32)]) ++ [(v, e.lane, ov)])

/-- All lanes of a `CASV` in order. -/
def State.casvElems (s : State) (b obj line die : Nat) (wide : Bool) (d v : Nat) (es : List Elem) : State × List (Nat × Nat × Word) :=
  es.foldl (fun acc e =>
    let y := acc.1.casvElem b obj line die wide d v e
    (y.1, acc.2 ++ y.2)) (s, [])

/-- `CASV_REQUEST` (R172). -/
def execCasvRequest (r : Nat) (s : State) : Out :=
  match s.req? r with
  | none => .refused (.notEnabled "CASV_REQUEST: no such request")
  | some rq =>
    match rq.kind with
    | .casv wide d v es => s.atHome "CASV_REQUEST" r rq true false (fun s die =>
        let x := s.casvElems rq.owner.basin rq.obj rq.line die wide d v es
        .next (x.1.performed r { rq with writes := x.2, version := x.1.reqVersion rq }))
    | _ => .refused (.notEnabled "CASV_REQUEST: not a CASV")

/-! ### Deposits (R123) -/

/-- A deposit's combination of a word and an element. -/
def depWord (op : DepOp) (ty : Ty3) (old x : Word) : Word :=
  match op, ty with
  | .add, .f32 => (faddW old x).1
  | .add, _ => old + x
  | .max, .s32 => imaxS old x
  | .max, .n32 => imaxN old x
  | .max, .f32 => (fmaxW old x).1
  | .min, .s32 => iminS old x
  | .min, .n32 => iminN old x
  | .min, .f32 => (fminW old x).1

/-- `DEPOSIT_LANDING` (R123): a deposit lands by orders 2 to 6 of R113 and applies its pairs in order. -/
def execDepositLanding (r : Nat) (s : State) : Out :=
  match s.req? r with
  | none => .refused (.notEnabled "DEPOSIT_LANDING: no such request")
  | some rq =>
    match rq.kind with
    | .dep op ty es =>
      if rq.st ≠ .sent ∨ rq.dev ≠ devHere then .refused (.notEnabled "DEPOSIT_LANDING: the request is not on its way here")
      else if rq.after ≠ [] then .refused (.notEnabled "DEPOSIT_LANDING: earlier requests on the line")
      else
        let b := rq.owner.basin
        match s.landing r rq true with
        | .wait what => .refused (.notEnabled what)
        | .fall s => .next s
        | .absent => .refused (.notEnabled "DEPOSIT_LANDING: the extent is absent")
        | .quad => .refused (.notEnabled "DEPOSIT_LANDING: no copy")
        | .bad n => .next (s.failReq r rq n).settle
        | .at_ code s =>
          let s := es.foldl (fun (s : State) e =>
            s.putBytes b rq.obj (bytesAt e.ofs 4
              (depWord op ty (BitVec.ofNat 32 (s.objNum b rq.obj e.ofs 4)) (e.data.setWidth 32)).toNat)) s
          let s := if 3 ≤ code then s.performBelow b rq.obj rq.line (code == 3) []
            else s.performWrite b rq.obj rq.line (s.homeDie b rq.obj rq.line (dieOf rq.owner.q)) []
          .next (s.performed r { rq with version := s.reqVersion rq })
    | _ => .refused (.notEnabled "DEPOSIT_LANDING: not a deposit")

/-! ### `VALSET` (R175 to R177) -/

/-- Cycles that a `VALSET` may take from its first pin to its last (R177). -/
def pinLimit : Nat := 16384

/-- Whether a `VALSET`'s limit has passed (R177). -/
def Valset.late (w : Valset) (now : Nat) : Bool :=
  match w.firstPin with
  | some t => decide (t + pinLimit ≤ now)
  | none => false

/-- The elements of a `VALSET` that write and that D answers: not those of suppressed lanes. -/
def Valset.told (w : Valset) : List Elem := w.elems.filter (fun e => !w.quiet.contains e.lane)

/-- The bytes a `VALSET.w` writes on one line, in ascending lane order. -/
def Valset.lineBytes (basin : Nat) (w : Valset) (k : Nat) : NMap Byte :=
  (w.told.filter (fun e => lineKey basin (e.ofs / 2 ^ 40) (e.ofs % 2 ^ 40 / 128) == k)).foldl (fun m e =>
    (bytesAt (e.ofs % 2 ^ 40) (if w.wide then 8 else 4) e.data.toNat).foldl (fun m b => NMap.set m b.1 b.2) m) []

/-- Whether a line of a `VALSET` lies in an extent that is still replicated: collapse comes before the first pin (R175). -/
def State.valsetReplicated (s : State) (w : Valset) : Bool :=
  w.pins == [] && w.lines.any (fun k => !(s.extent (extKey (keyBasin k) (keyObj k) (keyLine k / 512))).reps.isEmpty)

/-- Pins a line for a `VALSET` (R175), which has then taken its place in the line's order (R108). -/
def State.pinLine (s : State) (id : Nat) (rq : Req) (w : Valset) (k : Nat) : State :=
  let w := { w with pins := w.pins ++ [(k, (s.line k).version)], firstPin := some (w.firstPin.getD s.now) }
  let x := extKey (keyBasin k) (keyObj k) (keyLine k / 512)
  let e := s.extent x
  let s := if e.first = some id then s.setExtent x { e with first := none } else s
  (s.setLine k { s.line k with pin := some id }).setReq id { rq with kind := .valset w, freed := [] }

/-- `VALSET_PIN` (R175): the next line of the set, in order, is filled and pinned. A poisoned line that the set does not
write whole fails it (R262). -/
def execValsetPin (r line : Nat) (s : State) : Out :=
  match s.req? r with
  | none => .refused (.notEnabled "VALSET_PIN: no such request")
  | some rq =>
    match rq.kind with
    | .valset w =>
      match w.lines[w.pins.length]? with
      | none => .refused (.notEnabled "VALSET_PIN: every line is pinned")
      | some k =>
        if w.pins.length ≠ line ∨ w.verdict ≠ none then .refused (.notEnabled "VALSET_PIN: not the next line")
        else if w.late s.now then .refused (.notEnabled "VALSET_PIN: the limit has passed")
        else if s.valsetReplicated w then .refused (.notEnabled "VALSET_PIN: a replicated extent has to collapse first")
        else
          let full := w.write && (Valset.lineBytes rq.owner.basin w k).length == 128
          s.atHome "VALSET_PIN" r { rq with obj := keyObj k, line := keyLine k } true full (fun s _ => .next (s.pinLine r rq w k))
    | _ => .refused (.notEnabled "VALSET_PIN: not a VALSET")

/-- The version that a lane of a `VALSET` observed: the pinned one, or the one its slice answered a release with (R175,
R177). -/
def Valset.verOf (w : Valset) (basin : Nat) (e : Elem) : Word :=
  let k := lineKey basin (e.ofs / 2 ^ 40) (e.ofs % 2 ^ 40 / 128)
  match w.pins.find? (fun p => p.1 == k) with
  | some p => p.2
  | none => 0#32

/-- The register writes of a `VALSET`'s D. -/
def Valset.dWrites (w : Valset) (basin : Nat) : List (Nat × Nat × Word) := w.told.map (fun e => (w.d, e.lane, w.verOf basin e))

/-- Whether every lane of a `VALSET` presented the version its line held (R175). -/
def Valset.holds (w : Valset) (basin : Nat) : Bool := w.elems.all (fun e => e.ver == w.verOf basin e)

/-- One line of a commit or a release at its slice (R175, R177): written if the set has validated and a lane that is not suppressed
writes it (R219), and unpinned; a line that was
not pinned answers with the version it holds now, which is open for an absent extent. -/
def State.valsetLine (s : State) (id : Nat) (rq : Req) (ok : Bool) (acc : State × Valset) (k : Nat) : State × Valset :=
  let b := rq.owner.basin
  let w := acc.2
  let bs := Valset.lineBytes b w k
  let t := acc.1
  let t := if ok && w.write && !bs.isEmpty then t.performWrite b (keyObj k) (keyLine k) (s.homeDie b (keyObj k) (keyLine k) (dieOf rq.owner.q)) bs else t
  let v := if (t.extent (extKey b (keyObj k) (keyLine k / 512))).v then (t.line k).version else Config.freeWord (t.freeIx + w.done.length)
  let pins := if w.pins.any (fun p => p.1 == k) then w.pins else w.pins ++ [(k, v)]
  (t.unpin id [k], { w with pins := pins, done := w.done ++ [k] })

/-- The slices that have still to perform a set's commit or release. -/
def State.valsetLeft (s : State) (rq : Req) (w : Valset) : List Nat :=
  ((w.lines.filter (fun k => !w.done.contains k)).map (fun k =>
    s.sliceFor rq.owner.basin (keyObj k) (keyLine k) (dieOf rq.owner.q))).eraseDups

/-- `VALSET_COMMIT` (R175): a slice performs the commit of its lines, or their release. The commit goes out once every pin is
granted; the slices perform it in any order, so that which one comes next is free, and with the last one the set has performed. -/
def execValsetCommit (r : Nat) (s : State) : Out :=
  match s.req? r with
  | none => .refused (.notEnabled "VALSET_COMMIT: no such request")
  | some rq =>
    match rq.kind with
    | .valset w =>
      let b := rq.owner.basin
      let left := s.valsetLeft rq w
      if rq.st ≠ .sent ∨ rq.dev ≠ devHere then .refused (.notEnabled "VALSET_COMMIT: the request is not on its way here")
      else if w.verdict = none ∧ w.pins.length ≠ w.lines.length then .refused (.notEnabled "VALSET_COMMIT: not every line is pinned")
      else
        match left[Config.freeNat s.freeIx % left.length]? with
        | none => .refused (.notEnabled "VALSET_COMMIT: no line is left")
        | some slice =>
          let mine := w.lines.filter (fun k => !w.done.contains k && s.sliceFor b (keyObj k) (keyLine k) (dieOf rq.owner.q) == slice)
          let ok := w.verdict.getD (w.holds b)
          let x := mine.foldl (s.valsetLine r rq ok) ({ s with freeIx := s.freeIx + 1 }, { w with verdict := some ok })
          let s := { x.1 with freeIx := x.1.freeIx + w.lines.length }
          let rq := { rq with kind := .valset x.2 }
          if x.2.done.length = w.lines.length then
            .next (s.performed r { rq with ok := ok, writes := x.2.dWrites b, version := s.reqVersion rq })
          else .next (s.setReq r rq).settle
    | _ => .refused (.notEnabled "VALSET_COMMIT: not a VALSET")

/-- `VALSET_TIMEOUT` (R177): 16,384 cycles after its first pin a `VALSET` without its last pin gives up; the release goes to
its slices. -/
def execValsetTimeout (r : Nat) (s : State) : Out :=
  match s.req? r with
  | none => .refused (.notEnabled "VALSET_TIMEOUT: no such request")
  | some rq =>
    match rq.kind with
    | .valset w =>
      if (rq.st ≠ .sent ∧ rq.st ≠ .parked) ∨ w.verdict ≠ none ∨ w.pins.length = w.lines.length ∨ !w.late s.now then
        .refused (.notEnabled "VALSET_TIMEOUT: the limit has not passed")
      else
        .next (((s.unpark r).count fieldTimeout).setReq r { rq with st := .sent, freed := [], kind := .valset { w with verdict := some false } })
    | _ => .refused (.notEnabled "VALSET_TIMEOUT: not a VALSET")

/-! ### Answers (R128, R135) -/

/-- A load's words in its registers (R70): up to 32 bits zero-extended, else 32 bits a register. -/
def loadWrites (d n : Nat) (lanes : List (Nat × Nat)) (byte : Nat → Byte) : List (Nat × Nat × Word) :=
  lanes.flatMap (fun e =>
    let word (i k : Nat) : Word := BitVec.ofNat 32 (leNat ((List.range k).map (fun j => byte (e.2 + 4 * i + j))))
    (List.range (regCount n)).map (fun i => (d + i, e.1, word i (min n 4))))

/-- The bytes a read returns: an L1 copy newer than the fill, but for a read that never takes L1's data (R193), else the fill; the group's own write-combining bytes over
them (R128). -/
def State.readBack (s : State) (r : Req) (a : Nat) : Byte :=
  let base := NMap.getD r.data a 0#8
  let base := match r.kind, (s.quad? r.owner.q).bind (fun x => NMap.get? x.l1 r.key) with
    | .load .ld _ _ _ _ _ true, some c => if !r.ok && r.dev == devHere && newer c.version r.version then c.bytes.getD (a % 128) 0#8 else base
    | _, _ => base
  NMap.getD r.overlay a base

/-- A peer's answer to a read is open (R134): free bytes. -/
def freeLine (ix line : Nat) : NMap Byte := (List.range 128).map (fun i => (128 * line + i, Config.freeByte (ix + i)))

/-- Delivers words to the group of a request and lowers its counters. -/
def State.answer (s : State) (id : Nat) (r : Req) (ix : Nat) (ws : List (Nat × Nat × Word)) : State :=
  (s.modOwner r.owner (fun g => (g.deliver ix r.flight ws).flightDone r.flight)).finish id

/-- A returning read of the load-store or the constant path (R92, R94, R128). -/
def State.loadBack (s : State) (id : Nat) (r : Req) (path : Path) (n d : Nat) (lanes : List (Nat × Nat)) (hint : Hint)
    (uni keep : Bool) (ix : Nat) : State :=
  let byte := fun a => s.readBack r a
  let c : CacheLine := { bytes := (r.data.map (fun e => e.2)), version := r.version, cls := hintClass hint, used := 0,
                         sampler := false }
  let s := if r.dev = devHere ∧ path = .ld then s.l1Seen r.owner.q r.key r.version else s
  let s := if !keep || r.dev ≠ devHere || r.ok then s
    else if path = .ld then s.modQuad r.owner.q (fun x => x.l1Fill r.key c r.noFill)
    else if r.noFill then s
    else s.modQuad r.owner.q (fun x => x.roFill (roKey r.key false) c)
  if uni then
    let ws := (lanes.flatMap (fun e => (loadWrites 0 n [e] byte).map (fun w => w.2.2)))
    (s.modOwner r.owner (fun g => if g.wait = .request id then { g with wait := .answer ws } else g)).finish id
  else s.answer id r ix (loadWrites d n lanes byte)

/-- The answer of a `VALSET` in VP (R175): a 1 or a 0 for each lane of `em` at its issue, which reaches the predicate as the words
of D reach their register, so that a lane that a later jet has written keeps one of the two values (R46). -/
def Valset.vpWrites (w : Valset) (ok : Bool) : List (Nat × Nat × Word) :=
  (maskLanes w.em).map (fun l => (predReg w.vp, l, if ok then 1#32 else 0#32))

/-- One line of a peer's memory as a request finds it: its bytes and its version are open (R134), but one state answers all
the request's lanes. -/
def State.peerLine (s : State) (r : Req) (ix : Nat) : State :=
  (s.putBytes r.owner.basin r.obj (freeLine ix r.line)).setLine (lineKey r.owner.basin r.obj r.line)
    { Line.init with version := Config.freeWord (ix + 256) }

/-- Whether a `VALSET` on a peer's lines has given up (R177): past the limit that is open, since the pins are granted at the peer. One of a
single line has its last pin with its first (DESIGN CHOICE, log 107). -/
def State.peerGaveUp (s : State) (r : Req) (ix : Nat) : Bool :=
  match r.kind with
  | .valset w => decide (1 < w.lines.length) && decide (r.sentAt + pinLimit ≤ s.now) && Config.freeBit (ix + 257)
  | _ => false

/-- The answer of a peer to a request of a group (R134): what the request does to the line it finds there. A `VALSET` validates
where every version is the one presented, unless it has given up (R177). -/
def State.peerResult (s : State) (r : Req) (ix : Nat) : Req :=
  let f (i : Nat) : Word := Config.freeWord (ix + i)
  let t := s.peerLine r ix
  let v := f 256
  match r.kind with
  | .atom op ty d es =>
    let x := t.atomElems r.owner.basin r.obj op ty d es
    { r with writes := x.2.1, version := if x.2.2 then v + 1#32 else v }
  | .casv wide d w es =>
    let x := t.casvElems r.owner.basin r.obj r.line 0 wide d w es
    { r with writes := x.2, version := (x.1.line (lineKey r.owner.basin r.obj r.line)).version }
  | .smpl d lin _ ls =>
    let all := (ls.flatMap (r.peerTexels lin)).eraseDups
    { r with writes := ls.flatMap (fun (e : Nat × Nat × Word × Word) =>
        let h := r.peerHdr e.2.1
        let cs := if h.ok then texResult h lin e.2.2.1 e.2.2.2 (ix + 128 + 4 * e.1) ((r.peerTexels lin e).map (fun a => f (all.idxOf a)))
          else [0#32, 0#32, 0#32, 0#32]
        (cs.zipIdx).map (fun c => (d + c.2, e.1, c.1))) }
  | .valset w =>
    let seen (e : Elem) : Word := f ((w.elems.findIdx? (fun y => y.ofs / 128 == e.ofs / 128)).getD 0)
    { r with writes := w.told.map (fun e => (w.d, e.lane, seen e)), ok := !s.peerGaveUp r ix && w.elems.all (fun e => e.ver == seen e) }
  | _ => { r with data := freeLine ix r.line, version := v }

/-- The headers of a sampler read at a peer have come, their bytes open (R134): each texel that they name is checked (R229), and
those that pass are read in their turn, on the ports of their lines (R270, R385). -/
def State.smplHeaders (s : State) (id : Nat) (r : Req) (d : Nat) (lin : Bool) (word : Word) (ls : List (Nat × Nat × Word × Word))
    (ix : Nat) : State :=
  let h := { r with data := (r.peerLines.zipIdx).flatMap (fun e => freeLine (ix + 128 * e.2) e.1.2), st := .held, ports := [] }
  let faults : List (Nat × Nat × CapFail) := ls.filterMap (fun e => (s.texelFault h (h.peerTexels lin e)).map (fun f => (e.1, f)))
  let h := h.smplOnly (fun l => faults.all (fun f => f.1 != l))
  let good := ls.filter (fun e => faults.all (fun f => f.1 != e.1))
  let s := ((s.regain r).setReq id h).smplNotice r word faults
  if good.all (fun e => (h.peerTexels lin e).isEmpty) then
    s.answer id h ix (good.flatMap (fun e => (List.range 4).map (fun i => (d + i, e.1, 0#32))))
  else s.settle

/-! ### Copies that meet a fault (R198, R301) -/

def State.modCopy (s : State) (o : Owner) (id : Nat) (f : CopyJob → CopyJob) : State :=
  s.modEngine (slotOf o.q) (fun x => { x with copies := x.copies.map (fun c => if c.id = id then f c else c) })

/-- A copy with the row or line it was at given up, to be done again from its first byte. -/
def CopyJob.rowAgain (c : CopyJob) : CopyJob :=
  { c with writes := [], asks := [], got := [], parked := none, freed := [], bad := none, sent := c.done, done := match c.kind with
      | .copy .. => c.done
      | _ => 0 }

/-- Suspends a copy with a notice to its group; a copy of a group that has retired is discarded (R32, R198, R301). -/
def State.suspendCopy (s : State) (c : CopyJob) (n : Notice) : State :=
  if (s.ownerGroup? c.owner).any (fun g => g.retired) then s.copyDone c
  else ((((s.modCopy c.owner c.id (fun d => { d.rowAgain with suspended := true })).notify c.owner { n with job := some c.id }).placed c.id).shelve c.owner).settle

/-- A notice of a copy: for `COPY` the bytes completed and the side, for a tile the descriptor and the row
(R198, R301, R406). -/
def copyNotice (c : CopyJob) (code side row : Nat) (em : Mask) (caps : List (Nat × DWord)) (write byHandler : Bool) : Notice :=
  let remote := caps.any (fun e => capDev e.2 != devHere)
  match c.kind with
  | .copy .. => noticeOf code (BitVec.ofNat 32 c.done) (BitVec.ofNat 32 side) em caps
      (v122Of remote 0 (if write then kindStore else kindLoad)) byHandler
  | _ => noticeOf code (BitVec.ofNat 32 c.t) (BitVec.ofNat 32 row) em caps
      (v122Of remote 0 (if write then kindCopyWrite else kindCopyRead)) byHandler

/-- The rows that a tile descriptor's CURSOR counts (R192). -/
def tdCursor (t : BitVec 256) : Nat := (t.extractLsb' 79 7).toNat

/-- The first byte of a `COPY` that a write of it covers. -/
def CopyJob.byteAt (c : CopyJob) (r : Req) : Nat :=
  match c.kind with
  | .copy dst .. => ((r.laneOfs.head?).map (fun e => e.2)).getD (capOfs dst + c.done) - capOfs dst
  | _ => 0

/-- A write of a copy has been acknowledged or refused: all is written below the lowest line that is still out, and the copy meets an error at
its next step (R198, R300, R301). -/
def State.copyAck (s : State) (id : Nat) (r : Req) : State :=
  match (s.engine (slotOf r.owner.q)).copies.find? (fun c => c.writes.contains id) with
  | none => s
  | some c =>
    let left := c.writes.filter (· != id)
    let upTo (d : CopyJob) : Nat := ((left.head?.bind s.req?).map d.byteAt).getD d.sent
    s.modCopy c.owner c.id (fun d => match r.err, d.kind with
      | some n, .copy .. => { d with bad := some (n, 2, ((r.laneOfs.head?).map (fun e => e.2)).getD 0), done := d.byteAt r, sent := d.byteAt r }
      | some n, _ => { d with bad := some (n, 2, ((r.laneOfs.head?).map (fun e => e.2)).getD 0) }
      | none, .copy .. => if d.bad.isSome then d else { d with done := upTo d }
      | none, _ => d)

/-- A line of a peer's memory has come for a copy, or an error in its place (R134, R272). -/
def State.fetchBack (s : State) (id : Nat) (r : Req) (ix : Nat) : State :=
  let mine : Option CopyJob := (s.engine (slotOf r.owner.q)).copies.find? (fun (c : CopyJob) => c.asks.contains id)
  let s := match mine with
    | none => s
    | some c => s.modCopy c.owner c.id (fun d => match r.err with
      | some n => { d with bad := some (n, 1, 128 * r.line), asks := d.asks.filter (· != id) }
      | none => { d with got := d.got ++ freeLine ix r.line, asks := d.asks.filter (· != id) })
  s.finish id

/-! ### The answers -/

/-- A request whose answer was an error (R244, R262): the notice, and the instruction counts it as complete. A uniform
read that waits is over at once: the trap finds the group at it. -/
def State.errorBack (s : State) (id : Nat) (r : Req) (n : Nat) : State :=
  ((s.notify r.owner (r.dataError n)).modOwner r.owner (fun g =>
    let g := g.flightDone r.flight
    if g.wait = .request id then { g with wait := .until .orders } else g)).finish id

/-- `READ_RESPONSE` (R128): a result reaches its quadrant, fills or not, and completes its instruction. -/
def execReadResponse (r : Nat) (s : State) : Out :=
  match s.req? r with
  | none => .refused (.notEnabled "READ_RESPONSE: no such request")
  | some rq =>
    let ix := s.freeIx
    let s := { s with freeIx := ix + 512 }
    let peer := rq.dev != devHere && rq.st == .sent && s.portUp rq
    if rq.st ≠ .performed ∧ !peer then .refused (.notEnabled "READ_RESPONSE: the request has not performed")
    else
      let a := s.peerAnswer rq peer (ix + 400)
      let s := a.1
      let rq := a.2
      match rq.err with
      | some n => match rq.kind with
        | .fetch => .next (s.fetchBack r rq ix)
        | .load .. | .smpl .. | .ldv .. | .atom _ _ (some _) _ | .casv .. | .valset .. => .next (s.errorBack r rq n)
        | _ => .refused (.notEnabled "READ_RESPONSE: not a read")
      | none =>
        match (if peer && rq.data.isEmpty then rq.kind else .fetch) with
        | .smpl d lin word ls => .next ({ s with freeIx := ix + 8192 }.smplHeaders r rq d lin word ls (ix + 512))
        | _ =>
        let s := if peer && s.peerGaveUp rq (ix + 128) then s.count fieldTimeout else s
        let rq := if peer then s.peerResult rq (ix + 128) else rq
        let stale (s : State) : State := if peer then s else s.l1Seen rq.owner.q rq.key rq.version
        match rq.kind with
        | .load path n d lanes hint uni keep => .next (s.loadBack r { rq with ok := rq.ok && !peer } path n d lanes hint uni keep ix)
        | .smpl .. => .next (s.answer r rq ix rq.writes)
        | .fetch => .next (s.fetchBack r rq (ix + 128))
        | .ldv n d v lanes =>
          .next ((stale s).answer r rq ix (loadWrites d n lanes (fun a => NMap.getD rq.data a 0#8)
            ++ lanes.map (fun e => (v, e.1, rq.version))))
        | .atom _ _ (some _) _ | .casv .. => .next ((stale s).answer r rq ix rq.writes)
        | .valset w =>
          .next (s.answer r rq ix (rq.writes ++ w.vpWrites rq.ok))
        | _ => .refused (.notEnabled "READ_RESPONSE: not a read")

/-- `WRITE_ACK` (R135): the acknowledgement of a write-class request returns with its version; a `SIGNAL` that waits for it goes on
(R382). -/
def execWriteAck (r : Nat) (s : State) : Out :=
  match s.req? r with
  | none => .refused (.notEnabled "WRITE_ACK: no such request")
  | some rq =>
    let peer := rq.dev != devHere && rq.st == .sent && s.portUp rq
    if rq.st ≠ .performed ∧ !peer then .refused (.notEnabled "WRITE_ACK: the request has not performed")
    else
      let a := { s with freeIx := s.freeIx + 1 }.peerAnswer rq peer s.freeIx
      let s := a.1
      let rq := a.2
      match rq.kind with
      | .copyWrite _ => .next ((s.copyAck r rq).finish r)
      | .store .. | .atom _ _ none _ | .signal .. | .dep .. =>
        match rq.err with
        | some n => .next (s.errorBack r rq n)
        | none => .next ((s.modOwner rq.owner (fun g =>
            let g := g.flightDone rq.flight
            if g.wait = .request r then { g with wait := .answer [] } else g)).finish r)
      | _ => .refused (.notEnabled "WRITE_ACK: not a write")

/-! ### Replicated extents (R108) -/

/-- The lines at which a request asks for collapse: before its first pin a `VALSET` asks for all of its own (R175). -/
def State.collapseAt (s : State) (r : Req) : List (Nat × Nat) :=
  match r.kind with
  | .valset w => if w.pins = [] ∧ w.verdict = none then w.lines.map (fun k => (keyObj k, keyLine k)) else []
  | _ => s.needs r

/-- The first write-class request that stands at a replicated extent. -/
def State.collapser (s : State) (b obj ext : Nat) : Option Nat :=
  (s.reqIds (fun r => r.owner.basin == b && r.st == .sent && r.dev == devHere && r.kind.writeClass && r.after.isEmpty
    && (s.collapseAt r).any (fun e => e.1 == obj && e.2 / 512 == ext))).head?

/-- Returns a physical extent to the pool that its channel belongs to (R232). -/
def physKey (chan idx : Nat) : Nat := chan * 65536 + idx
def State.freePhys (s : State) (chan idx : Nat) : State := { s with phys := NMap.erase s.phys (physKey chan idx) }

/-- Reduces a replicated extent to its primary copy, on the lowest die (R108). A line stays in the primary's home slices where the slice that
holds it is its home by R101 as well; elsewhere it is dropped with the others, clean as it is (DESIGN CHOICE, log 98). -/
def State.collapse (s : State) (b obj ext : Nat) (first : Option Nat) : State :=
  let k := extKey b obj ext
  let e := s.extent k
  let die := e.reps.foldl (fun a x => min a x.1) 3
  let prim := (e.reps.find? (fun x => x.1 == die)).getD (0, e.chan, e.idx)
  let base := prim.2.1 / 64
  let s := (e.reps.filter (fun x => x != prim)).foldl (fun s x => s.freePhys x.2.1 x.2.2) s
  let s := s.setExtent k { e with chan := prim.2.1, idx := prim.2.2, reps := [], first := first }
  let lines := (List.range 512).map (fun i => lineKey b obj (512 * ext + i))
  let blocks := (List.range 32).map (fun i => blockKey b obj (512 * ext + 16 * i))
  let stays (k : Nat) : Bool := homeSlice (s.basin b) obj (keyLine k) == replicaSlice (s.basin b) obj (keyLine k) die
  { s with lines := s.lines.map (fun l => if lines.contains l.1 then
      (l.1, { l.2 with res := if stays l.1 then l.2.res &&& dieBit die else 0#4 }) else l),
           blocks := s.blocks.map (fun x => if blocks.contains x.1 then (x.1, { x.2 with msc := x.2.msc &&& dieBit base }) else x) }

/-- The request that a collapse places first in each line's order (R108): a `VALSET` only where its first pin stands, so that no
other waits on it while it waits for a pin elsewhere (R175). -/
def State.collapseFirst (s : State) (b obj ext id : Nat) : Option Nat :=
  let first (k : ReqKind) : Bool := match k with
    | .valset w => (w.lines.head?.map (fun k => extKey (keyBasin k) (keyObj k) (keyLine k / 512))) == some (extKey b obj ext)
    | _ => true
  (s.req? id).bind (fun r => if first r.kind then some id else none)

/-- `COLLAPSE` (R108). -/
def execCollapse (b obj ext : Nat) (s : State) : Out :=
  if (s.extent (extKey b obj ext)).reps.isEmpty then .refused (.notEnabled "COLLAPSE: the extent is not replicated")
  else
    match s.collapser b obj ext with
    | none => .refused (.notEnabled "COLLAPSE: no write stands at the extent")
    | some id => .next ((s.collapse b obj ext (s.collapseFirst b obj ext id)).count fieldCollapse)

/-! ### Write-back (R103, R104, R106) -/

/-- The state that the memory port chooses for a block (R104); which compressed form fits is the device's. -/
def blockState (bs : List Byte) : BitVec 2 :=
  let word (i : Nat) : List Byte := (bs.drop (4 * i)).take 4
  if (List.range 512).all (fun i => word i == word 0) then 3#2
  else
    let u := Config.compressedUnits bs
    if u ≤ 8 then 2#2 else if u ≤ 16 then 1#2 else 0#2

/-- The lines of a block, from the block's key. -/
def blockLines (block : Nat) : List Nat :=
  (List.range 16).map (fun i => block / 2 ^ 29 * 2 ^ 33 + block % 2 ^ 29 * 16 + i)

/-- The memory-side cache gives up a block that no home slice holds (R106): one newer than HBM's is written there, which takes
an activation; an elided block has no data to write (R103). -/
def State.mscEvict (s : State) (block : Nat) (x : Block) (stack : Nat) : Out :=
  if x.msc = 0#4 then .refused (.notEnabled "BLOCK_WRITE_BACK: no copy above HBM")
  else
    match (if x.newer && x.comp != 3#2 then s.activate (block / 2 ^ 43) stack else some s) with
    | none => .refused (.notEnabled "BLOCK_WRITE_BACK: tokens are short")
    | some s => .next (s.setBlock block { x with msc := 0#4, newer := false })

/-- `BLOCK_WRITE_BACK` (R104, R106): the home slices give up a block, written back if it is dirty; a block that only
the memory-side cache holds goes from there. A part of a block is merged into the stored one, which is read for it. -/
def execBlockWriteBack (block : Nat) (s : State) : Out :=
  let x := s.block block
  let first := block % 2 ^ 29 * 16
  let ls := (blockLines block).map (fun k => (k, s.line k))
  let b := block / 2 ^ 43
  let obj := block / 2 ^ 29 % 2 ^ 14
  let e := s.extent (extKey b obj (first / 512))
  if !e.v then .refused (.notEnabled "BLOCK_WRITE_BACK: the extent is absent")
  else if ls.any (fun l => l.2.pin.isSome || !l.2.pend.isEmpty) then .refused (.notEnabled "BLOCK_WRITE_BACK: a line is held")
  else
    let dirty := ls.any (fun l => l.2.dirty)
    let dies := ls.foldl (fun (a : BitVec 4) l => a ||| l.2.res) 0#4
    let base := (List.range 4).foldl (fun (a : BitVec 4) d => if (dies &&& dieBit d) != 0#4 then a ||| dieBit (e.mscDie d) else a) 0#4
    let whole := ls.all (fun l => l.2.res != 0#4)
    let drop (s : State) : State := ls.foldl (fun s l =>
      if l.2.res = 0#4 then s else s.setLine l.1 { l.2 with res := 0#4, dirty := false }) s
    if dies = 0#4 then s.mscEvict block x (e.chan / 32)
    else if !dirty then .next (drop s)
    else
      match (if whole || x.comp == 3#2 || x.msc != 0#4 then some s else s.activate b (e.chan / 32)) with
      | none => .refused (.notEnabled "BLOCK_WRITE_BACK: tokens are short")
      | some s =>
        let c := blockState (s.readBytes (memKey b obj (128 * first)) 2048)
        let y : Block := if c = 3#2 then { comp := c, msc := 0#4, newer := false } else { comp := c, msc := x.msc ||| base, newer := true }
        if (List.range 4).any (fun d => (y.msc &&& dieBit d) != 0#4 && !s.mscRoom block d y) then
          .refused (.notEnabled "BLOCK_WRITE_BACK: the memory-side cache has no room")
        else .next ((drop s).setBlock block y)

/-! ### Promotion (R131) -/

/-- `PROMOTE_REQUEST` (R131): a quadrant takes up a promote request: it waits for the entries before its last narrow
release. -/
def execPromoteRequest (r q : Nat) (s : State) : Out :=
  match s.req? r with
  | none => .refused (.notEnabled "PROMOTE_REQUEST: no such request")
  | some rq =>
    match rq.kind with
    | .promote t =>
      if rq.st ≠ .sent ∨ t ≠ q then .refused (.notEnabled "PROMOTE_REQUEST: not for this quadrant")
      else
        let mark := ((s.quad? q).map (fun x => x.relMark)).getD 0
        let e := (s.reqIds (fun w => w.owner.q == q && w.kind.isOutb)).filter (fun i => decide (i < mark))
        .next (s.setReq r { rq with st := .performed, holdFor := e }).settle
    | _ => .refused (.notEnabled "PROMOTE_REQUEST: not a promotion")

/-! ### Time-outs and refill -/

/-- `REQUEST_TIMEOUT` (R261): a lost request or response is sent again; the reissue is counted, and nothing else
changes. -/
def execRequestTimeout (r : Nat) (s : State) : Out :=
  match s.req? r with
  | none => .refused (.notEnabled "REQUEST_TIMEOUT: no such request")
  | some rq =>
    if rq.st = .sent ∨ rq.st = .performed then .next (s.count fieldReissue)
    else .refused (.notEnabled "REQUEST_TIMEOUT: the request is not on its way")

/-- `PEER_REQUEST_TIMEOUT` (R272): a peer request without an answer within 2^22 cycles is answered with an error. -/
def execPeerRequestTimeout (r : Nat) (s : State) : Out :=
  match s.req? r with
  | none => .refused (.notEnabled "PEER_REQUEST_TIMEOUT: no such request")
  | some rq =>
    if rq.dev = devHere ∨ rq.st ≠ .sent then .refused (.notEnabled "PEER_REQUEST_TIMEOUT: no peer is asked")
    else if s.now < rq.sentAt + 2 ^ 22 then .refused (.notEnabled "PEER_REQUEST_TIMEOUT: the limit has not passed")
    else
      .next (((s.peerError rq).1).setReq r { rq with st := .performed, err := some 3 })

/-- The refill of a stack's shares (R117). -/
def State.refill (s : State) (stack : Nat) : State :=
  { s with basins := s.basins.map (fun e =>
      if e.2.phase = .started ∧ e.2.stackGroups stack ≠ 0 then
        let gain := (s.stackCfg stack).2 * e.2.stackGroups stack / 8
        (e.1, { e.2 with shares := NMap.set e.2.shares stack (min (NMap.getD e.2.shares stack 0 + gain) (s.shareCap e.1 stack)) })
      else e) }

/-- `BUCKET_REFILL` (R117): every 16 core cycles, on the stack's own count from the end of bring-up. -/
def execBucketRefill (stack : Nat) (s : State) : Out :=
  let n := NMap.getD s.refills stack 0
  if !s.powered then .refused (.notEnabled "BUCKET_REFILL: the device is not up")
  else if (s.now - s.upAt) / 16 ≤ n then .refused (.notEnabled "BUCKET_REFILL: 16 cycles have not passed")
  else .next ({ s with refills := NMap.set s.refills stack (n + 1) }.refill stack)

end Sys2Proof.Machine
end

