-- ==== Sys2Proof/Machine/MatrixMath.lean ====
section
/-! DEFINITION. The arithmetic of a matrix pass (R187, R189, R190, R191): elements of tiles with their scales, run sums,
and the accumulation. -/

namespace Sys2Proof.Machine

/-! ### Tiles (R190, R191) -/

/-- The scratchpad address of logical byte b of row r of a tile. -/
def tileByte (base r b : Nat) : Nat := base + 128 * r + 16 * ((b / 16) ^^^ (r % 8)) + b % 16

/-- The first byte of a row's sidecar entry. -/
def sidecarRow (base r : Nat) : Nat := base + 8192 + 32 * r

/-- The element formats of A and B (R351): `none` for `s8`. -/
def mmaFmts : MmaFmt → Option (FFmt × FFmt)
  | .s8 => none
  | .e4m3 => some (fE4m3, fE4m3)
  | .e5m2 => some (fE5m2, fE5m2)
  | .e2m1 => some (fE2m1, fE2m1)
  | .bf16 => some (fBf16, fBf16)
  | .f16 => some (fF16, fF16)
  | .e4m3e5m2 => some (fE4m3, fE5m2)
  | .e5m2e4m3 => some (fE5m2, fE4m3)

/-- A block size in elements (R351). -/
def blkSize : Blk → Nat
  | .none => 0
  | .b16 => 16
  | .b32 => 32
  | .b64 => 64
  | .b128 => 128

/-- The pattern of element i of a row, of a width in bits. -/
def Crew.elem (c : Crew) (base r width i : Nat) : Nat :=
  if width = 4 then (c.byte (tileByte base r (i / 2))).toNat / 16 ^ (i % 2) % 16
  else if width = 8 then (c.byte (tileByte base r i)).toNat
  else (c.byte (tileByte base r (2 * i))).toNat + 256 * (c.byte (tileByte base r (2 * i + 1))).toNat

/-- The scale of element i: the exponent to add, or none for the NaN scale (R187, R191). -/
def Crew.scale (c : Crew) (base r blk : Nat) (mx : Bool) (count i : Nat) : Option Int :=
  if blk = 0 then some 0
  else
    let e := (c.byte (sidecarRow base r + (if count ≤ blk then 0 else i / blk))).toNat
    let bit := mx && (c.byte (sidecarRow base r + 16 + i / 16)).getLsbD (i / 2 % 8)
    if e = 255 then none else some ((e : Int) - 127 - (if bit then 1 else 0))

/-- An element as `MMA` uses it (R187). -/
def Crew.scaled (c : Crew) (base r blk : Nat) (mx : Bool) (f : FFmt) (i : Nat) : FVal :=
  let count := 1024 / f.width
  match c.scale base r blk mx count i with
  | none => .nan
  | some k => match fDecode f (c.elem base r f.width i) with
    | .fin neg m e => .fin neg m (e + k)
    | v => v

/-! ### Sums (R189) -/

/-- The exact sum of a run: what has been met so far. -/
structure RunSum where
  nan : Bool
  posInf : Bool
  negInf : Bool
  sum : Dy
  allNeg : Bool
  deriving DecidableEq, Repr

def RunSum.zero : RunSum := { nan := false, posInf := false, negInf := false, sum := { x := 0, e := 0 }, allNeg := true }

/-- Adds an exact product to a run. -/
def RunSum.add (r : RunSum) (a b : FVal) : RunSum :=
  match a, b with
  | .nan, _ => { r with nan := true }
  | _, .nan => { r with nan := true }
  | .inf x, .inf y => if x == y then { r with posInf := true } else { r with negInf := true }
  | .inf x, .fin y m _ => if m = 0 then { r with nan := true } else if x == y then { r with posInf := true } else { r with negInf := true }
  | .fin x m _, .inf y => if m = 0 then { r with nan := true } else if x == y then { r with posInf := true } else { r with negInf := true }
  | .fin x m e, .fin y n f =>
    { r with sum := Dy.add r.sum (dyOf (x != y) (m * n) (e + f)), allNeg := r.allNeg && x != y && (m == 0 || n == 0) }

/-- A run's sum rounded once to f32 (R189, step 3). -/
def RunSum.word (r : RunSum) : Word :=
  if r.nan || (r.posInf && r.negInf) then 0x7FC00000#32
  else if r.posInf then 0x7F800000#32
  else if r.negInf then 0xFF800000#32
  else BitVec.ofNat 32 (fRoundDy fF32 .rn false r.allNeg r.sum).1

/-- What a pass needs of its request. -/
structure PassArg where
  a : Nat
  b : Nat
  fmt : MmaFmt
  blka : Nat
  blkb : Nat
  mxa : Bool
  mxb : Bool

/-- A signed byte. -/
def sByte (x : Byte) : Int := x.toInt

/-- The sum that a pass adds to p for the output element (m, n) (R189, R352). -/
def Crew.passElem (c : Crew) (p : PassArg) (m n : Nat) (acc : Word) : Word :=
  match mmaFmts p.fmt with
  | none =>
    let s : Int := (List.range 128).foldl (fun (x : Int) k =>
      x + sByte (c.byte (tileByte p.a m k)) * sByte (c.byte (tileByte p.b n k))) 0
    acc + BitVec.ofInt 32 s
  | some (fa, fb) =>
    (List.range (1024 / fa.width / 16)).foldl (fun acc r =>
      let run := (List.range 16).foldl (fun (x : RunSum) i =>
        x.add (c.scaled p.a m p.blka p.mxa fa (16 * r + i)) (c.scaled p.b n p.blkb p.mxb fb (16 * r + i))) RunSum.zero
      (faddW acc run.word).1) acc

/-- Whether a row of an operand has been written in the window (R204). -/
def rowDirty (dirty : List (Nat × Nat)) (base blk r : Nat) : Bool :=
  dirty.any (fun d =>
    (decide (d.1 < base + 128 * r + 128) && decide (base + 128 * r < d.1 + d.2))
      || (blk != 0 && decide (d.1 < sidecarRow base r + 32) && decide (sidecarRow base r < d.1 + d.2)))

end Sys2Proof.Machine
end

