-- ==== Sys2Proof/Machine/Copy.lean ====
section
/-! DEFINITION. The tensor copy engine: descriptors and `TLD` (R192, R193, R393), `TCOPY` (R194 to R198, R392), `TSTORE`
(R199, R398), `COPY` (R299 to R301), the copy of a row and of a line. -/

namespace Sys2Proof.Machine

/-! ### Tile descriptors (R192) -/

structure Tile where
  mcap : DWord
  pitch : Nat
  sofs : Int
  spitch : Nat
  gadr : Nat
  gen : Bool
  base : Nat
  cursor : Nat
  rows : Nat
  fmt : Nat
  npl : Nat
  valid : Bool
  trunc : Bool
  mx : Bool
  blk : Nat
  rsvd : Bool
  deriving DecidableEq, Repr

def tileOf (t : BitVec 256) : Tile :=
  let f (lo n : Nat) : Nat := (t.extractLsb' lo n).toNat
  { mcap := t.extractLsb' 192 64, pitch := f 160 32, sofs := (t.extractLsb' 128 32).toInt, spitch := f 112 16, gadr := f 97 15,
    gen := t.getLsbD 96, base := 256 * f 86 10, cursor := f 79 7, rows := f 72 7, fmt := f 68 4, npl := f 64 4,
    valid := t.getLsbD 63, trunc := t.getLsbD 62, mx := t.getLsbD 61, blk := f 58 3, rsvd := f 0 58 != 0 }

/-- A descriptor with its CURSOR replaced. -/
def setCursor (t : BitVec 256) (n : Nat) : BitVec 256 :=
  (t &&& ~~~(0x7F#256 <<< 79)) ||| (BitVec.ofNat 256 (n % 128) <<< 79)

/-- The elements of a row by storage format (R191, R196). -/
def Tile.elems (t : Tile) : Nat := if t.fmt = 3 then 256 else if t.fmt = 4 ∨ t.fmt = 5 then 64 else 128

/-- Block size in elements; 0 for none. -/
def Tile.blkSize (t : Tile) : Nat := if t.blk = 0 then 0 else 8 * 2 ^ t.blk

/-- Memory bytes of a row (R196). -/
def Tile.rowBytes (t : Tile) : Nat := if t.fmt = 6 then 16 * t.npl else if t.fmt = 7 then 80 else 128

/-- Scale bytes and micro-exponent bytes of a row (R196). -/
def Tile.scaleBytes (t : Tile) : Nat := if t.blk = 0 then 0 else (t.elems + t.blkSize - 1) / t.blkSize
def Tile.mxBytes (t : Tile) : Nat := if t.mx then t.elems / 16 else 0

/-- The checks of R194 that raise 0x02. -/
def Tile.ok (t : Tile) : Bool :=
  t.valid && decide (t.fmt < 8) && decide (t.blk < 5) && !t.rsvd && decide (1 ≤ t.rows) && decide (t.rows ≤ 64)
    && decide (t.cursor ≤ t.rows) && (if t.fmt = 6 then decide (1 ≤ t.npl) && decide (t.npl ≤ 8) else t.npl == 0)
    && (t.blk == 0 || (decide (1 ≤ t.fmt) && decide (t.fmt ≤ 5))) && !(t.mx && t.blk == 0) && decide (t.pitch % 16 = 0)

/-- The scratchpad address that a check refuses: the tile with its sidecar, then the gate (R194). A descriptor with GEN = 0 names
no gate, so that its gate address is not checked (DESIGN CHOICE, log 64). -/
def Tile.spBad (t : Tile) (c : Option Crew) : Option Nat :=
  match c with
  | none => some t.base
  | some c =>
    if c.scr * 1024 < t.base + 8192 + (if t.blk = 0 then 0 else 2048) then some t.base
    else if t.gen && !c.spOk (8 * t.gadr) 8 then some (8 * t.gadr) else none

/-- The memory offset of a row of a copy, and whether the row is copied at all (R195, R197). -/
def Tile.rowOfs (t : Tile) (gather : Option (Lanes × Lanes)) (r : Nat) : Int :=
  match gather with
  | none => (capOfs t.mcap : Int) + r * t.pitch
  | some (a, b) => (capOfs t.mcap : Int) + (if r < 32 then Lanes.at a r else Lanes.at b (r - 32)).toInt

/-- The lane of a row (R195, R198). -/
def rowLane (gather : Option (Lanes × Lanes)) (r : Nat) : Nat := if gather.isSome then r % 32 else 0

def rowTaken (gather : Option (Lanes × Lanes)) (m : Mask) (r : Nat) : Bool := !gather.isSome || m.getLsbD (r % 32)

/-- The offset of a row's scales. -/
def Tile.scaleOfs (t : Tile) (r : Nat) : Int := (capOfs t.mcap : Int) + t.sofs + r * t.spitch

/-- The memory pieces of a row: offset, bytes, alignment. -/
def Tile.pieces (t : Tile) (gather : Option (Lanes × Lanes)) (r : Nat) : List (Int × Nat × Nat) :=
  (t.rowOfs gather r, t.rowBytes, 16) :: (if t.blk = 0 then [] else [(t.scaleOfs r, t.scaleBytes + t.mxBytes, 1)])

/-- The check of a row against the capability. -/
def Tile.rowCheck (t : Tile) (b : Basin) (gather : Option (Lanes × Lanes)) (need : Rights) (r : Nat) : Option CapFail :=
  (t.pieces gather r).findSome? (fun (p : Int × Nat × Nat) =>
    match checkAccess b t.mcap p.1 p.2.1 p.2.2 need with
    | .ok () => none
    | .error e => some e)

/-! ### Expansion of rows (R188, R196) -/

/-- The s8 value of element i from the planes read. -/
def planeElem (n : Nat) (trunc : Bool) (bs : List Byte) (i : Nat) : Byte :=
  let hi := (List.range n).foldl (fun a p => if (bs.getD (16 * p + i / 8) 0#8).getLsbD (i % 8) then a + 2 ^ (7 - p) else a) 0
  BitVec.ofNat 8 (hi + (if n < 8 ∧ !trunc then 2 ^ (7 - n) else 0))

/-- A 2:4 sparse row's byte i: of two values at one position the second prevails. -/
def sparseElem (bs : List Byte) (i : Nat) : Byte :=
  let gr := i / 4
  let nib := (bs.getD (64 + gr / 2) 0#8).toNat / 16 ^ (gr % 2) % 16
  if nib / 4 = i % 4 then bs.getD (2 * gr + 1) 0#8
  else if nib % 4 = i % 4 then bs.getD (2 * gr) 0#8 else 0#8

/-- A tile row's 128 bytes from a memory row. -/
def Tile.expand (t : Tile) (bs : List Byte) : List Byte :=
  if t.fmt = 6 then (List.range 128).map (planeElem t.npl t.trunc bs)
  else if t.fmt = 7 then (List.range 128).map (sparseElem bs)
  else bs

/-- A row's 32 sidecar bytes from its scale bytes (R191). -/
def Tile.sidecar (t : Tile) (bs : List Byte) : List Byte :=
  (List.range 32).map (fun i => if i < 16 then (if i < t.scaleBytes then bs.getD i 0#8 else 0#8)
    else if i - 16 < t.mxBytes then bs.getD (t.scaleBytes + i - 16) 0#8 else 0#8)

/-- A memory row from a tile row's 128 bytes (R199). -/
def Tile.shrink (t : Tile) (bs : List Byte) : List Byte :=
  if t.fmt = 6 then (List.range (16 * t.npl)).map (fun j =>
    let p := j / 16
    BitVec.ofNat 8 ((List.range 8).foldl (fun a i => if (bs.getD (8 * (j % 16) + i) 0#8).getLsbD (7 - p) then a + 2 ^ i else a) 0))
  else bs

/-! ### Instructions -/

/-- `TLD` (R193, R393): 32 bytes read at their home slices; the group waits for them. -/
def execTld (t : BitVec 3) (cap : BitVec 8) (ofs : Word) (s : State) : Out :=
  runInstr s (.tld t cap ofs) fun s q slot g =>
    match capPair g cap with
    | none => .trap Trap.operand
    | some c =>
      match g.wait with
      | .answer ws =>
        let v : BitVec 256 := (List.range 8).foldl (fun a i => a ||| ((ws.getD i 0#32).setWidth 256 <<< (32 * i))) 0#256
        .next (s.setGroup q slot (g.setT t.toNat v)) .none none
      | _ =>
        let x : LaneAcc := { lane := 0, cap := c, ofs := (capOfs c : Int) + ofs.toInt }
        match checkLane0 (s.basin g.basin) c x.ofs 32 32 Rights.r 0 kindLoad with
        | .error e => .trap e
        | .ok () =>
          if g.orders ≠ [] then .wait s (.until .orders)
          else untilThen (.copyOn t.toNat) (fun s q slot g => s.copyFree q slot g t.toNat) (fun s q slot g =>
            let o := g.owner q slot
            let id := s.nextId
            let r := Req.new o (.load .ld 32 0 [(0, x.at)] .normal true false) x.dev x.obj x.line 1#32 [] g.handler
            let s := s.modQuad q (fun y => y.olbTouch [(x.dev, x.obj)])
            .wait ((s.issueReq o r RelHold.none).modGroup q slot (fun h => { h with wait := .request id })).settle (.request id)) s q slot g

/-- What leaves a quadrant ahead of a copy that is posted now (R132): the entries of the outbound queue, and the group's stores
that a release has sent and that still wait to enter it. -/
def State.copyAfter (s : State) (o : Owner) : List Nat :=
  s.outbound o.q ++ s.ticketsOf o ++ (s.mergesOf o).filter s.releaseWaits ++ s.ordersOf o true

/-- Posts a copy to the slot's copy quarter (R197). -/
def State.postCopy (s : State) (q slot : Nat) (g : Group) (kind : CopyKind) (t : Nat) (m : Mask) (dn : Bool) : State :=
  let fid := s.nextId
  let o := g.owner q slot
  let s := { s with nextId := s.nextId + 1 }
  let s := s.setGroup q slot (g.launchFlight fid .cpy (if dn then 0 else 1) [])
  if dn then s
  else
    let job : CopyJob :=
      { id := s.nextId, owner := o, kind := kind, t := t, mask := m, flight := fid, suspended := false, done := 0,
        sent := 0, writes := [], after := s.copyAfter o, asks := [], got := [], kept := [], parked := none, freed := [], bad := none, gated := false, byHandler := g.handler }
    { s with nextId := s.nextId + 1 }.modEngine (slotOf q) (fun x => { x with copies := x.copies ++ [job] })

/-- `TCOPY` (R195, R197, R392): its jet starts when no earlier copy of the group on the descriptor is under way; behind one of its own jet
it waits in the copy quarter, since a jet never waits in mid-issue (R35; log 90). -/
def execTcopy (gd : Guard) (t : BitVec 3) (form : TcopyForm) (s : State) : Out :=
  runInstr s (.tcopy gd t form) fun s q slot g =>
    let sels := match form with
      | .strided => []
      | .gather a b => [a, b]
    let d := tileOf (g.getT t.toNat)
    let m := guardMask g gd
    if !(sels.all (selOk g)) then .trap Trap.operand
    else if g.inLoop then .trap (loopTrap s 3)
    else if !d.ok then .trap (Trap.own 0x02 t.toNat 0)
    else
      match d.spBad (s.crew? q g) with
      | some a => .trap (spTrap m (fun _ => a) 0)
      | none =>
        let gather := match form with
          | .strided => none
          | .gather a b => some (lanesOf (selAt g a), lanesOf (selAt g b))
        .next (s.postCopy q slot (g.takeFq sels) (.tcopy gather) t.toNat m (m == 0#32 || d.cursor == d.rows)) .none none

/-- `TSTORE` (R199, R398): it reads its rows after the group's scratchpad writes have been applied. -/
def execTstore (t : BitVec 3) (s : State) : Out :=
  runInstr s (.tstore t) fun s q slot g =>
    if g.inLoop then .trap (loopTrap s 3)
    else if g.orders ≠ [] then .wait s (.until .orders)
    else untilThen (.copyIdle t.toNat) (fun s q slot g => s.copyIdle q slot g t.toNat) (fun s q slot g =>
      let d := tileOf (g.getT t.toNat)
      if !d.ok || d.fmt == 7 then .trap (Trap.own 0x02 t.toNat 0)
      else
        match d.spBad (s.crew? q g) with
        | some a => .trap (spTrap 1#32 (fun _ => a) 0)
        | none => untilThen .applied (fun s q slot _ => s.applied q slot) (fun s q slot g =>
            .next (s.postCopy q slot g .tstore t.toNat 1#32 (d.cursor == d.rows)) .none none) s q slot g) s q slot g

/-- The completion of n bytes of a copy enters the queue of its gate's bank (R156, R158). -/
def State.lowerGate (s : State) (q slot : Nat) (a : Option Nat) (n job : Nat) : State :=
  match a with
  | none => s
  | some a => s.bankEnter q slot [] none [(a / 8, .gate a n job)]

/-- Whether a completion of a copy has still to be applied at its gate (R200). -/
def State.gatePending (s : State) (c : CopyJob) : Bool :=
  (s.quad? c.owner.q).any (fun x => x.banks.any (fun e => e.2.any (fun r => match r.op with
    | .gate _ _ j => j == c.id
    | _ => false)))

/-- `COPY` (R299 to R301). -/
def execCopy (dst : BitVec 6) (src : BitVec 8) (len : USel) (gate : Option (BitVec 15)) (s : State) : Out :=
  runInstr s (.copy dst src len gate) fun s q slot g =>
    let n := (uAt g len).toNat
    let ga := gate.map (fun a => 8 * a.toNat)
    let gateOk := match ga, s.crew? q g with
      | none, _ => true
      | some a, some c => c.spOk a 8
      | some _, none => false
    match capPair g src, capPair g (dst.setWidth 8) with
    | some cs, some cd =>
      if n % 4 ≠ 0 then .trap (Trap.own 0x02 2 0)
      else if g.inLoop then .trap (loopTrap s 3)
      else
        match checkLane0 (s.basin g.basin) cs (capOfs cs) n 4 Rights.r 0 kindLoad,
              checkLane0 (s.basin g.basin) cd (capOfs cd) n 4 Rights.w 0 kindStore with
        | .error t, _ => .trap t
        | _, .error t => .trap t
        | .ok (), .ok () =>
          if !gateOk then .trap (spTrap 1#32 (fun _ => ga.getD 0) 0)
          else if g.orders ≠ [] then .wait s (.until .orders)
          else
            let s := s.postCopy q slot g (.copy cd cs n ga) 0 1#32 (n == 0)
            .next (if n = 0 then s.lowerGate q slot ga 0 s.nextId else s) .none none
    | _, _ => .trap Trap.operand

/-! ### What a piece of memory meets -/

/-- Where the next row or line of a copy reads (1) or writes (2): the device, the object, and the pieces (offset, bytes). -/
def State.copyPlace (s : State) (c : CopyJob) (side : Nat) : Nat × Nat × List (Nat × Nat) :=
  match c.kind with
  | .copy dst src len _ =>
    let a := capOfs dst + c.sent
    let n := min (128 - a % 128) (len - c.sent)
    if side = 1 then (capDev src, capObj src, [(capOfs src + c.sent, n)]) else (capDev dst, capObj dst, [(a, n)])
  | k =>
    let gather := match k with
      | .tcopy x => x
      | _ => none
    match s.ownerGroup? c.owner with
    | none => (devHere, 0, [])
    | some g =>
      let t := tileOf (g.getT c.t)
      (capDev t.mcap, capObj t.mcap,
        if rowTaken gather c.mask t.cursor then (t.pieces gather t.cursor).map (fun p => (p.1.toNat, p.2.1)) else [])

/-- Whether some pieces of an object touch an extent. -/
def touches (b obj : Nat) (ps : List (Nat × Nat)) (ext : Nat) : Bool :=
  ps.any (fun p => p.2 != 0 && decide (extKey b obj (p.1 / 65536) ≤ ext) && decide (ext ≤ extKey b obj ((p.1 + p.2 - 1) / 65536)))

/-- The first offset of a piece that lies in an extent. -/
def firstIn (a ext : Nat) : Nat := max a (65536 * (ext % 2 ^ 24))

/-- What the lines of a read or write of n bytes meet for a copy, the worst first; a peer's memory meets nothing here. -/
def State.pieceMeets (s : State) (id b dev obj a n die : Nat) (write : Bool) : Home :=
  if dev ≠ devHere ∨ n = 0 then .ok
  else
    let lines := (List.range ((a + n - 1) / 128 + 1 - a / 128)).map (fun i => a / 128 + i)
    let ms := lines.map (fun l => s.homeMeets id b obj l (s.homeDie b obj l die) false false true)
    let absent := lines.any (fun l => s.lineAbsent b obj l)
    if absent then .absent
    else if write then (if s.objHere b obj then .ok else .bad 2)
    else
      match ms.find? (fun h => match h with | .bad _ => true | _ => false) with
      | some h => h
      | none => (ms.find? (fun h => match h with | .wait => true | _ => false)).getD .ok

/-- The first offset of a piece that meets a data error. -/
def State.badAt (s : State) (id b obj a n die : Nat) : Nat :=
  let lines := (List.range ((a + n - 1) / 128 + 1 - a / 128)).map (fun i => a / 128 + i)
  ((lines.find? (fun l => match s.homeMeets id b obj l (s.homeDie b obj l die) false false true with
    | .bad _ => true
    | _ => false)).map (fun l => max a (128 * l))).getD a

/-- Fills the lines of a piece into their home slices. -/
def State.pieceFill (s : State) (b dev obj a n die : Nat) : Option State :=
  if dev ≠ devHere ∨ n = 0 then some s
  else ((List.range ((a + n - 1) / 128 + 1 - a / 128)).map (fun i => a / 128 + i)).foldl (fun (acc : Option State) l =>
    acc.bind (fun s => s.fillLine b obj l (s.homeDie b obj l die))) (some s)

/-- The bytes of a piece: a peer's are those that it has answered. -/
def State.pieceBytes (s : State) (b dev obj a n : Nat) (got : NMap Byte) : List Byte :=
  if dev = devHere then s.readBytes (memKey b obj a) n else (List.range n).map (fun i => NMap.getD got (a + i) 0#8)

/-- The first absent extent of a piece. -/
def State.absentExt (s : State) (b obj a n : Nat) : Nat :=
  let exts := ((List.range ((a + n - 1) / 65536 + 1 - a / 65536)).map (fun i => extKey b obj (a / 65536 + i)))
  (exts.find? (fun k => !(s.extent k).v)).getD (extKey b obj (a / 65536))

/-- The lines of some pieces (offset, bytes). -/
def pieceLines (ps : List (Nat × Nat)) : List Nat :=
  (ps.flatMap (fun p => if p.2 = 0 then [] else (List.range ((p.1 + p.2 - 1) / 128 + 1 - p.1 / 128)).map (fun i => p.1 / 128 + i))).eraseDups

/-- Whether a copy's access to some lines still has stores of its quadrant ahead of it: entries of the outbound queue, and
the group's own stores that a release has sent (R132, R145). Where a monitor has given it its place they come behind it (R241). -/
def State.copyBehind (s : State) (c : CopyJob) (keys : List Nat) : Bool :=
  let o := c.owner
  let keys := keys.filter (fun k => !c.freed.contains k)
  s.reqs.any (fun e => e.2.owner.q == o.q && keys.contains e.2.key && (match e.2.kind with
      | .store true _ => e.2.stands
      | .merge _ => e.2.owner == o && s.releaseWaits e.1
      | _ => false))
    || (s.quad? o.q).any (fun x => x.wc.any (fun e => e.owner == o && e.leaving && keys.contains (lineKey o.basin e.obj e.line)))

/-- The reads that a copy makes of a peer's memory (R134, R272): one for each line. -/
def State.askPeer (s : State) (c : CopyJob) (dev obj : Nat) (lines : List Nat) (byHandler : Bool) : State :=
  let ids := (List.range lines.length).map (fun i => s.nextId + i)
  let s := lines.foldl (fun s l => s.addReq (Req.new c.owner .fetch dev obj l 0#32 [] byHandler)) s
  (s.modCopy c.owner c.id (fun d => { d with asks := ids, got := [] })).settle

/-- What the memory that a row or a line of a copy reads gives. -/
inductive CopySource where
  | refused (what : String)
  | ask (lines : List Nat)
  | absent (ext : Nat)
  | bad (a n : Nat)
  | ok (s : State)

/-- What the source of a copy gives at some pieces: a peer is asked for them first; here the lines are filled (R102, R134). -/
def State.copySource (s : State) (c : CopyJob) (b dev obj : Nat) (ps : List (Nat × Nat)) : CopySource :=
  let lines := pieceLines ps
  if dev ≠ devHere then
    if c.asks ≠ [] then .refused "the peer has not answered"
    else if lines.all (fun l => NMap.has c.got (128 * l)) then .ok s else .ask lines
  else if s.copyBehind c (lines.map (lineKey b obj)) then .refused "stores of the quadrant go first"
  else
    let die := dieOf c.owner.q
    match (ps.map (fun p => (p, s.pieceMeets c.id b dev obj p.1 p.2 die false))).find? (fun e => e.2 != .ok) with
    | some (p, .absent) => .absent (s.absentExt b obj p.1 p.2)
    | some (p, .bad n) => .bad (s.badAt c.id b obj p.1 p.2 die) n
    | some _ => .refused "a line is held"
    | none =>
      match ps.foldl (fun (acc : Option State) p => acc.bind (fun s => s.pieceFill b dev obj p.1 p.2 die)) (some s) with
      | none => .refused "a fill waits"
      | some s => .ok s

/-- A row or line of a copy meets an absent extent (R198, R239, R301): the copy waits in the port's park list, and with FP clear
before it is suspended with a notice. A read of a group that has retired is discarded (R32). -/
def State.copyAbsent (s : State) (c : CopyJob) (ext side : Nat) (n : Notice) : State :=
  let x := s.extent ext
  let s := s.setExtent ext { x with fp := true }
  let list := if x.parked.contains c.id then x.parked else x.parked ++ [c.id]
  let gone := (s.ownerGroup? c.owner).any (fun g => g.retired)
  if gone && side == 1 then s.copyDone c
  else
    let s := s.setExtent ext { x with fp := true, parked := list }
    let park (d : CopyJob) : CopyJob := { d with parked := some (ext, side), freed := [] }
    if x.fp || gone then (((s.modCopy c.owner c.id (fun d => park d.rowAgain)).placed c.id).shelve c.owner).settle
    else (s.suspendCopy c n).modCopy c.owner c.id park

/-! ### Rows (R197 to R199) -/

/-- The lanes of a row's fault: the row's own, and every other lane of the copy whose remaining rows fail a bounds or
rights check (R198), each with the offset of its first failing row. -/
def Tile.faultLanes (t : Tile) (b : Basin) (gather : Option (Lanes × Lanes)) (m : Mask) (need : Rights) (r : Nat) : List (Nat × Int) :=
  let rest := (List.range t.rows).filter (fun k => decide (r < k) && gather.isSome && m.getLsbD (k % 32))
  rest.foldl (fun (acc : List (Nat × Int)) k =>
    if acc.any (fun e => e.1 == rowLane gather k) || (t.rowCheck b gather need k).isNone then acc
    else acc ++ [(rowLane gather k, t.rowOfs gather k)]) [(rowLane gather r, t.rowOfs gather r)]

/-- The notice of a tile copy at the row it has come to. -/
def State.rowNotice (s : State) (c : CopyJob) (t : Tile) (gather : Option (Lanes × Lanes)) (code : Nat) (write byHandler : Bool) : Notice :=
  let ls := t.faultLanes (s.basin c.owner.basin) gather c.mask (if write then Rights.w else Rights.r) t.cursor
  copyNotice c code 0 t.cursor (maskOf (fun l => ls.any (fun e => e.1 == l))) (ls.map (fun e => (e.1, capAt t.mcap e.2))) write byHandler

/-- The notice of a data error that a copy has met; a refused extent gives 2 (R242; log 44). -/
def badNotice (n : Notice) (reason : Nat) : Notice := if reason = 2 then { n with s58 := 2#32 } else n

/-- A row counts: CURSOR, the gate, and the end of the copy once its gate has it (R197, R200). -/
def State.rowCounts (s : State) (c : CopyJob) (g : Group) (t : Tile) : State :=
  let s := s.setGroup c.owner.q c.owner.slot (g.setT c.t (setCursor (g.getT c.t) (t.cursor + 1)))
  let s := s.lowerGate c.owner.q c.owner.slot (if t.gen then some (8 * t.gadr) else none) (128 + (if t.blk = 0 then 0 else 32)) c.id
  let s := s.modCopy c.owner c.id (fun d => { d.rowAgain with suspended := d.suspended })
  if t.rows ≤ t.cursor + 1 ∧ !t.gen then s.copyDone c else s

/-- A row of a `TCOPY` whose bytes have been read is written whole (R196, R197). -/
def State.rowWrite (s : State) (c : CopyJob) (g : Group) (t : Tile) (gather : Option (Lanes × Lanes)) : State :=
  let r := t.cursor
  let dev := capDev t.mcap
  let obj := capObj t.mcap
  let row := t.expand (s.pieceBytes g.basin dev obj (t.rowOfs gather r).toNat t.rowBytes c.got)
  let sc := if t.blk = 0 then [] else t.sidecar (s.pieceBytes g.basin dev obj (t.scaleOfs r).toNat (t.scaleBytes + t.mxBytes) c.got)
  let q := c.owner.q
  let bytes := (row.zipIdx).map (fun e => (tileByte t.base r e.2, e.1)) ++ (sc.zipIdx).map (fun e => (sidecarRow t.base r + e.2, e.1))
  let s := s.modCrew q g (fun x => x.put bytes)
  let s := s.markTile q g (t.base + 128 * r) 128
  let s := if t.blk = 0 then s else s.markTile q g (sidecarRow t.base r) 32
  let s := (s.sluices q g (bytes.map (fun e => e.1))).placed c.id
  match s.group? q c.owner.slot with
  | some h => s.rowCounts c h t
  | none => s

/-- A row of a `TCOPY`. -/
def State.rowIn (s : State) (c : CopyJob) (g : Group) (t : Tile) (gather : Option (Lanes × Lanes)) : Out :=
  if !rowTaken gather c.mask t.cursor then .next (s.rowCounts c g t)
  else
    match t.rowCheck (s.basin g.basin) gather Rights.r t.cursor with
    | some e => .next (s.suspendCopy c (s.rowNotice c t gather e.code false c.byHandler))
    | none =>
      let ps := (t.pieces gather t.cursor).map (fun p => (p.1.toNat, p.2.1))
      match s.copySource c g.basin (capDev t.mcap) (capObj t.mcap) ps with
      | .refused what => .refused (.notEnabled ("COPY_ROW: " ++ what))
      | .ask lines => .next (s.askPeer c (capDev t.mcap) (capObj t.mcap) lines c.byHandler)
      | .absent ext => .next (s.copyAbsent c ext 1 (s.rowNotice c t gather 0x09 false c.byHandler))
      | .bad a n => .next ((s.homeError g.basin (capObj t.mcap) a n).suspendCopy c (s.rowNotice c t gather 0x0A false c.byHandler))
      | .ok s => .next (s.rowWrite c g t gather)

/-- Splits a write at line borders: line and bytes. -/
def splitLines (a : Nat) (bs : List Byte) : List (Nat × NMap Byte) :=
  let all : NMap Byte := bs.zipIdx.map (fun e => (a + e.2, e.1))
  ((all.map (fun e => e.1 / 128)).eraseDups).map (fun l => (l, all.filter (fun e => e.1 / 128 == l)))

/-- Sends the write requests of a copy, which take over the places that a monitor has given it (R241); `n` bytes of `COPY` have gone out with
them. -/
def State.sendWrites (s : State) (c : CopyJob) (dev obj dn n : Nat) (ws : List (Nat × NMap Byte)) (byHandler : Bool) : State :=
  let ids := (List.range ws.length).map (fun i => s.nextId + i)
  let s := ws.foldl (fun s w =>
    let r := Req.new c.owner (.copyWrite w.2) dev obj w.1 0#32 [] byHandler
    s.addReq { r with freed := c.freed.filter (· == r.key) }) s
  ((s.modCopy c.owner c.id (fun d =>
    { d with writes := d.writes ++ ids, done := dn, sent := d.sent + n, got := [], parked := none, freed := [] })).succeed c.id ids).settle

/-- A row of a `TSTORE`: its writes go out; once they are acknowledged the row counts. -/
def State.rowOut (s : State) (c : CopyJob) (g : Group) (t : Tile) : Out :=
  if c.writes ≠ [] then .refused (.notEnabled "COPY_ROW: the row's writes are out")
  else if c.done = 1 then .next (s.rowCounts c g t)
  else
    match t.rowCheck (s.basin g.basin) none Rights.w t.cursor with
    | some e => .next (s.suspendCopy c (s.rowNotice c t none e.code true c.byHandler))
    | none =>
      let dev := capDev t.mcap
      let obj := capObj t.mcap
      let r := t.cursor
      let ps := (t.pieces none r).map (fun p => (p.1.toNat, p.2.1))
      if dev = devHere ∧ s.copyBehind c ((pieceLines ps).map (lineKey g.basin obj)) then
        .refused (.notEnabled "COPY_ROW: stores of the quadrant go first")
      else
        match ps.find? (fun p => s.pieceMeets c.id g.basin dev obj p.1 p.2 (dieOf c.owner.q) true == .absent) with
        | some p => .next (s.copyAbsent c (s.absentExt g.basin obj p.1 p.2) 2 (s.rowNotice c t none 0x09 true c.byHandler))
        | none =>
          match s.crew? c.owner.q g with
          | none => .refused (.notEnabled "COPY_ROW: no crew")
          | some x =>
            let row := t.shrink ((List.range 128).map (fun b => x.byte (tileByte t.base r b)))
            let sc := (List.range t.scaleBytes).map (fun i => x.byte (sidecarRow t.base r + i))
              ++ (List.range t.mxBytes).map (fun i => x.byte (sidecarRow t.base r + 16 + i))
            .next (s.sendWrites c dev obj 1 0 (splitLines (t.rowOfs none r).toNat row
              ++ (if t.blk = 0 then [] else splitLines (t.scaleOfs r).toNat sc)) c.byHandler)

/-- Whether a halt keeps a copy from its next row or line (R257): a row whose writes went out is still counted, and one whose
reads of a peer have returned is still written. -/
def State.copyStops (s : State) (qs : Nat) (c : CopyJob) : Bool :=
  (s.slotStops qs || (s.group? c.owner.q c.owner.slot).any (fun g => g.halted))
    && !(c.done == 1 && (match c.kind with | .tstore => true | _ => false)) && (c.got.isEmpty || !c.asks.isEmpty)

/-- Whether a copy is parked: until the monitor of its extent fires (R239, R241), or a handler has turned its row away from there
(R198). -/
def State.copyParked (s : State) (c : CopyJob) : Bool :=
  c.parked.any (fun p => (s.extent p.1).parked.contains c.id &&
    (let x := s.copyPlace c p.2; x.1 == devHere && touches c.owner.basin x.2.1 x.2.2 p.1))

/-- A copy that takes a step is in no park list. -/
def State.leavePark (s : State) (c : CopyJob) : State := if c.parked.isSome then s.unpark c.id else s

/-- Whether an earlier copy of a group on the same descriptor is incomplete or suspended (R392). -/
def State.copyQueued (s : State) (qs : Nat) (c : CopyJob) : Bool :=
  ((s.engine qs).copies.takeWhile (fun d => d.id != c.id)).any (fun d => d.on c.owner c.t)

/-- Why a copy can take no step now, if it cannot. -/
def State.copyWaits (s : State) (qs : Nat) (c : CopyJob) : Option String :=
  if c.suspended then some "the copy is suspended"
  else if c.kind.isTcopy && s.copyQueued qs c then some "an earlier copy on the descriptor goes first"
  else if s.copyStops qs c then some "a halt stops it"
  else if c.after ≠ [] then some "entries of the outbound queue go first"
  else if s.copyParked c then some "the copy is parked"
  else none

/-- `COPY_ROW` (R197, R199): the next row of a tile copy. The descriptor that a handler has reloaded is taken as it stands, with
none of the checks that R194 makes at issue (DESIGN CHOICE, log 65). -/
def execCopyRow (qs ix : Nat) (s : State) : Out :=
  match (s.engine qs).copies[ix]? with
  | none => .refused (.notEnabled "COPY_ROW: no such copy")
  | some c =>
    match s.copyWaits qs c, s.ownerGroup? c.owner with
    | some what, _ => .refused (.notEnabled ("COPY_ROW: " ++ what))
    | none, none => .refused (.notEnabled "COPY_ROW: no group")
    | none, some g =>
      let s := s.leavePark c
      let t := tileOf (g.getT c.t)
      let gather := match c.kind with
        | .tcopy x => x
        | _ => none
      let write := match c.kind with
        | .tcopy _ => false
        | _ => true
      match c.kind, c.bad with
      | .copy .., _ => .refused (.notEnabled "COPY_ROW: not a tile copy")
      | _, some (n, _, _) => .next (s.suspendCopy c (badNotice (s.rowNotice c t gather 0x0A write c.byHandler) n))
      | k, none =>
        if t.rows ≤ t.cursor then
          if s.gatePending c then .refused (.notEnabled "COPY_ROW: the gate has not been reached") else .next (s.copyDone c)
        else
          match k with
          | .tcopy gather => s.rowIn c g t gather
          | _ => s.rowOut c g t

/-! ### Lines of `COPY` (R300, R301) -/

/-- Whether an address of a `COPY`'s destination lies in its source range too: what the copy leaves there is unpredictable
(R300). -/
def copyOverlaps (dst src : DWord) (len a : Nat) : Bool :=
  capDev dst == capDev src && capObj dst == capObj src && decide (capOfs src ≤ a) && decide (a < capOfs src + len)

/-- The bytes of a destination line of `COPY`: open where the ranges overlap, elsewhere exact, so that a source byte that the
copy itself has overwritten counts with its old value (R300). -/
def State.copyBytes (s : State) (c : CopyJob) (b : Nat) (dst src : DWord) (len n : Nat) : List Byte :=
  let sa := capOfs src + c.sent
  (s.pieceBytes b (capDev src) (capObj src) sa n c.got).zipIdx.map (fun e =>
    if copyOverlaps dst src len (capOfs dst + c.sent + e.2) then Config.freeByte (s.freeIx + e.2) else NMap.getD c.kept (sa + e.2) e.1)

/-- The source bytes that the next line of a `COPY` is about to overwrite. -/
def State.copyKeeps (s : State) (c : CopyJob) (b : Nat) (dst src : DWord) (len n : Nat) : NMap Byte :=
  let a := capOfs dst + c.sent
  (((List.range n).map (fun i => a + i)).filter (fun x => copyOverlaps dst src len x && !NMap.has c.kept x)).map (fun x =>
    (x, if capDev src = devHere then s.readByte (memKey b (capObj src) x) else NMap.getD c.got x 0#8))

/-- The piece of a peer's memory that a line of a `COPY` is about to overwrite and that lies in the source range: it is asked for
before the write, since lines still to come read it (R300). -/
def copyAhead (c : CopyJob) (dst src : DWord) (len n : Nat) : List (Nat × Nat) :=
  let a := capOfs dst + c.sent
  let lo := max a (capOfs src)
  let hi := min (a + n) (capOfs src + len)
  if capDev src = devHere ∨ capDev dst ≠ capDev src ∨ capObj dst ≠ capObj src ∨ hi ≤ lo then [] else [(lo, hi - lo)]

/-- The next line of a `COPY`. A fault is met once every lower line is written (R301). A line of a peer's memory is written before the next
one is sent (DESIGN CHOICE, log 97). -/
def State.copyLine (s : State) (c : CopyJob) (g : Group) (dst src : DWord) (len : Nat) : Out :=
  let a := capOfs dst + c.sent
  let sa := capOfs src + c.sent
  let n := min (128 - a % 128) (len - c.sent)
  let b := g.basin
  let note (code side : Nat) (cap : DWord) : Notice := copyNotice c code side 0 1#32 [(0, cap)] (side == 2) c.byHandler
  let fault (s : State) : Out := if c.writes ≠ [] then .refused (.notEnabled "COPY_LINE: lower lines go first") else .next s
  match c.bad with
  | some (r, side, x) => fault (s.suspendCopy c (badNotice (note 0x0A side (if side = 1 then capAt src (max sa x) else capAt dst (max a x))) r))
  | none =>
    match s.copySource c b (capDev src) (capObj src) ((sa, n) :: copyAhead c dst src len n) with
    | .refused what => .refused (.notEnabled ("COPY_LINE: " ++ what))
    | .ask lines => .next (s.askPeer c (capDev src) (capObj src) lines c.byHandler)
    | .absent ext => fault (s.copyAbsent c ext 1 (note 0x09 1 (capAt src (firstIn sa ext))))
    | .bad x k => fault ((s.homeError b (capObj src) x k).suspendCopy c (note 0x0A 1 (capAt src x)))
    | .ok t =>
      if capDev dst ≠ devHere ∧ c.writes ≠ [] then .refused (.notEnabled "COPY_LINE: the peer has not answered")
      else if capDev dst = devHere ∧ t.copyBehind c ((pieceLines [(a, n)]).map (lineKey b (capObj dst))) then
        .refused (.notEnabled "COPY_LINE: stores of the quadrant go first")
      else if t.pieceMeets c.id b (capDev dst) (capObj dst) a n (dieOf c.owner.q) true == .absent then
        let ext := t.absentExt b (capObj dst) a n
        fault (t.copyAbsent c ext 2 (note 0x09 2 (capAt dst (firstIn a ext))))
      else
        let bs := t.copyBytes c b dst src len n
        let t := t.modCopy c.owner c.id (fun d => { d with kept := d.kept ++ t.copyKeeps c b dst src len n })
        .next ({ t with freeIx := t.freeIx + 128 }.sendWrites c (capDev dst) (capObj dst) c.done n (splitLines a bs) c.byHandler)

/-- `COPY_LINE` (R300): the bytes of the next destination line are read and sent to be written, also while lower lines are still to be
written; once all are written the completion goes to the gate, and with that applied the copy is over. A copy that resumes after its object was destroyed or created again makes none of its
checks of R229 anew: it meets what stands at its lines then (R237; DESIGN CHOICE, log 85). -/
def execCopyLine (qs ix : Nat) (s : State) : Out :=
  match (s.engine qs).copies[ix]? with
  | none => .refused (.notEnabled "COPY_LINE: no such copy")
  | some c =>
    match c.kind, s.ownerGroup? c.owner with
    | .copy dst src len gate, some g =>
      match s.copyWaits qs c with
      | some what => .refused (.notEnabled ("COPY_LINE: " ++ what))
      | none =>
        let s := s.leavePark c
        if c.bad = none ∧ len ≤ c.sent then
          if c.writes ≠ [] then .refused (.notEnabled "COPY_LINE: earlier writes go first")
          else if s.gatePending c then .refused (.notEnabled "COPY_LINE: the gate has not been reached")
          else if gate.isSome && !c.gated then
            .next ((s.lowerGate c.owner.q c.owner.slot gate len c.id).modCopy c.owner c.id (fun d => { d with gated := true }))
          else .next (s.copyDone c)
        else s.copyLine c g dst src len
    | _, _ => .refused (.notEnabled "COPY_LINE: not a byte copy")

end Sys2Proof.Machine
end

