-- ==== Sys2Proof/Machine/Absent.lean ====
section
/-! DEFINITION. Absent extents (R239 to R241): requests and copies that park on one, the notice of the first, and the release in park
order. A parked request has no place in its line's order, but what its own quadrant must keep behind it stays behind it (R128;
log 79). -/

namespace Sys2Proof.Machine

/-- The 0x09 notice of a request (R239, R244). -/
def Req.absentNotice (r : Req) : Notice :=
  let low := (maskLanes r.mask).headD 0
  let cap := ((r.caps.find? (fun e => e.1 == low)).map (fun e => e.2)).getD 0#64
  r.notice 0x09 (cap.setWidth 32) (cap.extractLsb' 32 32)

/-- The part of a request that meets an absent extent: the lanes of a sampler read whose next address lies there, the line that
a `VALSET` stands at, or all of it (R239, R244). -/
def State.absentPart (s : State) (id : Nat) (rq : Req) (e : Nat × Nat) : State × Nat × Req :=
  match rq.kind with
  | .valset _ => (s, id, { rq with obj := e.1, line := e.2 })
  | .smpl .. => s.smplPart id rq ((s.smplAt id rq (fun h => h == .absent)).filter (fun x => x.2 / 65536 == e.2 / 512))
  | _ => (s, id, rq)

/-- A write request of a copy meets an extent that has been unmapped since it was sent: its row or line is to be done again. The
notice names the row, or the write's first byte of `COPY`, below which all is written and from which on nothing is (R198, R301). -/
def State.copyWriteAbsent (s : State) (id : Nat) (r : Req) (ext : Nat) : State :=
  let mine : Option CopyJob := (s.engine (slotOf r.owner.q)).copies.find? (fun (c : CopyJob) => c.writes.contains id)
  let s := match mine with
    | none => s
    | some c =>
      match c.kind, s.ownerGroup? c.owner with
      | .copy .., _ | _, none =>
        let c := { c with done := c.byteAt r }
        ((s.cancelAbove id r).modCopy c.owner c.id (fun d => { d with done := c.done })).copyAbsent c ext 2 (copyNotice c 0x09 2 0 1#32 r.caps true c.byHandler)
      | _, some g => s.copyAbsent c ext 2 (s.rowNotice c (tileOf (g.getT c.t)) none 0x09 true c.byHandler)
  s.finish id

/-- A request as it stands at a line of its own. -/
def Req.standAt (r : Req) (e : Nat × Nat) : Req :=
  match r.kind with
  | .valset _ => { r with obj := e.1, line := e.2 }
  | _ => r

/-- Whether a request may park on an extent: what goes before it on its line has parked there too, so that one release gives all of them their
places (R128, R239, R241; log 79). -/
def State.mayPark (s : State) (r : Req) (ext : Nat) : Bool := (s.heldBack r).all (fun i => (s.extent ext).parked.contains i)

/-- `EXTENT_ABSENT` (R239): a request finds its extent invalid: FP is set, it parks, and it is noticed if it is the
first. A read of a group that has retired is discarded (R32). -/
def execExtentAbsent (r : Nat) (s : State) : Out :=
  match s.req? r with
  | none => .refused (.notEnabled "EXTENT_ABSENT: no such request")
  | some rq =>
    let b := rq.owner.basin
    if rq.st ≠ .sent ∨ rq.dev ≠ devHere then .refused (.notEnabled "EXTENT_ABSENT: the request is not on its way here")
    else
      match (s.needs rq).find? (fun e => s.lineAbsent b e.1 e.2) with
      | none => .refused (.notEnabled "EXTENT_ABSENT: the extent is there")
      | some e =>
        let k := extKey b e.1 (e.2 / 512)
        let x := s.extent k
        if !s.mayPark (rq.standAt e) k then .refused (.notEnabled "EXTENT_ABSENT: earlier requests on the line")
        else if rq.kind.isCopy then
          if s.copyLower r rq ≠ [] then .refused (.notEnabled "EXTENT_ABSENT: lower lines of the copy go first") else .next (s.copyWriteAbsent r rq k)
        else
          let p := s.absentPart r rq e
          let s := p.1.setExtent k { x with fp := true }
          if !rq.kind.writeClass && (s.ownerGroup? rq.owner).any (fun g => g.retired) then .next (s.dropRead p.2.1 p.2.2).settle
          else
            let s := s.setExtent k { x with fp := true, parked := x.parked ++ [p.2.1] }
            let s := (s.setReq p.2.1 { p.2.2 with st := .parked, freed := [] }).unfirst p.2.1
            .next ((if x.fp then s else s.notify rq.owner p.2.2.absentNotice).shelve rq.owner).settle

/-- A `COLL`, or the copy of a `LAUNCH`, meets an absent extent (R239; log 47): FP is set, a request that reads and writes nothing parks
there in its place, and the first is noticed. -/
def State.parkProbe (s : State) (o : Owner) (c : DWord) (n kind : Nat) (byHandler : Bool) : State :=
  let k := s.absentExt o.basin (capObj c) (capOfs c) n
  let x := s.extent k
  let ofs := firstIn (capOfs c) k
  let r : Req := { Req.new o (.probe kind ofs) devHere (capObj c) (ofs / 128) 1#32 [] byHandler with st := .parked }
  let t := (s.addReq r).setExtent k { x with fp := true, parked := x.parked ++ [s.nextId] }
  if x.fp then t else t.notify o r.absentNotice

/-- The group waits there until the extent is mapped (R241). -/
def absentStop (s : State) (o : Owner) (c : DWord) (n kind : Nat) (byHandler : Bool) : Res :=
  .wait (s.parkProbe o c n kind byHandler) (.until (.answered s.nextId))

/-- Whether a request holds a place for a `COLL` or a `LAUNCH`. -/
def ReqKind.isProbe : ReqKind → Bool
  | .probe .. => true
  | _ => false

/-- The lines of an extent at which something parked stands: a request's own, the one that a `VALSET` is to pin next, the addresses of a
sampler read, the next row or line of a copy, and what an access from outside says. -/
def State.parkKeys (s : State) (ext id : Nat) : List Nat :=
  let copies : List CopyJob := (s.engines.flatMap (fun (e : Nat × SlotEng) => e.2.copies)).filter (fun (c : CopyJob) => c.id == id)
  let outer : List Parked := s.parks.filter (fun (p : Parked) => p.id == id)
  let keys : List Nat := match s.req? id with
    | some r => match r.kind with
      | .valset _ => [lineKey r.owner.basin r.obj r.line]
      | .smpl .. => r.accs.map (fun a => lineKey r.owner.basin r.obj (a.2.1 / 128))
      | _ => [r.key]
    | none => copies.flatMap (fun c => match c.parked with
      | some (_, side) => let p := s.copyPlace c side; (pieceLines p.2.2).map (lineKey c.owner.basin p.2.1)
      | none => []) ++ outer.flatMap (fun p => p.keys)
  keys.filter (fun k => k / 512 == ext)

/-- What stands parked before something on a line of its own (R241). -/
def State.parkedBefore (s : State) (ext : Nat) (ids : List Nat) (id : Nat) : List Nat :=
  (ids.takeWhile (· != id)).filter (fun i => (s.parkKeys ext i).any (fun k => (s.parkKeys ext id).contains k))

/-- The copies whose row or line is parked on an extent. -/
def State.copiesAt (s : State) (ext : Nat) : List CopyJob :=
  s.engines.flatMap (fun e => e.2.copies.filter (fun c => (c.parked.map (fun p => p.1)) == some ext))

/-- Something parked goes on: it has its place in the order of the lines at which it stands, behind what stood before it. -/
def State.unparked (s : State) (id : Nat) (keys before : List Nat) : State :=
  match s.req? id with
  | some r => if r.kind.isProbe then s.finish id
    else s.setReq id { r with st := .sent, freed := keys, after := (r.after ++ before).eraseDups }
  | none =>
    let s := { s with engines := s.engines.map (fun (e : Nat × SlotEng) => (e.1, { e.2 with copies := e.2.copies.map (fun (c : CopyJob) =>
      if c.id = id then { c with parked := none, freed := keys, after := (c.after ++ before).eraseDups } else c) })) }
    s.modParks (fun (p : Parked) => if p.id = id then { p with freed := true, after := (p.after ++ before).eraseDups } else p)

/-- `EXTENT_MONITOR_FIRE` (R241): the extent is there, and what is parked takes its places in park order. -/
def execExtentMonitorFire (ext : Nat) (s : State) : Out :=
  let e := s.extent ext
  if !e.v then .refused (.notEnabled "EXTENT_MONITOR_FIRE: the extent is absent")
  else if e.parked = [] then .refused (.notEnabled "EXTENT_MONITOR_FIRE: nothing is parked")
  else
    let before := e.parked.map (fun i => (i, s.parkKeys ext i, s.parkedBefore ext e.parked i))
    .next (before.foldl (fun s p => s.unparked p.1 p.2.1 p.2.2) (s.setExtent ext { e with parked := [] })).settle

/-! ### Accesses from outside the quadrants (R239) -/

/-- An access from outside, which no group is told of, parks on an extent: FP is set, and it is in the park list in its place (R239;
DEDUCED, log 96). -/
def State.parkOutside (s : State) (ext id : Nat) : State :=
  let x := s.extent ext
  s.setExtent ext { x with fp := true, parked := if x.parked.contains id then x.parked else x.parked ++ [id] }

/-- What such an access holds from then on. -/
def parkedAt (id ext : Nat) (keys : List Nat) : Parked := { id := id, keys := keys.filter (fun k => k / 512 == ext), freed := false, after := [] }

end Sys2Proof.Machine
end

