-- ==== Sys2Proof/Machine/Matrix.lean ====
section
/-! DEFINITION. The matrix engine quarter: `MMA` (R201, R351 to R353), `ACCLD` and `ACCST` (R279 to R281), `ACQB` (R283),
`RELB` (R373), the reservation table, passes (R202, R205) and power tokens (R206). -/

namespace Sys2Proof.Machine

/-! ### `MMA` -/

/-- A register value of an `MMA` operand, which must be an `s` register (R351). -/
def mmaReg (g : Group) (x : Sel) : Option Nat :=
  match x with
  | .s n => some (g.getS n.toNat).toNat
  | _ => none

/-- Whether an operand tile, with its sidecar where it is used, is aligned and within the crew's scratchpad (R201). -/
def Crew.tileOk (c : Crew) (base : Nat) (blk : Blk) : Bool :=
  decide (base % 256 = 0) && decide (base + (if blk = .none then 8192 else 10240) ≤ c.scr * 1024)

/-- Whether a group holds a run of banks. -/
def State.holdsBanks (s : State) (q slot base n : Nat) : Bool :=
  (List.range n).all (fun i => NMap.get? (s.engine (slotOf q)).holder (base + i) == some (q, slot))

/-- The request in a group's staging slot enters the reservation table (R201). A reserve entry that it has been granted and does not need is
not taken (R50). -/
def State.enterTable (s : State) (q slot : Nat) (g : Group) : State :=
  match g.staging with
  | none => s
  | some r =>
    (s.modEngine (slotOf q) (fun x => { x with table := x.table ++ [{ r with age := x.nextAge, waited := 0 }], nextAge := x.nextAge + 1 }.ungrant q slot)).setGroup
      q slot { g with staging := none }

/-- `MMA` (R201, R352, R353): its jet starts with the staging slot empty. A second `MMA` of one jet sends the first one's request on to the
table, since a jet never waits in mid-issue (R35; log 90). -/
def execMma (gd : Guard) (a b k : Sel) (fmt : MmaFmt) (blka blkb : Blk) (mxa mxb clr : Bool) (s : State) : Out :=
  runInstr s (.mma gd a b k fmt blka blkb mxa mxb clr) fun s q slot g =>
    match mmaReg g a, mmaReg g b, mmaReg g k with
    | some ta, some tb, some bank =>
      let m := guardMask g gd
      let tile (base : Nat) (blk : Blk) : Bool := match s.crew? q g with
        | some c => c.tileOk base blk
        | none => false
      if m ≠ Mask.all then .trap (Trap.own 0x04 m.toNat 0)
      else if !g.ofence then .trap (Trap.own 0x02 1 0)
      else if !tile ta blka then .trap (spTrap Mask.all (fun _ => ta) 0)
      else if !tile tb blkb then .trap (spTrap Mask.all (fun _ => tb) 0)
      else if bank % 8 ≠ 0 ∨ !s.holdsBanks q slot bank 8 then .trap (Trap.own 0x02 2 0)
      else
        let s := s.enterTable q slot g
        let r : MmaReq :=
          { q := q, slot := slot, a := ta, b := tb, k := bank, fmt := fmt, blka := blka, blkb := blkb, mxa := mxa, mxb := mxb,
            clr := clr, prio := g.prio + g.ageSteps, ceil := g.ceil, age := 0, waited := 0, dirty := g.mmDirty }
        .next (s.setGroup q slot { g with ofence := false, mmDirty := [], staging := some r, mmNamed := (g.mmNamed ++ (List.range 8).map (fun i => bank + i)).eraseDups })
          .none none
    | _, _, _ => .trap Trap.operand

/-! ### Bank words (R279 to R281) -/

def accWords : AccWidth → Nat
  | .x1 => 1
  | .x2 => 2
  | .x4 => 4

/-- The failing check of a lane (R280). -/
def State.accFail (s : State) (q slot w bank word : Nat) : Option Nat :=
  if 127 < bank ∨ !s.holdsBanks q slot bank 1 then some 2
  else if word % w ≠ 0 ∨ 512 < word + w then some 3 else none

/-- The trap of `ACCLD` and `ACCST`: the code of the first check that some lane fails, and the lowest such lane. -/
def accTrap (fails : List (Nat × Nat)) : Option Trap :=
  match fails.find? (fun e => e.2 == 2) with
  | some e => some (Trap.own 0x02 2 e.1)
  | none => fails.head?.map (fun e => Trap.own 0x02 3 e.1)

def SlotEng.word (x : SlotEng) (bank w : Nat) : Word := NMap.getD x.acc (512 * bank + w) 0#32

/-- Whether a bank is named by an `MMA` of the group since its last `MMWAIT` (R204). -/
def Group.named (g : Group) (bank : Nat) : Bool := g.mmNamed.contains bank

/-- `ACCLD` (R280): a word of a bank that an outstanding `MMA` names is open (R204). -/
def execAccld (gd : Guard) (d : BitVec 7) (bank word : Sel) (w : AccWidth) (k : BitVec 7) (s : State) : Out :=
  runInstr s (.accld gd d bank word w k) fun s q slot g =>
    let n := accWords w
    if !(g.dataOk d.toNat (4 * n) && selOk g bank && selOk g word) then .trap Trap.operand
    else
      let m := guardMask g gd
      let bk := fun l => (selAt g bank l + BitVec.ofNat 32 k.toNat).toNat
      let wd := fun l => (selAt g word l).toNat
      let fails := (maskLanes m).filterMap (fun l => (s.accFail q slot n (bk l) (wd l)).map (fun c => (l, c)))
      match accTrap fails with
      | some t => .trap t
      | none =>
        let x := s.engine (slotOf q)
        let ix := s.freeIx
        let val := fun i => lanesOf (fun l =>
          if g.named (bk l) then Config.freeWord (ix + 32 * i + l) else x.word (bk l) (wd l + i))
        let dests := (List.range n).map (fun i => (Dest.new (d.toNat + i) m, val i))
        .next ({ s with freeIx := ix + 128 }.flyV q slot (g.takeFq [bank, word]) dests flNone 0) .none none

/-- `ACCST` (R280): a named bank's elements are open after `MMWAIT` (R204). -/
def execAccst (gd : Guard) (data : BitVec 7) (bank word : Sel) (w : AccWidth) (k : BitVec 7) (s : State) : Out :=
  runInstr s (.accst gd data bank word w k) fun s q slot g =>
    let n := accWords w
    if !(g.dataOk data.toNat (4 * n) && selOk g bank && selOk g word) then .trap Trap.operand
    else
      let m := guardMask g gd
      let bk := fun l => (selAt g bank l + BitVec.ofNat 32 k.toNat).toNat
      let wd := fun l => (selAt g word l).toNat
      let fails := (maskLanes m).filterMap (fun l => (s.accFail q slot n (bk l) (wd l)).map (fun c => (l, c)))
      match accTrap fails with
      | some t => .trap t
      | none =>
        let s := s.modEngine (slotOf q) (fun x => { x with acc := (maskLanes m).foldl (fun a l =>
          (List.range n).foldl (fun a i => NMap.set a (512 * bk l + wd l + i) (g.lane (data.toNat + i) l)) a) x.acc })
        let hit := ((maskLanes m).map bk).filter (fun b => g.named b)
        .next (s.setGroup q slot { g.takeFq [bank, word] with mmSpoilt := (g.mmSpoilt ++ hit).eraseDups }) .none none

/-! ### Banks (R203, R283, R373) -/

/-- Whether a run of banks is free. -/
def SlotEng.runFree (x : SlotEng) (b n : Nat) : Bool := (List.range n).all (fun i => !NMap.has x.holder (b + i))

/-- The lowest run of n free banks, at a multiple of 8 when n is 8 or more. -/
def SlotEng.findRun (x : SlotEng) (n : Nat) : Option Nat :=
  (List.range (129 - n)).find? (fun b => (decide (n < 8) || decide (b % 8 = 0)) && x.runFree b n)

/-- `ACQB` (R283). -/
def execAcqb (d : BitVec 6) (count : USel) (s : State) : Out :=
  runInstr s (.acqb d count) fun s q slot g =>
    match g.wait with
    | .answer ws => .next (s.setGroup q slot (g.setS d.toNat (ws.getD 0 0#32))) .none none
    | _ =>
      let n := (uAt g count).toNat
      if n = 0 ∨ 128 < n then .trap (Trap.own 0x02 4 0)
      else .wait (s.modEngine (slotOf q) (fun x => { x with acqq := x.acqq ++ [(q, slot, n)] })) .acqb

/-- `ACQB_GRANT` (R283): the oldest waiting request receives its run. -/
def execAcqbGrant (qs : Nat) (s : State) : Out :=
  let x := s.engine qs
  match x.acqq with
  | [] => .refused (.notEnabled "ACQB_GRANT: nothing waits")
  | (q, slot, n) :: rest =>
    if s.slotStops qs then .refused (.notEnabled "ACQB_GRANT: the slot is halting")
    else if s.crewStops q slot then .refused (.notEnabled "ACQB_GRANT: the group is halting") else
    match x.findRun n with
    | none => .refused (.notEnabled "ACQB_GRANT: no run fits")
    | some b =>
      let s := s.modEngine qs (fun x => { x with
        acqq := rest, holder := (List.range n).foldl (fun m i => NMap.set m (b + i) (q, slot)) x.holder })
      .next (s.modGroup q slot (fun g => { g with wait := .answer [BitVec.ofNat 32 b] }))

/-- Whether no `MMA` entry of a group names one of some banks (R373). -/
def State.banksQuiet (s : State) (q slot : Nat) (g : Group) (base n : Nat) : Bool :=
  (s.mmas q slot g).all (fun r => !(decide (r.k < base + n) && decide (base < r.k + 8)))

/-- `RELB` (R373). -/
def execRelb (base count : USel) (s : State) : Out :=
  runInstr s (.relb base count) fun s q slot g =>
    let b := (uAt g base).toNat
    let n := (uAt g count).toNat
    if n = 0 ∨ 128 < b + n then .trap (Trap.own 0x02 4 0)
    else
      match (List.range n).find? (fun i => !s.holdsBanks q slot (b + i) 1) with
      | some i => .trap (Trap.own 0x02 5 (b + i))
      | none => untilThen (.banks b n) (fun s q slot g => s.banksQuiet q slot g b n) (fun s q slot g =>
          let s := s.modEngine (slotOf q) (fun x => (List.range n).foldl (fun x i => x.freeBank (b + i)) x)
          let keep (k : Nat) : Bool := !(decide (b ≤ k) && decide (k < b + n))
          .next (s.setGroup q slot { g with mmSpoilt := g.mmSpoilt.filter keep, mmNamed := g.mmNamed.filter keep }) .none none)
          s q slot g

/-! ### The reservation table and passes (R201, R202) -/

/-- `RESERVATION_ENTRY` (R201): a request leaves staging for a free entry of the table. -/
def execReservationEntry (q slot : Nat) (s : State) : Out :=
  match s.group? q slot with
  | none => .refused (.notEnabled "RESERVATION_ENTRY: no group")
  | some g =>
    match g.staging with
    | none => .refused (.notEnabled "RESERVATION_ENTRY: staging is empty")
    | some _ =>
      let x := s.engine (slotOf q)
      if (s.slotStops (slotOf q) || g.halted) && !g.wait.pending then .refused (.notEnabled "RESERVATION_ENTRY: the slot or the group is halting")
      else if (if x.grant = some (q, slot) then 17 else 16) ≤ x.table.length then .refused (.notEnabled "RESERVATION_ENTRY: the table is full")
      else .next (s.enterTable q slot g)

/-- Whether two requests name a bank in common. -/
def MmaReq.overlaps (a b : MmaReq) : Bool := decide (a.k < b.k + 8) && decide (b.k < a.k + 8)

/-- Whether an entry is eligible (R202). -/
def SlotEng.eligible (x : SlotEng) (r : MmaReq) : Bool :=
  x.table.all (fun o => !(o.q == r.q && o.slot == r.slot && decide (o.age < r.age) && o.overlaps r))
    && (match x.pass with
      | some (p, _) => !(p.q == r.q && p.slot == r.slot && p.overlaps r)
      | none => true)

/-- An entry's priority with the steps it has gained (R202, R37). -/
def MmaReq.effPrio (r : MmaReq) : Nat := max r.prio (min (r.prio + r.waited / 4096) r.ceil)

/-- The enabled cluster sites of a die, ascending. -/
def State.dieSites (s : State) (die : Nat) : List Nat := s.sites.filter (fun c => c / 16 == die)

/-- Whether a cluster holds a power token in its ring's frame (R206). -/
def State.hasToken (s : State) (cluster : Nat) : Bool :=
  let ring := NMap.getD s.rings (cluster / 16) (0, 8)
  match (s.dieSites (cluster / 16)).findIdx? (· == cluster) with
  | none => false
  | some p => (List.range ring.2).any (fun i => (ring.2 * ring.1 + i) % 12 == p)

/-- The entry that the arbiter grants (R202), among those that no migration has withdrawn (R205). -/
def SlotEng.choose (x : SlotEng) (stopped : Nat → Nat → Bool) : Option MmaReq :=
  (x.table.filter (fun r => x.eligible r && !stopped r.q r.slot)).foldl (fun (b : Option MmaReq) r =>
    match b with
    | none => some r
    | some o => if o.effPrio < r.effPrio ∨ (o.effPrio = r.effPrio ∧ r.age < o.age) then some r else b) none

/-- `PASS_GRANT` (R202, R206). -/
def execPassGrant (qs : Nat) (s : State) : Out :=
  let x := s.engine qs
  let frame := (NMap.getD s.rings (qs / 4 / 16) (0, 8)).1
  if x.pass.isSome then .refused (.notEnabled "PASS_GRANT: a pass is in execution")
  else if s.slotStops qs then .refused (.notEnabled "PASS_GRANT: the slot is halting")
  else if !s.hasToken (qs / 4) then .refused (.notEnabled "PASS_GRANT: the cluster holds no power token")
  else if frame * 4096 + 4064 < s.now then .refused (.notEnabled "PASS_GRANT: the frame ends too soon")
  else
    match x.choose s.crewStops with
    | none => .refused (.notEnabled "PASS_GRANT: no entry is eligible")
    | some r =>
      .next (s.modEngine qs (fun x => { x.shrink (x.table.filter (fun o => o.age != r.age)) with pass := some (r, s.now + 32) }))

/-- The 4,096 elements of a pass (R203, R352): an element that depends on a row written in the window is open
(R204). -/
def SlotEng.passWrite (x : SlotEng) (c : Crew) (r : MmaReq) (ix : Nat) : SlotEng :=
  let p : PassArg := { a := r.a, b := r.b, fmt := r.fmt, blka := blkSize r.blka, blkb := blkSize r.blkb, mxa := r.mxa, mxb := r.mxb }
  { x with acc := (List.range 4096).foldl (fun acc i =>
      let m := i / 64
      let n := i % 64
      let key := 512 * (r.k + m / 8) + 64 * (m % 8) + n
      let old := if r.clr then 0#32 else NMap.getD acc key 0#32
      NMap.set acc key
        (if rowDirty r.dirty r.a p.blka m || rowDirty r.dirty r.b p.blkb n then Config.freeWord (ix + i)
         else c.passElem p m n old)) x.acc }

/-- `PASS_END` (R202): after 32 cycles the elements are written. -/
def execPassEnd (qs : Nat) (s : State) : Out :=
  match (s.engine qs).pass with
  | none => .refused (.notEnabled "PASS_END: no pass is in execution")
  | some (r, t) =>
    if s.now < t then .refused (.notEnabled "PASS_END: 32 cycles have not passed")
    else
      let crew := (s.group? r.q r.slot).bind (fun g => s.crew? r.q g)
      let s := { s with freeIx := s.freeIx + 4096 }
      .next (s.modEngine qs (fun x =>
        let x := match crew with
          | some c => x.passWrite c r (s.freeIx - 4096)
          | none => x
        { x with pass := none }))

/-- `POWER_TOKEN_FRAME` (R206, R276): the ring of a die goes into its next frame, with the setting in force there. -/
def execPowerTokenFrame (die : Nat) (s : State) : Out :=
  let ring := NMap.getD s.rings die (0, 8)
  if !s.powered then .refused (.notEnabled "POWER_TOKEN_FRAME: the device is not up")
  else if s.now / 4096 ≤ ring.1 then .refused (.notEnabled "POWER_TOKEN_FRAME: the frame has not ended")
  else .next { s with rings := NMap.set s.rings die (ring.1 + 1, s.tokensSet), gaps := NMap.set s.gaps die s.gapSet }

end Sys2Proof.Machine
end

