-- ==== Sys2Proof/Machine/Objects.lean ====
section
/-! DEFINITION. Custodian calls (R234, R323) and the basin's own calls of R235 to R238, `EXTMAP` (R240, R305), and the
pools of physical extents (R232). -/

namespace Sys2Proof.Machine

/-! ### Physical extents and pools (R231, R232) -/

/-- The extents of a channel (R231). -/
def channelExtents : Nat := 44346

/-- The channels of a basin, ascending (R247). -/
def Basin.channels (b : Basin) : List Nat :=
  ((List.range 64).filter (fun g => b.groups.contains g)).flatMap (fun g => (List.range 4).map (fun i => 4 * g + i))

/-- The lowest free extent of a channel. -/
def State.lowestFree (s : State) (chan : Nat) : Option Nat :=
  let n := (s.phys.filter (fun e => e.1 / 65536 == chan)).length
  ((List.range (n + 1)).find? (fun i => !NMap.has s.phys (physKey chan i))).filter (fun i => decide (i < channelExtents))

/-- The lowest free extent of a basin on a die. -/
def State.freeOnDie (s : State) (b die : Nat) : Option (Nat × Nat) :=
  ((s.basin b).channels.filter (fun c => c / 64 == die)).findSome? (fun c => (s.lowestFree c).map (fun i => (c, i)))

/-- The extent that a mapping takes (R240): on the preferred die, or else on the lowest-numbered die with one. -/
def State.pickExt (s : State) (b die : Nat) : Option (Nat × Nat) :=
  (die :: (List.range 4).filter (· != die)).findSome? (fun d => s.freeOnDie b d)

/-- The free extents of a basin's pool on a die. -/
def State.poolCount (s : State) (b die : Nat) : Nat :=
  let cs := (s.basin b).channels.filter (fun c => c / 64 == die)
  channelExtents * cs.length - (s.phys.filter (fun e => cs.contains (e.1 / 65536))).length

/-- Scrubs an extent (R232): its bytes are 0, its lines at version 0, its blocks elided. -/
def State.scrubExt (s : State) (k : Nat) : State :=
  { s with mem := s.mem.filter (fun e => e.1 / 65536 != k), lines := s.lines.filter (fun e => e.1 / 512 != k),
           blocks := s.blocks.filter (fun e => e.1 / 32 != k) }

/-- Maps an extent of an object at a physical extent, scrubbed, with its replicas (R107, R240). -/
def State.mapAt (s : State) (b obj ext : Nat) (p : Nat × Nat) (reps : List (Nat × Nat × Nat)) : State :=
  let k := extKey b obj ext
  let s := s.scrubExt k
  let s := { s with phys := (p :: reps.map (fun (r : Nat × Nat × Nat) => r.2)).foldl (fun m (x : Nat × Nat) =>
    NMap.set m (physKey x.1 x.2) (.mapped b obj ext)) s.phys }
  s.setExtent k { s.extent k with v := true, fp := false, pz := false, chan := p.1, idx := p.2, reps := reps, first := none }

/-- The die of the home slice of an extent's first line (R240). -/
def State.extDie (s : State) (b obj ext : Nat) : Nat := homeSlice (s.basin b) obj (512 * ext) / 16

/-- Maps one extent from the basin's pool; `none` where it is empty (R232, R240). -/
def State.mapExt (s : State) (b obj ext : Nat) : Option State :=
  (s.pickExt b (s.extDie b obj ext)).map (fun p => s.mapAt b obj ext p [])

/-- Maps one extent of a replicable object: a copy on each die (R107). -/
def State.mapRepl (s : State) (b obj ext : Nat) : Option State :=
  let ps := (List.range 4).map (fun d => (d, s.freeOnDie b d))
  if ps.all (fun e => e.2.isSome) then
    let reps : List (Nat × Nat × Nat) := ps.filterMap (fun e => e.2.map (fun p => (e.1, p)))
    match reps with
    | r :: _ => some (s.mapAt b obj ext r.2 reps)
    | [] => none
  else none

/-- Maps `n` extents of an object, in order. -/
def State.mapMany (s : State) (b obj n : Nat) (repl : Bool) : Option State :=
  (List.range n).foldl (fun acc i => acc.bind (fun s => if repl then s.mapRepl b obj i else s.mapExt b obj i)) (some s)

/-- Takes the mapping of an extent away: scrubbed, back in the pool, no entry (R232). -/
def State.unmapExt (s : State) (k : Nat) : State :=
  let e := s.extent k
  let s := if e.v then
      ((e.chan, e.idx) :: e.reps.map (fun r => r.2)).foldl (fun s p => s.freePhys p.1 p.2) (s.scrubExt k) else s
  { s with extents := NMap.erase s.extents k }

/-! ### `EXTMAP` (R240, R305) -/

/-- The mapping in one step at the entry's line; the status. -/
def State.extmap (s : State) (b obj ext : Nat) : State × Nat :=
  if (s.extent (extKey b obj ext)).v then (s, 3)
  else
    match s.mapExt b obj ext with
    | none => (s, 4)
    | some s => (s, 0)

/-- `EXTMAP` (R240, R305). -/
def execExtmap (d : BitVec 6) (cap : BitVec 8) (ofs : Word) (s : State) : Out :=
  runInstr s (.extmap d cap ofs) fun s q slot g =>
    if !g.handler then .trap (Trap.plain 0x13)
    else
      match capPair g cap with
      | none => .trap Trap.operand
      | some c =>
        let f : Int := (capOfs c : Int) + ofs.toInt
        match checkLane0 (s.basin g.basin) c f 1 1 Rights.none 0 0 with
        | .error t => .trap t
        | .ok () =>
          let r : State × Nat :=
            if capDev c ≠ devHere then (s, 3)
            else
              match NMap.get? (s.basin g.basin).objs (capObj c) with
              | none => (s, 3)
              | some o => if o.ft then s.extmap g.basin (capObj c) (f.toNat / 65536) else (s, 3)
          .next (r.1.modGroup q slot (fun h => h.setS d.toNat (BitVec.ofNat 32 r.2))) .none none

/-! ### `FWCALL` (R234, R323) -/

/-- The functions that the custodian knows (R235, R249). -/
def knownFn (fn : Nat) : Bool := (decide (1 ≤ fn) && decide (fn ≤ 0x0B)) || (decide (0x40 ≤ fn) && decide (fn ≤ 0x48))

/-- Hands a call to the custodian; an unknown function comes back with status 1. -/
def callBody (fn : Nat) (c : DWord) : Body := fun s q slot g =>
  if knownFn fn then
    .wait (s.modBasin g.basin (fun b => { b with calls := b.calls ++
      [{ fn := fn, fromGroup := some (g.owner q slot), block := c, held := none }] })) .call
  else .wait s (.status 1#32)

/-- `FWCALL` (R234, R323): a release, the call, the status, an acquire. -/
def execFwcall (d : BitVec 6) (cap : BitVec 8) (fn : BitVec 8) (s : State) : Out :=
  runInstr s (.fwcall d cap fn) fun s q slot g =>
    match capPair g cap with
    | none => .trap Trap.operand
    | some c =>
      if !g.handler then .trap (Trap.plain 0x13)
      else if g.inLoop then .trap (loopTrap s 3)
      else
        match g.wait with
        | .status w =>
          let h := g.setS d.toNat w
          .next ((s.setGroup q slot h).fence q slot h (.acq .dev)) .none none
        | .call => .wait s .call
        | _ =>
          match checkLane0 (s.basin g.basin) c (capOfs c) 64 64 Rights.rw 0 kindAtomResult with
          | .error t => .trap t
          | .ok () => fenceThen (.rel .dev) (callBody fn.toNat c) s q slot g

/-! ### Running a call -/

/-- The calls that a caller has outstanding: a basin, or 16 for physical function 0. -/
def State.callsOf (s : State) (caller : Nat) : List Call := if caller = 16 then s.pfCalls else (s.basin caller).calls

def State.setCalls (s : State) (caller : Nat) (cs : List Call) : State :=
  if caller = 16 then { s with pfCalls := cs } else s.modBasin caller (fun b => { b with calls := cs })

def State.winOf (s : State) (caller : Nat) : Window := if caller = 16 then s.pf else (s.basin caller).win

def State.modWin (s : State) (caller : Nat) (f : Window → Window) : State :=
  if caller = 16 then { s with pf := f s.pf } else s.modBasin caller (fun b => { b with win := f b.win })

/-- A number in a call block, little-endian. -/
def blk (bs : List Byte) (ofs n : Nat) : Nat := leNat ((bs.drop ofs).take n)

/-- What a request of the custodian or a distributor slice to a peer meets (R134, R270, R272): it waits for a credit on the port
of each line, and whether the answer is an error, or none comes in time, is open; none comes through a port that is down (R275). -/
def State.peerMeets (s : State) (b obj : Nat) (lines : List Nat) : Home :=
  if lines.any (fun l => s.downPorts.contains (peerPort obj l)) then .bad 3
  else if lines.all (fun l => (s.basin b).hasCredit (peerPort obj l)) then (if Config.freeBit s.freeIx then .bad 3 else .ok) else .wait

/-- What one line of an access of the custodian, a distributor slice, the host or a peer meets (R262, R323): a write of all its
bytes clears poison, and a write waits for pins and descents. The request comes from a die, under a number that says what it may pass. -/
def State.custLine (s : State) (id b obj a n : Nat) (write : Bool) (die l : Nat) : Home :=
  let whole := decide (a ≤ 128 * l) && decide (128 * l + 128 ≤ a + n)
  let x := s.line (lineKey b obj l)
  match s.homeMeets id b obj l (s.homeDie b obj l die) false false true with
  | .bad 1 => if write && whole then .ok else .bad 1
  | .ok => if write && (x.pin.isSome || !x.pend.isEmpty) then .wait else .ok
  | h => h

/-- Fills some lines of an object, each for a request from a die (R102, R106). -/
def State.fillLines (s : State) (b obj : Nat) (die : Nat → Nat) (lines : List Nat) : Option State :=
  lines.foldl (fun (acc : Option State) l => acc.bind (fun s => s.fillLine b obj l (s.homeDie b obj l (die l)))) (some s)

/-- A replicated extent is collapsed before a write of one of its lines (R108). -/
def State.collapseFor (s : State) (b obj line : Nat) : State :=
  if (s.extent (extKey b obj (line / 512))).reps.isEmpty then s
  else (s.collapse b obj (line / 512) none).count fieldCollapse

/-- The same before a write of some lines, then the fills of those lines, each for a request from a die (R102, R106, R108); `none` where a
fill waits. -/
def State.writeFills (s : State) (b obj : Nat) (die : Nat → Nat) (lines : List Nat) : Option State :=
  (lines.foldl (fun s l => s.collapseFor b obj l) s).fillLines b obj die lines

/-- What an access to some bytes of an object here meets, and whether the fills of its lines wait. -/
def State.hereMeets (s : State) (id b obj a n : Nat) (write : Bool) (die : Nat → Nat) : Home :=
  let lines := pieceLines [(a, n)]
  let ms := lines.map (fun l => s.custLine id b obj a n write (die l) l)
  let is (p : Home → Bool) : Option Home := ms.find? p
  ((is (fun h => h == .absent)) <|> (is (fun h => match h with | .bad _ => true | _ => false)) <|> (is (fun h => h == .wait))).getD
    (if (if write then s.writeFills b obj die lines else s.fillLines b obj die lines).isSome then .ok else .wait)

/-- What an access of the custodian, a distributor slice or the host to some bytes of a basin's object meets (R323): a read, or a write. Its
lines are filled as by any other access (R102, R106); those units are on die 0 (R7). -/
def State.accessMeets (s : State) (id b : Nat) (c : DWord) (n : Nat) (write : Bool) : Home :=
  if capDev c ≠ devHere then s.peerMeets b (capObj c) (pieceLines [(capOfs c, n)])
  else s.hereMeets id b (capObj c) (capOfs c) n write (fun _ => 0)

/-- The same for one that has no number. -/
def State.custMeets (s : State) (b : Nat) (c : DWord) (n : Nat) (write : Bool) : Home := s.accessMeets s.nextId b c n write

/-- The bytes that such a read gives: a peer's are open. -/
def State.custBytes (s : State) (b : Nat) (c : DWord) (n : Nat) : List Byte :=
  s.pieceBytes b (capDev c) (capObj c) (capOfs c) n
    (if capDev c = devHere then [] else (List.range n).map (fun i => (capOfs c + i, Config.freeByte (s.freeIx + 1 + i))))

/-- The state once such an access has been made: its lines filled, or a peer's answer used. -/
def State.custDone (s : State) (b : Nat) (c : DWord) (n : Nat) : State :=
  if capDev c = devHere then (s.fillLines b (capObj c) (fun _ => 0) (pieceLines [(capOfs c, n)])).getD s
  else { s with freeIx := s.freeIx + 1 + n }

/-- The error record of such an access that was answered with an error (R262, R272). -/
def State.custError (s : State) (b : Nat) (c : DWord) (reason : Nat) : State :=
  if reason = 3 then { s with freeIx := s.freeIx + 1 }.logErr 0x0A b 5 c 0#32 0xFFFFFF else s.homeError b (capObj c) (capOfs c) reason

/-- Write-class requests on some bytes of an object here, one a line, each from a die (R108, R167), with the lines filled. -/
def State.hereWrite (s : State) (b obj a : Nat) (bs : List Byte) (die : Nat → Nat) : State :=
  let ls := splitLines a bs
  ls.foldl (fun s l => s.performWrite b obj l.1 (s.homeDie b obj l.1 (die l.1)) l.2)
    ((s.writeFills b obj die (ls.map (fun l => l.1))).getD s)

/-- The custodian's write-class requests on some bytes, one a line (R323). -/
def State.custWrite (s : State) (b : Nat) (c : DWord) (bs : List Byte) : State :=
  if capDev c = devHere then s.hereWrite b (capObj c) (capOfs c) bs (fun _ => 0)
  else (splitLines (capOfs c) bs).foldl (fun s l => { s with outbox := s.outbox ++ [.peerStore b (capDev c) (capObj c) l.2] })
    (s.custDone b c bs.length)

/-- The end of a call (R234, R269, R323): outputs from +0x20 on where the status is 0, and the status to the group or
to the mailbox. -/
def State.callEnds (s : State) (caller : Nat) (c : Call) (status : Word) (out : List Byte) : State :=
  let s := s.setCalls caller ((s.callsOf caller).drop 1)
  match c.fromGroup with
  | some o =>
    let s := if status = 0#32 ∧ out ≠ [] then s.custWrite o.basin (capAt c.block (capOfs c.block + 0x20)) out else s
    s.modOwner o (fun g => if g.wait = .call then { g with wait := .status status } else g)
  | none =>
    let s := s.modWin caller (fun w => { w with
      mbox := if status = 0#32 then out.zipIdx.foldl (fun m e => NMap.set m (0x20 + e.2) e.1) w.mbox else w.mbox,
      mbstat := status, busy := false })
    { s with outbox := s.outbox ++ [.msix (if caller = 16 then 0 else caller + 1) 1] }

/-- What a call does: state, status, outputs; `none` while it must wait (R237). -/
abbrev CallFn := State → Call → List Byte → Option (State × Word × List Byte)

def callFail (s : State) (n : Nat) : Option (State × Word × List Byte) := some (s, BitVec.ofNat 32 n, [])
def callDone (s : State) (out : List Byte) : Option (State × Word × List Byte) := some (s, 0#32, out)

/-- The block of a call (R323, R269): as it was read before, once its line can be written again, or in the mailbox, or at the line that the group named, where it is read as
one state; `none` while that line is not at hand. -/
def State.callBlock (s : State) (caller : Nat) (c : Call) : Option (State × Except Nat (List Byte)) :=
  match c.held, c.fromGroup with
  | some bs, none => some (s, .ok bs)
  | some bs, some o =>
    if capDev c.block = devHere ∧ s.custMeets o.basin c.block 64 true = .wait then none else some (s, .ok bs)
  | none, none => some (s, .ok ((List.range 64).map (fun i => NMap.getD (s.winOf caller).mbox i 0#8)))
  | none, some o =>
    match s.custMeets o.basin c.block 64 true with
    | .ok => some (s.custDone o.basin c.block 64, .ok (s.custBytes o.basin c.block 64))
    | .bad n => some (s, .error n)
    | _ => none

/-- The block of the oldest call is read once for the whole call (R323). -/
def State.holdBlock (s : State) (caller : Nat) (bs : List Byte) : State :=
  match s.callsOf caller with
  | [] => s
  | c :: cs => s.setCalls caller ({ c with held := some bs } :: cs)

/-- The oldest call of a caller with its block, where that can be read now. -/
def State.callRead (s : State) (caller : Nat) : Option (State × Call × List Byte) :=
  match s.callsOf caller with
  | [] => none
  | c :: _ =>
    match s.callBlock caller c with
    | some (t, .ok bs) => some (t.holdBlock caller bs, c, bs)
    | _ => none

/-- Performs the oldest call of a caller (R323: one at a time, in order). -/
def runCall (what : String) (fn caller : Nat) (s : State) (f : CallFn) : Out :=
  match s.callsOf caller with
  | [] => .refused (.notEnabled (what ++ ": no call"))
  | c :: _ =>
    if c.fn ≠ fn then .refused (.notEnabled (what ++ ": another call is first"))
    else
      match s.callBlock caller c with
      | none => .refused (.notEnabled (what ++ ": the call block is not at hand"))
      | some (s, .ok bs) =>
        match f s c bs with
        | none => .refused (.notEnabled (what ++ ": the call waits"))
        | some (s, status, out) => .next (s.callEnds caller c status out).settle
      | some (s, .error n) =>
        match c.fromGroup with
        | none => .next s
        | some o =>
          let s := (s.custError o.basin c.block n).setCalls caller ((s.callsOf caller).drop 1)
          .next ((s.modOwner o (fun g => if g.wait = .call then { g with wait := .none } else g)).notify o
            (noticeOf 0x0A (BitVec.ofNat 32 n) 0#32 1#32 [(0, c.block)] (v122Of (capDev c.block != devHere) 0 kindAtomResult) true))

/-- A call of R235 through physical function 0, which has no basin: the spec states no status, and nothing changes. -/
def basinCall (caller : Nat) (f : CallFn) : CallFn := fun s c bs =>
  if caller = 16 then some ({ s with freeIx := s.freeIx + 1 }, Config.freeWord s.freeIx, []) else f s c bs

/-! ### Objects (R235 to R238) -/

/-- The quadrants of a basin drop their lookaside copies of an object (R230, R237). -/
def State.dropOlb (s : State) (b dev obj : Nat) : State :=
  { s with quads := s.quads.map (fun e => if e.2.basin = some b then
      (e.1, { e.2 with olb := e.2.olb.filter (· != (dev, obj)) }) else e) }

/-- Whether a valid descriptor may have these attributes (R228). -/
def ObjDesc.allowed (d : ObjDesc) : Bool := !(d.const && d.wr) && !(d.ft && (d.const || d.repl))

/-- A descriptor from the attribute bits of a call block, laid out as descriptor [7:1] (R227, R235). -/
def descOf (size bits : Nat) : ObjDesc :=
  { sizeM1 := size - 1, rd := bits.testBit 6, wr := bits.testBit 5, ex := bits.testBit 4, const := bits.testBit 3,
    repl := bits.testBit 2, ft := bits.testBit 1, list := 0 }

def ObjDesc.extents (d : ObjDesc) : Nat := (d.sizeM1 + 65536) / 65536

/-- Whether a basin holds slices and channels on every die (R107). -/
def Basin.allDies (b : Basin) : Bool :=
  (List.range 4).all (fun d => b.slices.any (fun k => k / 16 == d) && b.groups.any (fun g => g / 16 == d))

/-- The address of an extent list in the custodian's region (R227): a multiple of 64 that the spec leaves open. -/
def listAddr (ix : Nat) : Nat := 64 * (Config.freeNat ix % 2 ^ 34)

def State.addObj (s : State) (b obj : Nat) (d : ObjDesc) : State :=
  s.modBasin b (fun x => { x with objs := NMap.set x.objs obj d })

/-- The states that the memory port gives the first blocks of an object, whose bytes have been written behind the home slices
(R104, R235). -/
def State.storeBlocks (s : State) (b obj n : Nat) : State :=
  (List.range ((n + 2047) / 2048)).foldl (fun s i =>
    s.setBlock (blockKey b obj (16 * i)) { s.block (blockKey b obj (16 * i)) with comp := blockState (s.readBytes (memKey b obj (2048 * i)) 2048) }) s

/-- `OBJ_CREATE` (R235, R236). -/
def objCreateCall (caller : Nat) : CallFn := fun s _ bs =>
  let b := s.basin caller
  let obj := blk bs 0 8
  let size := blk bs 8 8
  let d := descOf size (blk bs 0x10 8)
  let img : DWord := BitVec.ofNat 64 (blk bs 0x18 8)
  let image := img != 0#64
  if 16382 < obj ∨ size = 0 ∨ 2 ^ 40 < size ∨ !d.allowed ∨ (image && d.ft) then callFail s 2
  else if image && (match checkAccess b img (capOfs img) size 1 Rights.r with | .ok () => false | .error _ => true) then callFail s 2
  else if NMap.has b.objs obj then callFail s 3
  else if d.repl && !b.allDies then callFail s 6
  else
    match (if image then s.custMeets caller img size false else .ok) with
    | .bad n => callFail (s.custError caller img n) 2
    | .absent | .wait => none
    | .ok =>
      let data := if image then s.custBytes caller img size else []
      let s := if image then s.custDone caller img size else s
      let s1 := { s.addObj caller obj { d with list := listAddr s.freeIx } with freeIx := s.freeIx + 1 }
      match (if d.ft then some s1 else s1.mapMany caller obj d.extents d.repl) with
      | none => callFail s 4
      | some s2 => callDone ((s2.writeBytes (memKey caller obj 0) data).storeBlocks caller obj data.length) (natBytes 8 (mkCap devHere obj 0).toNat)

def execObjCreate (caller : Nat) (s : State) : Out :=
  runCall "OBJ_CREATE" 0x01 caller s (basinCall caller (objCreateCall caller))

/-- Whether a copy works on an object of its basin, its checks made at issue (R237, R301). -/
def CopyJob.names (c : CopyJob) (b obj : Nat) : Bool :=
  c.owner.basin == b && !c.suspended && (match c.kind with
    | .copy dst src _ _ => (capDev dst == devHere && capObj dst == obj) || (capDev src == devHere && capObj src == obj)
    | _ => false)

/-- Whether a `VALSET` holds a pin on a line of an object (R175). -/
def Req.pinsIn (r : Req) (obj : Nat) : Bool :=
  match r.kind with
  | .valset w => w.pins.any (fun p => keyObj p.1 == obj)
  | _ => false

/-- Whether something that passed its checks against an object's descriptor has still to perform or to return
(R237, step 3): requests, a `VALSET` that is parked elsewhere and holds a pin of it, write-combining entries, byte copies, inbound
host writes, and what has been released from a park list. -/
def State.objBusy (s : State) (b obj : Nat) : Bool :=
  s.reqs.any (fun e => e.2.owner.basin == b && e.2.dev == devHere &&
    (((e.2.st == .held || e.2.st == .sent) && e.2.keys.any (fun k => keyObj k == obj)) || (e.2.st == .parked && e.2.pinsIn obj)))
  || s.quads.any (fun e => e.2.wc.any (fun w => w.owner.basin == b && w.obj == obj))
  || s.engines.any (fun e => e.2.copies.any (fun c => c.names b obj))
  || s.inbound.any (fun h => h.basin == b && h.obj == obj)
  || s.parks.any (fun p => p.freed && p.keys.any (fun k => keyBasin k == b && keyObj k == obj))

/-- An access from outside that is refused (R242): a peer's request is answered with an error, a host write is dropped, and a host read will
return the lines of the extent as poisoned (R267, R272). -/
def State.refuseOutside (s : State) (ext id : Nat) : State :=
  let is (p : Option Parked) : Bool := p.any (fun x => x.id == id)
  { s with
    inbound := s.inbound.filter (fun (h : HostWrite) => !is h.park),
    peerIn := s.peerIn.filter (fun (r : PeerReq) => !is r.park),
    outbox := s.outbox ++ (s.peerIn.filter (fun (r : PeerReq) => is r.park)).map (fun (r : PeerReq) => Sent.peerAnswer r.id 0#32 [] true),
    hostReads := s.hostReads.map (fun (h : HostRead) => if h.park.id = id then
      { h with refused := ext :: h.refused, park := { h.park with keys := [], freed := true } } else h) }.over id

/-- Answers everything parked on an extent with an error (R237, R242): requests, copies, accesses from outside, and a launch's completion
store. -/
def State.refuseParked (s : State) (k : Nat) : State :=
  let e := s.extent k
  let s := s.setExtent k { e with parked := [] }
  let s := e.parked.foldl (fun s id => match s.req? id with
    | some r => if r.kind.isProbe then (s.notify r.owner (r.dataError 2)).finish id else s.failReq id r 2
    | none => if s.parks.any (fun p => p.id == id) then s.refuseOutside k id else s) s
  let s := (s.copiesAt k).foldl (fun s c => s.modCopy c.owner c.id (fun d =>
    { d with parked := none, bad := d.parked.map (fun p => (2, p.2, firstIn 0 k)) })) s
  { s with basins := s.basins.map (fun e => (e.1, { e.2 with launches := e.2.launches.map (fun l =>
      if l.parked = some k then { l with parked := none, refused := true } else l) })) }

/-- The extent keys of an object. -/
def State.extKeysOf (s : State) (b obj : Nat) : List Nat :=
  (s.extents.filter (fun e => e.1 / 2 ^ 24 == b * 2 ^ 14 + obj)).map (fun e => e.1)

/-- Removes the importers' descriptors of an object at every peer (R237). -/
def State.unimport (s : State) (b obj : Nat) : State :=
  let mine := (s.basin b).exports.filter (fun x => x.obj == obj)
  let s := { s with outbox := s.outbox ++ mine.map (fun (x : Export) => Sent.unimport x.peer obj) }
  s.modBasin b (fun y => { y with exports := y.exports.filter (fun x => x.obj != obj) })

/-- The destruction of an object begins (R237, steps 1 and 2): no check passes any more, and what is parked is refused. -/
def State.beginDestroy (s : State) (b obj : Nat) : State :=
  let s := s.modBasin b (fun y => { y with objs := NMap.erase y.objs obj, dying := obj :: y.dying })
  let s := (s.dropOlb b devHere obj).unimport b obj
  (s.extKeysOf b obj).foldl (fun s k => s.refuseParked k) s

/-- The destruction of an object ends: its extents go back to the pool (R232, R237). -/
def State.endDestroy (s : State) (b obj : Nat) : State :=
  let s := s.modBasin b (fun y => { y with dying := y.dying.filter (· != obj) })
  (s.extKeysOf b obj).foldl (fun s k => s.unmapExt k) s

/-- `OBJ_DESTROY` (R235, R237): it returns once everything that has passed its checks against the object is over. -/
def objDestroyCall (caller : Nat) : CallFn := fun s _ bs =>
  let obj := blk bs 0 8
  if 16382 < obj then callFail s 2
  else if !s.objHere caller obj then callFail s 3
  else
    let s := if (s.basin caller).dying.contains obj then s else s.beginDestroy caller obj
    if s.objBusy caller obj then none else callDone (s.endDestroy caller obj) []

/-- The object of an OBJ_DESTROY that is first in line, that is there and has not begun to go; its block has been read. -/
def State.destroyStarts (s : State) (caller : Nat) : Option (State × Nat) :=
  match s.callRead caller with
  | none => none
  | some (t, c, bs) =>
    let obj := blk bs 0 8
    if c.fn = 0x02 ∧ caller < 16 ∧ obj ≤ 16382 ∧ NMap.has (s.basin caller).objs obj then some (t, obj) else none

/-- `OBJ_DESTROY`: a call that cannot return at once begins and waits (R237). -/
def execObjDestroy (caller : Nat) (s : State) : Out :=
  match s.destroyStarts caller with
  | some (t, obj) =>
    let t := t.beginDestroy caller obj
    if t.objBusy caller obj then .next t.settle else runCall "OBJ_DESTROY" 0x02 caller t (basinCall caller (objDestroyCall caller))
  | none => runCall "OBJ_DESTROY" 0x02 caller s (basinCall caller (objDestroyCall caller))

/-- The extent that a capability names in a local first-touch object, or the status (R235). -/
def State.ftTarget (s : State) (b : Nat) (c : DWord) : Except Nat Nat :=
  if capDev c ≠ devHere then .error 3
  else
    match NMap.get? (s.basin b).objs (capObj c) with
    | none => .error 3
    | some d =>
      if d.sizeM1 < capOfs c then .error 2
      else if !d.ft then .error 3 else .ok (capOfs c / 65536)

def blkCap (bs : List Byte) (ofs : Nat) : DWord := BitVec.ofNat 64 (blk bs ofs 8)

/-- `EXT_MAP` (R235): as `EXTMAP`. -/
def extMapCall (caller : Nat) : CallFn := fun s _ bs =>
  let c := blkCap bs 0
  match s.ftTarget caller c with
  | .error n => callFail s n
  | .ok x =>
    let r := s.extmap caller (capObj c) x
    if r.2 = 0 then callDone r.1 [] else callFail s r.2

def execExtMap (caller : Nat) (s : State) : Out :=
  runCall "EXT_MAP" 0x03 caller s (basinCall caller (extMapCall caller))

/-- Whether a line of a `COPY` above one of its writes has been written already: no fault may meet that write any more (R301; DESIGN CHOICE,
log 97). -/
def State.copyPast (s : State) (id : Nat) (r : Req) : Bool :=
  (s.engine (slotOf r.owner.q)).copies.any (fun c => c.writes.contains id && (match c.kind with
    | .copy dst .. =>
      let above := (c.writes.dropWhile (· != id)).drop 1
      decide ((above.filter (fun i => (s.req? i).any (fun o => o.st == .sent || o.st == .held))).length < (capOfs dst + c.sent - 1) / 128 - r.line)
    | _ => false))

/-- Whether something translated against a mapped entry has still to come back: a pin, a descent below, a collapse, a
monitor that has still to fire, what it has released and what has still to perform, a line of a `COPY` below one that is written (R237,
step 3; R241, R301). -/
def State.extBusy (s : State) (k : Nat) : Bool :=
  let e := s.extent k
  let on (ks : List Nat) : Bool := ks.any (fun x => x / 512 == k)
  e.first.isSome || !e.parked.isEmpty || s.copiesAt k != []
    || s.reqs.any (fun e => e.2.st == .sent && (on e.2.freed || (e.2.kind.isCopy && e.2.key / 512 == k && s.copyPast e.1 e.2)))
    || s.engines.any (fun e => e.2.copies.any (fun c => on c.freed))
    || s.parks.any (fun p => p.freed && on p.keys)
    || s.lines.any (fun l => l.1 / 512 == k && (l.2.pin.isSome || !l.2.pend.isEmpty))

/-- `EXT_UNMAP` (R235, R237). -/
def extUnmapCall (caller : Nat) : CallFn := fun s _ bs =>
  let c := blkCap bs 0
  match s.ftTarget caller c with
  | .error n => callFail s n
  | .ok x =>
    let k := extKey caller (capObj c) x
    if !(s.extent k).v then callFail s 3
    else if s.extBusy k then none
    else callDone (s.unmapExt k) []

def execExtUnmap (caller : Nat) (s : State) : Out :=
  runCall "EXT_UNMAP" 0x04 caller s (basinCall caller (extUnmapCall caller))

/-- `EXT_REFUSE` (R235, R242). -/
def extRefuseCall (caller : Nat) : CallFn := fun s _ bs =>
  let c := blkCap bs 0
  match s.ftTarget caller c with
  | .error n => callFail s n
  | .ok x =>
    let k := extKey caller (capObj c) x
    if (s.extent k).v then callFail s 3
    else callDone ((s.refuseParked k).unmapExt k) []

def execExtRefuse (caller : Nat) (s : State) : Out :=
  runCall "EXT_REFUSE" 0x05 caller s (basinCall caller (extRefuseCall caller))

/-- `OBJ_EXPORT` (R235): the rights are at most those of the object (R227). -/
def objExportCall (caller : Nat) : CallFn := fun s _ bs =>
  let obj := blk bs 0 8
  let peer := blk bs 8 8
  let rights := blk bs 0x10 8
  let b := s.basin caller
  if 16383 < obj ∨ 1022 < peer then callFail s 2
  else
    match NMap.get? b.objs obj with
    | none => callFail s 3
    | some d =>
      if !NMap.has b.peers peer then callFail s 3
      else
        let x : Export := { obj := obj, peer := peer, rd := rights.testBit 0 && d.rd, wr := rights.testBit 1 && d.wr }
        callDone (s.modBasin caller (fun y => { y with
          exports := y.exports.filter (fun e => !(e.obj == obj && e.peer == peer)) ++ [x] })) []

def execObjExport (caller : Nat) (s : State) : Out :=
  runCall "OBJ_EXPORT" 0x06 caller s (basinCall caller (objExportCall caller))

/-- `OBJ_IMPORT` (R235): whether the peer's custodian agrees, and the rights and the size it gives, are open. -/
def objImportCall (caller : Nat) : CallFn := fun s _ bs =>
  let peer := blk bs 0 8
  let obj := blk bs 8 8
  let b := s.basin caller
  let ix := s.freeIx
  if 1022 < peer ∨ 16383 < obj then callFail s 2
  else if !NMap.has b.peers peer ∨ b.imports.any (fun d => d.dev == peer && d.onum == obj) then callFail s 3
  else if 4096 ≤ b.imports.length then callFail s 8
  else if !Config.freeBit ix then callFail { s with freeIx := ix + 4 } 7
  else
    let d : ImportDesc := { dev := peer, onum := obj, rd := Config.freeBit (ix + 1), wr := Config.freeBit (ix + 2),
                            sizeM1 := Config.freeNat (ix + 3) % 2 ^ 40 }
    callDone ({ s with freeIx := ix + 4 }.modBasin caller (fun y => { y with imports := y.imports ++ [d] }))
      (natBytes 8 (mkCap peer obj 0).toNat)

def execObjImport (caller : Nat) (s : State) : Out :=
  runCall "OBJ_IMPORT" 0x07 caller s (basinCall caller (objImportCall caller))

/-- `SET_HANDLER` (R235, R243). -/
def setHandlerCall (caller : Nat) : CallFn := fun s _ bs =>
  let c := blkCap bs 0
  match (if capDev c = devHere then NMap.get? (s.basin caller).objs (capObj c) else none) with
  | none => callFail s 3
  | some d =>
    if !d.ex then callFail s 3
    else if d.sizeM1 < capOfs c ∨ capOfs c % 4 ≠ 0 then callFail s 2
    else callDone (s.modBasin caller (fun y => { y with handler := some c })) []

def execSetHandler (caller : Nat) (s : State) : Out :=
  runCall "SET_HANDLER" 0x08 caller s (basinCall caller (setHandlerCall caller))

/-- A local descriptor as OBJ_QUERY returns it, with LIST replaced by 0 (R227, R235). -/
def ObjDesc.image (d : ObjDesc) (obj : Nat) : Nat :=
  let bit (c : Bool) (i : Nat) : Nat := if c then 2 ^ i else 0
  d.sizeM1 * 2 ^ 136 + devHere * 2 ^ 122 + obj * 2 ^ 108 + 2 ^ 7 + bit d.rd 6 + bit d.wr 5 + bit d.ex 4 + bit d.const 3
    + bit d.repl 2 + bit d.ft 1

/-- `OBJ_QUERY` (R235). -/
def objQueryCall (caller : Nat) : CallFn := fun s _ bs =>
  let obj := blk bs 0 8
  if 16383 < obj then callFail s 2
  else
    match NMap.get? (s.basin caller).objs obj with
    | none => callFail s 3
    | some d => callDone s (natBytes 32 (d.image obj))

def execObjQuery (caller : Nat) (s : State) : Out :=
  runCall "OBJ_QUERY" 0x09 caller s (basinCall caller (objQueryCall caller))

/-- `POOL_QUERY` (R235). -/
def poolQueryCall (caller : Nat) : CallFn := fun s _ _ =>
  callDone s ((List.range 4).flatMap (fun d => natBytes 4 (s.poolCount caller d)))

def execPoolQuery (caller : Nat) (s : State) : Out :=
  runCall "POOL_QUERY" 0x0A caller s (basinCall caller (poolQueryCall caller))

/-! ### Attestation (R275) -/

/-- A set of numbers as a mask. -/
def setMask (l : List Nat) : Nat := l.foldl (fun a i => a ||| 2 ^ i) 0

/-- A number that stands for a basin's resource masks and its kind. -/
def Basin.resources (b : Basin) : Nat :=
  1 + (if b.sliced then 1 else 0) + 2 * (if b.control then 1 else 0) + 4 * setMask b.slices + 2 ^ 66 * setMask b.groups
    + 2 ^ 130 * setMask b.slots

/-- The attestation report (R275). Serial number, hashes and signature are open bytes. -/
def State.report (s : State) (caller : Nat) (nonce : List Byte) : List Byte :=
  let fixed (n k : Nat) : List Byte := (List.range k).map (fun i => Config.attestByte 0 (n + i))
  natBytes 4 1 ++ nonce ++ fixed 0 8 ++ fixed 8 48 ++ natBytes 4 (if caller = 16 then 0xFFFFFFFF else caller)
    ++ (List.range 48).map (fun i => Config.attestByte (if caller = 16 then 1 else 1 + (s.basin caller).resources) i)
    ++ (List.range 96).map (fun i => Config.freeByte (s.freeIx + i)) ++ List.replicate 32 0#8

/-- `ATTEST` (R235, R275): into an object of the basin, or through physical function 0 into host memory. -/
def attestCall (caller : Nat) : CallFn := fun s _ bs =>
  let c := blkCap bs 0x10
  let rep := s.report caller (bs.take 16)
  let s' := { s with freeIx := s.freeIx + 96 }
  if caller = 16 then
    if c.toNat % 256 ≠ 0 then callFail s 2 else callDone { s' with outbox := s'.outbox ++ [.hostWrite c rep] } []
  else
    match checkAccess (s.basin caller) c (capOfs c) 256 256 Rights.w with
    | .error _ => callFail s 2
    | .ok () =>
      match s.custMeets caller c 256 true with
      | .absent | .wait => none
      | .bad n => callFail (s.custError caller c n) 2
      | .ok => callDone (s'.custWrite caller c rep) []

def execAttest (caller : Nat) (s : State) : Out := runCall "ATTEST" 0x0B caller s (attestCall caller)

end Sys2Proof.Machine
end

