-- ==== Sys2Proof/Machine/Preempt.lean ====
section
/-! DEFINITION. The halt protocol (R52, R257, R258), restoring (R259), and what a halt leaves of a quadrant (R256). -/

namespace Sys2Proof.Machine

/-! ### When a group can be saved (R52, R257) -/

def CopyKind.isTstore : CopyKind → Bool
  | .tstore => true
  | _ => false

/-- Whether something that is waited for stands behind what a halt does not drain: a parked request, or a copy that issues no
more rows (R242, R257). `n` bounds the length of the chain. -/
def State.stuck (s : State) : Nat → Nat → Bool
  | 0, _ => false
  | n + 1, id =>
    (match s.req? id with
      | some r => r.st == .parked || (r.st != .performed && (r.holdFor ++ r.after).any (s.stuck n))
      | none => false)
    || s.quads.any (fun e => e.2.groups.any (fun p => p.2.orders.any (fun w => w.id == id)
        && ((p.2.orders.takeWhile (fun w => w.id != id)) ++ p.2.orders.filter (fun w => w.id == id)).any (fun w => w.waits.any (s.stuck n)))
      || e.2.banks.any (fun k => k.2.any (fun r => r.id == id && r.hold.any (s.stuck n))))
    || s.engines.any (fun e => e.2.copies.any (fun c => c.id == id))

/-- Whether a request has still to drain before its quadrant or its group is saved (R257). -/
def State.drains (s : State) (e : Nat × Req) : Bool :=
  e.2.kind.isPromote || (e.2.kind.writeClass && e.2.st != .parked && (e.2.st == .performed || !s.stuck s.nextId e.1))

/-- Whether a scratchpad request, or one of its group's before it on the word, waits behind something that does not drain. -/
def State.bankStuck (s : State) (rs : List BankReq) (r : BankReq) : Bool :=
  (rs.takeWhile (fun o => o.id != r.id) ++ [r]).any (fun o => o.slot == r.slot && o.word == r.word && o.hold.any (s.stuck s.nextId))

/-- Whether a copy is between rows (R257): no writes of it are out, and no row whose reads have returned is still to be
written. -/
def CopyJob.between (c : CopyJob) : Bool :=
  c.writes.isEmpty && !(c.kind.isTstore && c.done == 1)
    && (c.suspended || c.parked.isSome || c.bad.isSome || c.got.isEmpty || !c.asks.isEmpty)

/-- Whether a group stands at a jet boundary with its notices taken, its class V results in (R52), its scratchpad requests applied,
its writes acknowledged, its copies between rows, and no pass of it under way. A write that has still to enter its bank's queue and
waits behind a parked request is saved as it stands. -/
def State.groupQuiet (s : State) (q slot : Nat) (g : Group) : Bool :=
  let o := g.owner q slot
  let e := s.engine (slotOf q)
  g.jet.isNone && g.nextNotice.isNone && g.vflights.isEmpty && !g.wait.pending
    && (match s.quad? q with
        | some x => x.issuing != some slot && x.wc.all (fun w => w.owner != o)
          && x.banks.all (fun k => k.2.all (fun r => r.slot != slot || s.bankStuck k.2 r))
        | none => false)
    && s.reqs.all (fun r => r.2.owner != o || !s.drains r)
    && e.copies.all (fun c => c.owner != o || c.between)
    && (match e.pass with
        | some (p, _) => !(p.q == q && p.slot == slot)
        | none => true)

/-- Whether all of a quadrant is at rest: its groups, and the writes of groups that have gone (R257). -/
def State.quadQuiet (s : State) (q : Nat) (x : Quad) : Bool :=
  x.groups.all (fun e => s.groupQuiet q e.1 e.2) && x.wc.isEmpty && s.reqs.all (fun r => r.2.owner.q != q || !s.drains r)

/-! ### Replay packets (R242, R258, R259) -/

/-- A quadrant number that no quadrant has: whose abandoned requests to peers are. -/
def noQuad : Nat := 4096

/-- A request to a peer is abandoned: its credit comes back with the peer's response, which nobody takes (R258, R270). -/
def State.orphan (s : State) (r : Req) : State :=
  if r.dev = devHere ∨ r.st = .held then s
  else if r.st = .sent then
    { s with
      reqs := NMap.set s.reqs s.nextId { Req.new { r.owner with q := noQuad } .fetch r.dev r.obj r.line 0#32 [] false with
        st := .sent, sentAt := r.sentAt, ports := r.ports }, nextId := s.nextId + 1 }
  else s.regain r

/-- Removes an outstanding request and gives its replay packet: its result is abandoned. One that had left its quadrant keeps its place
behind what it followed, and the landing code of the level that it was bound for (R132, R258). -/
def State.abandon (s : State) (id : Nat) (r : Req) : State × Req :=
  let kind := match r.kind with
    | .valset w => ReqKind.valset { w with pins := [], firstPin := none, verdict := none, done := [] }
    | k => k
  let s := { s with
    reqs := NMap.erase s.reqs id,
    granted := s.granted.filter (fun u => u.2 != some id),
    lines := s.lines.map (fun (l : Nat × Line) => (l.1, { l.2 with
      pend := l.2.pend.filter (· != id), pin := l.2.pin.filter (· != id) })),
    extents := s.extents.map (fun (e : Nat × Extent) => (e.1, { e.2 with
      parked := e.2.parked.filter (· != id), first := e.2.first.filter (· != id) })) }
  (s.orphan r,
    { r with kind := kind, st := .held, version := 0#32, data := [], writes := [], ok := false, noFill := false, err := none,
             ports := [], fall := false, fullAt := none, freed := [], replay := true, again := r.again || r.st != .held })

/-- A read of a peer's memory for a copy is abandoned: the copy is at its row from the start. -/
def State.abandonFetch (s : State) (id : Nat) (r : Req) : State :=
  { s with reqs := NMap.erase s.reqs id }.orphan r |>.modEngine (slotOf r.owner.q) (fun x => { x with
    copies := x.copies.map (fun (c : CopyJob) => if c.asks.contains id then { c with asks := [], got := [] } else c) })

/-- Whether a request is that of an instruction which runs again from its start when its group is restored: a uniform read
(R342, R348, R393), or a place held in a park list. -/
def ReqKind.rerun : ReqKind → Bool
  | .load _ _ _ _ _ uni _ => uni
  | .probe .. => true
  | _ => false

/-- The group's own write-combining bytes that a read carries through a halt (R128): those whose entry is still parked. What has
performed it finds in memory (R132). -/
def State.keepsOverlay (s : State) (r : Req) : NMap Byte :=
  r.overlay.filter (fun b => s.reqs.any (fun e => e.2.owner == r.owner && e.2.dev == r.dev && e.2.stands && (match e.2.kind with
    | .store true bs => e.2.obj == r.obj && NMap.has bs b.1
    | _ => false)))

/-- Saves the outstanding requests for which a property holds, in the order of their issue. -/
def State.saveReads (s : State) (f : Req → Bool) : State × List (Nat × Req) :=
  (s.reqIds f).foldl (fun (acc : State × List (Nat × Req)) id =>
    match acc.1.req? id with
    | some r =>
      if r.kind = .fetch then (acc.1.abandonFetch id r, acc.2)
      else if r.kind.rerun then
        ((acc.1.abandon id r).1.modOwner r.owner (fun g => if g.wait = .request id then { g with wait := .none } else g), acc.2)
      else
        let x := acc.1.abandon id r
        (x.1, acc.2 ++ [(id, { x.2 with overlay := s.keepsOverlay r })])
    | none => acc) (s, [])

/-- Puts replay packets back, to be issued again. -/
def State.replay (s : State) (ps : List (Nat × Req)) : State := ps.foldl (fun s p => s.setReq p.1 p.2) s

/-! ### Saving and restoring a quadrant (R255 to R259) -/

/-- A scrubbed quadrant under its next generation tag, in the hands of a basin. -/
def Quad.scrubbed (x : Quad) (b : Option Nat) : Quad :=
  { Quad.init with basin := b, tag := x.tag + 1#32, cycle := x.cycle, halted := true }

/-- What is saved of a group: it stands at its instruction, and a `FENCE`, a `COLL`, and what waits for a condition or for its release run
again from their start (R298, R313, R342). It waits for no other group of its quadrant (R404), and no push of it has been
blocked yet. -/
def Group.toSave (g : Group) : Group :=
  { g with
    wait := match g.wait with
      | .coll .. | .stage _ | .until _ => .none
      | w => w
    orders := match g.wait with
      | .stage _ => []
      | _ => g.orders
    yieldFor := [], blockedSince := none }

/-- What is saved of a quadrant. -/
def Quad.toSave (x : Quad) : Quad :=
  { x with groups := x.groups.map (fun (e : Nat × Group) => (e.1, e.2.toSave)), issuing := none, gapLeft := 0, l1 := [], ro := [], wc := [], olb := [], halted := false }

/-- The basin that a halted quadrant of a basin passes to (R254): a shared slot to the basin whose turn comes. -/
def State.turnOf (s : State) (b : Nat) : Option Nat := if (s.basin b).sliced then s.turn.map (fun t => t.1) else some b

/-- Whether a quadrant's state is in a basin's saved contexts. -/
def State.isSaved (s : State) (b q : Nat) : Bool := s.saved.any (fun e => e.1 == b && e.2.quad == q)

/-- Once every quadrant of a slot is saved, its engine is saved too and the slot passes on whole (R10, R254, R255). -/
def State.passSlot (s : State) (b qs : Nat) : State :=
  if (s.quads.filter (fun e => slotOf e.1 == qs)).all (fun e => s.isSaved b e.1) then
    let x := s.engine qs
    let s := x.copies.foldl (fun s (c : CopyJob) => if c.parked.isSome then s.unpark c.id else s) s
    let e : SavedEng := { qs := qs, image := { x with copies := x.copies.map (fun (c : CopyJob) => { c with parked := none, freed := [] }) } }
    let next := s.turnOf b
    { s with
      savedEng := s.savedEng ++ [(b, e)], engines := NMap.erase s.engines qs,
      quads := s.quads.map (fun e => if slotOf e.1 = qs then (e.1, { e.2 with basin := next }) else e) }
  else s

/-- Halts a quadrant that is quiet (R257): it is scrubbed, and stays with its basin until its slot passes on. -/
def State.haltQuad (s : State) (q : Nat) (x : Quad) (b : Nat) : State :=
  let r := s.saveReads (fun r => r.owner.q == q)
  let sv : Saved := { quad := q, image := ((r.1.quad? q).getD x).toSave, replay := r.2 }
  let s := { r.1 with saved := r.1.saved ++ [(b, sv)] }
  (s.setQuad q (x.scrubbed (some b))).passSlot b (slotOf q)

/-- `HALT` (R257): a quadrant that was told to stop is saved once its groups have come to rest. -/
def execHalt (q : Nat) (s : State) : Out :=
  match s.quad? q with
  | none => .refused (.notEnabled "HALT: no quadrant")
  | some x =>
    match x.basin with
    | none => .refused (.notEnabled "HALT: no basin")
    | some b =>
      if !x.halted then .refused (.notEnabled "HALT: the quadrant was not told to stop")
      else if s.isSaved b q then .refused (.notEnabled "HALT: the quadrant is saved")
      else if !s.quadQuiet q x then .refused (.notEnabled "HALT: a group has still to come to rest")
      else .next (s.haltQuad q x b)

/-- A cycle of one quadrant's counter as a cycle of another's, or of the same one later, with the same wait up to now (R36); the
counters wrap. -/
def sinceOn (now old since : Nat) : Nat := (now + 2 ^ 64 - (old + 2 ^ 64 - since) % 2 ^ 64) % 2 ^ 64

/-- Tests every gate that a group of a quadrant waits at (R324). -/
def State.testGates (s : State) (q : Nat) : State :=
  match s.quad? q with
  | none => s
  | some x => x.groups.foldl (fun s (e : Nat × Group) => match e.2.wait with
      | .gate a _ false => s.sluice q e.2 (a / 8)
      | _ => s) s

/-- Loads a basin's saved state into a quadrant and its slot, issues the replay packets again (R259), and tests the gates afresh
(R324). Groups that were told to stop were ready for no `YIELD` meanwhile (R404). -/
def State.restoreQuad (s : State) (q : Nat) (x : Quad) (b : Nat) : State :=
  match s.saved.find? (fun e => e.1 == b && e.2.quad == q) with
  | none => s.setQuad q { x with halted := false,
                                 groups := x.groups.map (fun (e : Nat × Group) => (e.1, { e.2 with yieldFor := [] })) }
  | some (_, sv) =>
    let s := { s with saved := s.saved.filter (fun e => !(e.1 == b && e.2.quad == q)) }
    let groups := sv.image.groups.map (fun (e : Nat × Group) =>
      (e.1, { e.2 with waitSince := sinceOn x.cycle sv.image.cycle e.2.waitSince }))
    let s := s.setQuad q { sv.image with basin := some b, tag := x.tag, cycle := x.cycle, halted := false, groups := groups }
    let s := match s.savedEng.find? (fun e => e.1 == b && e.2.qs == slotOf q) with
      | none => s
      | some (_, en) =>
        { s.modEngine (slotOf q) (fun _ => en.image) with
          savedEng := s.savedEng.filter (fun e => !(e.1 == b && e.2.qs == slotOf q)) }
    ((s.replay sv.replay).settle).testGates q

/-- `RESTORE` (R259): the state comes back once the basin has the whole of its slots. -/
def execRestore (q : Nat) (s : State) : Out :=
  match s.quad? q with
  | none => .refused (.notEnabled "RESTORE: no quadrant")
  | some x =>
    match x.basin with
    | none => .refused (.notEnabled "RESTORE: no basin")
    | some b =>
      if !x.halted then .refused (.notEnabled "RESTORE: the quadrant runs")
      else if s.tripped then .refused (.notEnabled "RESTORE: a trip holds the device")
      else if (s.basin b).moving then .refused (.notEnabled "RESTORE: the basin is being moved")
      else if s.turnOf b ≠ some b then .refused (.notEnabled "RESTORE: the basin's turn is over")
      else if (s.basin b).sliced && s.quads.any (fun e => match e.2.basin with
          | some c => c != b && (s.basin c).sliced
          | none => false) then .refused (.notEnabled "RESTORE: another basin is not halted yet")
      else .next (s.restoreQuad q x b)

end Sys2Proof.Machine
end

