-- ==== Sys2Proof/Machine/Launch.lean ====
section
/-! DEFINITION. Launches (R15, R17, R22 to R34): `LAUNCH`, `SIGNAL`, the tail word, the distributor slice's steps,
placement and migration, completion and cascades, and the turns of time-sliced basins (R254). -/

namespace Sys2Proof.Machine

/-! ### The launch record (R22, R23) -/

/-- A launch record's fields. -/
structure LRec where
  reserved : Bool
  fmt : Nat
  cen : Bool
  den : Bool
  wen : Bool
  scr : Nat
  pb3 : Nat
  pb2 : Nat
  pb1 : Nat
  hgran : Nat
  vgran : Nat
  ceil : Nat
  prio : Nat
  cpg : Nat
  gpc : Nat
  gangs : Nat
  doneval : Word
  waitval : Word
  casc : DWord
  donesig : DWord
  waitsig : DWord
  args : DWord
  entry : DWord
  deriving DecidableEq, Repr

/-- The record that 64 bytes hold (R22). `reserved` says that a reserved bit is set. -/
def lrecOf (r : BitVec 512) : LRec :=
  let f (lo n : Nat) : Nat := (r.extractLsb' lo n).toNat
  { reserved := f 496 16 != 0 || f 483 5 != 0 || f 471 1 != 0 || f 463 1 != 0 || f 455 1 != 0 || f 444 4 != 0,
    fmt := f 488 8, cen := r.getLsbD 482, den := r.getLsbD 481, wen := r.getLsbD 480, scr := f 472 8, pb3 := f 464 7,
    pb2 := f 456 7, pb1 := f 448 7, hgran := f 441 3, vgran := f 437 4, ceil := f 431 6, prio := f 425 6, cpg := f 420 5,
    gpc := f 416 4, gangs := f 384 32, doneval := r.extractLsb' 352 32, waitval := r.extractLsb' 320 32,
    casc := r.extractLsb' 256 64, donesig := r.extractLsb' 192 64, waitsig := r.extractLsb' 128 64,
    args := r.extractLsb' 64 64, entry := r.extractLsb' 0 64 }

/-- What a crew needs of a quadrant (R30): groups, register bytes a group (R40), scratchpad KiB, the boundaries. -/
structure Shape where
  n : Nat
  regBytes : Nat
  scr : Nat
  pb1 : Nat
  pb2 : Nat
  pb3 : Nat
  deriving DecidableEq, Repr

def LRec.shape (r : LRec) : Shape :=
  { n := r.gpc + 1, regBytes := (r.vgran + 1) * 1024 + r.hgran * 2176, scr := r.scr, pb1 := r.pb1, pb2 := r.pb2, pb3 := r.pb3 }

/-- The boundaries' rules (R89). -/
def Shape.ok (h : Shape) : Bool :=
  decide (1 ≤ h.pb1) && decide (h.pb1 ≤ h.pb2) && decide (h.pb2 ≤ h.pb3) && decide (h.pb3 ≤ 85)
    && decide (h.n * h.regBytes ≤ h.pb1 * 4096) && decide (h.scr ≤ (h.pb2 - h.pb1) * 4)

/-- The crews of a shape that an empty quadrant holds. -/
def Shape.perQuad (h : Shape) : Nat :=
  min (min (16 / h.n) (h.pb1 * 4096 / (h.n * h.regBytes))) (if h.scr = 0 then 16 else (h.pb2 - h.pb1) * 4 / h.scr)

/-! ### Quadrant slots (R10, R247, R250) -/

/-- The cluster and index of a slot number (R247), where it is enabled. -/
def State.slotPlace (s : State) (n : Nat) : Option (Nat × Nat) :=
  ((s.dieSites (n / 48))[n % 48 / 4]?).map (fun c => (c, n % 4))

/-- The physical quadrants of a slot (R10, R12). -/
def slotQuadIds (p : Nat × Nat) : List Nat := (List.range 4).map (fun c => 16 * p.1 + 4 * c + p.2)

/-- The enabled slots. -/
def State.enabledSlots (s : State) : List Nat := (List.range 192).filter (fun n => (s.slotPlace n).isSome)

/-- The enabled slots that no fixed basin and not the control basin holds (R250). -/
def State.sharedSlots (s : State) : List Nat :=
  s.enabledSlots.filter (fun n => s.basins.all (fun b => !b.2.slots.contains n))

/-- The slots that a basin runs on, and their quadrants. -/
def State.slotsOf (s : State) (b : Nat) : List Nat := if (s.basin b).sliced then s.sharedSlots else (s.basin b).slots

def State.quadIds (s : State) (slots : List Nat) : List Nat :=
  slots.flatMap (fun n => match s.slotPlace n with
    | some p => slotQuadIds p
    | none => [])

/-! ### Records that are malformed (R23) -/

/-- Whether a capability passes R229 for an access of the slice. -/
def State.sliceMay (s : State) (b : Nat) (c : DWord) (n : Nat) (need : Rights) : Bool :=
  match checkAccess (s.basin b) c (capOfs c) n n need with
  | .ok () => true
  | .error _ => false

/-- Whether a record is well formed for a basin (R23). -/
def State.recordOk (s : State) (b : Nat) (r : LRec) : Bool :=
  r.fmt == 1 && !r.reserved && r.gangs != 0 && decide (r.prio ≤ 47) && decide (r.ceil ≤ 47) && decide (r.prio ≤ r.ceil)
    && decide (r.hgran ≤ 4) && r.shape.ok
    && decide (r.cpg + 1 ≤ r.shape.perQuad * (s.quadIds (s.slotsOf b)).length)
    && (!r.wen || s.sliceMay b r.waitsig 4 Rights.r) && (!r.den || s.sliceMay b r.donesig 4 Rights.w)
    && (!r.cen || s.sliceMay b r.casc 64 Rights.r)

/-! ### Wait signals (R26) -/

/-- Whether a wait signal holds: the word less WAITVAL is 0 or more. A word at a peer is open. While its line cannot be read (an
absent extent, a poisoned line or extent, an error at a peer) the signal counts as not holding, and the launch stays held
(DESIGN CHOICE, log 70). -/
def State.waitHolds (s : State) (b : Nat) (r : LRec) : Bool :=
  !r.wen ||
    (match s.custMeets b r.waitsig 4 false with
     | .ok =>
       let w : Word := if capDev r.waitsig = devHere then BitVec.ofNat 32 (s.objNum b (capObj r.waitsig) (capOfs r.waitsig) 4)
         else Config.freeWord s.freeIx
       !(w - r.waitval).msb
     | _ => false)

/-- The slice has read a wait signal; a read that is answered with an error leaves its record (R262, R272). -/
def State.waitRead (s : State) (b : Nat) (r : LRec) : State :=
  if !r.wen then s
  else
    match s.custMeets b r.waitsig 4 false with
    | .bad n => s.custError b r.waitsig n
    | _ => s

def Launch.fields (l : Launch) : LRec := lrecOf l.record

/-! ### The tail word and `LAUNCH` (R24, R268, R342) -/

/-- A host write of TAIL (R268). -/
def State.tailWrite (s : State) (b t : Nat) : State :=
  let w := (s.basin b).win
  let used := (w.tail + 2 ^ 16 - w.head) % 2 ^ 16
  if (t + 2 ^ 16 - w.tail) % 2 ^ 16 ≤ 2 ^ w.lqk - used then
    s.modBasin b (fun x => { x with win := { x.win with tail := t }, tailWaits := (s.inbound.filter (fun h => h.basin == b)).map (fun h => h.id) })
  else s.logErr 0x20 b 3 0#64 (BitVec.ofNat 32 (0x80000000 + t)) 0xFFFFFF

/-- `TAIL` (R268). -/
def execTail (b : Nat) (value : BitVec 32) (s : State) : Out :=
  if (s.basin b).phase ≠ .started then .refused (.notEnabled "TAIL: the window does not exist")
  else .next (s.tailWrite b (value.toNat % 2 ^ 16))

/-- The capability of a ring entry (R23, R24). -/
def Window.entry (w : Window) (i : Nat) : DWord := capAt w.lqbase ((capOfs w.lqbase : Int) + 64 * (i % 2 ^ w.lqk : Nat))

/-- Whether a basin's launch ring is full (R342, R268). -/
def Window.full (w : Window) : Bool := decide ((w.tail + 2 ^ 16 - w.head) % 2 ^ 16 = 2 ^ w.lqk)

/-- `LAUNCH` after its fence (R342): with room in the ring, the record is read at its home slice. -/
def launchBody (d : BitVec 6) (c : DWord) : Body := fun s q slot g =>
  if (s.basin g.basin).win.full then .next (s.modGroup q slot (fun h => h.setS d.toNat 0xFFFFFFFF#32)) .none none
  else
    let o := g.owner q slot
    let id := s.nextId
    let r := Req.new o (.load .ld 64 0 [(0, capOfs c)] .normal true false) (capDev c) (capObj c) (capOfs c / 128) 1#32 [] g.handler
    let s := s.modQuad q (fun y => y.olbTouch [(capDev c, capObj c)])
    .wait ((s.issueReq o r RelHold.none).modGroup q slot (fun h => { h with wait := .request id })).settle (.request id)

/-- The end of `LAUNCH`, with the record's words (R342): the copy into the ring, one write-class request, and the advance of TAIL are one
step. Where the ring's address fails its checks, or its line answers with an error, nothing is written (log 47). While the entry is
not at hand, or parks at an absent extent (R239), the `LAUNCH` waits, and then runs again. -/
def launchEnd (d : BitVec 6) (ws : List Word) : Body := fun s q slot g =>
  let b := g.basin
  let w := (s.basin b).win
  let c := w.entry w.tail
  let done (s : State) : Res :=
    .next ((s.modBasin b (fun x => { x with win := { x.win with tail := (w.tail + 1) % 2 ^ 16 } })).modGroup q slot
      (fun h => h.setS d.toNat (BitVec.ofNat 32 w.tail))) .none none
  if w.full then .next (s.modGroup q slot (fun h => h.setS d.toNat 0xFFFFFFFF#32)) .none none
  else if !s.sliceMay b c 64 Rights.w then done s
  else
    match s.custMeets b c 64 true with
    | .ok => done (s.custWrite b c (ws.flatMap (fun x => natBytes 4 x.toNat)))
    | .bad n => done (s.custError b c n)
    | .absent => absentStop s (g.owner q slot) c 64 kindStore g.handler
    | .wait => .wait s (.until (.atHand c 64 true))

/-- `LAUNCH` (R342). -/
def execLaunch (d : BitVec 6) (cap : BitVec 8) (s : State) : Out :=
  runInstr s (.launch d cap) fun s q slot g =>
    if g.inLoop then .trap (loopTrap s 3)
    else
      match capPair g cap with
      | none => .trap Trap.operand
      | some c =>
        match g.wait with
        | .answer ws => launchEnd d ws s q slot g
        | .request r => .wait s (.request r)
        | _ =>
          match checkLane0 (s.basin g.basin) c (capOfs c) 64 64 Rights.r 0 kindLoad with
          | .error t => .trap t
          | .ok () => relThen .dev (launchBody d c) s q slot g

/-- `SIGNAL` after its fence: the request goes out and the group waits for its acknowledgement (R382). -/
def signalBody (add : Bool) (c : DWord) (v : Word) : Body := fun s q slot g =>
  let o := g.owner q slot
  let id := s.nextId
  let r := Req.new o (.signal add v (capOfs c)) (capDev c) (capObj c) (capOfs c / 128) 1#32 [] g.handler
  let s := s.modQuad q (fun y => y.olbTouch [(capDev c, capObj c)])
  .wait ((s.issueReq o r RelHold.none).modGroup q slot (fun h => { h with wait := .request id })).settle (.request id)

/-- `SIGNAL` (R382). -/
def execSignal (add : Bool) (cap : BitVec 8) (value : USel) (s : State) : Out :=
  runInstr s (.signal add cap value) fun s q slot g =>
    if g.inLoop then .trap (loopTrap s 3)
    else
      match capPair g cap with
      | none => .trap Trap.operand
      | some c =>
        match g.wait with
        | .request r => .wait s (.request r)
        | .answer _ => .next s .none none
        | _ =>
          match checkLane0 (s.basin g.basin) c (capOfs c) 4 4 Rights.rw 2 kindAtomNone with
          | .error t => .trap t
          | .ok () => relThen .sys (signalBody add c (uAt g value)) s q slot g

/-! ### Acceptance (R17, R23 to R27) -/

/-- The physical extent that an error record names where an access was answered with an error (R23, R263). -/
def State.errExt (s : State) (b : Nat) (c : DWord) (reason : Nat) : Nat :=
  if reason = 1 ∨ reason = 4 then
    let e := s.extent (extKey b (capObj c) (capOfs c / 65536))
    e.chan * 65536 + e.idx
  else 0xFFFFFF

/-- A record as the slice reads it: its bits, or the physical extent of a read that fails (R23); `none` while it waits. -/
def State.readRecord (s : State) (b : Nat) (c : DWord) : Option (State × Except Nat (BitVec 512)) :=
  if !s.sliceMay b c 64 Rights.r then some (s, .error 0xFFFFFF)
  else
    match s.custMeets b c 64 false with
    | .wait => none
    | .absent => some (s, .error 0xFFFFFF)
    | .bad n => some (s.custError b c n, .error (s.errExt b c n))
    | .ok => some (s.custDone b c 64, .ok (BitVec.ofNat 512 (leNat (s.custBytes b c 64))))

/-- A record is discarded (R23). -/
def State.discard (s : State) (b : Nat) (c : DWord) (info : Word) (ext : Nat) : State := s.logErr 0x20 b 3 c info ext

/-- A launch just accepted. -/
def State.newLaunch (s : State) (b : Nat) (r : BitVec 512) (age : Nat) (cascade : Bool) : Launch :=
  { num := (s.basin b).nextLaunch, record := r, age := age, eligible := s.waitHolds b (lrecOf r), placed := 0, retired := 0,
    killed := false, complete := false, cascade := cascade, parked := none, refused := false }

/-- `LAUNCH_ACCEPT` (R24): the next record of the ring is accepted, held or discarded. -/
def execLaunchAccept (b : Nat) (s : State) : Out :=
  let x := s.basin b
  let w := x.win
  if x.phase ≠ .started ∨ !x.accepting then .refused (.notEnabled "LAUNCH_ACCEPT: the slice accepts no record")
  else if w.head = w.tail then .refused (.notEnabled "LAUNCH_ACCEPT: the ring is empty")
  else if (if s.granted.contains (.distributor b, none) then 33 else 32) ≤ x.launches.length then .refused (.notEnabled "LAUNCH_ACCEPT: 32 launches are not complete")
  else if x.tailWaits.any (fun id => s.inbound.any (fun h => h.id == id)) then
    .refused (.notEnabled "LAUNCH_ACCEPT: host writes before the tail write go first")
  else
    let c := w.entry w.head
    let i := BitVec.ofNat 32 (w.head % 2 ^ w.lqk)
    let step (s : State) : State := s.modBasin b (fun y => { y with win := { y.win with head := (w.head + 1) % 2 ^ 16 } })
    match s.readRecord b c with
    | none => .refused (.notEnabled "LAUNCH_ACCEPT: the record's line is held")
    | some (s, .error ext) => .next ((step s).discard b c i ext)
    | some (s, .ok r) =>
      if !s.recordOk b (lrecOf r) then .next ((step s).discard b c i 0xFFFFFF)
      else
        let l := s.newLaunch b r x.nextAge false
        .next (((step s).waitRead b (lrecOf r)).modBasin b (fun y => { y with
          launches := y.launches ++ [l], nextLaunch := y.nextLaunch + 1#32, nextAge := y.nextAge + 1 }))

def State.modLaunch (s : State) (b : Nat) (num : Word) (f : Launch → Launch) : State :=
  s.modBasin b (fun x => { x with launches := x.launches.map (fun l => if l.num = num then f l else l) })

def State.launch? (s : State) (b : Nat) (num : Word) : Option Launch := (s.basin b).launches.find? (fun l => l.num == num)

/-- `WAIT_SIGNAL_MONITOR` (R26): a held launch's signal is tested again and holds, or its read is answered with an error (R272). -/
def execWaitSignalMonitor (b : Nat) (launch : Word) (s : State) : Out :=
  match s.launch? b launch with
  | none => .refused (.notEnabled "WAIT_SIGNAL_MONITOR: no such launch")
  | some l =>
    if (s.basin b).phase ≠ .started then .refused (.notEnabled "WAIT_SIGNAL_MONITOR: the basin does not run")
    else if l.eligible ∨ l.killed ∨ l.complete then .refused (.notEnabled "WAIT_SIGNAL_MONITOR: the launch is not held")
    else if !s.waitHolds b l.fields then
      (if capDev l.fields.waitsig = devHere ∨ s.waitRead b l.fields = s then .refused (.notEnabled "WAIT_SIGNAL_MONITOR: the signal does not hold") else .next (s.waitRead b l.fields))
    else .next ({ s with freeIx := s.freeIx + 1 }.modLaunch b launch (fun l => { l with eligible := true }))

/-! ### Placement (R28 to R30, R42, R90) -/

/-- The lowest gap of a size below a limit among used stretches (first, past the last). -/
def firstGap (used : List (Nat × Nat)) (size limit : Nat) : Option Nat :=
  (0 :: used.map (fun u => u.2)).foldl (fun (best : Option Nat) c =>
    if c + size ≤ limit ∧ used.all (fun u => decide (c + size ≤ u.1) || decide (u.2 ≤ c)) then
      match best with
      | some a => some (min a c)
      | none => some c
    else best) none

/-- The register bytes in use: a group's until its resources are free (R32). -/
def Quad.usedRegs (x : Quad) : List (Nat × Nat) :=
  x.groups.filterMap (fun e => (x.crewOf? e.2).map (fun c =>
    (c.regBase + e.2.grp * c.regBytes, c.regBase + (e.2.grp + 1) * c.regBytes)))

/-- The scratchpad KiB in use: a crew's until its last group has retired (R32). -/
def Quad.usedScr (x : Quad) : List (Nat × Nat) :=
  (x.crews.filter (fun c => c.scr != 0 && x.groups.any (fun e => c.has e.2 && !e.2.retired))).map (fun c =>
    (c.scrBase, c.scrBase + c.scr))

/-- Where a crew of a shape fits: first slot, first register byte, first KiB of scratchpad (R30). Of several runs that are
free it takes the lowest of each (DESIGN CHOICE, log 69). A crew whose groups have all retired counts as resident for the boundaries until its
last slot is free (DESIGN CHOICE, log 93). -/
def Quad.fits (x : Quad) (h : Shape) : Option (Nat × Nat × Nat) :=
  if !x.crews.isEmpty && !(x.pb1 == h.pb1 && x.pb2 == h.pb2 && x.pb3 == h.pb3) then none
  else
    let slot := (List.range (17 - h.n)).find? (fun a => (List.range h.n).all (fun i => !NMap.has x.groups (a + i)))
    match slot, firstGap x.usedRegs (h.n * h.regBytes) (h.pb1 * 4096), firstGap x.usedScr h.scr ((h.pb2 - h.pb1) * 4) with
    | some a, some r, some p => some (a, r, p)
    | _, _, _ => none

/-- A new group (R30, R42). -/
def Group.start (b : Nat) (num : Word) (r : LRec) (gang crew grp cycle : Nat) : Group :=
  { basin := b, launch := num, gang := gang, crew := crew, grp := grp, gpc := r.gpc, cpg := r.cpg, gangs := r.gangs,
    vgran := r.vgran, hgran := r.hgran, prio := r.prio, ceil := r.ceil, code := r.entry, pc := capOfs r.entry,
    em := Mask.all, part := 5#32, v := [],
    s := NMap.set (NMap.set [] 0 (r.args.setWidth 32)) 1 (r.args.extractLsb' 32 32), p := [], h := [], t := [],
    landrec := landrecNone, status := 0#5, jetCount := 0#32, powerWait := 0#32, capturedHi := 0#32, stack := [], fwd := [],
    fwdGrant := false, ret := [], handler := false, frame := none, ofence := false, loop := none, loopM := 0, ageCount := 0,
    ageSteps := 0, waitSince := cycle, yieldFor := [], jet := none, vflights := [], score := [], flights := [],
    notices := [], wait := .none, orders := [], relReads := [], staging := none, mmDirty := [], mmNamed := [], mmSpoilt := [],
    retired := false, halted := false, blockedSince := none }

/-- Places a crew in a quadrant: its groups start, and its scratchpad reads 0 (R42, R90). -/
def Quad.placeCrew (x : Quad) (b : Nat) (num : Word) (r : LRec) (gang crew : Nat) (at_ : Nat × Nat × Nat) : Quad :=
  let h := r.shape
  let c : Crew :=
    { launch := num, gang := gang, crew := crew, prio := r.prio, firstSlot := at_.1, size := h.n, scr := h.scr,
      scrBase := at_.2.2, regBase := at_.2.1, regBytes := h.regBytes, sp := [], bars := [] }
  let x := { x with crews := x.crews ++ [c], pb1 := h.pb1, pb2 := h.pb2, pb3 := h.pb3 }
  (List.range h.n).foldl (fun x i => x.setGroup (at_.1 + i) (Group.start b num r gang crew i x.cycle)) x

/-- The quadrants of a basin that take crews, each with where the crew fits. -/
def State.fitting (s : State) (b : Nat) (h : Shape) : List (Nat × Nat × Nat × Nat × Nat) :=
  s.quads.filterMap (fun e =>
    if e.2.basin = some b ∧ e.2.halted = false then (e.2.fits h).map (fun p => (e.1, 16 - e.2.groups.length, p)) else none)

/-- The fitting quadrant with the fewest free slots, the lowest identifier first (R30). -/
def State.bestQuad (s : State) (b : Nat) (h : Shape) : Option (Nat × Nat × Nat × Nat) :=
  ((s.fitting b h).foldl (fun (best : Option (Nat × Nat × Nat × Nat × Nat)) e =>
    match best with
    | some o => if e.2.1 < o.2.1 then some e else some o
    | none => some e) none).map (fun e => (e.1, e.2.2))

/-- A quadrant that receives a crew invalidates its L1 data and read-only regions, fills on their way included (R33, R132). -/
def State.receives (s : State) (q : Nat) : State := (s.l1Invalidate q).roInvalidate q true true

/-- Places the crews of a gang in order (R29, R30); `none` where it does not fit whole. -/
def State.placeGang (s : State) (b : Nat) (num : Word) (r : LRec) (gang : Nat) : Option State :=
  (List.range (r.cpg + 1)).foldl (fun acc crew => acc.bind (fun s =>
    (s.bestQuad b r.shape).map (fun p => (s.receives p.1).modQuad p.1 (fun x => x.placeCrew b num r gang crew p.2)))) (some s)

/-- The launch of the first-ranked unplaced gang (R28). -/
def State.headLaunch (s : State) (b : Nat) : Option Launch :=
  ((s.basin b).launches.filter (fun l => l.eligible && !l.killed && !l.complete && decide (l.placed < l.fields.gangs))).foldl
    (fun (best : Option Launch) l =>
      match best with
      | some o => if o.fields.prio < l.fields.prio ∨ (o.fields.prio = l.fields.prio ∧ l.age < o.age) then some l else some o
      | none => some l) none

/-- The entries that a crew's halt has withdrawn from a slot's table, and the copies that it has saved, are posted again in their order,
behind those that have come since (R33, R205, R257). A waiting `ACQB` request keeps its place (R283). -/
def SlotEng.repost (x : SlotEng) (stopped : Nat → Nat → Bool) : SlotEng :=
  let back := x.table.filter (fun r => stopped r.q r.slot)
  let copies := x.copies.filter (fun c => stopped c.owner.q c.owner.slot)
  { x with
    table := x.table.filter (fun r => !stopped r.q r.slot) ++ back.zipIdx.map (fun e => { e.1 with age := x.nextAge + e.2 }),
    copies := x.copies.filter (fun c => !stopped c.owner.q c.owner.slot) ++ copies,
    nextAge := x.nextAge + back.length }

/-- Lets the groups of a basin go that a migration has stopped. -/
def State.unhalt (s : State) (b : Nat) : State :=
  let s := { s with engines := s.engines.map (fun (e : Nat × SlotEng) =>
    if s.allGroups.any (fun p => p.2.2.halted && p.2.2.basin == b && slotOf p.1 == e.1) then (e.1, e.2.repost (fun q slot => s.crewStops q slot)) else e) }
  { s with quads := s.quads.map (fun (e : Nat × Quad) => if e.2.basin = some b then
      (e.1, { e.2 with groups := e.2.groups.map (fun (p : Nat × Group) => (p.1, { p.2 with halted := false })) }) else e) }

/-- Whether a basin's slice may place and move crews now: it runs and none of its quadrants is halted. -/
def State.mayPlace (s : State) (b : Nat) : Bool :=
  (s.basin b).phase == .started && s.quads.all (fun e => e.2.basin != some b || !e.2.halted)

/-- `GANG_PLACEMENT` (R28 to R30): the first-ranked gang is placed whole. -/
def execGangPlacement (b : Nat) (s : State) : Out :=
  if !s.mayPlace b then .refused (.notEnabled "GANG_PLACEMENT: the basin does not run")
  else
    match s.headLaunch b with
    | none => .refused (.notEnabled "GANG_PLACEMENT: no gang is to be placed")
    | some l =>
      match s.placeGang b l.num l.fields l.placed with
      | none => .refused (.notEnabled "GANG_PLACEMENT: the gang does not fit")
      | some s1 =>
        let g : GangState := { launch := l.num, gang := l.placed, bars := [], retired := [] }
        let s1 := s1.modBasin b (fun x => { x with gangs := x.gangs ++ [g] })
        .next ((s1.modLaunch b l.num (fun l => { l with placed := l.placed + 1 })).unhalt b)

/-! ### Migration (R33) -/

/-- The group slots of a crew on a quadrant. -/
def Quad.crewGroups (x : Quad) (c : Crew) : List (Nat × Group) := x.groups.filter (fun e => c.has e.2)

/-- Whether a crew must stay in its quadrant slot (R33). -/
def State.crewBound (s : State) (q : Nat) (x : Quad) (c : Crew) : Bool :=
  let e := s.engine (slotOf q)
  (x.crewGroups c).any (fun p =>
    !(s.banksOf q p.1).isEmpty || !(s.mmas q p.1 p.2).isEmpty || e.acqq.any (fun a => a.1 == q && a.2.1 == p.1)
      || e.copies.any (fun j => j.owner == p.2.owner q p.1))

/-- The crews of a basin that may move, with their quadrants (R33): one whose groups have all retired and still hold slots is among them
(DESIGN CHOICE, log 93). -/
def State.movable (s : State) (b : Nat) : List (Nat × Crew) :=
  s.quads.flatMap (fun e => if e.2.basin = some b then
    (e.2.crews.filter (fun c => (e.2.crewGroups c).all (fun p => !p.2.handler))).map (fun c => (e.1, c)) else [])

/-- The places a crew may go to. -/
def State.destinations (s : State) (b q : Nat) (c : Crew) : List Nat :=
  match s.quad? q with
  | none => []
  | some x =>
    let bound := s.crewBound q x c
    (s.quadsOf b).filter (fun d => d != q && (!bound || slotOf d == slotOf q))

/-- Gives what is named by a quadrant and slot its new place. -/
def movePlace (q first n q2 first2 : Nat) (p : Nat × Nat) : Nat × Nat :=
  if p.1 = q ∧ first ≤ p.2 ∧ p.2 < first + n then (q2, first2 + (p.2 - first)) else p

def Owner.move (o : Owner) (f : Nat × Nat → Nat × Nat) : Owner := { o with q := (f (o.q, o.slot)).1, slot := (f (o.q, o.slot)).2 }

/-- Gives the entries of an engine their new places, in their order. -/
def SlotEng.move (x : SlotEng) (f : Nat × Nat → Nat × Nat) : SlotEng :=
  { x with
    holder := x.holder.map (fun (e : Nat × (Nat × Nat)) => (e.1, f e.2)),
    acqq := x.acqq.map (fun (a : Nat × Nat × Nat) => ((f (a.1, a.2.1)).1, (f (a.1, a.2.1)).2, a.2.2)),
    grant := x.grant.map f,
    table := x.table.map (fun (r : MmaReq) => { r with q := (f (r.q, r.slot)).1, slot := (f (r.q, r.slot)).2 }),
    copies := x.copies.map (fun (c : CopyJob) => { c with owner := c.owner.move f }) }

/-- The requests of a quadrant that are on their way go under its new tag, as if they were sent again: the groups that a migration does not
halt lose no result (R257, R258, R261; DEDUCED, log 94). -/
def State.retag (s : State) (q : Nat) (tag : Word) : State :=
  { s with reqs := s.reqs.map (fun e => if e.2.owner.q = q ∧ e.2.st ≠ .held then (e.1, { e.2 with tag := tag }) else e) }

/-- Moves a crew to another quadrant (R33): registers, queues, scratchpad and barriers go with it, what waits in bank queues
behind a parked request too, reads become replay packets, hazard entries are taken again (R259), and the destination's caches are
invalidated. -/
def State.moveCrew (s : State) (q : Nat) (c : Crew) (q2 : Nat) : Option State :=
  match s.quad? q, s.quad? q2 with
  | some x0, some y =>
    let sv := s.saveReads (fun r => r.owner.q == q && (x0.crewGroups c).any (fun e => r.owner == e.2.owner q e.1))
    let x := (sv.1.quad? q).getD x0
    let h : Shape := { n := c.size, regBytes := c.regBytes, scr := c.scr, pb1 := x.pb1, pb2 := x.pb2, pb3 := x.pb3 }
    match y.fits h with
    | none => none
    | some (a, r, p) =>
      let mine := x.crewGroups c
      let f := movePlace q c.firstSlot c.size q2 a
      let shift (g : Group) : Group :=
        { g.toSave with waitSince := sinceOn y.cycle x.cycle g.waitSince,
                        staging := g.staging.map (fun m => { m with q := (f (m.q, m.slot)).1, slot := (f (m.q, m.slot)).2 }) }
      let tag := x.tag + 1#32
      let x1 := { x with groups := x.groups.filter (fun e => !c.has e.2), crews := x.crews.filter (· != c), tag := tag,
                         hazards := x.hazards.filter (fun z => !mine.any (fun e => e.1 == z.slot)),
                         banks := x.banks.map (fun (k : Nat × List BankReq) => (k.1, k.2.filter (fun r => !mine.any (fun e => e.1 == r.slot)))) }
      let kept := (x.banks.flatMap (fun k => k.2)).filter (fun r => mine.any (fun e => e.1 == r.slot))
      let y1 := { y with pb1 := h.pb1, pb2 := h.pb2, pb3 := h.pb3,
                         crews := y.crews ++ [{ c with firstSlot := a, regBase := r, scrBase := p }] }
      let y1 := (x.hazards.filter (fun z => mine.any (fun e => e.1 == z.slot))).foldl (fun y z => y.takeHazard (f (q, z.slot)).2 z.line z.ids) y1
      let y1 := kept.foldl (fun y r => y.bankPush { r with slot := (f (q, r.slot)).2 }) y1
      let y1 := mine.foldl (fun y e => y.setGroup (f (q, e.1)).2 (shift e.2)) y1
      let s := ((sv.1.retag q tag).setQuad q x1).setQuad q2 y1
      let s := if slotOf q = slotOf q2 then s.modEngine (slotOf q) (fun e => e.move f) else s
      some ((s.receives q2).replay (sv.2.map (fun (e : Nat × Req) => (e.1, { e.2 with owner := e.2.owner.move f }))))
  | _, _ => none

/-- All choices of `k` elements, in order. -/
def choose {α : Type} : Nat → List α → List (List α)
  | 0, _ => [[]]
  | _ + 1, [] => []
  | k + 1, x :: xs => (choose k xs).map (fun l => x :: l) ++ choose (k + 1) xs

/-- All ways to choose one element of each list. -/
def product {α : Type} : List (List α) → List (List α)
  | [] => [[]]
  | l :: ls => l.flatMap (fun x => (product ls).map (fun r => x :: r))

/-- Lexicographic order of number lists. -/
def lexLt : List Nat → List Nat → Bool
  | [], [] => false
  | [], _ :: _ => true
  | _ :: _, [] => false
  | a :: l, b :: m => decide (a < b) || (a == b && lexLt l m)

/-- The place of a set of crews in the order of R33 among sets of its size: priorities, then quadrants, each compared as a
sorted list; between sets that agree in both the first in the order of quadrants and crews goes (DESIGN CHOICE, log 68). -/
def setKey (cs : List (Nat × Crew)) : List Nat :=
  (cs.map (fun e => e.2.prio)).mergeSort ++ (cs.map (fun e => e.1)).mergeSort

/-- Moves some crews, each to its destination. -/
def State.moveAll (s : State) (ms : List ((Nat × Crew) × Nat)) : Option State :=
  ms.foldl (fun acc m => acc.bind (fun s => s.moveCrew m.1.1 m.1.2 m.2)) (some s)

/-- The orders of a list of a given length. -/
def orders {α : Type} [DecidableEq α] : Nat → List α → List (List α)
  | 0, _ => [[]]
  | n + 1, l => l.flatMap (fun x => (orders n (l.erase x)).map (fun r => x :: r))

/-- The ways to move a set of crews, one after the other, that make the gang fit. -/
def State.moveWays (s : State) (b : Nat) (l : Launch) (cs : List (Nat × Crew)) : List (List ((Nat × Crew) × Nat)) :=
  ((orders cs.length cs).flatMap (fun cs => (product (cs.map (fun e => s.destinations b e.1 e.2))).map (fun ds => cs.zip ds))).filter
    (fun ms => ((s.moveAll ms).bind (fun t => t.placeGang b l.num l.fields l.placed)).isSome)

/-- The crews to move for the first-ranked gang, with their destinations (R33): as few as possible, then by priority,
then by quadrant; which of the ways that serve is open. -/
def State.migrationPlan (s : State) (b : Nat) (l : Launch) : Option (List ((Nat × Crew) × Nat)) :=
  let cs := s.movable b
  (List.range cs.length).findSome? (fun k =>
    let sets := (choose (k + 1) cs).filterMap (fun x =>
      let ws := s.moveWays b l x
      (ws[Config.freeNat (2 ^ 64 + b * 2 ^ 32 + l.num.toNat) % ws.length]?).map (fun w => (setKey x, w)))
    (sets.foldl (fun (best : Option (List Nat × List ((Nat × Crew) × Nat))) e =>
      match best with
      | some o => if lexLt e.1 o.1 then some e else some o
      | none => some e) none).map (fun e => e.2))

/-- Tells exactly the groups of some crews to stop at their next boundary; they are ready for no `YIELD` from then on (R404). -/
def State.haltCrews (s : State) (b : Nat) (cs : List (Nat × Crew)) : State :=
  { s with quads := s.quads.map (fun (e : Nat × Quad) => if e.2.basin = some b then
      let stops (g : Group) : Bool := cs.any (fun c => c.1 == e.1 && c.2.has g)
      (e.1, { e.2 with groups := e.2.groups.map (fun (p : Nat × Group) =>
        (p.1, { p.2 with halted := stops p.2, yieldFor := p.2.yieldFor.filter (fun o => !(NMap.get? e.2.groups o).any stops) })) }) else e) }

/-- `MIGRATION` (R33): the first crew that must move is stopped, and once it has come to rest it is moved; then the next. -/
def execMigration (b : Nat) (s : State) : Out :=
  let clear (why : String) : Out :=
    if s.unhalt b = s then .refused (.notEnabled why) else .next (s.unhalt b)
  if !s.mayPlace b then .refused (.notEnabled "MIGRATION: the basin does not run")
  else
    match s.headLaunch b with
    | none => clear "MIGRATION: no gang is to be placed"
    | some l =>
      if (s.placeGang b l.num l.fields l.placed).isSome then clear "MIGRATION: the gang fits"
      else
        match s.migrationPlan b l with
        | none | some [] => clear "MIGRATION: no set of crews makes room"
        | some (m :: _) =>
          let s1 := s.haltCrews b [m.1]
          if s1 ≠ s then .next s1
          else if (s.quad? m.1.1).any (fun x => (x.crewGroups m.1.2).all (fun p => s.groupQuiet m.1.1 p.1 p.2)) then
            match s.moveCrew m.1.1 m.1.2 m.2 with
            | some t => .next (t.unhalt b).settle
            | none => .refused (.notEnabled "MIGRATION: the crew does not fit")
          else .refused (.notEnabled "MIGRATION: the crew has still to come to rest")

/-! ### Retirement and completion (R26, R27, R31, R32) -/

/-- `GROUP_RESOURCES_FREE` (R32): the slot and the granules of a retired group are free; the slice keeps a gang's barriers while a group of it
is there, in a saved context too (R151). -/
def execGroupResourcesFree (q slot : Nat) (s : State) : Out :=
  match s.quad? q with
  | none => .refused (.notEnabled "GROUP_RESOURCES_FREE: no quadrant")
  | some x =>
    match NMap.get? x.groups slot with
    | none => .refused (.notEnabled "GROUP_RESOURCES_FREE: no group")
    | some g =>
      if !g.retired then .refused (.notEnabled "GROUP_RESOURCES_FREE: the group has not retired")
      else if !([Path.ld, .cst, .smp, .dsc, .cpy].all (fun p => g.counter p == 0)) then
        .refused (.notEnabled "GROUP_RESOURCES_FREE: reads are outstanding")
      else if !(x.bankIds slot).isEmpty then .refused (.notEnabled "GROUP_RESOURCES_FREE: a bank has still to serve it")
      else
        let x1 := { x with groups := NMap.erase x.groups slot }
        let x1 := { x1 with crews := x1.crews.filter (fun c => x1.groups.any (fun e => c.has e.2)) }
        let s := s.setQuad q x1
        let live := s.everyGroup.any (fun e => e.2.2.basin == g.basin && e.2.2.launch == g.launch && e.2.2.gang == g.gang)
        .next (if live then s else s.modBasin g.basin (fun b => { b with gangs := b.gangs.filter (fun y => !y.is g.launch g.gang) }))

/-- The groups of a launch that have been placed. -/
def Launch.groups (l : Launch) : Nat := l.placed * (l.fields.cpg + 1) * (l.fields.gpc + 1)

/-- Whether every write of a launch has been acknowledged (R15, R31). -/
def State.drained (s : State) (b : Nat) (num : Word) : Bool :=
  s.reqs.all (fun e => !(e.2.owner.basin == b && e.2.owner.launch == num && e.2.kind.writeClass))
    && s.quads.all (fun e => e.2.wc.all (fun w => !(w.owner.basin == b && w.owner.launch == num)))
    && s.engines.all (fun e => e.2.copies.all (fun c => !(c.owner.basin == b && c.owner.launch == num)))
    && s.savedEng.all (fun e => e.2.image.copies.all (fun c => !(c.owner.basin == b && c.owner.launch == num)))
    && s.saved.all (fun e => e.2.replay.all (fun p => !(p.2.owner.basin == b && p.2.owner.launch == num && p.2.kind.writeClass)))

/-- The reserve entries that have drained are free again (R50). -/
def State.freeGrants (s : State) : State :=
  { s with granted := s.granted.filter (fun (u : QueueRef × Option Nat) => match u.1 with
      | .distributor b => decide (32 < (s.basin b).launches.length)
      | .descent _ => true
      | _ => false) }

def State.endLaunch (s : State) (b : Nat) (num : Word) : State :=
  (s.modBasin b (fun x => { x with launches := x.launches.filter (fun l => l.num != num) })).freeGrants

/-- The end of a completion: the cascade is to be read, or the launch is over. -/
def State.afterStore (s : State) (b : Nat) (l : Launch) : State :=
  if l.fields.cen && !l.killed then s.modLaunch b l.num (fun l => { l with complete := true }) else s.endLaunch b l.num

/-- A completion store that faults (R26): the record, and no cascade. -/
def State.storeFault (s : State) (b : Nat) (l : Launch) (ext : Nat) : State :=
  (s.logErr 0x21 b 3 l.fields.donesig 0#32 ext).endLaunch b l.num

/-- The completion store of a launch (R26): DONEVAL to DONESIG. On an absent extent it parks (R239) until the extent is there
or refused (R242); an error response, a peer's included (R272), is a fault. -/
def State.completionStore (s : State) (b : Nat) (l : Launch) : Out :=
  let r := l.fields
  if l.refused ∨ !s.sliceMay b r.donesig 4 Rights.w then .next (s.storeFault b l 0xFFFFFF)
  else
    match s.custMeets b r.donesig 4 true with
    | .wait => .refused (.notEnabled "LAUNCH_COMPLETION: the signal's line is not at hand")
    | .absent =>
      let k := extKey b (capObj r.donesig) (capOfs r.donesig / 65536)
      if l.parked = some k then .refused (.notEnabled "LAUNCH_COMPLETION: the signal's extent is absent")
      else .next ((s.setExtent k { s.extent k with fp := true }).modLaunch b l.num (fun l => { l with parked := some k }))
    | .bad n => .next ((s.custError b r.donesig n).storeFault b l (s.errExt b r.donesig n))
    | .ok => .next ((s.custWrite b r.donesig (natBytes 4 r.doneval.toNat)).afterStore b l).settle

/-- `LAUNCH_COMPLETION` (R15, R26, R31): every group has retired and every acknowledgement has arrived. -/
def execLaunchCompletion (b : Nat) (launch : Word) (s : State) : Out :=
  match s.launch? b launch with
  | none => .refused (.notEnabled "LAUNCH_COMPLETION: no such launch")
  | some l =>
    if (s.basin b).phase ≠ .started ∨ l.complete then .refused (.notEnabled "LAUNCH_COMPLETION: the launch is not running")
    else if !l.killed && l.placed ≠ l.fields.gangs then .refused (.notEnabled "LAUNCH_COMPLETION: gangs are still to be placed")
    else if l.retired ≠ l.groups then .refused (.notEnabled "LAUNCH_COMPLETION: groups have still to retire")
    else if !s.drained b launch then .refused (.notEnabled "LAUNCH_COMPLETION: writes are not acknowledged")
    else if l.killed || !l.fields.den then .next (s.afterStore b l)
    else s.completionStore b l

/-- `CASCADE_READ` (R27): the record at CASC takes its predecessor's place. -/
def execCascadeRead (b : Nat) (launch : Word) (s : State) : Out :=
  match s.launch? b launch with
  | none => .refused (.notEnabled "CASCADE_READ: no such launch")
  | some l =>
    let c := l.fields.casc
    if (s.basin b).phase ≠ .started ∨ !l.complete then .refused (.notEnabled "CASCADE_READ: the launch is not complete")
    else
      match s.readRecord b c with
      | none => .refused (.notEnabled "CASCADE_READ: the record's line is held")
      | some (s, .error ext) => .next ((s.endLaunch b launch).discard b c 0xFFFFFFFF#32 ext)
      | some (s, .ok r) =>
        if !s.recordOk b (lrecOf r) then .next ((s.endLaunch b launch).discard b c 0xFFFFFFFF#32 0xFFFFFF)
        else
          let n := s.newLaunch b r l.age true
          .next ((s.waitRead b (lrecOf r)).modBasin b (fun x => { x with
            launches := x.launches.map (fun (y : Launch) => if y.num = launch then n else y), nextLaunch := x.nextLaunch + 1#32 }))

/-! ### Turns of time-sliced basins (R254) -/

/-- Whether a basin has work (R254). -/
def State.hasWork (s : State) (b : Nat) : Bool :=
  (s.basin b).launches.any (fun l => !l.complete && (if l.eligible then l.placed != l.fields.gangs && !l.killed || decide (l.retired < l.groups)
    else !l.killed && s.waitHolds b l.fields))

/-- The Started time-sliced basins, ascending. -/
def State.slicedBasins (s : State) : List Nat := (s.basins.filter (fun e => e.2.phase == .started && e.2.sliced)).map (fun e => e.1)

/-- The next basin with work after one, in ascending order around (R254). -/
def State.nextTurn (s : State) (b : Nat) : Option Nat :=
  let bs := s.slicedBasins
  ((bs.filter (fun c => decide (b < c))) ++ bs.filter (fun c => decide (c < b))).find? (fun c => s.hasWork c)

/-- Tells the quadrants of a basin to stop. -/
def State.stopQuads (s : State) (b : Nat) : State :=
  { s with quads := s.quads.map (fun (e : Nat × Quad) => if e.2.basin = some b then (e.1, { e.2 with halted := true }) else e) }

/-- A quadrant, or one that no basin has held yet: its cycle counter has run since its release from reset, a moment that
is not defined (R8). -/
def State.quadOr (s : State) (q : Nat) : Quad :=
  (s.quad? q).getD { Quad.init with cycle := s.now - Config.freeNat q % (s.now + 1) }

/-- The basin whose turn it is takes the shared quadrants that nobody holds (R250, R254); each waits for its `RESTORE`. -/
def State.claimShared (s : State) : State :=
  match s.turn with
  | none => s
  | some (b, _) => (s.quadIds s.sharedSlots).foldl (fun s q =>
      if (s.quadOr q).basin.isSome then s else s.setQuad q (Quad.scrubbed (s.quadOr q) (some b))) s

/-- Gives the turn to a basin (R254). -/
def State.giveTurn (s : State) (b : Nat) : State := { s with turn := some (b, s.custCycle) }.claimShared

/-- `QUANTUM_END` (R254): the switch to the next basin with work, or another quantum. -/
def execQuantumEnd (s : State) : Out :=
  if s.tripped then .refused (.notEnabled "QUANTUM_END: a trip holds the device")
  else
    match s.turn with
    | none =>
      match (s.nextTurn s.lastTurn).or (s.slicedBasins.find? (fun b => b == s.lastTurn && s.hasWork b)) with
      | some b => .next (s.giveTurn b)
      | none => .refused (.notEnabled "QUANTUM_END: no basin has work")
    | some (b, since) =>
      if s.custCycle < since + (s.basin b).quantum then .refused (.notEnabled "QUANTUM_END: the quantum has not ended")
      else if s.quads.any (fun e => e.2.halted && (match e.2.basin with
          | some c => (s.basin c).sliced
          | none => false)) then .refused (.notEnabled "QUANTUM_END: a switch is under way")
      else
        match s.nextTurn b with
        | none => .next (s.giveTurn b)
        | some n => .next ((s.stopQuads b).giveTurn n)

end Sys2Proof.Machine
end

