-- ==== Sys2Proof/Machine/Basins.lean ====
section
/-! DEFINITION. The hypervisor's calls (R248 to R253, R260, R271, R118): creating, starting, revoking, releasing and
moving basins, binding peers, and energy budgets; and the arrival of a moved basin. -/

namespace Sys2Proof.Machine

/-! ### Sources and inputs (R248) -/

/-- Whether a call may be a hypervisor call: physical function 0's mailbox, or a group of the control basin. -/
def State.hyper (s : State) (caller : Nat) (c : Call) : Bool := caller == 16 || ((s.basin caller).control && c.fromGroup.isSome)

/-- A hypervisor call: from any other source the status is 5. -/
def hyperCall (caller : Nat) (f : CallFn) : CallFn := fun s c bs => if s.hyper caller c then f s c bs else callFail s 5

/-- The numbers of a mask's set bits below `n`. -/
def maskSet (n m : Nat) : List Nat := (List.range n).filter (fun i => m.testBit i)

/-! ### Creating (R249, R250) -/

/-- Whether a channel group that no basin holds has an extent of a basin, which went there when its own was retired: it is not free, since
no channel is shared (R233, R247; log 12). -/
def State.lentGroup (s : State) (g : Nat) : Bool :=
  s.phys.any (fun e => e.1 / 65536 / 4 == g && (match e.2 with
    | .mapped .. => true
    | _ => false))

/-- `BASIN_CREATE` (R249). The channel groups of a stack that failed to train are not free (R275; DESIGN CHOICE, log 51). -/
def basinCreateCall (caller : Nat) : CallFn := fun s _ bs =>
  let b := blk bs 0 4
  let kind := blk bs 4 4
  let slices := maskSet 64 (blk bs 8 8)
  let groups := maskSet 64 (blk bs 0x10 8)
  let control := kind.testBit 8
  if 15 < b ∨ 1 < kind % 4 ∨ (control && caller != 16) ∨ slices = [] ∨ groups = [] then callFail s 2
  else if (s.basin b).phase ≠ .free then callFail s 3
  else if s.basins.any (fun e => slices.any (fun k => e.2.slices.contains k) || groups.any (fun k => e.2.groups.contains k)) then
    callFail s 3
  else if control && s.basins.any (fun e => e.2.control) then callFail s 3
  else if groups.any (fun k => s.downStacks.contains (k / 8) || s.lentGroup k) then callFail s 3
  else
    let x : Basin := { Basin.free with phase := .created, sliced := kind % 4 == 1, control := control, slices := slices, groups := groups }
    callDone (s.modBasin b (fun _ => x)) []

def execBasinCreate (caller : Nat) (s : State) : Out :=
  runCall "BASIN_CREATE" 0x40 caller s (hyperCall caller (basinCreateCall caller))

/-- `BASIN_SLOTS` (R249). -/
def basinSlotsCall : CallFn := fun s _ bs =>
  let b := blk bs 0 4
  let slots := maskSet 192 (blk bs 8 8 + 2 ^ 64 * blk bs 0x10 8 + 2 ^ 128 * blk bs 0x18 8)
  let x := s.basin b
  if 15 < b then callFail s 2
  else if x.phase ≠ .created ∨ x.sliced then callFail s 3
  else if s.basins.any (fun e => e.2.phase == .started && e.2.sliced) then callFail s 3
  else if !slots.all (fun n => s.sharedSlots.contains n) then callFail s 3
  else callDone (s.modBasin b (fun y => { y with slots := (List.range 192).filter (fun n => y.slots.contains n || slots.contains n) })) []

def execBasinSlots (caller : Nat) (s : State) : Out :=
  runCall "BASIN_SLOTS" 0x41 caller s (hyperCall caller basinSlotsCall)

/-! ### Starting (R249, R251, R255, R238, R117) -/

/-- The bucket word of a stack for a basin (R118). -/
def State.bucketWord (s : State) (b stack : Nat) : Nat :=
  (s.stackCfg stack).1 * 2 ^ 32 + (s.stackCfg stack).2 * 2 ^ 16 + (s.basin b).stackGroups stack

/-- The contents of the device configuration object (R238). -/
def State.configBytes (s : State) (b : Nat) : State :=
  let s := s.writeBytes (memKey b 16383 0) (natBytes 4 b)
  let s := (List.range 8).foldl (fun s k => s.writeBytes (memKey b 16383 (0x100 + 8 * k)) (natBytes 8 (s.bucketWord b k))) s
  s.storeBlocks b 16383 4096

/-- The descriptor of object 16,383 (R238). -/
def configDesc : ObjDesc :=
  { sizeM1 := 4095, rd := true, wr := false, ex := false, const := true, repl := false, ft := false, list := 0 }

/-- Gives an extent of the pool to the custodian. -/
def State.holdExt (s : State) (b : Nat) : Option State :=
  (s.pickExt b 0).map (fun p => { s with phys := NMap.set s.phys (physKey p.1 p.2) .custodian })

/-- Takes a time-sliced basin's context area from its pool: 72 extents a shared slot (R255). -/
def State.contextArea (s : State) (b n : Nat) : Option State :=
  (List.range n).foldl (fun acc _ => acc.bind (fun s => s.holdExt b)) (some s)

/-- Fills every share of a basin (R117). -/
def State.fillShares (s : State) (b : Nat) : State :=
  s.modBasin b (fun x => { x with shares := (List.range 8).filterMap (fun k =>
    if x.stackGroups k = 0 then none else some (k, s.shareCap b k)) })

/-- Puts quadrants of a basin there, scrubbed; `halted` where their state is still to be loaded. -/
def State.addQuads (s : State) (b : Nat) (halted : Bool) : State :=
  (s.quadIds (s.basin b).slots).foldl (fun s q =>
    s.setQuad q { Quad.scrubbed (s.quadOr q) (some b) with halted := halted || s.tripped }) s

/-- `BASIN_START` (R249). -/
def basinStartCall : CallFn := fun s _ bs =>
  let b := blk bs 0 4
  let quantum := blk bs 4 4
  let watchdog := blk bs 8 8
  let credits := blk bs 0x10 4
  let x := s.basin b
  let total := s.basins.foldl (fun n e => if e.2.phase = .started then n + e.2.credits else n) credits
  if 15 < b ∨ credits = 0 ∨ 32 < total then callFail s 2
  else if x.phase ≠ .created then callFail s 3
  else if x.sliced && (decide (quantum < 500000) || decide (500000000 < quantum)) then callFail s 2
  else if (if x.sliced then s.sharedSlots.isEmpty else x.slots.isEmpty) then callFail s 3
  else
    let s1 := s.modBasin b (fun y => { y with
      phase := .started, quantum := if y.sliced then quantum else 0, watchdog := watchdog, credits := credits,
      key := some s.keyDraws, accepting := true, objs := NMap.set [] 16383 { configDesc with list := listAddr s.freeIx } })
    match ({ s1 with keyDraws := s.keyDraws + 1, freeIx := s.freeIx + 1 }.contextArea b (if x.sliced then 72 * s.sharedSlots.length else 0)).bind (fun s => s.mapExt b 16383 0) with
    | none => callFail s 4
    | some s2 =>
      let s2 := (s2.configBytes b).fillShares b
      callDone (if x.sliced then s2 else s2.addQuads b false) (natBytes 4 (b + 1))

def execBasinStart (caller : Nat) (s : State) : Out :=
  runCall "BASIN_START" 0x42 caller s (hyperCall caller basinStartCall)

/-! ### Revoking and releasing (R252, R253) -/

/-- Forgets a basin's bytes, lines and blocks: its key is gone. -/
def State.forget (s : State) (b : Nat) : State :=
  { s with mem := s.mem.filter (fun e => e.1 / 2 ^ 54 != b), lines := s.lines.filter (fun e => e.1 / 2 ^ 47 != b),
           blocks := s.blocks.filter (fun e => e.1 / 2 ^ 43 != b) }

/-- After a basin has left the turn order (R252): if its turn had come, the order goes on after its number (R254), at once where another
basin's quadrants are still on their way out of the slots. -/
def State.mendTurn (s : State) (b : Nat) : State :=
  let holder := s.slicedBasins.find? (fun c => s.quads.any (fun e => e.2.basin == some c))
  match s.turn with
  | none => s
  | some (t, _) => if t ≠ b then s.claimShared else
      let s := { s with turn := none, lastTurn := b }
      match holder with
      | some c => s.giveTurn ((s.nextTurn b).getD c)
      | none => s

/-- Stops a basin at once (R252, steps 1 to 5): slice, key, quadrants, slices, importers. A host read that waits at an absent extent completes
with Completer Abort (R267). -/
def State.revoke (s : State) (b : Nat) : State :=
  let mine := (s.quads.filter (fun e => e.2.basin == some b)).map (fun e => e.1)
  let gone := s.reqIds (fun r => r.owner.basin == b) ++ (s.inbound.filter (fun h => h.basin == b)).map (fun h => h.id)
  let s := { s.forget b with
    quads := s.quads.map (fun (e : Nat × Quad) => if e.2.basin = some b then (e.1, e.2.scrubbed none) else e),
    engines := s.engines.filter (fun e => !mine.any (fun q => slotOf q == e.1)),
    reqs := s.reqs.filter (fun e => e.2.owner.basin != b),
    inbound := s.inbound.filter (fun h => h.basin != b),
    hostReads := s.hostReads.filter (fun h => h.basin != b),
    peerIn := s.peerIn.map (fun (r : PeerReq) => if r.basin = b then { r with park := none } else r),
    saved := s.saved.filter (fun e => e.1 != b), savedEng := s.savedEng.filter (fun e => e.1 != b),
    outbox := s.outbox ++ (s.basin b).exports.map (fun (x : Export) => Sent.unimport x.peer x.obj)
      ++ (s.hostReads.filter (fun h => h.basin == b)).map (fun _ => Sent.readDone b none) }
  let s := gone.foldl State.over s
  let s := s.modBasin b (fun x => { x with
    phase := .revoked, key := none, accepting := false, moving := false, launches := [], gangs := [], calls := [], colls := [],
    exports := [], spent := [], handler := none })
  s.mendTurn b

/-- `BASIN_REVOKE` (R252). -/
def basinRevokeCall : CallFn := fun s _ bs =>
  let b := blk bs 0 4
  if 15 < b then callFail s 2
  else if (s.basin b).phase ≠ .started then callFail s 3
  else callDone ((s.revoke b).logErr 0x24 b 4 0#64 0#32 0xFFFFFF) []

def execBasinRevoke (caller : Nat) (s : State) : Out :=
  runCall "BASIN_REVOKE" 0x43 caller s (hyperCall caller basinRevokeCall)

/-- `BASIN_RELEASE` (R249): channels are scrubbed, and every resource is free; a retired extent stays retired (R232). Error records held for
the basin's queue go with it (R264). Slots that become shared go to the time-sliced basins as they are, with no further extents for their
context areas (R255; DESIGN CHOICE, log 102). -/
def basinReleaseCall : CallFn := fun s _ bs =>
  let b := blk bs 0 4
  if 15 < b then callFail s 2
  else if (s.basin b).phase ≠ .revoked then callFail s 3
  else
    let cs := (s.basin b).channels
    let s := s.forget b
    let s := { s with
      phys := s.phys.filter (fun e => match e.2 with
        | .retired => true
        | .mapped x _ _ => x != b
        | .custodian => !cs.contains (e.1 / 65536)),
      errHeld := s.errHeld.filter (fun h => h.queue != b),
      extents := s.extents.filter (fun e => e.1 / 2 ^ 38 != b), basins := NMap.erase s.basins b }
    callDone s.claimShared []

def execBasinRelease (caller : Nat) (s : State) : Out :=
  runCall "BASIN_RELEASE" 0x44 caller s (hyperCall caller basinReleaseCall)

/-! ### Moving a basin (R260) -/

/-- Renames what is in a saved quadrant: places of quadrants, the basin's number, request numbers. -/
structure Rename where
  quad : List (Nat × Nat)
  fromB : Nat
  toB : Nat
  ids : Nat
  deriving DecidableEq, Repr

def Rename.q (m : Rename) (q : Nat) : Nat := ((m.quad.find? (fun e => e.1 == q)).map (fun e => e.2)).getD q

def Rename.owner (m : Rename) (o : Owner) : Owner := { o with q := m.q o.q, basin := m.toB }

/-- A line's key under the basin's new number. -/
def Rename.lineKey (m : Rename) (k : Nat) : Nat := if k / 2 ^ 47 = m.fromB then k - m.fromB * 2 ^ 47 + m.toB * 2 ^ 47 else k

def Rename.req (m : Rename) (r : Req) : Req :=
  { r with owner := m.owner r.owner, holdFor := r.holdFor.map (· + m.ids), after := r.after.map (· + m.ids),
           kind := match r.kind with
             | .valset w => .valset { w with lines := w.lines.map m.lineKey }
             | k => k }

/-- An extent's key under the basin's new number. -/
def Rename.extKey (m : Rename) (k : Nat) : Nat := if k / 2 ^ 38 = m.fromB then k - m.fromB * 2 ^ 38 + m.toB * 2 ^ 38 else k

def Rename.order (m : Rename) (o : Order) : Order := { o with id := o.id + m.ids, waits := o.waits.map (· + m.ids) }

def Rename.group (m : Rename) (g : Group) : Group :=
  { g with basin := m.toB,
           orders := g.orders.map m.order, relReads := g.relReads.map (· + m.ids),
           frame := g.frame.map (fun f => { f with orders := f.orders.map m.order, relReads := f.relReads.map (· + m.ids), since := f.since + m.ids }),
           notices := g.notices.map (fun (n : Notice) => { n with job := n.job.map (· + m.ids) }),
           wait := match g.wait with
             | .request r => .request (r + m.ids)
             | w => w,
           staging := g.staging.map (fun (r : MmaReq) => { r with q := m.q r.q }) }

def Rename.bankReq (m : Rename) (r : BankReq) : BankReq :=
  { r with id := r.id + m.ids, hold := r.hold.map (· + m.ids), op := match r.op with
      | .gate a n j => .gate a n (j + m.ids)
      | x => x }

def Rename.image (m : Rename) (x : Quad) : Quad :=
  { x with basin := some m.toB, groups := x.groups.map (fun (e : Nat × Group) => (e.1, m.group e.2)),
           banks := x.banks.map (fun (e : Nat × List BankReq) => (e.1, e.2.map m.bankReq)),
           hazards := x.hazards.map (fun (h : Hazard) => { h with line := h.line.map m.lineKey, ids := h.ids.map (· + m.ids) }) }

def Rename.saved (m : Rename) (s : Saved) : Saved :=
  { quad := m.q s.quad, image := m.image s.image,
    replay := s.replay.map (fun (e : Nat × Req) => (e.1 + m.ids, m.req e.2)) }

def Rename.copy (m : Rename) (c : CopyJob) : CopyJob :=
  { c with id := c.id + m.ids, owner := m.owner c.owner, after := c.after.map (· + m.ids),
           parked := c.parked.map (fun (p : Nat × Nat) => (m.extKey p.1, p.2)), freed := [] }

def Rename.engine (m : Rename) (x : SlotEng) : SlotEng :=
  { x with
    holder := x.holder.map (fun (e : Nat × (Nat × Nat)) => (e.1, (m.q e.2.1, e.2.2))),
    acqq := x.acqq.map (fun (a : Nat × Nat × Nat) => (m.q a.1, a.2)),
    table := x.table.map (fun (r : MmaReq) => { r with q := m.q r.q }),
    grant := x.grant.map (fun (u : Nat × Nat) => (m.q u.1, u.2)),
    copies := x.copies.map m.copy }

def Rename.launch (m : Rename) (l : Launch) : Launch := { l with parked := l.parked.map m.extKey }

/-- The numbering of an image's quadrants against a device's: place in the image, physical identifier. -/
def State.places (s : State) (slots : List Nat) : List (Nat × Nat) :=
  slots.zipIdx.flatMap (fun e => match s.slotPlace e.1 with
    | some p => (slotQuadIds p).zipIdx.map (fun x => (4 * e.2 + x.2, x.1))
    | none => [])

/-- Keys of one basin, without the basin's number; and with another's. -/
def stripKeys {α : Type} (m : NMap α) (b w : Nat) : NMap α :=
  (m.filter (fun (e : Nat × α) => e.1 / 2 ^ w == b)).map (fun (e : Nat × α) => (e.1 % 2 ^ w, e.2))

def addKeys {α : Type} (m t : NMap α) (b w : Nat) : NMap α := t.foldl (fun m (e : Nat × α) => NMap.set m (b * 2 ^ w + e.1) e.2) m

/-- What is carried of a halted basin (R260): its key never leaves the device (R251). -/
def State.toImage (s : State) (b target : Nat) : Image :=
  let pl := s.places (s.slotsOf b)
  let m : Rename := { quad := pl.map (fun e => (e.2, e.1)), fromB := b, toB := target, ids := 0 }
  let x := s.basin b
  { target := target, ids := s.nextId, slots := (s.slotsOf b).length, basin := { x with launches := x.launches.map m.launch, key := none }, mem := stripKeys s.mem b 54, lines := stripKeys s.lines b 47,
    blocks := stripKeys s.blocks b 43, extents := stripKeys s.extents b 38,
    quads := (s.saved.filter (fun e => e.1 == b)).map (fun e => m.saved e.2),
    engines := (s.savedEng.filter (fun e => e.1 == b)).filterMap (fun e =>
      ((s.slotsOf b).findIdx? (fun n => (s.slotPlace n).any (fun p => 4 * p.1 + p.2 == e.2.qs))).map (fun i =>
        { qs := i, image := m.engine e.2.image })) }

/-- Whether every quadrant that a basin runs on is saved. -/
def State.allSaved (s : State) (b : Nat) : Bool := s.quads.all (fun e => e.2.basin != some b || s.isSaved b e.1)

/-- `BASIN_MOVE` (R260). Whether the target agrees is open: it may answer 3, 4 or 7. The first step of the call halts
the basin, the last one sends it. -/
def basinMoveCall : CallFn := fun s _ bs =>
  let b := blk bs 0 4
  let peer := blk bs 4 4
  let target := blk bs 8 4
  let x := s.basin b
  if x.moving && decide (b ≤ 15) then
    if s.allSaved b && x.calls.all (fun c => c.fn == 0x45) then
      callDone ({ s with outbox := s.outbox ++ [Sent.moved peer (s.toImage b target)] }.revoke b) []
    else none
  else if 15 < b ∨ 1022 < peer ∨ 15 < target then callFail s 2
  else if x.phase ≠ .started ∨ x.exports ≠ [] ∨ x.imports ≠ [] ∨ !NMap.has x.peers peer then callFail s 3
  else
    match Config.freeNat s.freeIx % 4 with
    | 0 => none
    | 1 => callFail { s with freeIx := s.freeIx + 1 } 3
    | 2 => callFail { s with freeIx := s.freeIx + 1 } 4
    | _ => callFail { s with freeIx := s.freeIx + 1 } 7

/-- The basin of a BASIN_MOVE that is first in line and is to halt that basin first; its block has been read. -/
def State.moveBegins (s : State) (caller : Nat) : Option (State × Nat) :=
  match s.callRead caller with
  | none => none
  | some (t, c, bs) =>
    let b := blk bs 0 4
    let x := t.basin b
    if c.fn = 0x45 ∧ t.hyper caller c ∧ b ≤ 15 ∧ blk bs 4 4 ≤ 1022 ∧ blk bs 8 4 ≤ 15 ∧ x.moving = false ∧ x.phase = .started
      ∧ x.exports = [] ∧ x.imports = [] ∧ NMap.has x.peers (blk bs 4 4) ∧ Config.freeNat t.freeIx % 4 = 0 then some (t, b) else none

def execBasinMove (caller : Nat) (s : State) : Out :=
  match s.moveBegins caller with
  | some (t, b) => .next (({ t with freeIx := t.freeIx + 1 }.stopQuads b).modBasin b (fun x => { x with moving := true }))
  | none => runCall "BASIN_MOVE" 0x45 caller s (hyperCall caller basinMoveCall)

/-- Maps the extents of an image at their new homes (R260, step 4); `none` where the pool is short. -/
def State.mapImage (s : State) (b : Nat) (xs : NMap Extent) : Option State :=
  xs.foldl (fun acc (e : Nat × Extent) => acc.bind (fun s =>
    let obj := e.1 / 2 ^ 24
    let ext := e.1 % 2 ^ 24
    let k := extKey b obj ext
    if !e.2.v then some (s.setExtent k { e.2 with reps := [], first := none, parked := [] })
    else
      let p := if !e.2.reps.isEmpty && (s.basin b).allDies then s.mapRepl b obj ext else s.mapExt b obj ext
      p.map (fun s => s.setExtent k { s.extent k with fp := e.2.fp, pz := e.2.pz }))) (some s)

/-- Whether a basin can take an image (R260). -/
def State.takes (s : State) (im : Image) : Bool :=
  let x := s.basin im.target
  x.phase == .created && x.sliced == im.basin.sliced
    && decide (im.slots ≤ (s.slotsOf im.target).length) && im.quads.all (fun q => decide (q.quad < 4 * (s.slotsOf im.target).length))
    && im.engines.all (fun e => decide (e.qs < (s.slotsOf im.target).length))

/-- Loads an image into a basin whose extents are mapped. -/
def State.loadImage (s : State) (im : Image) : State :=
  let b := im.target
  let slots := s.slotsOf b
  let m : Rename := { quad := s.places slots, fromB := b, toB := b, ids := s.nextId }
  let s := { s with
    mem := im.mem.foldl (fun m (e : Nat × Byte) => memSet m (b * 2 ^ 54 + e.1) e.2) s.mem,
    lines := addKeys s.lines (im.lines.map (fun (e : Nat × Line) =>
      (e.1, { e.2 with res := 0#4, dirty := false, pin := none, pend := [] }))) b 47,
    blocks := addKeys s.blocks (im.blocks.map (fun (e : Nat × Block) => (e.1, { e.2 with msc := 0#4, newer := false }))) b 43,
    saved := s.saved ++ im.quads.map (fun q => (b, m.saved q)),
    savedEng := s.savedEng ++ im.engines.filterMap (fun (e : SavedEng) => ((slots[e.qs]?).bind s.slotPlace).map (fun (p : Nat × Nat) =>
      (b, SavedEng.mk (4 * p.1 + p.2) (m.engine e.image)))),
    nextId := s.nextId + im.ids }
  s.configBytes b

/-- The target of an image takes up what the basin was (R260): Started, under a new key, with its own resources. The
control window comes over whole (DESIGN CHOICE, log 103), and so do the credits, not checked against the target's ports (DESIGN CHOICE,
log 104). -/
def State.arrive (s : State) (ix : Nat) (im : Image) : State :=
  let y := s.basin im.target
  let x : Basin := { im.basin with
    phase := .started, sliced := y.sliced, control := y.control, slices := y.slices, groups := y.groups, slots := y.slots,
    objs := im.basin.objs.map (fun (e : Nat × ObjDesc) => (e.1, { e.2 with list := listAddr (s.freeIx + e.1) })),
    spent := [], dying := [], key := some s.keyDraws, peers := y.peers, calls := [], accepting := true, tailWaits := [], moving := false }
  { s with images := s.images.eraseIdx ix, keyDraws := s.keyDraws + 1, freeIx := s.freeIx + 16384 }.modBasin im.target (fun _ => x)

/-- The extents of an arriving basin, and the context area of a time-sliced one; `none` where the pool is short (R255, R260). -/
def State.imageRoom (s : State) (im : Image) : Option State :=
  (s.contextArea im.target (if (s.basin im.target).sliced then 72 * s.sharedSlots.length else 0)).bind
    (fun s => s.mapImage im.target im.extents)

/-- `RESTORE_ELSEWHERE` (R260): the arrival of a moved basin, which becomes Started with a new key; its quadrants are
restored one by one. -/
def execRestoreElsewhere (ix : Nat) (s : State) : Out :=
  match s.images[ix]? with
  | none => .refused (.notEnabled "RESTORE_ELSEWHERE: no basin has arrived")
  | some im =>
    if !s.takes im then .refused (.notEnabled "RESTORE_ELSEWHERE: the target does not fit")
    else
      match (s.arrive ix im).imageRoom im with
      | none => .refused (.notEnabled "RESTORE_ELSEWHERE: the pool is short")
      | some s2 =>
        let s2 := (s2.loadImage im).fillShares im.target
        .next (if (s2.basin im.target).sliced then s2 else s2.addQuads im.target true)

/-! ### Slots, peers, budgets (R249, R271, R118) -/

/-- `BASIN_SLOTQUERY` (R249). -/
def basinSlotqueryCall : CallFn := fun s _ _ => callDone s (natBytes 24 (setMask s.enabledSlots))

def execBasinSlotquery (caller : Nat) (s : State) : Out :=
  runCall "BASIN_SLOTQUERY" 0x46 caller s (hyperCall caller basinSlotqueryCall)

/-- `PEER_BIND` (R271): whether the two custodians' attestation succeeds is open. -/
def peerBindCall : CallFn := fun s _ bs =>
  let b := blk bs 0 4
  let peer := blk bs 4 4
  let dev := blk bs 8 4
  let at_ := blk bs 0xC 4
  let x := s.basin b
  if 15 < b ∨ 1022 < peer ∨ 1023 < dev ∨ 15 < at_ then callFail s 2
  else if (x.phase ≠ .created ∧ x.phase ≠ .started) ∨ NMap.has x.peers peer then callFail s 3
  else if !Config.freeBit s.freeIx then callFail { s with freeIx := s.freeIx + 1 } 7
  else callDone ({ s with freeIx := s.freeIx + 1 }.modBasin b (fun y => { y with peers := NMap.set y.peers peer (dev, at_) })) []

def execPeerBind (caller : Nat) (s : State) : Out := runCall "PEER_BIND" 0x47 caller s (hyperCall caller peerBindCall)

/-- CAP or RATE as the custodian accepts them (R118). -/
def budgetOk (n : Nat) : Bool := decide (n % 8 = 0) && decide (8 ≤ n) && decide (n ≤ 65528)

/-- `STACK_BUDGET` (R118): every share of the stack changes in one step, and the configuration objects say so, once their lines are at hand. -/
def stackBudgetCall : CallFn := fun s _ bs =>
  let k := blk bs 0 4
  let cap := blk bs 4 4
  let rate := blk bs 8 4
  if 7 < k ∨ !budgetOk cap ∨ !budgetOk rate then callFail s 2
  else
    let word (b : Nat) (s : State) : List Byte := natBytes 8 (s.bucketWord b k)
    let at_ : DWord := mkCap devHere 16383 (0x100 + 8 * k)
    let started := s.basins.filter (fun e => e.2.phase == .started)
    if started.any (fun e => s.custMeets e.1 at_ 8 true == .wait) then none
    else
    let s := { s with stackCaps := NMap.set s.stackCaps k (cap, rate) }
    let s := { s with basins := s.basins.map (fun (e : Nat × Basin) =>
      (e.1, { e.2 with shares := e.2.shares.map (fun (x : Nat × Nat) => if x.1 = k then (k, min x.2 (s.shareCap e.1 k)) else x) })) }
    callDone (started.foldl (fun s e => match s.custMeets e.1 at_ 8 true with
      | .bad n => s.custError e.1 at_ n
      | _ => s.custWrite e.1 at_ (word e.1 s)) s) []

def execStackBudget (caller : Nat) (s : State) : Out := runCall "STACK_BUDGET" 0x48 caller s (hyperCall caller stackBudgetCall)

end Sys2Proof.Machine
end

