-- ==== Sys2Proof/Machine/FloatInstr.lean ====
section
/-! DEFINITION. The class F float instructions: `FADD` to `FMAX` (R306 to R308, R316), `FFMA` (R314, R315), `FSETP`
(R318, R319), `FCVT` (R309 to R312), `FRND` (R317) and the packed family (R365, R366). -/

namespace Sys2Proof.Machine

/-- `FADD` (R306, R307). -/
def execFadd (nw : Bool) (d : BitVec 7) (a b : Sel) (s : State) : Out :=
  runInstr s (.fadd nw d a b) (laneBody nw d.toNat emMask [a, b] (fun _ _ xs => faddW (op1 xs) (op2 xs)))

/-- `FSUB` (R306, R307). -/
def execFsub (nw : Bool) (d : BitVec 7) (a b : Sel) (s : State) : Out :=
  runInstr s (.fsub nw d a b) (laneBody nw d.toNat emMask [a, b] (fun _ _ xs => fsubW (op1 xs) (op2 xs)))

/-- `FMUL` (R306, R307). -/
def execFmul (nw : Bool) (d : BitVec 7) (a b : Sel) (s : State) : Out :=
  runInstr s (.fmul nw d a b) (laneBody nw d.toNat emMask [a, b] (fun _ _ xs => fmulW (op1 xs) (op2 xs)))

/-- `FMIN` (R316). -/
def execFmin (nw : Bool) (d : BitVec 7) (a b : Sel) (s : State) : Out :=
  runInstr s (.fmin nw d a b) (laneBody nw d.toNat emMask [a, b] (fun _ _ xs => fminW (op1 xs) (op2 xs)))

/-- `FMAX` (R316). -/
def execFmax (nw : Bool) (d : BitVec 7) (a b : Sel) (s : State) : Out :=
  runInstr s (.fmax nw d a b) (laneBody nw d.toNat emMask [a, b] (fun _ _ xs => fmaxW (op1 xs) (op2 xs)))

/-- `FFMA` (R315). -/
def execFfma (nw : Bool) (g : Guard) (d : BitVec 7) (a b c : Sel) (s : State) : Out :=
  runInstr s (.ffma nw g d a b c)
    (laneBody nw d.toNat (fun x => guardMask x g) [a, b, c] (fun _ _ xs => ffmaW (op1 xs) (op2 xs) (op3 xs)))

/-- `FSETP` (R318, R319). -/
def execFsetp (nw : Bool) (g : Guard) (p : BitVec 3) (a b : Sel) (cmp : FCmp) (s : State) : Out :=
  runInstr s (.fsetp nw g p a b cmp)
    (predBody nw p.toNat (fun x => guardMask x g) [a, b] (fun xs => fcmpW cmp (op1 xs).toNat (op2 xs).toNat))

/-- `FCVT` (R311); with a 32-bit result there is no base operand. -/
def execFcvt (nw : Bool) (g : Guard) (d : BitVec 7) (a base : Sel) (sat : Bool) (rnd : Rnd) (di si : BitVec 3)
    (df sf : CvtFmt) (s : State) : Out :=
  runInstr s (.fcvt nw g d a base sat rnd di si df sf)
    (laneBody nw d.toNat (fun x => guardMask x g) (if df.width = 32 then [a] else [a, base])
      (fun _ _ xs => fcvtW sat rnd di.toNat si.toNat df sf (op1 xs) (op2 xs)))

/-- `FRND` (R317). -/
def execFrnd (nw : Bool) (g : Guard) (d : BitVec 7) (a : Sel) (rnd : Rnd) (s : State) : Out :=
  runInstr s (.frnd nw g d a rnd)
    (laneBody nw d.toNat (fun x => guardMask x g) [a] (fun _ _ xs => w32 (frndW rnd (op1 xs).toNat)))

/-- `PADD` (R365, R366). -/
def execPadd (nw : Bool) (g : Guard) (d : BitVec 7) (a b : Sel) (sat : Bool) (ty : PackTy) (s : State) : Out :=
  runInstr s (.padd nw g d a b sat ty)
    (laneBody nw d.toNat (fun x => guardMask x g) [a, b] (fun _ _ xs => paddW sat ty (op1 xs) (op2 xs)))

/-- `PMUL` (R365, R366). -/
def execPmul (nw : Bool) (g : Guard) (d : BitVec 7) (a b : Sel) (sat : Bool) (ty : PackTy) (s : State) : Out :=
  runInstr s (.pmul nw g d a b sat ty)
    (laneBody nw d.toNat (fun x => guardMask x g) [a, b] (fun _ _ xs => pmulW sat ty (op1 xs) (op2 xs)))

/-- `PFMA` (R365, R366). -/
def execPfma (nw : Bool) (g : Guard) (d : BitVec 7) (a b c : Sel) (sat : Bool) (ty : PackTy) (s : State) : Out :=
  runInstr s (.pfma nw g d a b c sat ty)
    (laneBody nw d.toNat (fun x => guardMask x g) [a, b, c]
      (fun _ _ xs => pfmaW sat ty (op1 xs) (op2 xs) (op3 xs)))

/-- `PMAX` (R365, R366). -/
def execPmax (nw : Bool) (g : Guard) (d : BitVec 7) (a b : Sel) (ty : PackTy) (s : State) : Out :=
  runInstr s (.pmax nw g d a b ty)
    (laneBody nw d.toNat (fun x => guardMask x g) [a, b] (fun _ _ xs => pminmaxW true ty (op1 xs) (op2 xs)))

/-- `PMIN` (R365, R366). -/
def execPmin (nw : Bool) (g : Guard) (d : BitVec 7) (a b : Sel) (ty : PackTy) (s : State) : Out :=
  runInstr s (.pmin nw g d a b ty)
    (laneBody nw d.toNat (fun x => guardMask x g) [a, b] (fun _ _ xs => pminmaxW false ty (op1 xs) (op2 xs)))

end Sys2Proof.Machine
end

