-- ==== Sys2Proof/Machine/HeadingMath.lean ====
section
/-! DEFINITION. Heading arithmetic (R207, R208, R212): components, norms, and the renormalisation of a vector of
integers scaled by a power of 2^(1/256). -/

namespace Sys2Proof.Machine

/-- Norm codes (R207). -/
def normZero : Half := 0x8000#16
def normStale : Half := 0x8001#16
def normSat : Half := 0x7FFF#16

/-- One tile's direction components as integers and its norm entry. -/
structure TileVec where
  dir : List Int
  norm : Half
  deriving DecidableEq, Repr

/-- The zero code with its components (R208). -/
def TileVec.zeros (n : Nat) : TileVec := { dir := List.replicate n 0, norm := normZero }

/-- The fraction bits of 2^(r/256). -/
def rootP : Nat := 512

/-- 2^(2^−k) with `rootP` fraction bits, by repeated square roots. -/
def rootTwo (k : Nat) : Nat := (List.range k).foldl (fun t _ => isqrt (t * 2 ^ rootP)) (2 ^ (rootP + 1))

/-- 2^(r/256) for 0 ≤ r < 256, with `rootP` fraction bits, rounded down at each step. -/
def pow256 (r : Nat) : Nat :=
  (List.range 8).foldl (fun t i => if r.testBit i then t * rootTwo (8 - i) / 2 ^ rootP else t) (2 ^ rootP)

/-- The sum of squares. -/
def sumSq (q : List Int) : Int := q.foldl (fun acc x => acc + x * x) 0

/-- The index of the component of greatest magnitude, the lowest among equals (R208). -/
def maxIx (q : List Int) : Nat :=
  (q.zipIdx.foldl (fun (b : Nat × Nat) e => if b.1 < e.1.natAbs then (e.1.natAbs, e.2) else b) (0, 0)).2

/-- The adjustment loop of R208: one unit at a time on the greatest component until the sum of squares is within 2^16
of 2^28. -/
def adjustDir : Nat → List Int → List Int
  | 0, q => q
  | fuel + 1, q =>
    let s := sumSq q
    if (s - 2 ^ 28).natAbs ≤ 2 ^ 16 then q
    else
      let j := maxIx q
      let x := q.getD j 0
      let d : Int := if s > 2 ^ 28 then (if 0 < x then -1 else 1) else (if 0 < x then 1 else -1)
      adjustDir fuel (q.set j (x + d))

/-- 2^14 × x / √s rounded to nearest even, s positive. -/
def unitComp (x : Int) (s : Nat) : Int :=
  let x2 := x.natAbs * x.natAbs * 2 ^ 28
  let f := isqrt (x2 / s)
  let lhs := 4 * x2
  let rhs := (2 * f + 1) * (2 * f + 1) * s
  let n := if rhs < lhs then f + 1 else if lhs = rhs then (if f % 2 = 0 then f else f + 1) else f
  if x < 0 then -(n : Int) else n

/-- 256 × log2 of the length of an integer vector, rounded to nearest, from the sum of its squares: no tie can arise,
because the sum's 256th power is an odd power of two for no integer. -/
def norm256 (s : Nat) : Int := ((Nat.log2 (s ^ 256) : Int) + 1) / 2

/-- The components of a non-zero integer vector's direction before the adjustment (R208). -/
def unitComps (x : List Int) : List Int := x.map (fun c => unitComp c (sumSq x).toNat)

/-- The direction of a non-zero integer vector (R208). -/
def unitDir (x : List Int) : List Int := adjustDir 4096 (unitComps x)

/-- `renorm` of R208 on x × 2^(k/256), x a vector of integers whose direction's components round to `q`: the tile and its flags. -/
def renormTo (x : List Int) (k : Int) (q : List Int) : TileVec × Flags :=
  let s := (sumSq x).toNat
  if s = 0 then (TileVec.zeros x.length, flNone)
  else
    let m := norm256 s + k
    if m < -32766 then (TileVec.zeros x.length, flUF)
    else if 32766 < m then ({ dir := adjustDir 4096 q, norm := normSat }, flOF)
    else ({ dir := adjustDir 4096 q, norm := BitVec.ofInt 16 m }, flNone)

/-- `renorm` of R208 on x × 2^(k/256), x a vector of integers. -/
def renorm (x : List Int) (k : Int) : TileVec × Flags := renormTo x k (unitComps x)

/-- Whether component a√2 + b of a vector of length √(P + Q√2) lies exactly at n/2 units of 2^−14: √2 is irrational, so that both parts of
the equation of the squares hold. -/
def rootTie (a b : Int) (P Q : Int) (n : Int) : Bool :=
  n * n * P == 2 ^ 30 * (2 * a * a + b * b) && n * n * Q == 2 ^ 30 * (2 * a * b)

/-- A component rounded to `q` from a fraction of √2, with a tie taken to the even neighbour (R208). -/
def rootEven (a b : Int) (P Q : Int) (q : Int) : Int :=
  if q % 2 = 0 then q else if rootTie a b P Q (2 * q - 1) then q - 1 else if rootTie a b P Q (2 * q + 1) then q + 1 else q

/-- The components of the direction of a√2 + b, whose ties are exact; `q` are those of its approximation. -/
def rootComps (a b q : List Int) : List Int :=
  let P := 2 * sumSq a + sumSq b
  let Q := 2 * (List.zipWith (fun x y => x * y) a b).foldl (fun acc x => acc + x) 0
  List.zipWith (fun (e : Int × Int) q => rootEven e.1 e.2 P Q q) (List.zip a b) q

/-- `renorm` with the saturated norm (R212); a zero vector is the zero code. OF either way (R326). -/
def renormSat (x : List Int) : TileVec × Flags :=
  if sumSq x = 0 then (TileVec.zeros x.length, flOF) else ({ dir := unitDir x, norm := normSat }, flOF)

/-- Dyadic numbers on one exponent: the integers and the exponent. -/
def alignDy (l : List Dy) : List Int × Int :=
  let e := l.foldl (fun acc d => if d.x = 0 then acc else min acc d.e) 0
  (l.map (fun d => if d.x = 0 then 0 else d.x * 2 ^ (d.e - e).toNat), e)

/-- `HCVT` on one tile (R212, R327). -/
def hcvtTile (xs : List Word) : TileVec × Flags :=
  let vs := xs.map (fun x => fDecode fF32 x.toNat)
  if vs.contains .nan then (TileVec.zeros xs.length, flNV)
  else if vs.any (fun v => match v with | .inf _ => true | _ => false) then
    renormSat (vs.map (fun v => match v with | .inf true => -1 | .inf false => 1 | _ => 0))
  else
    let (ints, e) := alignDy (vs.map (fun v => match v with | .fin s m e => dyOf s m e | _ => { x := 0, e := 0 }))
    renorm ints (256 * e)

/-- A norm entry as a number. -/
def normInt (h : Half) : Int := h.toInt

/-- `HADD` on one tile (R212, R326): directions are integers over 2^14, which shifts the norm by 14 × 256. A weight that is an odd power
of √2 is the one irrational weight with which a component can lie exactly between two values: those ties are taken exactly (log 54). -/
def haddTile (neg : Bool) (a b : TileVec) : TileVec × Flags :=
  let sgn : Int := if neg then -1 else 1
  let bs := b.dir.map (fun x => sgn * x)
  let add := fun (p q : List Int) => List.zipWith (fun x y => x + y) p q
  let zero : List Int := List.replicate a.dir.length 0
  if a.norm = normSat ∨ b.norm = normSat then
    renormSat (add (if a.norm = normSat then a.dir else zero) (if b.norm = normSat then bs else zero))
  else if a.norm = normZero ∧ b.norm = normZero then renorm zero 0
  else if a.norm = normZero then renorm bs (normInt b.norm - 3584)
  else if b.norm = normZero then renorm a.dir (normInt a.norm - 3584)
  else
    let d := normInt a.norm - normInt b.norm
    let (hi, lo, base) := if 0 ≤ d then (a.dir, bs, normInt b.norm) else (bs, a.dir, normInt a.norm)
    let d := d.natAbs
    let t := pow256 (d % 256) * 2 ^ (d / 256)
    let x := add (hi.map (fun x => x * t)) (lo.map (fun x => x * 2 ^ rootP))
    renormTo x (base - 3584 - 256 * rootP)
      (if d % 256 = 128 then rootComps (hi.map (fun x => x * 2 ^ (d / 256))) lo (unitComps x) else unitComps x)

/-- `HSCL` on one tile (R212, R332). -/
def hsclTile (neg : Bool) (a : TileVec) (f : Word) : TileVec × Flags :=
  let dir := if neg then a.dir.map (fun x => -x) else a.dir
  let zeros := TileVec.zeros a.dir.length
  if a.norm = normZero then (zeros, flNone)
  else
    match fDecode fF32 f.toNat with
    | .nan => (zeros, flNV)
    | v =>
      if a.norm = normSat then ({ dir := dir, norm := normSat }, flNone)
      else
        match v with
        | .nan => (zeros, flNV)
        | .inf true => (zeros, flUF)
        | .inf false => ({ dir := dir, norm := normSat }, flOF)
        | .fin s m e =>
          let n := (roundAt .rn s m (e + 8) 0).1
          let r := normInt a.norm + (if s then -(n : Int) else n)
          if 32766 < r then ({ dir := dir, norm := normSat }, flOF)
          else if r < -32766 then (zeros, flUF)
          else ({ dir := dir, norm := BitVec.ofInt 16 r }, flNone)

/-- `HDOT` on one tile (R212, R328): exact, clamped to [−1, 1], rounded once. -/
def hdotTile (a b : List Int) : Word :=
  let s := (List.zipWith (fun x y => x * y) a b).foldl (fun acc x => acc + x) 0
  let s := if 2 ^ 28 < s then 2 ^ 28 else if s < -(2 ^ 28) then -(2 ^ 28) else s
  BitVec.ofNat 32 (fRoundDy fF32 .rn false false { x := s, e := -28 }).1

/-- `HEXP` on one component (R212, R329). -/
def hexpComp (norm : Half) (c : Int) : Word × Flags :=
  if norm = normZero then (0#32, flNone)
  else if norm = normSat then
    (if c = 0 then 0#32 else BitVec.ofNat 32 (fF32.signBit (decide (c < 0)) + fF32.infPat), flOF)
  else if c = 0 then (0#32, flNone)
  else
    let n := normInt norm
    let r := (n % 256).toNat
    let k := n / 256
    if r = 0 then w32 (fRound fF32 .rn false (decide (c < 0)) c.natAbs (k - 14))
    else w32 (fRound fF32 .rn false (decide (c < 0)) (2 * (c.natAbs * pow256 r) + 1) (k - 15 - rootP))

/-- `HNRM` (R212, R331). -/
def hnrmW (norm : Half) : Word :=
  if norm = normZero then BitVec.ofNat 32 (0x80000000 + fF32.infPat)
  else if norm = normSat then BitVec.ofNat 32 fF32.infPat
  else BitVec.ofNat 32 (fRoundDy fF32 .rn false false { x := normInt norm, e := -8 }).1

end Sys2Proof.Machine
end

