-- ==== Sys2Proof/Machine/HeadingInstr.lean ====
section
/-! DEFINITION. The heading instructions (R207 to R212, R325 to R332): operand rules, tile shape and staleness, and
the instructions `HMOV`, `HCVT`, `HEXP`, `HDOT`, `HADD`, `HSCL` and `HNRM`. -/

namespace Sys2Proof.Machine

/-- The tiles of a width. -/
def tilesOf (w : Nat) : List Nat := List.range (32 / w)

/-- The lanes of a tile as a mask. -/
def tileMask (w t : Nat) : Mask := maskOf (fun l => l / w == t)

/-- The lanes of several tiles. -/
def tilesMask (w : Nat) (ts : List Nat) : Mask := maskOf (fun l => ts.contains (l / w))

/-- The tiles all of whose lanes take part. -/
def wholeTiles (w : Nat) (m : Mask) : List Nat := (tilesOf w).filter (fun t => m &&& tileMask w t == tileMask w t)

/-- The tiles only some of whose lanes take part. -/
def partTiles (w : Nat) (m : Mask) : List Nat :=
  (tilesOf w).filter (fun t => m &&& tileMask w t != 0#32 && m &&& tileMask w t != tileMask w t)

/-- The heading-shape trap (R209). -/
def shapeTrap (s58 s59 : Nat) (em : Mask) : Trap := { Trap.own 0x0C s58 s59 with em := some em }

/-- The taking-part tiles of a heading that hold the stale code (R209). -/
def Group.staleTiles (g : Group) (m : Mask) (h : Nat) : List Nat :=
  (wholeTiles g.tileWidth m).filter (fun t => (g.getH h).norm.getD t 0#16 == normStale)

/-- Reason 2, then reason 1 of R209: `s58` names the first stale source, and `em` holds the lanes of every tile that is stale in any
source. -/
def shapeCheck (g : Group) (m : Mask) (srcs : List Nat) : Option Trap :=
  let w := g.tileWidth
  match partTiles w m with
  | t :: ts => some (shapeTrap t 2 (tilesMask w (t :: ts)))
  | [] =>
    (srcs.find? (fun h => !(g.staleTiles m h).isEmpty)).map (fun h =>
      shapeTrap h 1 (tilesMask w (srcs.flatMap (g.staleTiles m))))

/-- A tile of a heading: its components and norm entry. -/
def Heading.tile (h : Heading) (w t : Nat) : TileVec :=
  { dir := (List.range (8 * w)).map (fun k => (h.dir.getD (8 * w * t + k) 0#16).toInt), norm := h.norm.getD t 0#16 }

/-- A heading with some tiles given and the others as they were (R209). -/
def Heading.ofTiles (w : Nat) (old : Heading) (ts : List (Nat × TileVec)) : Heading :=
  { dir := (List.range 256).map (fun c =>
      match NMap.get? ts (c / (8 * w)) with
      | some v => BitVec.ofInt 16 (v.dir.getD (c % (8 * w)) 0)
      | none => old.dir.getD c 0#16),
    norm := (List.range 16).map (fun t =>
      match NMap.get? ts t with
      | some v => v.norm
      | none => old.norm.getD t 0#16) }

/-- A heading operand that must be an allocated register (R62, R41). -/
def headReg (g : Group) (a : BitVec 8) : Option Nat :=
  if a.toNat < 0x10 ∧ g.hOk a.toNat then some a.toNat else none

/-- Puts a heading result where it goes (R210): the components in the latch, and unless `.nw` a write to the taking
tiles that lands at the end of the jet. -/
def Group.pendH (g : Group) (nw : Bool) (d : Nat) (m : Mask) (x : Heading) (fl : Flags) : Group :=
  let j := g.jetOr
  { g with jet := some { j with pend := if nw then j.pend else j.pend ++ [.h d m g.tileWidth x],
                                flags := j.flags ||| fl } }

/-- A heading-writing instruction: `f` gives a tile and its flags from the tile number. -/
def headWrite (nw : Bool) (d : Nat) (m : Group → Mask) (ok : Group → Bool) (srcs : List Nat)
    (f : Group → Nat → TileVec × Flags) : Body :=
  groupBody fun g =>
    if g.hOk d && ok g then
      let msk := m g
      match shapeCheck g msk srcs with
      | some t => .error t
      | none =>
        let w := g.tileWidth
        let ts := wholeTiles w msk
        let rs := ts.map (fun t => (t, f g t))
        let x := Heading.ofTiles w (g.getH d) (rs.map (fun r => (r.1, r.2.1)))
        .ok (g.pendH nw d msk x (flJoin (rs.map (fun r => r.2.2))), .heading x, none)
    else .error Trap.operand

/-- `HMOV` (R330): components and norm entry unchanged, tiles whose lanes are all in `em`. -/
def execHmov (nw : Bool) (d : BitVec 4) (a : BitVec 8) (s : State) : Out :=
  runInstr s (.hmov nw d a)
    (headWrite nw d.toNat emMask (fun g => (headReg g a).isSome) [a.toNat]
      (fun g t => ((g.getH a.toNat).tile g.tileWidth t, flNone)))

/-- `HCVT` (R327): reads `vS` to `v(S + 7)`, S a multiple of 8. -/
def execHcvt (nw : Bool) (g : Guard) (d : BitVec 4) (a : Sel) (s : State) : Out :=
  let base : Option Nat := match a with
    | .v n => if n.toNat % 8 = 0 then some n.toNat else none
    | _ => none
  runInstr s (.hcvt nw g d a)
    (headWrite nw d.toNat (fun x => guardMask x g)
      (fun x => match base with
        | some n => x.vOk n && x.vOk (n + 7)
        | none => false) []
      (fun x t =>
        let w := x.tileWidth
        hcvtTile ((List.range (8 * w)).map (fun k => x.lane (base.getD 0 + k % 8) (t * w + k / 8)))))

/-- `HADD` (R326). -/
def execHadd (nw : Bool) (g : Guard) (d : BitVec 4) (a b : BitVec 8) (neg : Bool) (s : State) : Out :=
  runInstr s (.hadd nw g d a b neg)
    (headWrite nw d.toNat (fun x => guardMask x g) (fun x => (headReg x a).isSome && (headReg x b).isSome)
      [a.toNat, b.toNat]
      (fun x t => haddTile neg ((x.getH a.toNat).tile x.tileWidth t) ((x.getH b.toNat).tile x.tileWidth t)))

/-- The selectors `HSCL` takes for f: 0x90 to 0xFF (R211). -/
def hsclSel (f : Sel) : Bool :=
  match f with
  | .imm _ | .fconst _ | .s _ => true
  | _ => false

/-- `HSCL` (R332): f is read in each tile's lowest lane. -/
def execHscl (nw : Bool) (g : Guard) (d : BitVec 4) (a : BitVec 8) (f : Sel) (neg : Bool) (s : State) : Out :=
  runInstr s (.hscl nw g d a f neg)
    (headWrite nw d.toNat (fun x => guardMask x g) (fun x => (headReg x a).isSome && hsclSel f) [a.toNat]
      (fun x t => hsclTile neg ((x.getH a.toNat).tile x.tileWidth t) (selAt x f (t * x.tileWidth))))

/-- The direction an `HDOT` source names: a register or a latch that holds a heading (R210). -/
def dotSource (g : Group) (a : BitVec 8) : Option Heading :=
  if a.toNat < 0x10 then (if g.hOk a.toNat then some (g.getH a.toNat) else none)
  else if 0x80 ≤ a.toNat ∧ a.toNat < 0x88 then
    match g.jetOr.latches.getD (a.toNat - 0x80) .none with
    | .heading h => some h
    | _ => none
  else none

/-- The heading registers among two `HDOT` sources; a latch has no norm and is never stale (R210). -/
def dotRegs (a b : BitVec 8) : List Nat :=
  (if a.toNat < 0x10 then [a.toNat] else []) ++ (if b.toNat < 0x10 then [b.toNat] else [])

/-- `HDOT` (R328): the same value in every lane of each taking tile. -/
def execHdot (nw : Bool) (g : Guard) (d : BitVec 7) (a b : BitVec 8) (s : State) : Out :=
  runInstr s (.hdot nw g d a b) (groupBody fun x =>
    match dotSource x a, dotSource x b with
    | some ha, some hb =>
      if x.vOk d.toNat then
        let m := guardMask x g
        match shapeCheck x m (dotRegs a b) with
        | some t => .error t
        | none =>
          let w := x.tileWidth
          let vals := (tilesOf w).map (fun t => hdotTile (ha.tile w t).dir (hb.tile w t).dir)
          let out := lanesOf (fun l => if m.getLsbD l then vals.getD (l / w) 0#32 else x.lane d.toNat l)
          .ok (x.pendV nw d.toNat m out flNone, .lane out, none)
      else .error Trap.operand
    | _, _ => .error Trap.operand)

/-- `HNRM` (R331). -/
def execHnrm (nw : Bool) (g : Guard) (d : BitVec 7) (a : BitVec 8) (s : State) : Out :=
  runInstr s (.hnrm nw g d a) (groupBody fun x =>
    match headReg x a with
    | some h =>
      if x.vOk d.toNat then
        let m := guardMask x g
        match shapeCheck x m [h] with
        | some t => .error t
        | none =>
          let w := x.tileWidth
          let out := lanesOf (fun l =>
            if m.getLsbD l then hnrmW ((x.getH h).norm.getD (l / w) 0#16) else x.lane d.toNat l)
          .ok (x.pendV nw d.toNat m out flNone, .lane out, none)
      else .error Trap.operand
    | none => .error Trap.operand)

/-- `HEXP` (R329): register D + j of lane L receives component 8L + j. -/
def execHexp (nw : Bool) (g : Guard) (d : BitVec 7) (a : BitVec 8) (s : State) : Out :=
  runInstr s (.hexp nw g d a) (groupBody fun x =>
    match headReg x a with
    | some h =>
      if d.toNat % 8 = 0 && x.vOk d.toNat && x.vOk (d.toNat + 7) then
        let m := guardMask x g
        match shapeCheck x m [h] with
        | some t => .error t
        | none =>
          let w := x.tileWidth
          let hd := x.getH h
          let r := fun l j => hexpComp (hd.norm.getD (l / w) 0#16) (hd.dir.getD (8 * l + j) 0#16).toInt
          let out := fun j => lanesOf (fun l => if m.getLsbD l then (r l j).1 else x.lane (d.toNat + j) l)
          let fl := flJoin ((maskLanes m).map (fun l => flJoin ((List.range 8).map (fun j => (r l j).2))))
          let x' := (List.range 8).foldl (fun y j => y.pendV nw (d.toNat + j) m (out j) fl) x
          .ok (x', .lane (out 0), none)
      else .error Trap.operand
    | none => .error Trap.operand)

end Sys2Proof.Machine
end

