-- ==== Sys2Proof/Machine/Peers.lean ====
section
/-! DEFINITION. Collectives (R273, R274, R296 to R298), requests of other devices (R134, R270), and the removal of
imports (R237). -/

namespace Sys2Proof.Machine

/-! ### Collective slots (R273, R297) -/

/-- A capability moved on by some bytes. -/
def capPlus (c : DWord) (n : Nat) : DWord := capAt c ((capOfs c : Int) + n)

/-- A number in a slot, `n` bytes at an offset of it. -/
def State.slotNum (s : State) (b : Nat) (c : DWord) (ofs n : Nat) : Nat := s.objNum b (capObj c) (capOfs c + ofs) n

def State.slotMembers (s : State) (b : Nat) (c : DWord) : Nat := s.slotNum b c 8 4
def State.slotRank (s : State) (b : Nat) (c : DWord) : Nat := s.slotNum b c 0xC 4
def State.slotPeer (s : State) (b : Nat) (c : DWord) (r : Nat) : Nat := s.slotNum b c (0x40 + 2 * r) 2 % 1024

/-- Where a rank's contribution of a parity lies in a slot, and where the result does. -/
def slotArea (r p : Nat) : Nat := 0x1000 + 4096 * (2 * r + p)
def slotResult (n : Nat) : Nat := 0x1000 + 8192 * n

/-- The arrivals of a slot and parity. -/
def CollCount.is (x : CollCount) (c : DWord) (p : Nat) : Bool := x.slot == c && x.parity == p

def Basin.arrivals (b : Basin) (c : DWord) (p : Nat) : List Nat :=
  ((b.colls.find? (fun x => x.is c p)).map (fun x => x.ranks)).getD []

/-- Whether the distributor slice can track a slot: 64 at once (R297). -/
def Basin.mayTrack (b : Basin) (c : DWord) : Bool :=
  b.colls.any (fun x => x.slot == c) || decide ((b.colls.map (fun x => x.slot)).eraseDups.length < 64)

/-- Counts a rank's contribution. -/
def Basin.arrive (b : Basin) (c : DWord) (p r : Nat) : Basin :=
  if b.colls.any (fun x => x.is c p) then
    { b with colls := b.colls.map (fun x => if x.is c p && !x.ranks.contains r then { x with ranks := x.ranks ++ [r] } else x) }
  else { b with colls := b.colls ++ [{ slot := c, parity := p, ranks := [r] }] }

/-- A trap of `COLL` with its own `s58` (R298). -/
def collTrap (reason : Nat) : Trap := { Trap.plain 0x02 with s58 := some (BitVec.ofNat 32 reason) }

/-- Whether the length operand is refused (R298). -/
def collLenBad (len : Nat) : Bool := decide (len = 0 ∨ 4096 < len ∨ len % 4 ≠ 0)

/-- The first check of `COLL` (R297, R298): the object of the slot and the bounds of its header, which the next checks read. What they refuse
goes before a missing right, and a length that is refused goes before all of the slot's. -/
def State.collSlot (s : State) (b : Nat) (c : DWord) (len : Nat) : Except Trap Unit :=
  let first (t : Trap) : Except Trap Unit := .error (if collLenBad len then collTrap 2 else t)
  match checkLane0 (s.basin b) c (capOfs c) 0x40 1 Rights.none 0 kindAtomResult with
  | .error t => first t
  | .ok () => if capDev c ≠ devHere then first (Trap.lane0 0x08 1 c 0 kindAtomResult) else .ok ()

/-- The checks of `COLL` that read the header of the slot (R297, R298). -/
def State.collCheck (s : State) (b : Nat) (c src : DWord) (len : Nat) : Except Trap Unit :=
  let x := s.basin b
  let n := s.slotMembers b c
  if n < 2 ∨ 1024 < n ∨ n ≤ s.slotRank b c then .error (collTrap 1)
  else if collLenBad len then .error (collTrap 2)
  else
    match checkLane0 x c (capOfs c) (slotResult n + 4096) 1 Rights.rw 0 kindAtomResult with
    | .error t => .error t
    | .ok () => checkLane0 x src (capOfs src) len 1 Rights.r 0 kindLoad

/-- The check of the member table (R271, R297). -/
def State.collPeers (s : State) (b : Nat) (c : DWord) : Bool :=
  (List.range (s.slotMembers b c)).all (fun r => r == s.slotRank b c || s.slotPeer b c r == devHere
    || NMap.has (s.basin b).peers (s.slotPeer b c r))

/-- The stores of a contribution to a member's slot at a peer (R274): under the object number and the offset of the issuer's own slot, since
the member table holds peers only (DESIGN CHOICE, log 106). -/
def State.collSend (s : State) (o : Owner) (c : DWord) (peer area : Nat) (bs : List Byte) (byHandler : Bool) : State :=
  (splitLines (capOfs c + area) bs).foldl (fun s l =>
    s.addReq (Req.new o (.store false l.2) peer (capObj c) l.1 1#32 [] byHandler)) s

/-- What a step of the group on `n` bytes answers when they are not at hand: it waits until they are, parks at an absent extent (R239), or
takes the data error. -/
def custStop (s : State) (o : Owner) (c : DWord) (n : Nat) (write : Bool) (kind : Nat) (byHandler : Bool) : Home → Res
  | .bad k =>
    .wait ((s.custError o.basin c k).notify o
      (noticeOf 0x0A (BitVec.ofNat 32 k) 0#32 1#32 [(0, c)] (v122Of (capDev c != devHere) 0 kind) byHandler)) (.until .orders)
  | .absent => absentStop s o c n kind byHandler
  | _ => .wait s (.until (.atHand c n write))

/-- `COLL` after its release (R274): the contribution goes to every member, and the group waits. -/
def collBody (c src : DWord) (len : Nat) (op : CollOp) (ty : Ty3) : Body := fun s q slot g =>
  let b := g.basin
  let o := g.owner q slot
  match s.custMeets b c 0x840 false with
  | .ok =>
    let n := s.slotMembers b c
    let rank := s.slotRank b c
    let tag := s.slotNum b c 0 8 + 1
    let p := tag % 2
    let mine := capPlus c (slotArea rank p)
    match s.custMeets b src len false, s.custMeets b mine len true with
    | .ok, .ok =>
      if !(s.basin b).mayTrack c then .wait s (.until (.mayTrack c))
      else
        let bs := s.custBytes b src len
        let s := (s.custDone b src len).custWrite b mine bs
        let s := s.modBasin b (fun x => x.arrive c p rank)
        let s := (List.range n).foldl (fun s r =>
          let peer := s.slotPeer b c r
          if r = rank ∨ peer = devHere then s else s.collSend o c peer (slotArea rank p) bs g.handler) s
        let w : Wait := .coll s.custCycle c len op ty
        .wait (s.modGroup q slot (fun h => { h with wait := w })).settle w
    | .ok, h => custStop s o mine len true kindAtomResult g.handler h
    | h, _ => custStop s o src len false kindLoad g.handler h
  | h => custStop s o c 0x840 false kindAtomResult g.handler h

/-- The checks of `COLL` (R297, R298), all of them before its release. -/
def collChecked (c src : DWord) (len : Nat) (body : Body) : Body := fun s q slot g =>
  let b := g.basin
  let o := g.owner q slot
  match s.collSlot b c len with
  | .error t => .trap t
  | .ok () =>
    match s.custMeets b c 0x40 false with
    | .ok =>
      match s.collCheck b c src len with
      | .error t => .trap t
      | .ok () =>
        match s.custMeets b c 0x840 false with
        | .ok => if s.collPeers b c then body s q slot g else .trap (Trap.lane0 0x08 2 c 0 kindAtomResult)
        | h => custStop s o c 0x840 false kindAtomResult g.handler h
    | h => custStop s o c 0x40 false kindAtomResult g.handler h

/-- `COLL` (R296 to R298). A slot is an object of the member's basin (R273): a capability of an import is refused as one that
names no object (DESIGN CHOICE, log 74). -/
def execColl (src : BitVec 6) (slot : BitVec 8) (len : USel) (op : CollOp) (ty : Ty3) (s : State) : Out :=
  runInstr s (.coll src slot len op ty) fun s q sl g =>
    match capPair g (src.setWidth 8), capPair g slot with
    | some cs, some c =>
      if g.inLoop then .trap (loopTrap s 3)
      else
        match g.wait with
        | .answer _ => .next (s.fence q sl g (.acq .dev)) .none none
        | .coll since c len op ty => .wait s (.coll since c len op ty)
        | .stage _ => collBody c cs (uAt g len).toNat op ty s q sl g
        | _ => collChecked c cs (uAt g len).toNat (relThen .dev (collBody c cs (uAt g len).toNat op ty)) s q sl g
    | _, _ => .trap Trap.operand

/-- One element of a combination (R297). -/
def collStep (op : CollOp) (ty : Ty3) (a b : Word) : Word :=
  match op, ty with
  | .add, .f32 => (faddW a b).1
  | .add, _ => a + b
  | .max, .s32 => imaxS a b
  | .max, .n32 => imaxN a b
  | .max, .f32 => (fmaxW a b).1
  | .min, .s32 => iminS a b
  | .min, .n32 => iminN a b
  | .min, .f32 => (fminW a b).1
  | .or, _ => a ||| b

/-- A rank's element of a slot's contributions. -/
def State.collElem (s : State) (b : Nat) (c : DWord) (p i r : Nat) : Word := BitVec.ofNat 32 (s.slotNum b c (slotArea r p + 4 * i) 4)

/-- The combination in ascending rank (R274). -/
def State.collResult (s : State) (b : Nat) (c : DWord) (n p len : Nat) (op : CollOp) (ty : Ty3) : List Byte :=
  (List.range (len / 4)).flatMap (fun i =>
    natBytes 4 ((List.range (n - 1)).foldl (fun a r => collStep op ty a (s.collElem b c p i (r + 1))) (s.collElem b c p i 0)).toNat)

/-- The groups of a basin that wait in a `COLL` on a slot. -/
def State.collWaiters (s : State) (b : Nat) (c : DWord) : List (Nat × Nat × Group) :=
  s.allGroups.filter (fun e => e.2.2.basin == b && (match e.2.2.wait with
    | .coll _ c2 _ _ _ => c2 == c
    | _ => false))

/-- `COLL_COMBINE` (R274, R298): the result is written, SEQ rises, and the group goes on. Two that overlap on one slot
leave open bytes. -/
def execCollCombine (q slot : Nat) (s : State) : Out :=
  match s.group? q slot with
  | none => .refused (.notEnabled "COLL_COMBINE: no group")
  | some g =>
    match g.wait with
    | .coll _ c len op ty =>
      let b := g.basin
      let n := s.slotMembers b c
      let tag := s.slotNum b c 0 8 + 1
      let p := tag % 2
      let res := capPlus c (slotResult n)
      if !(List.range n).all (fun r => ((s.basin b).arrivals c p).contains r) then
        .refused (.notEnabled "COLL_COMBINE: a contribution is missing")
      else
        match s.custMeets b c (slotResult n + 4096) true with
        | .ok =>
          let ws := s.collWaiters b c
          let bs := if ws.length ≤ 1 then s.collResult b c n p len op ty
            else (List.range len).map (fun i => Config.freeByte (s.freeIx + i))
          let s := ({ s with freeIx := s.freeIx + len }.custWrite b res bs).custWrite b c (natBytes 8 tag)
          let s := s.modBasin b (fun x => { x with colls := x.colls.filter (fun y => !y.is c p) })
          .next (ws.foldl (fun s e => s.modGroup e.1 e.2.1 (fun h => { h with wait := .answer [] })) s).settle
        | .bad k =>
          .next (((s.homeError b (capObj c) (capOfs c) k).modGroup q slot (fun h => { h with wait := .none })).notify (g.owner q slot)
            (noticeOf 0x0A (BitVec.ofNat 32 k) 0#32 1#32 [(0, c)] (v122Of false 0 kindAtomResult) g.handler))
        | .absent =>
          let o := g.owner q slot
          if s.reqs.any (fun e => e.2.owner == o && e.2.kind.isProbe) then .refused (.notEnabled "COLL_COMBINE: the slot's extent is absent")
          else .next (s.parkProbe o c (slotResult n + 4096) kindAtomResult g.handler)
        | _ => .refused (.notEnabled "COLL_COMBINE: the slot is not at hand")
    | _ => .refused (.notEnabled "COLL_COMBINE: the group does not wait in COLL")

/-- `COLL_WATCHDOG` (R274): the collective fault, SEQ left as it is. -/
def execCollWatchdog (q slot : Nat) (s : State) : Out :=
  match s.group? q slot with
  | none => .refused (.notEnabled "COLL_WATCHDOG: no group")
  | some g =>
    match g.wait with
    | .coll since c _ _ _ =>
      if s.custCycle ≤ since + (s.basin g.basin).watchdog then .refused (.notEnabled "COLL_WATCHDOG: the watchdog has not expired")
      else
        let s := s.modGroup q slot (fun h => { h with wait := .none })
        .next ((s.notify (g.owner q slot)
          (noticeOf 0x14 (c.setWidth 32) (c.extractLsb' 32 32) g.em [] 0#32 g.handler)).logErr 0x14 g.basin 0 c 0#32 0xFFFFFF)
    | _ => .refused (.notEnabled "COLL_WATCHDOG: the group does not wait in COLL")

/-! ### Requests of other devices (R134, R253, R270) -/

/-- The bytes of the object that a peer's request touches: first offset and number. -/
def PeerAsk.span : PeerAsk → Nat × Nat
  | .read ofs n => (ofs, n)
  | .store ofs bs => (ofs, bs.length)
  | .atom _ ty es => (es.foldl (fun a e => min a e.ofs) ((es.head?.map (fun e => e.ofs)).getD 0), es.length * atomBytes ty)
  | .signal _ _ ofs => (ofs, 4)
  | .coll slot rank tag bs => (slot + slotArea rank (tag % 2), bs.length)

def PeerAsk.isRead : PeerAsk → Bool
  | .read .. => true
  | _ => false

/-- The lines of a peer's request. -/
def PeerReq.lines (r : PeerReq) : List Nat :=
  let p := r.ask.span
  (List.range ((p.1 + p.2 + 127) / 128 - p.1 / 128)).map (fun i => lineKey r.basin r.obj (p.1 / 128 + i))

/-- Whether an export lets peers do what a request asks (R227, R235). -/
def Basin.exported (b : Basin) (r : PeerReq) : Bool :=
  b.exports.any (fun x => x.obj == r.obj && (if r.ask.isRead then x.rd else x.wr))

/-- The die of the peer port at which a request for a line arrives (R7, R270). -/
def portDie (obj line : Nat) : Nat := peerPort obj line / 9

/-- The version of the first line of a peer's request. -/
def State.peerVersion (s : State) (r : PeerReq) : Word := (s.line (r.lines.headD 0)).version

/-- What a peer's request does at the home slice, with its lines filled; the answer's bytes. -/
def State.peerPerform (s : State) (r : PeerReq) : State × List Byte :=
  let b := r.basin
  let lines := pieceLines [r.ask.span]
  let put (s : State) (ofs : Nat) (bs : List Byte) : State := s.hereWrite b r.obj ofs bs (portDie r.obj)
  match r.ask with
  | .read ofs n => ((s.fillLines b r.obj (portDie r.obj) lines).getD s, s.readBytes (memKey b r.obj ofs) n)
  | .store ofs bs => (put s ofs bs, [])
  | .atom op ty es =>
    let line := (r.ask.span).1 / 128
    let s := (s.writeFills b r.obj (portDie r.obj) lines).getD s
    let old := es.flatMap (fun e => natBytes (atomBytes ty) (s.objNum b r.obj e.ofs (atomBytes ty)))
    let x := s.atomElems b r.obj op ty none es
    (if x.2.2 then x.1.performInc b r.obj line (s.homeDie b r.obj line (portDie r.obj line)) 1 [] else s, old)
  | .signal add v ofs =>
    let x := if add then s.objNum b r.obj ofs 4 + v.toNat else v.toNat
    (put s ofs (natBytes 4 (x % 2 ^ 32)), [])
  | .coll slot rank tag bs =>
    let c := mkCap devHere r.obj slot
    let s := put s (slot + slotArea rank (tag % 2)) bs
    (if s.slotNum b c 0 8 < tag then s.modBasin b (fun x => x.arrive c (tag % 2) rank) else s, [])

/-- Whether an access from outside waits in a park list (R239). -/
def waitsParked (p : Option Parked) : Bool := p.any (fun x => !x.freed)

/-- A peer's request has been answered. -/
def State.peerOver (s : State) (ix : Nat) (r : PeerReq) (v : Word) (bs : List Byte) (err : Bool) : State :=
  let s := { s with peerIn := s.peerIn.eraseIdx ix, outbox := s.outbox ++ [.peerAnswer r.id v bs err] }
  match r.park with
  | some p => (s.over p.id).settle
  | none => s

/-- A peer's request parks on an absent extent (R239). -/
def State.peerParks (s : State) (ix : Nat) (r : PeerReq) : State :=
  let p := r.ask.span
  let ext := s.absentExt r.basin r.obj p.1 p.2
  let id := (r.park.map (fun x => x.id)).getD s.nextId
  let s := { s with nextId := s.nextId + 1, peerIn := s.peerIn.set ix { r with park := some (parkedAt id ext r.lines) } }
  s.parkOutside ext id

/-- `PEER_REQUEST` (R134, R270): a request of another device performs at its home slice; one that meets a revoked basin,
no export or a data error is answered with an error (R253, R272). At an absent extent it parks (R239); released, it has passed its checks
(R237, R241). -/
def execPeerRequest (ix : Nat) (s : State) : Out :=
  match s.peerIn[ix]? with
  | none => .refused (.notEnabled "PEER_REQUEST: no request has arrived")
  | some r =>
    let x := s.basin r.basin
    let p := r.ask.span
    let c := mkCap devHere r.obj p.1
    let before := (s.peerIn.take ix).filter (fun o => o.lines.any (fun l => r.lines.contains l))
    let reply (s : State) (v : Word) (bs : List Byte) (err : Bool) : Out := .next (s.peerOver ix r v bs err)
    if r.lines.any (fun k => s.downPorts.contains (peerPort (keyObj k) (keyLine k))) then .refused (.notEnabled "PEER_REQUEST: the port is down")
    else if before.any (fun o => !waitsParked o.park) then .refused (.notEnabled "PEER_REQUEST: an earlier request on the line goes first")
    else if x.phase ≠ .started ∨ (r.park = none ∧ (!NMap.has x.objs r.obj ∨ !x.exported r)) then reply s 0#32 [] true
    else if waitsParked r.park ∨ r.park.any (fun y => y.after != []) then .refused (.notEnabled "PEER_REQUEST: the request is parked, or others go first")
    else
      match (if r.park = none then checkAccess x c p.1 p.2 1 Rights.none else .ok ()) with
      | .error _ => reply s 0#32 [] true
      | .ok () =>
        match s.hereMeets ((r.park.map (fun y => y.id)).getD s.nextId) r.basin r.obj p.1 p.2 (!r.ask.isRead) (portDie r.obj) with
        | .absent => .next (s.peerParks ix r)
        | .wait => .refused (.notEnabled "PEER_REQUEST: the line is not at hand")
        | h =>
          if before ≠ [] then .refused (.notEnabled "PEER_REQUEST: an earlier request on the line goes first")
          else
            match h with
            | .bad n => reply (s.homeError r.basin r.obj p.1 n) 0#32 [] true
            | _ =>
              if (match r.ask with | .coll slot .. => !x.mayTrack (mkCap devHere r.obj slot) | _ => false) then
                .refused (.notEnabled "PEER_REQUEST: 64 collective slots are tracked")
              else
                let y := s.peerPerform r
                reply y.1 (y.1.peerVersion r) y.2 false

/-- `IMPORT_REMOVAL` (R237): the owner has destroyed the object or lost its basin; the quadrants drop their copies. -/
def execImportRemoval (b dev obj : Nat) (s : State) : Out :=
  if !(s.basin b).imports.any (fun d => d.dev == dev && d.onum == obj) then .refused (.notEnabled "IMPORT_REMOVAL: no such import")
  else .next ((s.modBasin b (fun x => { x with imports := x.imports.filter (fun d => !(d.dev == dev && d.onum == obj)) })).dropOlb b dev obj)

end Sys2Proof.Machine
end

