-- ==== Sys2Proof/Machine/HostLink.lean ====
section
/-! DEFINITION. The host link (R133, R265 to R269): control windows, memory windows, inbound writes, error queues, and the
field record (R277). -/

namespace Sys2Proof.Machine

/-! ### Control windows (R266, R268, R269) -/

/-- One half of an 8-byte register. -/
def setHalf (old : DWord) (high : Bool) (v : Word) : DWord :=
  if high then v ++ old.extractLsb' 0 32 else old.extractLsb' 32 32 ++ v

/-- A write of MBCALL (R269): BUSY is set and the custodian has the call; an unknown function comes back at once. -/
def State.mboxCall (s : State) (caller fn : Nat) : State :=
  let s := s.modWin caller (fun w => { w with fn := fn, busy := true })
  let c : Call := { fn := fn, fromGroup := none, block := 0#64, held := none }
  let s := s.setCalls caller (s.callsOf caller ++ [c])
  if knownFn fn then s
  else
    let s := s.modWin caller (fun w => { w with busy := false, mbstat := 1#32 })
    let s := s.setCalls caller ((s.callsOf caller).dropLast)
    { s with outbox := s.outbox ++ [.msix (if caller = 16 then 0 else caller + 1) 1] }

/-- One dword of a control-window write (R266): the physical function has the mailbox and the error queue only, and
after a failed boot no call is taken (R275; DESIGN CHOICE, log 105). -/
def State.windowDword (s : State) (caller ofs : Nat) (v : Word) : State :=
  let w := s.winOf caller
  let n := v.toNat
  let high := ofs % 8 == 4
  let set (f : Window → Window) : State := s.modWin caller f
  if 0x100 ≤ ofs ∧ ofs < 0x140 then
    if w.busy then s
    else set (fun w => { w with mbox := (natBytes 4 n).zipIdx.foldl (fun m e => NMap.set m (ofs - 0x100 + e.2) e.1) w.mbox })
  else if ofs = 0x140 then (if w.busy ∨ (caller = 16 ∧ s.bootFailed) then s else s.mboxCall caller (n % 256))
  else if ofs = 0x200 ∨ ofs = 0x204 then
    (if w.eqhead ≠ w.eqtail then s else set (fun w => { w with eqbase := setHalf w.eqbase high v }))
  else if ofs = 0x208 then
    (if w.eqhead ≠ w.eqtail ∨ n % 16 < 4 ∨ 12 < n % 16 then s else set (fun w => { w with eqk := n % 16 }))
  else if ofs = 0x20C then set (fun w => { w with eqhead := v })
  else if ofs = 0x214 then set (fun w => { w with eqlost := w.eqlost &&& ~~~v })
  else if caller = 16 then s
  else if ofs = 0 then s.tailWrite caller (n % 2 ^ 16)
  else if ofs = 8 then
    (if w.head ≠ w.tail ∨ n % 32 < 4 ∨ 15 < n % 32 then s else set (fun w => { w with lqk := n % 32 }))
  else if ofs = 0x10 ∨ ofs = 0x14 then
    (if w.head ≠ w.tail then s else set (fun w => { w with lqbase := setHalf w.lqbase high v }))
  else if 0x300 ≤ ofs ∧ ofs < 0x340 then
    let i := (ofs - 0x300) / 8
    set (fun w => { w with wins := NMap.set w.wins i (setHalf (NMap.getD w.wins i 0#64) high v) })
  else s

/-- Whether a function has a control window: the physical function once the device is up or has failed to boot, a basin's
while it is Started (R265, R266, R275). -/
def State.hasWindow (s : State) (fn : Nat) : Bool :=
  if fn = 0 then s.powered || s.bootFailed else (s.basin (fn - 1)).phase == .started

/-- `CONTROL_WINDOW_WRITE` (R266): dword by dword; a dword with a byte enable clear is ignored. -/
def execControlWindowWrite (fn ofs : Nat) (dwords : List (Option Word)) (s : State) : Out :=
  if 16 < fn ∨ !s.hasWindow fn then .refused (.notEnabled "CONTROL_WINDOW_WRITE: the window does not exist")
  else if ofs % 4 ≠ 0 then .refused (.notEnabled "CONTROL_WINDOW_WRITE: dwords only")
  else
    let caller := if fn = 0 then 16 else fn - 1
    .next ((dwords.zipIdx.foldl (fun s e => match e.1 with
      | some v => s.windowDword caller (ofs + 4 * e.2) v
      | none => s) s).settle)

/-- A dword of a number. -/
def dwordOf (n i : Nat) : Word := BitVec.ofNat 32 (n / 2 ^ (32 * i))

/-- One dword of a control window as it stands (R266): reserved bits and ranges not listed read 0, and the physical function has the
mailbox and the error queue only. -/
def State.readDword (s : State) (caller ofs : Nat) : Word :=
  let w := s.winOf caller
  let half := ofs / 4 % 2
  if 0x100 ≤ ofs ∧ ofs < 0x140 then
    BitVec.ofNat 32 (leNat ((List.range 4).map (fun i => NMap.getD w.mbox (ofs - 0x100 + i) 0#8)))
  else if ofs = 0x140 then BitVec.ofNat 32 (w.fn + if w.busy then 0x100 else 0)
  else if ofs = 0x144 then w.mbstat
  else if ofs = 0x200 ∨ ofs = 0x204 then dwordOf w.eqbase.toNat half
  else if ofs = 0x208 then BitVec.ofNat 32 w.eqk
  else if ofs = 0x20C then w.eqhead
  else if ofs = 0x210 then w.eqtail
  else if ofs = 0x214 then w.eqlost
  else if caller = 16 then 0#32
  else if ofs = 0 then BitVec.ofNat 32 w.tail
  else if ofs = 4 then BitVec.ofNat 32 w.head
  else if ofs = 8 then BitVec.ofNat 32 w.lqk
  else if ofs = 0x10 ∨ ofs = 0x14 then dwordOf w.lqbase.toNat half
  else if 0x300 ≤ ofs ∧ ofs < 0x340 then dwordOf (NMap.getD w.wins ((ofs - 0x300) / 8) 0#64).toNat half
  else 0#32

/-- A host read of `n` dwords of a control window (R266). It changes nothing in the window. -/
def State.controlRead (s : State) (fn ofs n : Nat) : Out :=
  if 16 < fn ∨ !s.hasWindow fn then .refused (.notEnabled "control read: the window does not exist")
  else if ofs % 4 ≠ 0 then .refused (.notEnabled "control read: dwords only")
  else
    let caller := if fn = 0 then 16 else fn - 1
    .next { s with outbox := s.outbox ++ [.windowRead fn ofs ((List.range n).map (fun i => s.readDword caller (ofs + 4 * i)))] }

/-! ### Memory windows (R267) -/

/-- The capability that an aperture maps. -/
def State.aperture (s : State) (b win : Nat) : DWord := NMap.getD (s.basin b).win.wins win 0#64

/-- The error record of a window access that fails its checks (R267, R263). -/
def State.windowError (s : State) (b code : Nat) (c : DWord) : State := s.logErr code b 5 c 0#32 0xFFFFFF

/-- The line parts of an access: offset in the access, offset in the object, bytes. -/
def lineParts (a n : Nat) : List (Nat × Nat × Nat) :=
  (List.range ((a + n + 127) / 128 - a / 128)).map (fun i =>
    let lo := max a (128 * (a / 128 + i))
    let hi := min (a + n) (128 * (a / 128 + i) + 128)
    (lo - a, lo, hi - lo))

/-- One line part of a window read under a number: its bytes, or 0 and poisoned where the read received an error (R267, R272), as it does in
an extent that has been refused (R242). -/
def State.readPart (s : State) (id b : Nat) (c : DWord) (refused : List Nat) (p : Nat × Nat × Nat) : State × (Nat × List Byte × Bool) :=
  let c := mkCap (capDev c) (capObj c) p.2.1
  let bad (n : Nat) : State × (Nat × List Byte × Bool) := (s.custError b c n, (p.1, List.replicate p.2.2 0#8, true))
  if refused.contains (extKey b (capObj c) (p.2.1 / 65536)) then bad 2
  else
    match s.accessMeets id b c p.2.2 false with
    | .bad n => bad n
    | _ => (s.custDone b c p.2.2, (p.1, s.custBytes b c p.2.2, false))

/-- What one line part of a window read meets; a refused extent is answered at once (R242). -/
def State.partMeets (s : State) (id b : Nat) (c : DWord) (refused : List Nat) (p : Nat × Nat × Nat) : Home :=
  if refused.contains (extKey b (capObj c) (p.2.1 / 65536)) then .bad 2
  else s.accessMeets id b (mkCap (capDev c) (capObj c) p.2.1) p.2.2 false

/-- A window read whose checks have passed, under a number (R267): it returns its parts once all are at hand, and waits in the park list of an
absent extent that it meets (R239). -/
def State.windowRead (s : State) (h : HostRead) (others : List HostRead) : Out :=
  let b := h.basin
  let ps := lineParts (capOfs h.cap) h.len
  let meets (p : Nat × Nat × Nat) : Home := s.partMeets h.park.id b h.cap h.refused p
  match ps.find? (fun p => meets p == .absent) with
  | some p =>
    let ext := extKey b (capObj h.cap) (p.2.1 / 65536)
    let x := { h with park := parkedAt h.park.id ext (ps.map (fun p => lineKey b (capObj h.cap) (p.2.1 / 128))) }
    .next ({ s with nextId := s.nextId + 1, hostReads := others ++ [x] }.parkOutside ext h.park.id)
  | none =>
    if ps.any (fun p => meets p == .wait) then .refused (.notEnabled "WINDOW_READ: a line is not at hand")
    else
      let r := ps.foldl (fun (acc : State × List (Nat × List Byte × Bool)) p =>
        let y := acc.1.readPart h.park.id b h.cap h.refused p
        (y.1, acc.2 ++ [y.2])) (s, [])
      let t := { r.1 with outbox := r.1.outbox ++ [.readDone b (some r.2)] }
      .next (if h.park.freed then ({ t with hostReads := others }.over h.park.id).settle else t)

/-- `WINDOW_READ` (R267): after every host write that arrived before it (R133). One that has met an absent extent goes on as the same step once
it has been released (R241). -/
def execWindowRead (b win ofs len : Nat) (s : State) : Out :=
  let x := s.basin b
  let c := s.aperture b win
  let a : Int := (capOfs c : Int) + ofs
  match s.hostReads.findIdx? (fun h => h.basin == b && h.win == win && h.ofs == ofs && h.len == len) with
  | some i =>
    match s.hostReads[i]? with
    | some h =>
      if !h.park.freed ∨ h.park.after ≠ [] then .refused (.notEnabled "WINDOW_READ: the read is parked, or others go first")
      else s.windowRead h (s.hostReads.eraseIdx i)
    | none => .refused (.notEnabled "WINDOW_READ: no such read")
  | none =>
    if x.phase = .revoked then .next { s with outbox := s.outbox ++ [.readDone b none] }
    else if x.phase ≠ .started ∨ 7 < win ∨ 2 ^ 30 ≤ ofs then .refused (.notEnabled "WINDOW_READ: no such window")
    else
      match checkAccess x c a len 1 Rights.r with
      | .error e => .next { s.windowError b e.code (capAt c a) with outbox := s.outbox ++ [.readDone b none] }
      | .ok () =>
        if s.inbound.any (fun h => h.basin == b) then .refused (.notEnabled "WINDOW_READ: host writes before it go first")
        else
          s.windowRead { basin := b, win := win, ofs := ofs, len := len, cap := capAt c a,
                         park := { id := s.nextId, keys := [], freed := false, after := [] }, refused := [] } s.hostReads

/-- `WINDOW_WRITE` (R133, R267): checked, split at line borders, and put into the inbound queue. -/
def execWindowWrite (b win ofs : Nat) (data : List Byte) (s : State) : Out :=
  let x := s.basin b
  let c := s.aperture b win
  let a : Int := (capOfs c : Int) + ofs
  if x.phase = .revoked then .next s
  else if x.phase ≠ .started ∨ 7 < win ∨ 2 ^ 30 ≤ ofs then .refused (.notEnabled "WINDOW_WRITE: no such window")
  else
    match checkAccess x c a data.length 1 Rights.w with
    | .error e => .next (s.windowError b e.code (capAt c a))
    | .ok () =>
      if capDev c ≠ devHere then
        match s.custMeets b (capAt c a) data.length true with
        | .bad n => .next (s.custError b (capAt c a) n)
        | .ok => .next (s.custWrite b (capAt c a) data)
        | _ => .refused (.notEnabled "WINDOW_WRITE: no credit on a peer port")
      else
        .next ((lineParts a.toNat data.length).foldl (fun s p =>
          { s with inbound := s.inbound ++ [{ id := s.nextId, basin := b, obj := capObj c, ofs := p.2.1,
                                              bytes := (data.drop p.1).take p.2.2, park := none }], nextId := s.nextId + 1 }) s)

/-- A host write leaves the inbound queue: an acquire at `.sys` scope waits for it no longer (R133). -/
def State.inboundOver (s : State) (ix : Nat) (h : HostWrite) : State :=
  ({ s with inbound := s.inbound.eraseIdx ix }.over h.id).settle

/-- `HOST_WRITE_PERFORM` (R133): writes to one line in arrival order; at an absent extent they park in that order (R239). -/
def execHostWritePerform (ix : Nat) (s : State) : Out :=
  match s.inbound[ix]? with
  | none => .refused (.notEnabled "HOST_WRITE_PERFORM: no such write")
  | some h =>
    let line := h.ofs / 128
    let before := (s.inbound.take ix).filter (fun o => o.basin == h.basin && o.obj == h.obj && o.ofs / 128 == line)
    if before.any (fun o => !waitsParked o.park) then
      .refused (.notEnabled "HOST_WRITE_PERFORM: an earlier write to the line goes first")
    else if waitsParked h.park ∨ h.park.any (fun p => p.after != []) then
      .refused (.notEnabled "HOST_WRITE_PERFORM: the write is parked, or others go first")
    else
      match s.hereMeets h.id h.basin h.obj h.ofs h.bytes.length true (fun _ => 0), before with
      | .absent, _ =>
        let k := lineKey h.basin h.obj line
        .next ({ s with inbound := s.inbound.set ix { h with park := some (parkedAt h.id (k / 512) [k]) } }.parkOutside (k / 512) h.id)
      | .wait, _ => .refused (.notEnabled "HOST_WRITE_PERFORM: the line is not at hand")
      | _, _ :: _ => .refused (.notEnabled "HOST_WRITE_PERFORM: an earlier write to the line goes first")
      | .bad n, [] => .next ((s.homeError h.basin h.obj h.ofs n).inboundOver ix h)
      | .ok, [] => .next ((s.custWrite h.basin (mkCap devHere h.obj h.ofs) h.bytes).inboundOver ix h)

/-! ### Error queues and the field record (R264, R277) -/

/-- `ERROR_RECORD_WINDOW` (R264): the window of a held record closes and it is written out. -/
def execErrorRecordWindow (ix : Nat) (s : State) : Out :=
  match s.errHeld[ix]? with
  | none => .refused (.notEnabled "ERROR_RECORD_WINDOW: no such record")
  | some e =>
    if s.custCycle < e.first + 2 ^ 20 then .refused (.notEnabled "ERROR_RECORD_WINDOW: the window is open")
    else .next ({ s with errHeld := s.errHeld.eraseIdx ix }.writeErr e)

/-- `FIELD_RECORD_READ` (R277): over the management interface, or through physical function 0. -/
def execFieldRecordRead (viaPf : Bool) (s : State) : Out :=
  if viaPf && !s.hasWindow 0 then .refused (.notEnabled "FIELD_RECORD_READ: physical function 0 is not there")
  else .next { s with outbox := s.outbox ++ [.record s.field] }

end Sys2Proof.Machine
end

