-- ==== Sys2Proof/Machine/Module.lean ====
section
/-! DEFINITION. The module (R261, R262, R233, R275, R276): power-on, corrections and errors, retirement of extents, and
throttling. -/

namespace Sys2Proof.Machine

/-! ### Bring-up (R11, R206, R275) -/

/-- The enabled cluster sites of a part (R11): 12 of 13 on each die; which one is fused off is open. -/
def partSites (ix : Nat) : List Nat :=
  (List.range 4).flatMap (fun d => ((List.range 13).filter (fun k => k != Config.freeNat (ix + d) % 13)).map (fun k => 16 * d + k))

/-- `POWER_ON` (R275): whether a good image is found is open; without one, physical function 0 alone is there, with
MBSTAT 0xFF. Which stacks and ports fail to train is open too; they are disabled and logged (log 51). -/
def execPowerOn (s : State) : Out :=
  if s.powered ∨ s.bootFailed then .refused (.notEnabled "POWER_ON: the device is on")
  else if Config.freeBit (s.freeIx + 4) then
    .next { s with freeIx := s.freeIx + 5, bootFailed := true, pf := { s.pf with mbstat := 0xFF#32 } }
  else
    let badStacks := (List.range 8).filter (fun k => Config.freeBit (s.freeIx + 8 + k))
    let badPorts := (List.range 36).filter (fun k => Config.freeBit (s.freeIx + 16 + k))
    .next { s with
      freeIx := s.freeIx + 64, powered := true, sites := partSites s.freeIx, upAt := s.now,
      downStacks := badStacks, downPorts := badPorts, outbox := s.outbox ++ [.disabled badStacks badPorts],
      rings := (List.range 4).map (fun d => (d, s.now / 4096, s.tokensSet)),
      refills := (List.range 8).map (fun k => (k, 0)) }

/-! ### Recovery (R261, R262) -/

/-- `LINK_CRC_RETRY` (R261): a flit is sent again; the retry is counted, and a retrain of the link, which is open (R277; DESIGN
CHOICE, log 75). -/
def execLinkCrcRetry (link : Nat) (s : State) : Out :=
  if s.powered then
    let t := { s with freeIx := s.freeIx + 1 }.count (fieldRetry link)
    .next (if Config.freeBit s.freeIx then t.count (fieldLink link) else t)
  else .refused (.notEnabled "LINK_CRC_RETRY: the device is not up")

/-- The physical extent behind a line, where it is mapped. -/
def State.linePhys (s : State) (k : Nat) : Option (Nat × Nat) :=
  let e := s.extent (k / 512)
  if e.v then some (e.chan, e.idx) else none

/-- Drops a line from every quadrant's caches: it is fetched again (R92, R261). -/
def State.dropCopies1 (s : State) (k : Nat) : State :=
  { s with quads := s.quads.map (fun (e : Nat × Quad) =>
      (e.1, { e.2 with l1 := NMap.erase e.2.l1 k, ro := NMap.erase (NMap.erase e.2.ro (roKey k false)) (roKey k true) })) }

/-- The arrays of R261 whose corrections are counted apart: pool banks, home slices, memory-side cache, reservation and copy state,
L1 data and read-only regions. -/
def eccArrays : Nat := 5

/-- `ECC_CORRECTION` (R261): where the error struck is open: an array that corrects it in place, a cache of clean lines,
or HBM, where it counts against the extent (R233). -/
def execEccCorrection (line : Nat) (s : State) : Out :=
  match s.linePhys line with
  | none => .refused (.notEnabled "ECC_CORRECTION: nothing is stored there")
  | some (chan, idx) =>
    let t := { s with freeIx := s.freeIx + 1 }
    let array := Config.freeNat s.freeIx % (eccArrays + 1)
    if array = eccArrays then
      let p := physKey chan idx
      .next { t.count (fieldChan chan) with eccs := NMap.set t.eccs p (NMap.getD t.eccs p 0 + 1) }
    else .next ((if array = 4 then t.dropCopies1 line else t).count (fieldErr array))

/-- `UNCORRECTABLE_ERROR` (R262): in a group's registers or scratchpad, a data error and a record with the pool byte
address; in a copy of a line that is not the only one, a miss, in the memory-side cache and in a replica of an extent that has not collapsed (R107) as in
a home slice; else the line is poisoned and a
record names it. A line that a `VALSET` has pinned stays filled (R175). -/
def execUncorrectableError (group : Option (Nat × Nat)) (line : Nat) (s : State) : Out :=
  match group with
  | some (q, slot) =>
    match s.group? q slot with
    | none => .refused (.notEnabled "UNCORRECTABLE_ERROR: no group")
    | some g =>
      let c := mkCap 0 0 line
      .next ((s.notify (g.owner q slot) (noticeOf 0x0A 1#32 0#32 1#32 [(0, c)] 0#32 g.handler)).logErr 0x22 g.basin 0 c 0#32 0xFFFFFF)
  | none =>
    match s.linePhys line with
    | none => .refused (.notEnabled "UNCORRECTABLE_ERROR: nothing is stored there")
    | some (chan, idx) =>
      let l := s.line line
      let bk := blockKey (keyBasin line) (keyObj line) (keyLine line)
      let x := s.block bk
      let reps := (s.extent (line / 512)).reps
      if l.res ≠ 0#4 ∧ l.dirty = false then
        .next ((s.dropCopies1 line).setLine line { l with res := if l.pin.isSome then l.res else 0#4 })
      else if l.res = 0#4 ∧ x.msc ≠ 0#4 ∧ x.newer = false then .next (s.setBlock bk { x with msc := 0#4 })
      else if l.res = 0#4 ∧ x.msc = 0#4 ∧ 2 ≤ reps.length then .next s
      else
        .next ((s.setLine line { l with poisoned := true }).logErr 0x22 (keyBasin line) (if l.res = 0#4 then 2 else 1)
          (mkCap devHere (keyObj line) (128 * keyLine line)) 0#32 (chan * 65536 + idx))

/-- The entry of an extent list that names a physical extent, with the mapped place in it. -/
def Extent.rehome (e : Extent) (old new : Nat × Nat) : Extent :=
  { e with
    chan := if (e.chan, e.idx) = old then new.1 else e.chan, idx := if (e.chan, e.idx) = old then new.2 else e.idx,
    reps := e.reps.map (fun (r : Nat × Nat × Nat) => if r.2 = old then (r.1, new) else r) }

/-- The blocks of an extent that has moved are no longer in the old channel's share of a die's memory-side cache (R13, R106). -/
def State.dropMsc (s : State) (k die : Nat) : State :=
  { s with blocks := s.blocks.map (fun (e : Nat × Block) => if e.1 / 32 = k then
      let m := e.2.msc &&& ~~~dieBit die
      (e.1, { e.2 with msc := m, newer := e.2.newer && m != 0#4 }) else e) }

/-- An extent of the custodian's reserve (R233): whether the reserve has one is open. The spec does not place it; the model takes the
highest free extent of the lowest channel on the failing extent's die that no basin holds (R231, R247; DESIGN CHOICE, log 12). -/
def State.reserveExt (s : State) (b die : Nat) : Option (Nat × Nat) :=
  if Config.freeBit s.freeIx then
    (((List.range 64).map (64 * die + ·)).find? (fun c => s.basins.all (fun e => !e.2.groups.contains (c / 4))
      && !s.downStacks.contains (c / 32) && s.phys.all (fun e => e.1 / 65536 / 4 != c / 4 || (match e.2 with
        | .mapped x _ _ => x == b
        | _ => true)))).bind (fun c =>
      (((List.range 64).map (fun i => channelExtents - 1 - i)).find? (fun i => !NMap.has s.phys (physKey c i))).map (fun i => (c, i)))
  else none

/-- `EXTENT_RETIREMENT` (R233): the data goes to a fresh extent of the custodian's reserve, or of the basin's pool when the reserve is
empty, and the old extent is retired; without a fresh extent the entry is poisoned. Of the pool it takes the lowest extent on the failing
extent's die first (R233 does not say; DESIGN CHOICE, log 12). -/
def execExtentRetirement (phys : Nat) (s : State) : Out :=
  let old := (phys / 65536, phys % 65536)
  if NMap.getD s.eccs phys 0 ≤ Config.retireThreshold then .refused (.notEnabled "EXTENT_RETIREMENT: the count is below the threshold")
  else
    match NMap.get? s.phys phys with
    | some (.mapped b obj ext) =>
      let k := extKey b obj ext
      match (s.reserveExt b (old.1 / 64)).or (s.pickExt b (old.1 / 64)) with
      | none =>
        .next (({ s with freeIx := s.freeIx + 1 }.setExtent k { s.extent k with pz := true }).logErr 0x23 b 2
          (mkCap devHere obj (65536 * ext)) 0#32 phys)
      | some p =>
        let s := { s with freeIx := s.freeIx + 1,
                          phys := NMap.set (NMap.set s.phys (physKey p.1 p.2) (.mapped b obj ext)) phys .retired }
        .next (((s.setExtent k ((s.extent k).rehome old p)).dropMsc k (old.1 / 64)).count fieldRetire)
    | _ => .refused (.notEnabled "EXTENT_RETIREMENT: the extent is not mapped")

/-! ### Power and temperature (R276) -/

/-- `THROTTLE_CHANGE` (R276): a new setting, at most once in 2^22 custodian cycles; each die takes it up at its next frame
boundary. Whether the module has had an excursion that this answers is open (DESIGN CHOICE, log 75). -/
def execThrottleChange (tokens gap : Nat) (s : State) : Out :=
  if !s.powered then .refused (.notEnabled "THROTTLE_CHANGE: the device is not up")
  else if tokens < 2 ∨ 8 < tokens ∨ 24 < gap then .refused (.notEnabled "THROTTLE_CHANGE: no such setting")
  else if s.lastThrottle.any (fun t => decide (s.custCycle < t + 2 ^ 22)) then .refused (.notEnabled "THROTTLE_CHANGE: too soon")
  else
    let t := { s with freeIx := s.freeIx + 1, tokensSet := tokens, gapSet := gap, lastThrottle := some s.custCycle }.count fieldSetting
    .next (if Config.freeBit s.freeIx then t.count fieldExcursion else t)

/-- `THERMAL_TRIP` (R276): every basin is told to halt, and the device holds. -/
def execThermalTrip (s : State) : Out :=
  if !s.powered ∨ s.tripped then .refused (.notEnabled "THERMAL_TRIP: the device is not up, or tripped")
  else
    .next ({ s with
      tripped := true,
      quads := s.quads.map (fun (e : Nat × Quad) => if e.2.basin.isSome then (e.1, { e.2 with halted := true }) else e) }.count fieldTrip)

/-- `TRIP_CLEARS` (R276): the basins run again as they are restored. -/
def execTripClears (s : State) : Out :=
  if s.tripped then .next { s with tripped := false } else .refused (.notEnabled "TRIP_CLEARS: no trip holds the device")

end Sys2Proof.Machine
end

