-- ==== Sys2Proof/Machine/Schedule.lean ====
section
/-! DEFINITION. The scheduler of a quadrant (R35 to R39): the preparation of a jet (R43, R46 to R49), readiness,
`JET_START`, `YIELD` (R404), `AGEING_STEP`, the delivery of notices (R246), the probe token (R50), and what a core cycle
that passes does. -/

namespace Sys2Proof.Machine

/-! ### What the instructions of a jet use -/

/-- The part of a lane instruction that decides when its jet may start: vector registers read or written, those
written, whether as a class V result (R46), the counter it raises (R99), whether it accesses the scratchpad (R96). -/
structure LaneUse where
  regs : List Nat
  writes : List Nat
  varying : Bool
  path : Option Path
  sp : Bool
  deriving DecidableEq, Repr

def selRegs : Sel → List Nat
  | .v n => [n.toNat]
  | _ => []

/-- The registers of an operand that may be an even pair. -/
def pairRegs : Sel → List Nat
  | .v n => [n.toNat, n.toNat + 1]
  | _ => []

/-- The registers of a data operand of 32 or 64 bits. -/
def wideRegs (wide : Bool) (x : Sel) : List Nat := if wide then pairRegs x else selRegs x

/-- `k` registers from one. -/
def runRegs (d k : Nat) : List Nat := (List.range k).map (d + ·)

/-- A class F instruction (R46): `.nw` writes no register. -/
def useF (nw : Bool) (ws : List Nat) (sels : List Sel) : LaneUse :=
  let w := if nw then [] else ws
  { regs := sels.flatMap selRegs ++ w, writes := w, varying := false, path := none, sp := false }

/-- A class V instruction. -/
def useV (ws rs : List Nat) (sp : Bool) : LaneUse := { regs := rs ++ ws, writes := ws, varying := true, path := none, sp := sp }

/-- An instruction of a counted path. -/
def useP (p : Path) (ws rs : List Nat) : LaneUse := { regs := rs ++ ws, writes := ws, varying := false, path := some p, sp := false }

def typeRegs (ty : AtTy) : Nat := if ty = .s64 then 2 else 1

/-- What a lane instruction uses. -/
def laneUse (i : Instr) : LaneUse :=
  match i with
  | .movLane nw d a | .notLane nw d a | .popc nw d a | .clz nw d a => useF nw [d.toNat] [a]
  | .iaddLane nw d a b | .isubLane nw d a b | .imulLane nw d a b | .imulhiS32 nw d a b | .imulhiN32 nw d a b
  | .iminS32Lane nw d a b | .iminN32 nw d a b | .imaxS32Lane nw d a b | .imaxN32 nw d a b | .andLane nw d a b
  | .orLane nw d a b | .xorLane nw d a b | .shlLane nw d a b | .shrN32Lane nw d a b | .shrS32Lane nw d a b
  | .fadd nw d a b | .fsub nw d a b | .fmul nw d a b | .fmin nw d a b | .fmax nw d a b => useF nw [d.toNat] [a, b]
  | .imad nw _ d a b c _ | .ffma nw _ d a b c | .bfe nw _ d a b c _ => useF nw [d.toNat] [a, b, c]
  | .isetpLane _ _ _ a b _ | .fsetp _ _ _ a b _ => useF true [] [a, b]
  | .selLane nw _ d a b _ _ | .padd nw _ d a b _ _ | .pmul nw _ d a b _ _ | .pmax nw _ d a b _ | .pmin nw _ d a b _ =>
    useF nw [d.toNat] [a, b]
  | .pfma nw _ d a b c _ _ => useF nw [d.toNat] [a, b, c]
  | .bfi nw _ d a b src => useF nw [d.toNat] (match src with
      | .reg c => [a, b, c]
      | .const _ _ => [a, b])
  | .fcvt nw _ d a base _ _ _ _ df _ => useF nw [d.toNat] (if df.width = 32 then [a] else [a, base])
  | .frnd nw _ d a _ => useF nw [d.toNat] [a]
  | .moviLane nw d _ => useF nw [d.toNat] []
  | .hcvt _ _ _ a => { useF true [] [] with regs := match a with
      | .v n => runRegs n.toNat 8
      | _ => [] }
  | .hexp nw _ d _ => useF nw (runRegs d.toNat 8) []
  | .hdot nw _ d _ _ => useF nw [d.toNat] []
  | .hnrm nw _ d _ => useF nw [d.toNat] []
  | .owfoot d cells => useF false [d.toNat] cells
  | .qret a => useF true [] [a]
  | .fsfu _ d a _ => useV [d.toNat] (selRegs a) false
  | .shfl _ d a b _ => useV [d.toNat] (selRegs a ++ selRegs b) false
  | .vote _ d _ _ _ => useV [d.toNat] [] false
  | .red _ d a _ _ => useV [d.toNat] (selRegs a) false
  | .lds _ d base idx size _ _ => useV (runRegs d.toNat (regCount (sizeBytes size))) (selRegs base ++ selRegs idx) true
  | .atoms _ d base idx data _ _ ty _ nd _ =>
    let r := runRegs d.toNat (typeRegs ty)
    useV (if nd then [] else r) (selRegs base ++ selRegs idx ++ wideRegs (ty == .s64) data) true
  | .sts _ data base idx size _ _ =>
    { useF true [] [base, idx] with
        regs := runRegs data.toNat (regCount (sizeBytes size)) ++ selRegs base ++ selRegs idx, sp := true }
  | .accld _ d bank word w _ => useV (runRegs d.toNat (accWords w)) (selRegs bank ++ selRegs word) false
  | .accst _ data bank word w _ =>
    { useF true [] [bank, word] with regs := runRegs data.toNat (accWords w) ++ selRegs bank ++ selRegs word }
  | .ld _ d cap idx size _ _ _ => useP .ld (runRegs d.toNat (regCount (sizeBytes size))) (pairRegs cap ++ selRegs idx)
  | .ldc _ d cap idx size _ _ => useP .cst (runRegs d.toNat (regCount (sizeBytes size))) (pairRegs cap ++ selRegs idx)
  | .ldv _ d vd cap idx size _ _ =>
    useP .ld (runRegs d.toNat (regCount (sizeBytes size)) ++ [vd.toNat]) (pairRegs cap ++ selRegs idx)
  | .smpl _ d cap u v _ => useP .smp (runRegs d.toNat 4) (pairRegs cap ++ selRegs u ++ selRegs v)
  | .st _ data cap idx size _ _ _ =>
    useP .st [] (runRegs data.toNat (regCount (sizeBytes size)) ++ pairRegs cap ++ selRegs idx)
  | .dep _ data cap idx _ _ _ => useP .st [] (data.toNat :: pairRegs cap ++ selRegs idx)
  | .atom _ d cap idx data _ _ ty _ nd _ =>
    let r := runRegs d.toNat (typeRegs ty)
    useP (if nd then .st else .ld) (if nd then [] else r) (pairRegs cap ++ selRegs idx ++ wideRegs (ty == .s64) data)
  | .casv _ d v cap idx new wide _ _ =>
    useP .ld (runRegs d.toNat (if wide then 2 else 1) ++ [v.toNat]) (pairRegs cap ++ selRegs idx ++ wideRegs wide new)
  | .valset _ d cap idx exp data wide w _ =>
    useP .ld [d.toNat] (pairRegs cap ++ selRegs idx ++ selRegs exp
      ++ (if w then wideRegs wide data else []))
  | .tcopy _ _ form => { useF true [] [] with path := some .cpy, regs := match form with
      | .strided => []
      | .gather a b => selRegs a ++ selRegs b }
  | .dsc .. => { useF true [] [] with path := some .dsc }
  | .bra .. | .mma .. | .hmov .. | .hadd .. => useF true [] []
  | .hscl _ _ _ _ f _ => useF true [] [f]
  | _ => useF true [] []

/-- The counter that a uniform instruction raises. -/
def uniPath : Instr → Option Path
  | .stu .. => some .st
  | .tstore _ | .copy .. => some .cpy
  | _ => none

/-! ### Preparation (R43, R47) -/

/-- What preparation has found along its path through the jet: registers, vector writes in order with their class,
the names of the `TRAIL`, the counters raised, the number of `QTAKE`s and `QRET`s, whether it accesses the scratchpad or
holds an `MMA`, an `OWFOOT` or a lane's write (R219), the descriptors of its `TCOPY`s, the queue violation it met (R43) with its position, and whether its first
instruction would stall the group at a barrier, a gate, `WAITC` or `MMWAIT` (R35); `code` are the lines of the code object that it has
fetched (R15), `blind` the uniform registers whose values wait for the first instruction's answer. -/
structure Prep where
  regs : List Nat
  writes : List (Nat × Bool)
  names : List Nat
  paths : List Path
  takes : Nat
  rets : Nat
  sends : Nat
  sp : Bool
  mma : Bool
  tiles : List Nat
  bad : Option (Nat × Nat)
  stalls : Bool
  foot : Bool
  wr : Bool
  code : List Nat
  blind : List Nat
  deriving DecidableEq, Repr

def Prep.start : Prep :=
  { regs := [], writes := [], names := [], paths := [], takes := 0, rets := 0, sends := 0, sp := false, mma := false,
    tiles := [], bad := none, stalls := false, foot := false, wr := false, code := [], blind := [] }

/-- Takes in a lane instruction; a member of a descent group raises no counter of its own (R112). -/
def Prep.lane (p : Prep) (member : Bool) (i : Instr) : Prep :=
  let u := laneUse i
  { p with
    regs := p.regs ++ u.regs, writes := p.writes ++ u.writes.map (fun r => (r, u.varying)),
    paths := if member then p.paths else p.paths ++ u.path.toList, sp := p.sp || u.sp,
    rets := match i with
      | .qret _ => p.rets + 1
      | _ => p.rets,
    foot := p.foot || (match i with
      | .owfoot .. => true
      | _ => false),
    wr := p.wr || (match i with
      | .st .. | .atom .. | .casv .. | .dep .. | .valset _ _ _ _ _ _ _ true _ | .dsc true _ => true
      | _ => false),
    mma := p.mma || (match i with
      | .mma .. => true
      | _ => false),
    tiles := match i with
      | .tcopy _ t _ => p.tiles ++ [t.toNat]
      | _ => p.tiles }

/-- Runs a uniform instruction of the current group. `YIELD` has no effect that preparation needs. -/
def runUniform (i : Instr) (s : State) : Out :=
  match i with
  | .nop => execNop s
  | .movUniform d a => execMovUniform d a s
  | .iaddUniform d a b => execIaddUniform d a b s
  | .isubUniform d a b => execIsubUniform d a b s
  | .imulUniform d a b => execImulUniform d a b s
  | .andUniform d a b => execAndUniform d a b s
  | .orUniform d a b => execOrUniform d a b s
  | .xorUniform d a b => execXorUniform d a b s
  | .shlUniform d a b => execShlUniform d a b s
  | .shrN32Uniform d a b => execShrN32Uniform d a b s
  | .shrS32Uniform d a b => execShrS32Uniform d a b s
  | .iminS32Uniform d a b => execIminS32Uniform d a b s
  | .imaxS32Uniform d a b => execImaxS32Uniform d a b s
  | .qsend a => execQsend a s
  | .qtake d => execQtake d s
  | .movs d r => execMovs d r s
  | .join => execJoin s
  | .ret l => execRet l s
  | .exit => execExit s
  | .ofence => execOfence s
  | .pfence m => execPfence m s
  | .bpt => execBpt s
  | .trapret => execTrapret s
  | .setem a => execSetem a s
  | .setpart a => execSetpart a s
  | .mmwait => execMmwait s
  | .ownext => execOwnext s
  | .moviUniform d x => execMoviUniform d x s
  | .isetpUniform d a b c => execIsetpUniform d a b c s
  | .selUniform d a b c => execSelUniform d a b c s
  | .jmp t o => execJmp t o s
  | .call l t o => execCall l t o s
  | .mark o => execMark o s
  | .fence k => execFence k s
  | .bar y i n => execBar y i n s
  | .gate op b o => execGate op b o s
  | .waitc p t => execWaitc p t s
  | .ldu d c i w o x => execLdu d c i w o x s
  | .stu d c i w o x => execStu d c i w o x s
  | .acqb d n => execAcqb d n s
  | .relb b n => execRelb b n s
  | .launch d c => execLaunch d c s
  | .signal a c v => execSignal a c v s
  | .coll r l n o t => execColl r l n o t s
  | .trap c => execTrap c s
  | .fwcall d c f => execFwcall d c f s
  | .mtsr r a => execMtsr r a s
  | .extmap d c o => execExtmap d c o s
  | .owbegin c a n r => execOwbegin c a n r s
  | .tstore t => execTstore t s
  | .copy d r n a => execCopy d r n a s
  | .tld t c o => execTld t c o s
  | _ => runInstr s i (groupBody fun g => .ok (g, .none, none))

/-- The words at a group's pc: the first and, where its X bit announces one, the second. -/
def State.fetch (s : State) (g : Group) : Except Trap (Word × Word) :=
  match s.fetchWord g g.pc with
  | .error t => .error t
  | .ok w0 =>
    if hasExt w0 then
      match s.fetchWord g (g.pc + 4) with
      | .error t => .error t
      | .ok w1 => .ok (w0, w1)
    else .ok (w0, 0#32)

def wordLen (w0 : Word) : Nat := if hasExt w0 then 8 else 4

/-- The lines of code that a quadrant has fetched are in their home slices: a fetch miss fills them (R15, R102); `none` where a fill waits. -/
def State.codeFill (s : State) (q : Nat) (g : Group) (lines : List Nat) : Option State :=
  let obj := capObj (s.codeCap g)
  lines.foldl (fun (acc : Option State) l => acc.bind (fun s =>
    if !(s.extent (extKey g.basin obj (l / 512))).v then some s else s.fillLine g.basin obj l (s.homeDie g.basin obj l (dieOf q)))) (some s)

/-- The instructions at which a group that must wait counts as stalled (R35). -/
def stallsAt : Instr → Bool
  | .bar .. | .gate .. | .waitc .. | .mmwait => true
  | _ => false

/-- The uniform registers that an instruction which waits will write: preparation goes on past it without their values. Of the
instructions that wait, only `OWNEXT` decides where its jet goes on. -/
def seesPast : Instr → Option (List Nat)
  | .bar .. | .waitc .. | .mmwait | .ofence | .pfence .. | .fence .. | .signal .. | .coll .. | .tld .. | .stu .. | .relb ..
  | .tstore .. | .copy .. | .owbegin .. => some []
  | .gate op _ _ => some (match op with
      | .arrive d | .sync d => [d.toNat]
      | _ => [])
  | .acqb d _ | .fwcall d _ _ | .launch d _ | .extmap d _ _ => some [d.toNat]
  | .ldu d _ _ wide _ _ => some (if wide then [d.toNat, d.toNat + 1] else [d.toNat])
  | _ => none

/-- The uniform registers that some operands name. -/
def uRegs (xs : List USel) : List Nat := xs.flatMap (fun x => match x with
  | .s n => [n.toNat]
  | _ => [])

/-- What a uniform instruction in the middle of a jet reads and writes. -/
def uniUse : Instr → List Nat × List Nat
  | .movUniform d a => (uRegs [a], [d.toNat])
  | .iaddUniform d a b | .isubUniform d a b | .imulUniform d a b | .andUniform d a b | .orUniform d a b | .xorUniform d a b
  | .shlUniform d a b | .shrN32Uniform d a b | .shrS32Uniform d a b | .iminS32Uniform d a b | .imaxS32Uniform d a b =>
    (uRegs [a, b], [d.toNat])
  | .isetpUniform d a b _ => (uRegs [a, b], [d.toNat])
  | .selUniform d a b c => (uRegs [a, b, c], [d.toNat])
  | .qtake d | .moviUniform d _ => ([], [d.toNat])
  | .call l _ _ => ([], [l.toNat])
  | _ => ([], [])

/-- The registers that decide where a transfer goes. -/
def pathUse : Instr → List Nat
  | .jmp (.test _ a) _ | .call _ (.test _ a) _ => uRegs [a]
  | .ret l => [l.toNat]
  | _ => []

/-- Takes in a uniform instruction: what it writes from values that are not known is not known either. -/
def Prep.uniform (p : Prep) (i : Instr) : Prep :=
  let u := uniUse i
  let rest := p.blind.filter (fun r => !u.2.contains r)
  { p with
    paths := p.paths ++ (uniPath i).toList,
    sends := match i with
      | .qsend _ => p.sends + 1
      | _ => p.sends,
    takes := match i with
      | .qtake _ => p.takes + 1
      | _ => p.takes,
    blind := if u.1.any (fun r => p.blind.contains r) then u.2 ++ rest else rest }

/-- The lines that an instruction word lies on. -/
def codeLines (pc len : Nat) : List Nat := [pc / 128, (pc + len - 4) / 128].eraseDups

/-- Follows a jet on a copy of the state, up to its `TRAIL`, a trap, a transfer that depends on an answer still to come, or an `OWNEXT`
that waits (R43, R44, R47): lane instructions are passed over, uniform ones take effect. `dsc` members of a descent group are still to
pass. -/
def prepare (q slot : Nat) : Nat → Nat → State → Prep → Prep
  | 0, _, _, p => p
  | n + 1, dsc, s, p =>
    match s.group? q slot with
    | none => p
    | some g =>
      match s.fetch g with
      | .error _ => p
      | .ok (w0, w1) =>
        match decode w0 w1 with
        | .error _ => p
        | .ok i =>
          let pos := g.jetOr.pos
          let p := { p with code := (p.code ++ codeLines g.pc (wordLen w0)).eraseDups }
          if !(W1.ofWord w0).s then
            let left := match i with
              | .dsc _ k => k.toNat
              | _ => dsc - 1
            prepare q slot n left (s.setGroup q slot (g.advance .none (g.pc + wordLen w0))) (p.lane (0 < dsc) i)
          else
            match i with
            | .trail (some (a, b, c)) => { p with names := [a.toNat, b.toNat, c.toNat] }
            | .trail none => p
            | _ =>
              let full := (match i with
                | .qsend _ => true
                | _ => false) && decide (17 ≤ g.fwd.length)
              let empty := (match i with
                | .qtake _ => true
                | _ => false) && g.ret.isEmpty
              if full then { p with bad := some (pos, 3) }
              else if empty then { p with bad := some (pos, 4) }
              else if (pathUse i).any (fun r => p.blind.contains r) then p
              else
                let p := p.uniform i
                match runUniform i s with
                | .next s2 =>
                  match s2.group? q slot with
                  | some g2 =>
                    if g2.jetOr.pos = pos + 1 then prepare q slot n dsc s2 p
                    else
                      match (if g2.jet = none ∧ g2.wait ≠ .none then seesPast i else none) with
                      | some ds =>
                        prepare q slot n dsc (s.setGroup q slot (g.advance .none (g.pc + wordLen w0)))
                          { p with stalls := p.stalls || stallsAt i, blind := ds }
                      | none => p
                  | none => p
                | _ => p

/-- Prepares the next jet of a group. -/
def State.prep (s : State) (q slot : Nat) (g : Group) : Prep :=
  prepare q slot 24 0 ({ s with cur := (q, slot) }.setGroup q slot { g with jet := some (Jet.fresh g.pc) }) Prep.start

/-- The names that take a scoreboard entry (R46): those whose last writer in the jet is of class V. -/
def Prep.entries (p : Prep) : List Nat :=
  p.names.eraseDups.filter (fun r => ((p.writes.filter (fun w => w.1 == r)).getLast?.map (fun w => w.2)).getD false)

/-- The queue violation that the jet will raise (R43): the overcommitted return queue at its first instruction. -/
def Prep.plan (p : Prep) (g : Group) : Option (Nat × Nat) :=
  if 8 < g.ret.length - p.takes + p.rets then some (0, 5) else p.bad

/-- Whether a push finds the forward queue's 16 entries in use and waits for the probe token (R48). -/
def Prep.blocked (p : Prep) (g : Group) : Bool :=
  decide (g.fwd.length ≤ 16) && decide (16 < g.fwd.length + p.sends) && !g.fwdGrant

/-! ### Readiness (R35) -/

/-- Whether a condition holds that a catch-up instruction waits for. -/
def State.condMet (s : State) (q slot : Nat) (g : Group) (c : Cond) : Bool :=
  match c with
  | .counter p thr => decide (g.counter p ≤ thr)
  | .paths m => g.quiet m
  | .applied => s.applied q slot
  | .crewIdle => s.crewIdle q g
  | .mm => (s.mmas q slot g).isEmpty
  | .banks b n => s.banksQuiet q slot g b n
  | .tcopies => s.tcopiesDone q slot g
  | .copyOn t => s.copyFree q slot g t
  | .copyIdle t => s.copyIdle q slot g t
  | .orders => g.orders.isEmpty
  | .reads => g.orders.isEmpty && g.relReads.isEmpty
  | .atHand c n w => s.custMeets g.basin c n w != .wait
  | .answered r => (s.req? r).isNone
  | .mayTrack c => (s.basin g.basin).mayTrack c

/-- Whether what a group stands at lets its jet start. -/
def State.waitMet (s : State) (q slot : Nat) (g : Group) : Bool :=
  match g.wait with
  | .none | .answer _ | .status _ => true
  | .stage _ => g.orders.isEmpty
  | .until c => s.condMet q slot g c
  | .bar r => r
  | .gate _ _ r => r
  | .request r => (s.req? r).isNone
  | .acqb | .call | .coll .. => false

/-- Waits whose instruction has taken its effect, so that its jet comes before any notice. -/
def Wait.done : Wait → Bool
  | .status _ | .answer _ | .bar true | .gate _ _ true => true
  | _ => false

/-- What preparation requires besides the queues (R46, R96, R99, R201, R392): the record that an `OWFOOT`, or a
lane's write in an open loop, touches follows the group's acquires (R126, R215). -/
def State.prepMet (s : State) (q slot : Nat) (x : Quad) (g : Group) (p : Prep) : Bool :=
  let held := g.score.filter (fun e => e.flight.isSome)
  held.all (fun e => !p.regs.contains e.reg)
    && decide (held.length + p.entries.length ≤ 6)
    && p.paths.all (fun c => decide (g.counter c + (p.paths.filter (fun d => d == c)).length ≤ 63))
    && !(p.sp && x.staged slot)
    && !(p.mma && g.staging.isSome)
    && !((p.foot || (p.wr && g.inLoop)) && !g.orders.isEmpty)
    && p.tiles.all (fun t => s.copyIdle q slot g t)

/-- Whether a group stands at a boundary with a notice that it takes there (R246). -/
def Group.noticeDue (g : Group) : Bool := g.jet.isNone && !g.retired && !g.wait.done && g.nextNotice.isSome

/-- Whether a notice is to be delivered in a quadrant: it goes before the next jet (R246). -/
def Quad.noticeDue (x : Quad) : Bool := x.groups.any (fun e => e.2.noticeDue)

/-- Whether a group could start a jet but for its preparation. A notice that it has still to take at its boundary leaves it ready
(R35, R246). -/
def State.awake (s : State) (q slot : Nat) (x : Quad) (g : Group) : Bool :=
  g.jet.isNone && !g.retired && (!(x.halted || g.halted) || g.wait.pending) && s.waitMet q slot g

/-- The preparation of a group whose jet may start, or whose first instruction has still to find out that it stalls. -/
def State.mayStart? (s : State) (q slot : Nat) (x : Quad) (g : Group) : Option Prep :=
  if s.awake q slot x g then
    let p := s.prep q slot g
    if s.prepMet q slot x g p && !p.blocked g && (s.codeFill q g p.code).isSome then some p else none
  else none

/-- Whether a group is ready (R35): its jet may start, and it does not stand before a stall point that it cannot pass. -/
def State.ready (s : State) (q slot : Nat) (x : Quad) (g : Group) : Bool := (s.mayStart? q slot x g).any (fun p => !p.stalls)

/-- Whether the group in a slot is ready. -/
def State.isReady (s : State) (q : Nat) (x : Quad) (slot : Nat) : Bool := (NMap.get? x.groups slot).any (fun g => s.ready q slot x g)

/-! ### `JET_START` (R35, R36) -/

/-- A group that may start: slot, group and preparation; one held back by a `YIELD` may not while a group it waits for
is ready and has not started (R404). -/
def State.starters (s : State) (q : Nat) (x : Quad) : List (Nat × Group × Prep) :=
  x.groups.filterMap (fun (e : Nat × Group) =>
    if e.2.yieldFor.any (fun o => s.isReady q x o) then none
    else (s.mayStart? q e.1 x e.2).map (fun p => (e.1, e.2, p)))

/-- How long a group has waited, on its quadrant's counter, which wraps (R36). -/
def Group.waited (g : Group) (cycle : Nat) : Nat := (cycle + 2 ^ 64 - g.waitSince) % 2 ^ 64

/-- Whether one group goes before another (R36): effective priority, wait, slot. -/
def startsBefore (cycle : Nat) (a b : Nat × Group × Prep) : Bool :=
  let pa := a.2.1.prio + a.2.1.ageSteps
  let pb := b.2.1.prio + b.2.1.ageSteps
  decide (pb < pa) || (pa == pb && (decide (b.2.1.waited cycle < a.2.1.waited cycle) ||
    (a.2.1.waited cycle == b.2.1.waited cycle && decide (a.1 < b.1))))

/-- The group whose jet starts. -/
def chooseStart (cycle : Nat) (l : List (Nat × Group × Prep)) : Option (Nat × Group × Prep) :=
  l.foldl (fun (b : Option (Nat × Group × Prep)) a =>
    match b with
    | none => some a
    | some o => if startsBefore cycle a o then some a else some o) none

/-- A jet opens with its plan, the first number of its own results and the entries of its `TRAIL`; a granted reserve entry is used up. -/
def Group.openJet (g : Group) (p : Prep) (first : Nat) : Group :=
  { g with jet := some { Jet.fresh g.pc with plan := p.plan g, first := first }, fwdGrant := false,
           score := g.score.filter (fun e => e.flight.isSome) ++ p.entries.map (fun r => { reg := r, flight := none }) }

/-- `JET_START` (R35, R36, R46 to R49); the jet's code has been fetched (R15), and notices at a boundary of the quadrant have been
taken (R246). -/
def execJetStart (q : Nat) (s : State) : Out :=
  match s.quad? q with
  | none => .refused (.notEnabled "JET_START: no quadrant")
  | some x =>
    if x.issuing.isSome then .refused (.notEnabled "JET_START: a jet is issuing")
    else if 0 < x.gapLeft then .refused (.notEnabled "JET_START: the gap after a jet")
    else if x.issued.isSome then .refused (.notEnabled "JET_START: an instruction has issued in this cycle")
    else if x.noticeDue then .refused (.notEnabled "JET_START: a notice is to be delivered first")
    else
      match chooseStart x.cycle (s.starters q x) with
      | none => .refused (.notEnabled "JET_START: no group is ready")
      | some (slot, g, p) =>
        let s := (s.codeFill q g p.code).getD s
        .next { s.setQuad q { x.setGroup slot (g.openJet p s.nextId) with
            issuing := some slot,
            groups := (x.setGroup slot (g.openJet p s.nextId)).groups.map (fun (e : Nat × Group) =>
              (e.1, { e.2 with yieldFor := e.2.yieldFor.filter (· != slot) })) } with cur := (q, slot) }

/-! ### `YIELD` (R404) -/

/-- `YIELD`: the other groups that are ready now go first. -/
def execYield (s : State) : Out :=
  runInstr s .yield fun s q slot g =>
    match s.quad? q with
    | none => .stall
    | some x =>
      let r := (x.groups.filter (fun (e : Nat × Group) => e.1 != slot && s.isReady q x e.1)).map (fun e => e.1)
      .next (s.setGroup q slot { g with yieldFor := r }) .none none

/-! ### Ageing (R37) -/

/-- Whether a group has counted a step that it has not gained yet. -/
def Group.stepDue (g : Group) : Bool := decide (g.ageSteps < g.ageCount / 4096) && decide (g.prio + g.ageSteps < g.ceil)

/-- `AGEING_STEP`: each 4,096 cycles counted give one step, up to the ceiling. -/
def execAgeingStep (q slot : Nat) (s : State) : Out :=
  match s.group? q slot with
  | none => .refused (.notEnabled "AGEING_STEP: no group")
  | some g =>
    if g.ageCount / 4096 ≤ g.ageSteps then .refused (.notEnabled "AGEING_STEP: 4,096 cycles are not counted")
    else if g.ceil ≤ g.prio + g.ageSteps then .refused (.notEnabled "AGEING_STEP: the group is at its ceiling")
    else .next (s.setGroup q slot { g with ageSteps := g.ageSteps + 1 })

/-! ### Notices (R246) -/

/-- A group's waiting `ACQB` request is withdrawn; it runs again after the handler. -/
def State.leaveAcqb (s : State) (q slot : Nat) : State :=
  s.modEngine (slotOf q) (fun x => { x with acqq := x.acqq.filter (fun e => !(e.1 == q && e.2.1 == slot)) })

/-- A group that stands at its `BAR` leaves it for its handler and arrives again afterwards (R153, R246): it is no longer among the
waiting groups, an arrival that was counted stays counted, and one that was held is withdrawn (DESIGN CHOICE, log 92). -/
def State.leaveBar (s : State) (q : Nat) (g : Group) : State :=
  match g.wait with
  | .bar _ => (List.range 24).foldl (fun s id =>
      let b := s.barrier q g id
      if b.stands (g.member id) then s.setBarrier q g id (b.leave (g.member id)) else s) s
  | _ => s

/-- `NOTICE_DELIVERY` (R246, R54, R55): the next notice is taken at the group's jet boundary. -/
def execNoticeDelivery (q slot : Nat) (s : State) : Out :=
  match s.group? q slot with
  | none => .refused (.notEnabled "NOTICE_DELIVERY: no group")
  | some g =>
    if g.jet.isSome then .refused (.notEnabled "NOTICE_DELIVERY: the group's jet has not ended")
    else if g.retired then .refused (.notEnabled "NOTICE_DELIVERY: the group has retired")
    else if g.wait.done then .refused (.notEnabled "NOTICE_DELIVERY: an instruction that has taken effect ends first")
    else
      match g.nextNotice with
      | none => .refused (.notEnabled "NOTICE_DELIVERY: no notice can be taken")
      | some n =>
        .next ((((s.leaveAcqb q slot).leaveBar q g).setGroup q slot { g with notices := g.notices.erase n }).takeNotice q slot n g.pc).settle

/-! ### The probe token (R50) -/

/-- Whether a group's next jet waits for the forward queue's reserve entry. -/
def State.fwdBlocked (s : State) (q slot : Nat) : Bool :=
  match s.quad? q with
  | none => false
  | some x =>
    match NMap.get? x.groups slot with
    | none => false
    | some g => s.awake q slot x g && (s.prep q slot g).blocked g

/-- Whether the slice of a basin waits to take up a record: 32 launches are not complete. -/
def Basin.ringBlocked (x : Basin) : Bool := x.phase == .started && x.accepting && x.win.head != x.win.tail && decide (32 ≤ x.launches.length)

/-- The push that a quadrant's full descent queue has blocked for 256 cycles, the oldest of them. -/
def State.blockedDescent (s : State) (q : Nat) : Option Nat :=
  (s.reqs.find? (fun (e : Nat × Req) => e.2.owner.q == q && e.2.st == .held && e.2.holdFor.isEmpty && e.2.kind.isDescent
      && s.queueFull q e.2 && e.2.fullAt.any (fun t => decide (t + 256 ≤ s.now)))).map (fun e => e.1)

/-- The group whose `MMA` a full reservation table has blocked for 256 cycles, the first of them. -/
def State.blockedMma (s : State) (qs : Nat) : Option (Nat × Nat) :=
  if (s.engine qs).table.length < 16 then none
  else (s.allGroups.find? (fun e => slotOf e.1 == qs && e.2.2.staging.any (fun r => decide (256 ≤ r.waited)))).map (fun e => (e.1, e.2.1))

/-- Whether a push has been blocked for 256 cycles. -/
def State.pushBlocked (s : State) (u : QueueRef) : Bool :=
  match u with
  | .forward q slot =>
    match s.quad? q, s.group? q slot with
    | some x, some g =>
      (match g.blockedSince with
        | some t => decide (t + 256 ≤ x.cycle)
        | none => false) && s.fwdBlocked q slot
    | _, _ => false
  | .reservation qs => (s.blockedMma qs).isSome
  | .descent q => (s.blockedDescent q).isSome
  | .distributor b =>
    let x := s.basin b
    x.ringBlocked && x.blockedSince.any (fun t => decide (t + 256 ≤ s.now))

/-- Whether a queue's reserve entry is taken (R50). -/
def State.reserveTaken (s : State) (u : QueueRef) : Bool :=
  match u with
  | .forward .. => false
  | .reservation qs => (s.engine qs).grant.isSome
  | u => s.granted.any (fun (x : QueueRef × Option Nat) => x.1 == u)

/-- Grants a queue's reserve entry to its blocked push, and to no other (R50). -/
def State.grantReserve (s : State) (u : QueueRef) : State :=
  match u with
  | .forward q slot => s.modGroup q slot (fun g => { g with fwdGrant := true })
  | .reservation qs => s.modEngine qs (fun x => { x with grant := s.blockedMma qs })
  | .descent q => match s.blockedDescent q with
    | some id => { s with granted := s.granted ++ [(.descent q, some id)] }
    | none => s
  | .distributor b => { s with granted := s.granted ++ [(.distributor b, none)] }

/-- `PROBE_TOKEN_TIMEOUT`: the blocked push sends a token along its waits-for link; with the reserve entry taken, it waits until that
drains. -/
def execProbeTokenTimeout (u : QueueRef) (s : State) : Out :=
  if s.probes.any (fun t => t.origin == u) then .refused (.notEnabled "PROBE_TOKEN_TIMEOUT: its token is out")
  else if s.reserveTaken u then .refused (.notEnabled "PROBE_TOKEN_TIMEOUT: the reserve entry has still to drain")
  else if !s.pushBlocked u then .refused (.notEnabled "PROBE_TOKEN_TIMEOUT: no push has been blocked for 256 cycles")
  else .next { s with probes := s.probes ++ [{ origin := u, at_ := u }] }

/-- `PROBE_TOKEN` (R50, R48): a forward queue waits for the jet that its own push holds back, so its token returns and
grants the reserve entry. For the other queues the spec draws no waits-for links: while the push is still blocked, whether the token
comes back or reaches a unit that is not blocked is open (DESIGN CHOICE, log 76). -/
def execProbeToken (ix : Nat) (s : State) : Out :=
  match s.probes[ix]? with
  | none => .refused (.notEnabled "PROBE_TOKEN: no token")
  | some t =>
    let s := { s with probes := s.probes.eraseIdx ix }
    match t.origin with
    | .forward q slot => .next (if s.fwdBlocked q slot then s.grantReserve t.origin else s)
    | u =>
      if !s.pushBlocked u then .next s
      else
        let back := Config.freeBit s.freeIx
        let s := { s with freeIx := s.freeIx + 1 }
        .next (if back then (s.grantReserve u).settle else s)

/-! ### Core cycles -/

/-- A group after some cycles (R37, R404, R50): one in which it issued itself does not count. -/
def State.passGroup (s : State) (q : Nat) (x : Quad) (slot n : Nat) (g : Group) : Group :=
  let r := s.ready q slot x g
  let b := s.awake q slot x g && (s.prep q slot g).blocked g
  { g with
    ageCount := if r then g.ageCount + (if x.issued = some slot then n - 1 else n) else g.ageCount,
    yieldFor := g.yieldFor.filter (fun o => s.isReady q x o),
    blockedSince := if b then some (g.blockedSince.getD x.cycle) else none,
    staging := g.staging.map (fun r => { r with waited := if (s.engine (slotOf q)).table.length < 16 then 0 else r.waited + n }) }

/-- A quadrant after cycles. -/
def State.passQuad (s : State) (n : Nat) (e : Nat × Quad) : Nat × Quad :=
  (e.1, { e.2 with
    cycle := (e.2.cycle + n) % 2 ^ 64, gapLeft := e.2.gapLeft - n, issued := none,
    groups := e.2.groups.map (fun (p : Nat × Group) => (p.1, s.passGroup e.1 e.2 p.1 n p.2)) })

/-- A slot's reservation table after cycles: an eligible entry ages (R202). -/
def SlotEng.passTime (x : SlotEng) (stopped : Nat → Nat → Bool) (n : Nat) : SlotEng :=
  { x with table := x.table.map (fun r => if x.eligible r && !stopped r.q r.slot then { r with waited := r.waited + n } else r) }

/-- The groups whose eligible requests wait for a power token (R51, R206). -/
def State.tokenWaiters (s : State) : List (Nat × Nat) :=
  s.engines.flatMap (fun (e : Nat × SlotEng) =>
    if s.hasToken (e.1 / 4) then []
    else ((e.2.table.filter (fun r => e.2.eligible r && !s.crewStops r.q r.slot)).map (fun r => (r.q, r.slot))).eraseDups)

/-- Whether a group that may start a jet finds its scheduler idle in this cycle, so that no cycle may pass first (R35). -/
def State.mustStart (s : State) (e : Nat × Quad) : Bool :=
  e.2.issuing.isNone && e.2.issued.isNone && e.2.gapLeft == 0 && !(s.starters e.1 e.2).isEmpty

/-- Whether something that belongs to this cycle has still to be done: an ageing step (R37), a notice at a jet boundary (R246), the end of a
pass (R202), a frame of a ring (R206), a refill (R117). -/
def State.due (s : State) : Bool :=
  s.quads.any (fun (e : Nat × Quad) => e.2.noticeDue || e.2.groups.any (fun p => p.2.stepDue))
    || s.engines.any (fun (e : Nat × SlotEng) => e.2.pass.any (fun p => decide (p.2 ≤ s.now)))
    || s.rings.any (fun r => r.2.1 < s.now / 4096)
    || (s.powered && (List.range 8).any (fun k => NMap.getD s.refills k 0 < (s.now - s.upAt) / 16))

/-- The most cycles that may pass in one step: to the next border of a frame, of a refill, of an ageing step, of a pass; one at a time
where a jet is to go on or to start. -/
def State.span (s : State) (n : Nat) : Nat :=
  let n := if s.rings.isEmpty then n else min n (4096 - s.now % 4096)
  let n := if s.powered then min n (16 - (s.now - s.upAt) % 16) else n
  let n := s.engines.foldl (fun n (e : Nat × SlotEng) => match e.2.pass with
    | some (_, t) => min n (max 1 (t - s.now))
    | none => n) n
  s.quads.foldl (fun n (e : Nat × Quad) =>
    let n := if e.2.issuing.isSome then min n 1 else if (s.starters e.1 e.2).isEmpty then n else min n (max 1 e.2.gapLeft)
    e.2.groups.foldl (fun n p => if p.2.prio + p.2.ageSteps < p.2.ceil && s.ready e.1 p.1 e.2 p.2 then
      min n (4096 - p.2.ageCount % 4096) else n) n) n

/-- `n` core cycles pass. A quadrant whose jet is issuing issues in each of them, and an idle one starts the jet of a ready group
(R35). -/
def State.pass (s : State) (n : Nat) : Out :=
  if n = 0 then .refused (.notEnabled "tick: no cycle")
  else if s.quads.any (fun (e : Nat × Quad) => e.2.issuing.isSome && e.2.issued.isNone) then .refused (.notEnabled "tick: a jet is issuing")
  else if s.quads.any s.mustStart then .refused (.notEnabled "tick: a jet is to start")
  else if s.due then .refused (.notEnabled "tick: a step of this cycle is due")
  else if s.span n < n then .refused (.notEnabled "tick: something falls due before")
  else
    let s1 := { s with now := s.now + n, quads := s.quads.map (s.passQuad n),
                       engines := s.engines.map (fun (e : Nat × SlotEng) => (e.1, e.2.passTime s.crewStops n)),
                       basins := s.basins.map (fun (e : Nat × Basin) => (e.1, { e.2 with
                         blockedSince := if e.2.ringBlocked then some (e.2.blockedSince.getD s.now) else none })) }
    .next (s.tokenWaiters.foldl (fun s p => s.modGroup p.1 p.2 (fun g => { g with powerWait := g.powerWait + BitVec.ofNat 32 n })) s1)

end Sys2Proof.Machine
end

