-- ==== Sys2Proof/Machine/Dispatch.lean ====
section
/-! DEFINITION. The dispatch: one arm for each constructor of `Instr`, each a direct call of its meaning. -/

namespace Sys2Proof.Machine

def exec (i : Instr) (s : State) : Host.Outcome State Fault Refusal :=
  match i with
  | .movLane a0 a1 a2 => Sys2Proof.Machine.execMovLane a0 a1 a2 s
  | .iaddLane a0 a1 a2 a3 => Sys2Proof.Machine.execIaddLane a0 a1 a2 a3 s
  | .isubLane a0 a1 a2 a3 => Sys2Proof.Machine.execIsubLane a0 a1 a2 a3 s
  | .imulLane a0 a1 a2 a3 => Sys2Proof.Machine.execImulLane a0 a1 a2 a3 s
  | .imulhiS32 a0 a1 a2 a3 => Sys2Proof.Machine.execImulhiS32 a0 a1 a2 a3 s
  | .imulhiN32 a0 a1 a2 a3 => Sys2Proof.Machine.execImulhiN32 a0 a1 a2 a3 s
  | .iminS32Lane a0 a1 a2 a3 => Sys2Proof.Machine.execIminS32Lane a0 a1 a2 a3 s
  | .iminN32 a0 a1 a2 a3 => Sys2Proof.Machine.execIminN32 a0 a1 a2 a3 s
  | .imaxS32Lane a0 a1 a2 a3 => Sys2Proof.Machine.execImaxS32Lane a0 a1 a2 a3 s
  | .imaxN32 a0 a1 a2 a3 => Sys2Proof.Machine.execImaxN32 a0 a1 a2 a3 s
  | .andLane a0 a1 a2 a3 => Sys2Proof.Machine.execAndLane a0 a1 a2 a3 s
  | .orLane a0 a1 a2 a3 => Sys2Proof.Machine.execOrLane a0 a1 a2 a3 s
  | .xorLane a0 a1 a2 a3 => Sys2Proof.Machine.execXorLane a0 a1 a2 a3 s
  | .notLane a0 a1 a2 => Sys2Proof.Machine.execNotLane a0 a1 a2 s
  | .shlLane a0 a1 a2 a3 => Sys2Proof.Machine.execShlLane a0 a1 a2 a3 s
  | .shrN32Lane a0 a1 a2 a3 => Sys2Proof.Machine.execShrN32Lane a0 a1 a2 a3 s
  | .shrS32Lane a0 a1 a2 a3 => Sys2Proof.Machine.execShrS32Lane a0 a1 a2 a3 s
  | .popc a0 a1 a2 => Sys2Proof.Machine.execPopc a0 a1 a2 s
  | .clz a0 a1 a2 => Sys2Proof.Machine.execClz a0 a1 a2 s
  | .fadd a0 a1 a2 a3 => Sys2Proof.Machine.execFadd a0 a1 a2 a3 s
  | .fsub a0 a1 a2 a3 => Sys2Proof.Machine.execFsub a0 a1 a2 a3 s
  | .fmul a0 a1 a2 a3 => Sys2Proof.Machine.execFmul a0 a1 a2 a3 s
  | .fmin a0 a1 a2 a3 => Sys2Proof.Machine.execFmin a0 a1 a2 a3 s
  | .fmax a0 a1 a2 a3 => Sys2Proof.Machine.execFmax a0 a1 a2 a3 s
  | .qret a0 => Sys2Proof.Machine.execQret a0 s
  | .dsc a0 a1 => Sys2Proof.Machine.execDsc a0 a1 s
  | .hmov a0 a1 a2 => Sys2Proof.Machine.execHmov a0 a1 a2 s
  | .imad a0 a1 a2 a3 a4 a5 a6 => Sys2Proof.Machine.execImad a0 a1 a2 a3 a4 a5 a6 s
  | .ffma a0 a1 a2 a3 a4 a5 => Sys2Proof.Machine.execFfma a0 a1 a2 a3 a4 a5 s
  | .isetpLane a0 a1 a2 a3 a4 a5 => Sys2Proof.Machine.execIsetpLane a0 a1 a2 a3 a4 a5 s
  | .fsetp a0 a1 a2 a3 a4 a5 => Sys2Proof.Machine.execFsetp a0 a1 a2 a3 a4 a5 s
  | .selLane a0 a1 a2 a3 a4 a5 a6 => Sys2Proof.Machine.execSelLane a0 a1 a2 a3 a4 a5 a6 s
  | .bfe a0 a1 a2 a3 a4 a5 a6 => Sys2Proof.Machine.execBfe a0 a1 a2 a3 a4 a5 a6 s
  | .bfi a0 a1 a2 a3 a4 a5 => Sys2Proof.Machine.execBfi a0 a1 a2 a3 a4 a5 s
  | .fcvt a0 a1 a2 a3 a4 a5 a6 a7 a8 a9 a10 => Sys2Proof.Machine.execFcvt a0 a1 a2 a3 a4 a5 a6 a7 a8 a9 a10 s
  | .frnd a0 a1 a2 a3 a4 => Sys2Proof.Machine.execFrnd a0 a1 a2 a3 a4 s
  | .fsfu a0 a1 a2 a3 => Sys2Proof.Machine.execFsfu a0 a1 a2 a3 s
  | .moviLane a0 a1 a2 => Sys2Proof.Machine.execMoviLane a0 a1 a2 s
  | .padd a0 a1 a2 a3 a4 a5 a6 => Sys2Proof.Machine.execPadd a0 a1 a2 a3 a4 a5 a6 s
  | .pmul a0 a1 a2 a3 a4 a5 a6 => Sys2Proof.Machine.execPmul a0 a1 a2 a3 a4 a5 a6 s
  | .pfma a0 a1 a2 a3 a4 a5 a6 a7 => Sys2Proof.Machine.execPfma a0 a1 a2 a3 a4 a5 a6 a7 s
  | .pmax a0 a1 a2 a3 a4 a5 => Sys2Proof.Machine.execPmax a0 a1 a2 a3 a4 a5 s
  | .pmin a0 a1 a2 a3 a4 a5 => Sys2Proof.Machine.execPmin a0 a1 a2 a3 a4 a5 s
  | .shfl a0 a1 a2 a3 a4 => Sys2Proof.Machine.execShfl a0 a1 a2 a3 a4 s
  | .vote a0 a1 a2 a3 a4 => Sys2Proof.Machine.execVote a0 a1 a2 a3 a4 s
  | .red a0 a1 a2 a3 a4 => Sys2Proof.Machine.execRed a0 a1 a2 a3 a4 s
  | .ld a0 a1 a2 a3 a4 a5 a6 a7 => Sys2Proof.Machine.execLd a0 a1 a2 a3 a4 a5 a6 a7 s
  | .st a0 a1 a2 a3 a4 a5 a6 a7 => Sys2Proof.Machine.execSt a0 a1 a2 a3 a4 a5 a6 a7 s
  | .ldc a0 a1 a2 a3 a4 a5 a6 => Sys2Proof.Machine.execLdc a0 a1 a2 a3 a4 a5 a6 s
  | .smpl a0 a1 a2 a3 a4 a5 => Sys2Proof.Machine.execSmpl a0 a1 a2 a3 a4 a5 s
  | .lds a0 a1 a2 a3 a4 a5 a6 => Sys2Proof.Machine.execLds a0 a1 a2 a3 a4 a5 a6 s
  | .sts a0 a1 a2 a3 a4 a5 a6 => Sys2Proof.Machine.execSts a0 a1 a2 a3 a4 a5 a6 s
  | .atom a0 a1 a2 a3 a4 a5 a6 a7 a8 a9 a10 => Sys2Proof.Machine.execAtom a0 a1 a2 a3 a4 a5 a6 a7 a8 a9 a10 s
  | .atoms a0 a1 a2 a3 a4 a5 a6 a7 a8 a9 a10 => Sys2Proof.Machine.execAtoms a0 a1 a2 a3 a4 a5 a6 a7 a8 a9 a10 s
  | .dep a0 a1 a2 a3 a4 a5 a6 => Sys2Proof.Machine.execDep a0 a1 a2 a3 a4 a5 a6 s
  | .ldv a0 a1 a2 a3 a4 a5 a6 a7 => Sys2Proof.Machine.execLdv a0 a1 a2 a3 a4 a5 a6 a7 s
  | .casv a0 a1 a2 a3 a4 a5 a6 a7 a8 => Sys2Proof.Machine.execCasv a0 a1 a2 a3 a4 a5 a6 a7 a8 s
  | .valset a0 a1 a2 a3 a4 a5 a6 a7 a8 => Sys2Proof.Machine.execValset a0 a1 a2 a3 a4 a5 a6 a7 a8 s
  | .bra a0 a1 => Sys2Proof.Machine.execBra a0 a1 s
  | .hcvt a0 a1 a2 a3 => Sys2Proof.Machine.execHcvt a0 a1 a2 a3 s
  | .hexp a0 a1 a2 a3 => Sys2Proof.Machine.execHexp a0 a1 a2 a3 s
  | .hdot a0 a1 a2 a3 a4 => Sys2Proof.Machine.execHdot a0 a1 a2 a3 a4 s
  | .hadd a0 a1 a2 a3 a4 a5 => Sys2Proof.Machine.execHadd a0 a1 a2 a3 a4 a5 s
  | .hscl a0 a1 a2 a3 a4 a5 => Sys2Proof.Machine.execHscl a0 a1 a2 a3 a4 a5 s
  | .hnrm a0 a1 a2 a3 => Sys2Proof.Machine.execHnrm a0 a1 a2 a3 s
  | .owfoot a0 a1 => Sys2Proof.Machine.execOwfoot a0 a1 s
  | .mma a0 a1 a2 a3 a4 a5 a6 a7 a8 a9 => Sys2Proof.Machine.execMma a0 a1 a2 a3 a4 a5 a6 a7 a8 a9 s
  | .accld a0 a1 a2 a3 a4 a5 => Sys2Proof.Machine.execAccld a0 a1 a2 a3 a4 a5 s
  | .accst a0 a1 a2 a3 a4 a5 => Sys2Proof.Machine.execAccst a0 a1 a2 a3 a4 a5 s
  | .tcopy a0 a1 a2 => Sys2Proof.Machine.execTcopy a0 a1 a2 s
  | .nop => Sys2Proof.Machine.execNop s
  | .movUniform a0 a1 => Sys2Proof.Machine.execMovUniform a0 a1 s
  | .iaddUniform a0 a1 a2 => Sys2Proof.Machine.execIaddUniform a0 a1 a2 s
  | .isubUniform a0 a1 a2 => Sys2Proof.Machine.execIsubUniform a0 a1 a2 s
  | .imulUniform a0 a1 a2 => Sys2Proof.Machine.execImulUniform a0 a1 a2 s
  | .andUniform a0 a1 a2 => Sys2Proof.Machine.execAndUniform a0 a1 a2 s
  | .orUniform a0 a1 a2 => Sys2Proof.Machine.execOrUniform a0 a1 a2 s
  | .xorUniform a0 a1 a2 => Sys2Proof.Machine.execXorUniform a0 a1 a2 s
  | .shlUniform a0 a1 a2 => Sys2Proof.Machine.execShlUniform a0 a1 a2 s
  | .shrN32Uniform a0 a1 a2 => Sys2Proof.Machine.execShrN32Uniform a0 a1 a2 s
  | .shrS32Uniform a0 a1 a2 => Sys2Proof.Machine.execShrS32Uniform a0 a1 a2 s
  | .iminS32Uniform a0 a1 a2 => Sys2Proof.Machine.execIminS32Uniform a0 a1 a2 s
  | .imaxS32Uniform a0 a1 a2 => Sys2Proof.Machine.execImaxS32Uniform a0 a1 a2 s
  | .qsend a0 => Sys2Proof.Machine.execQsend a0 s
  | .qtake a0 => Sys2Proof.Machine.execQtake a0 s
  | .movs a0 a1 => Sys2Proof.Machine.execMovs a0 a1 s
  | .join => Sys2Proof.Machine.execJoin s
  | .ret a0 => Sys2Proof.Machine.execRet a0 s
  | .exit => Sys2Proof.Machine.execExit s
  | .trail a0 => Sys2Proof.Machine.execTrail a0 s
  | .ofence => Sys2Proof.Machine.execOfence s
  | .pfence a0 => Sys2Proof.Machine.execPfence a0 s
  | .yield => Sys2Proof.Machine.execYield s
  | .bpt => Sys2Proof.Machine.execBpt s
  | .trapret => Sys2Proof.Machine.execTrapret s
  | .setem a0 => Sys2Proof.Machine.execSetem a0 s
  | .setpart a0 => Sys2Proof.Machine.execSetpart a0 s
  | .mmwait => Sys2Proof.Machine.execMmwait s
  | .ownext => Sys2Proof.Machine.execOwnext s
  | .moviUniform a0 a1 => Sys2Proof.Machine.execMoviUniform a0 a1 s
  | .isetpUniform a0 a1 a2 a3 => Sys2Proof.Machine.execIsetpUniform a0 a1 a2 a3 s
  | .selUniform a0 a1 a2 a3 => Sys2Proof.Machine.execSelUniform a0 a1 a2 a3 s
  | .jmp a0 a1 => Sys2Proof.Machine.execJmp a0 a1 s
  | .call a0 a1 a2 => Sys2Proof.Machine.execCall a0 a1 a2 s
  | .mark a0 => Sys2Proof.Machine.execMark a0 s
  | .fence a0 => Sys2Proof.Machine.execFence a0 s
  | .bar a0 a1 a2 => Sys2Proof.Machine.execBar a0 a1 a2 s
  | .gate a0 a1 a2 => Sys2Proof.Machine.execGate a0 a1 a2 s
  | .waitc a0 a1 => Sys2Proof.Machine.execWaitc a0 a1 s
  | .ldu a0 a1 a2 a3 a4 a5 => Sys2Proof.Machine.execLdu a0 a1 a2 a3 a4 a5 s
  | .stu a0 a1 a2 a3 a4 a5 => Sys2Proof.Machine.execStu a0 a1 a2 a3 a4 a5 s
  | .acqb a0 a1 => Sys2Proof.Machine.execAcqb a0 a1 s
  | .relb a0 a1 => Sys2Proof.Machine.execRelb a0 a1 s
  | .launch a0 a1 => Sys2Proof.Machine.execLaunch a0 a1 s
  | .signal a0 a1 a2 => Sys2Proof.Machine.execSignal a0 a1 a2 s
  | .coll a0 a1 a2 a3 a4 => Sys2Proof.Machine.execColl a0 a1 a2 a3 a4 s
  | .trap a0 => Sys2Proof.Machine.execTrap a0 s
  | .fwcall a0 a1 a2 => Sys2Proof.Machine.execFwcall a0 a1 a2 s
  | .mtsr a0 a1 => Sys2Proof.Machine.execMtsr a0 a1 s
  | .extmap a0 a1 a2 => Sys2Proof.Machine.execExtmap a0 a1 a2 s
  | .owbegin a0 a1 a2 a3 => Sys2Proof.Machine.execOwbegin a0 a1 a2 a3 s
  | .tstore a0 => Sys2Proof.Machine.execTstore a0 s
  | .copy a0 a1 a2 a3 => Sys2Proof.Machine.execCopy a0 a1 a2 a3 s
  | .tld a0 a1 a2 => Sys2Proof.Machine.execTld a0 a1 a2 s
  | .jetStart a0 => Sys2Proof.Machine.execJetStart a0 s
  | .ageingStep a0 a1 => Sys2Proof.Machine.execAgeingStep a0 a1 s
  | .classVResult a0 a1 a2 => Sys2Proof.Machine.execClassVResult a0 a1 a2 s
  | .noticeDelivery a0 a1 => Sys2Proof.Machine.execNoticeDelivery a0 a1 s
  | .tail a0 a1 => Sys2Proof.Machine.execTail a0 a1 s
  | .controlWindowWrite a0 a1 a2 => Sys2Proof.Machine.execControlWindowWrite a0 a1 a2 s
  | .windowRead a0 a1 a2 a3 => Sys2Proof.Machine.execWindowRead a0 a1 a2 a3 s
  | .windowWrite a0 a1 a2 a3 => Sys2Proof.Machine.execWindowWrite a0 a1 a2 a3 s
  | .hostWritePerform a0 => Sys2Proof.Machine.execHostWritePerform a0 s
  | .launchAccept a0 => Sys2Proof.Machine.execLaunchAccept a0 s
  | .waitSignalMonitor a0 a1 => Sys2Proof.Machine.execWaitSignalMonitor a0 a1 s
  | .gangPlacement a0 => Sys2Proof.Machine.execGangPlacement a0 s
  | .migration a0 => Sys2Proof.Machine.execMigration a0 s
  | .groupResourcesFree a0 a1 => Sys2Proof.Machine.execGroupResourcesFree a0 a1 s
  | .launchCompletion a0 a1 => Sys2Proof.Machine.execLaunchCompletion a0 a1 s
  | .cascadeRead a0 a1 => Sys2Proof.Machine.execCascadeRead a0 a1 s
  | .wcTimeout a0 a1 => Sys2Proof.Machine.execWcTimeout a0 a1 s
  | .storePerform a0 => Sys2Proof.Machine.execStorePerform a0 s
  | .writeAck a0 => Sys2Proof.Machine.execWriteAck a0 s
  | .readRequest a0 => Sys2Proof.Machine.execReadRequest a0 s
  | .readResponse a0 => Sys2Proof.Machine.execReadResponse a0 s
  | .atomRequest a0 => Sys2Proof.Machine.execAtomRequest a0 s
  | .casvRequest a0 => Sys2Proof.Machine.execCasvRequest a0 s
  | .ldvRequest a0 => Sys2Proof.Machine.execLdvRequest a0 s
  | .descentLanding a0 => Sys2Proof.Machine.execDescentLanding a0 s
  | .descentReturn a0 => Sys2Proof.Machine.execDescentReturn a0 s
  | .depositLanding a0 => Sys2Proof.Machine.execDepositLanding a0 s
  | .valsetPin a0 a1 => Sys2Proof.Machine.execValsetPin a0 a1 s
  | .valsetCommit a0 => Sys2Proof.Machine.execValsetCommit a0 s
  | .valsetTimeout a0 => Sys2Proof.Machine.execValsetTimeout a0 s
  | .collapse a0 a1 a2 => Sys2Proof.Machine.execCollapse a0 a1 a2 s
  | .blockWriteBack a0 => Sys2Proof.Machine.execBlockWriteBack a0 s
  | .promoteRequest a0 a1 => Sys2Proof.Machine.execPromoteRequest a0 a1 s
  | .probeTokenTimeout a0 => Sys2Proof.Machine.execProbeTokenTimeout a0 s
  | .probeToken a0 => Sys2Proof.Machine.execProbeToken a0 s
  | .bucketRefill a0 => Sys2Proof.Machine.execBucketRefill a0 s
  | .powerTokenFrame a0 => Sys2Proof.Machine.execPowerTokenFrame a0 s
  | .reservationEntry a0 a1 => Sys2Proof.Machine.execReservationEntry a0 a1 s
  | .passGrant a0 => Sys2Proof.Machine.execPassGrant a0 s
  | .passEnd a0 => Sys2Proof.Machine.execPassEnd a0 s
  | .acqbGrant a0 => Sys2Proof.Machine.execAcqbGrant a0 s
  | .copyRow a0 a1 => Sys2Proof.Machine.execCopyRow a0 a1 s
  | .copyLine a0 a1 => Sys2Proof.Machine.execCopyLine a0 a1 s
  | .scratchpadBankService a0 a1 => Sys2Proof.Machine.execScratchpadBankService a0 a1 s
  | .extentAbsent a0 => Sys2Proof.Machine.execExtentAbsent a0 s
  | .extentMonitorFire a0 => Sys2Proof.Machine.execExtentMonitorFire a0 s
  | .collCombine a0 a1 => Sys2Proof.Machine.execCollCombine a0 a1 s
  | .collWatchdog a0 a1 => Sys2Proof.Machine.execCollWatchdog a0 a1 s
  | .peerRequest a0 => Sys2Proof.Machine.execPeerRequest a0 s
  | .peerRequestTimeout a0 => Sys2Proof.Machine.execPeerRequestTimeout a0 s
  | .requestTimeout a0 => Sys2Proof.Machine.execRequestTimeout a0 s
  | .linkCrcRetry a0 => Sys2Proof.Machine.execLinkCrcRetry a0 s
  | .eccCorrection a0 => Sys2Proof.Machine.execEccCorrection a0 s
  | .uncorrectableError a0 a1 => Sys2Proof.Machine.execUncorrectableError a0 a1 s
  | .extentRetirement a0 => Sys2Proof.Machine.execExtentRetirement a0 s
  | .errorRecordWindow a0 => Sys2Proof.Machine.execErrorRecordWindow a0 s
  | .quantumEnd => Sys2Proof.Machine.execQuantumEnd s
  | .halt a0 => Sys2Proof.Machine.execHalt a0 s
  | .restore a0 => Sys2Proof.Machine.execRestore a0 s
  | .objCreate a0 => Sys2Proof.Machine.execObjCreate a0 s
  | .objDestroy a0 => Sys2Proof.Machine.execObjDestroy a0 s
  | .extMap a0 => Sys2Proof.Machine.execExtMap a0 s
  | .extUnmap a0 => Sys2Proof.Machine.execExtUnmap a0 s
  | .extRefuse a0 => Sys2Proof.Machine.execExtRefuse a0 s
  | .objExport a0 => Sys2Proof.Machine.execObjExport a0 s
  | .objImport a0 => Sys2Proof.Machine.execObjImport a0 s
  | .setHandler a0 => Sys2Proof.Machine.execSetHandler a0 s
  | .objQuery a0 => Sys2Proof.Machine.execObjQuery a0 s
  | .poolQuery a0 => Sys2Proof.Machine.execPoolQuery a0 s
  | .attest a0 => Sys2Proof.Machine.execAttest a0 s
  | .basinCreate a0 => Sys2Proof.Machine.execBasinCreate a0 s
  | .basinSlots a0 => Sys2Proof.Machine.execBasinSlots a0 s
  | .basinStart a0 => Sys2Proof.Machine.execBasinStart a0 s
  | .basinRevoke a0 => Sys2Proof.Machine.execBasinRevoke a0 s
  | .basinRelease a0 => Sys2Proof.Machine.execBasinRelease a0 s
  | .basinMove a0 => Sys2Proof.Machine.execBasinMove a0 s
  | .basinSlotquery a0 => Sys2Proof.Machine.execBasinSlotquery a0 s
  | .peerBind a0 => Sys2Proof.Machine.execPeerBind a0 s
  | .stackBudget a0 => Sys2Proof.Machine.execStackBudget a0 s
  | .powerOn => Sys2Proof.Machine.execPowerOn s
  | .throttleChange a0 a1 => Sys2Proof.Machine.execThrottleChange a0 a1 s
  | .thermalTrip => Sys2Proof.Machine.execThermalTrip s
  | .fieldRecordRead a0 => Sys2Proof.Machine.execFieldRecordRead a0 s
  | .tripClears => Sys2Proof.Machine.execTripClears s
  | .importRemoval a0 a1 a2 => Sys2Proof.Machine.execImportRemoval a0 a1 a2 s
  | .restoreElsewhere a0 => Sys2Proof.Machine.execRestoreElsewhere a0 s

end Sys2Proof.Machine
end

