-- ==== Sys2Proof/Machine/Agenda.lean ====
section
/-! DEFINITION. The moves of the device: issuing the instruction at a group's pc (R35, R57), the moves of an agenda, and
the order in which the model takes moves when its agenda is empty (log 1). -/

namespace Sys2Proof.Machine

/-! ### Issue (R35, R43, R57) -/

/-- A trap of a word that cannot be fetched or decoded: it issues like any instruction, and it has no effect. The structure of the
jet is checked first, the place of a catch-up instruction only where its entry lists that check first (R79, R278). -/
def State.wordTrap (s : State) (q slot : Nat) (g : Group) (words : Word × Word) (known : Bool) (t : Trap) : State :=
  let f := W1.ofWord words.1
  let t := if known then (jetCheck g.jetOr (overrunFirstWord f) (isTrailWord f)).getD t else t
  (s.setGroup q slot g.opened).takeTrap q slot words (wordLen words.1) t

/-- The capability in a lane-0 frame (R406). -/
def fetchCap (t : Trap) : DWord := Lanes.at t.v121 0 ++ Lanes.at t.v120 0

/-- A poisoned line that a fetch meets is recorded as for any access (R262). -/
def State.fetchError (s : State) (g : Group) (t : Trap) : State :=
  if t.code = 0x0A ∧ t.s58 = some 1#32 then s.homeError g.basin (capObj (s.codeCap g)) (capOfs (fetchCap t)) 1 else s

/-- Fetches, decodes and executes the next instruction of the current group. -/
def State.runNext (s : State) : Out :=
  let q := s.cur.1
  let slot := s.cur.2
  match s.group? q slot with
  | none => .fault .noGroup
  | some g =>
    match s.fetch g with
    | .error t =>
      let w0 := match s.fetchWord g g.pc with
        | .ok w => w
        | .error _ => 0#32
      .next ((s.fetchError g t).wordTrap q slot g (w0, 0#32) false t)
    | .ok (w0, w1) =>
      if 0 < g.jetOr.dscLeft then dscPass s (wordLen w0)
      else
        match decode w0 w1 with
        | .ok i => exec i s
        | .error _ => .next (s.wordTrap q slot g (w0, w1) true (Trap.plain 0x01))

/-- The issuing group of a quadrant issues one instruction in the current cycle (R35). -/
def State.issueNow (s : State) (q : Nat) : Out :=
  match s.quad? q with
  | none => .refused .notIssuing
  | some x =>
    match x.issuing with
    | none => .refused .notIssuing
    | some slot =>
      if x.issued.isSome then .refused (.notEnabled "issue: an instruction has issued in this cycle")
      else { s.setQuad q { x with issued := some slot } with cur := (q, slot) }.runNext

/-! ### Moves -/

/-- Takes one move. An instruction with an encoding runs only from its words. -/
def State.perform (s : State) (m : Move) : Out :=
  match m with
  | .issue q => s.issueNow q
  | .event i =>
    match encode i with
    | some _ => .refused .notIssuing
    | none => exec i s
  | .tick n => s.pass n
  | .control fn ofs n => s.controlRead fn ofs n
  | .peer x => .next { s with peerIn := s.peerIn ++ [{ x with park := none }] }
  | .image x => .next { s with images := s.images ++ [x] }

/-! ### Moves without an agenda (log 1) -/

/-- The steps that concern a request. -/
def Req.events (r : Req) (id : Nat) : List Instr :=
  match r.kind with
  | .promote t => [.promoteRequest id t]
  | .valset w => (List.range w.lines.length).map (fun l => .valsetPin id l) ++ [.valsetCommit id, .extentAbsent id, .readResponse id, .valsetTimeout id]
  | .descent _ => [.descentLanding id, .extentAbsent id, .descentReturn id]
  | .dep .. => [.depositLanding id, .extentAbsent id, .writeAck id]
  | .casv .. => [.casvRequest id, .extentAbsent id, .readResponse id]
  | .ldv .. => [.ldvRequest id, .extentAbsent id, .readResponse id]
  | .atom .. | .signal .. => [.atomRequest id, .extentAbsent id, .readResponse id, .writeAck id]
  | .store .. | .merge .. | .copyWrite .. => [.storePerform id, .extentAbsent id, .writeAck id]
  | .fetch => [.readResponse id]
  | .probe .. => []
  | .load .. | .smpl .. => [.readRequest id, .extentAbsent id, .readResponse id]

/-- The steps that concern an extent. -/
def State.extEvents (s : State) (k : Nat) (e : Extent) : List Instr :=
  (if e.parked.isEmpty && (s.copiesAt k).isEmpty then [] else [.extentMonitorFire k])
    ++ (if e.reps.isEmpty then [] else [.collapse (k / 2 ^ 38) (k / 2 ^ 24 % 2 ^ 14) (k % 2 ^ 24)])

/-- The steps that concern a group. -/
def groupEvents (q slot : Nat) (g : Group) : List Instr :=
  (if g.notices.isEmpty then [] else [.noticeDelivery q slot])
    ++ (List.range g.vflights.length).map (fun i => .classVResult q slot i)
    ++ (if g.staging.isSome then [.reservationEntry q slot] else [])
    ++ (if g.retired then [.groupResourcesFree q slot] else [])
    ++ (if 4096 ≤ g.ageCount then [.ageingStep q slot] else [])
    ++ (if g.blockedSince.isSome then [.probeTokenTimeout (.forward q slot)] else [])
    ++ (match g.wait with
        | .coll .. => [.collCombine q slot, .collWatchdog q slot]
        | _ => [])

/-- The steps that concern a quadrant. -/
def quadEvents (q : Nat) (x : Quad) : List Instr :=
  x.groups.flatMap (fun (e : Nat × Group) => groupEvents q e.1 e.2)
    ++ x.banks.map (fun (b : Nat × List BankReq) => .scratchpadBankService q b.1)
    ++ (List.range x.wc.length).map (fun i => .wcTimeout q i)
    ++ (if x.halted then [.halt q, .restore q] else [])

/-- The steps that concern an engine slot. -/
def engineEvents (qs : Nat) (x : SlotEng) : List Instr :=
  (if x.pass.isSome then [.passEnd qs] else if x.table.isEmpty then [] else [.passGrant qs])
    ++ (if x.acqq.isEmpty then [] else [.acqbGrant qs])
    ++ x.copies.zipIdx.map (fun (c : CopyJob × Nat) => match c.1.kind with
        | .copy .. => .copyLine qs c.2
        | _ => .copyRow qs c.2)

/-- The calls of a caller. -/
def callEvents (c : Nat) : List Instr :=
  [.objCreate c, .objDestroy c, .extMap c, .extUnmap c, .extRefuse c, .objExport c, .objImport c, .setHandler c, .objQuery c,
   .poolQuery c, .attest c, .basinCreate c, .basinSlots c, .basinStart c, .basinRevoke c, .basinRelease c, .basinMove c,
   .basinSlotquery c, .peerBind c, .stackBudget c]

/-- The steps that concern a basin. -/
def basinEvents (b : Nat) (x : Basin) : List Instr :=
  (if x.calls.isEmpty then [] else callEvents b)
    ++ x.launches.flatMap (fun l => [.waitSignalMonitor b l.num, .launchCompletion b l.num, .cascadeRead b l.num])
    ++ (if x.win.head = x.win.tail then [] else [.launchAccept b])
    ++ (if x.launches.isEmpty then [] else [.gangPlacement b, .migration b])

/-- The steps that the device may take by itself, in the order in which the model tries them. -/
def State.events (s : State) : List Instr :=
  (if s.powered || s.bootFailed then [] else [.powerOn])
    ++ s.reqs.flatMap (fun (e : Nat × Req) => e.2.events e.1)
    ++ s.extents.flatMap (fun (e : Nat × Extent) => s.extEvents e.1 e.2)
    ++ s.quads.flatMap (fun (e : Nat × Quad) => quadEvents e.1 e.2)
    ++ s.engines.flatMap (fun (e : Nat × SlotEng) => engineEvents e.1 e.2)
    ++ s.inbound.zipIdx.map (fun (e : HostWrite × Nat) => .hostWritePerform e.2)
    ++ s.hostReads.map (fun (h : HostRead) => .windowRead h.basin h.win h.ofs h.len)
    ++ s.peerIn.zipIdx.map (fun (e : PeerReq × Nat) => .peerRequest e.2)
    ++ s.images.zipIdx.map (fun (e : Image × Nat) => .restoreElsewhere e.2)
    ++ (if s.pfCalls.isEmpty then [] else callEvents 16)
    ++ s.basins.flatMap (fun (e : Nat × Basin) => basinEvents e.1 e.2)
    ++ s.errHeld.zipIdx.map (fun (e : ErrRec × Nat) => .errorRecordWindow e.2)
    ++ s.probes.zipIdx.map (fun (e : ProbeToken × Nat) => .probeToken e.2)
    ++ (if s.powered then (List.range 8).map (fun i => .bucketRefill i) ++ [.quantumEnd] else [])
    ++ s.rings.map (fun (e : Nat × (Nat × Nat)) => .powerTokenFrame e.1)
    ++ s.quads.filterMap (fun (e : Nat × Quad) => if e.2.groups.isEmpty || e.2.issuing.isSome then none else some (.jetStart e.1))

/-- The first step of a list that is enabled. -/
def State.firstEnabled (s : State) : List Instr → Option Out
  | [] => none
  | i :: t =>
    match exec i s with
    | .refused _ => s.firstEnabled t
    | o => some o

/-- The quadrants whose group has still to issue in this cycle, the current one first. -/
def State.issuers (s : State) : List Nat :=
  let l := (s.quads.filter (fun (e : Nat × Quad) => e.2.issuing.isSome && e.2.issued.isNone)).map (fun e => e.1)
  if l.contains s.cur.1 then s.cur.1 :: l else l

/-- A move without an agenda: an issue, else the first step that is enabled, else a cycle passes. -/
def State.auto (s : State) : Out :=
  match s.issuers with
  | q :: _ => s.issueNow q
  | [] => (s.firstEnabled s.events).getD (s.pass 1)

/-! ### A loaded program (log 13) -/

/-- The object that holds a loaded program's code, and its capability. -/
def loadObj : Nat := 1
def loadCap : DWord := mkCap devHere loadObj 0

/-- The launch record of a loaded program: one gang of one crew of one group, with every vector and heading register. -/
def loadRec : LRec :=
  { reserved := false, fmt := 1, cen := false, den := false, wen := false, scr := 64, pb3 := 40, pb2 := 26, pb1 := 10, hgran := 4,
    vgran := 15, ceil := 0, prio := 0, cpg := 0, gpc := 0, gangs := 1, doneval := 0#32, waitval := 0#32, casc := 0#64,
    donesig := 0#64, waitsig := 0#64, args := 0#64, entry := loadCap }

/-- The state in which a program's bytes stand in an object of basin 0 and its one group, on quadrant 0, is issuing its
first jet. -/
def State.loaded (s : State) (bytes : List Byte) : State :=
  let d : ObjDesc := { sizeM1 := 65535, rd := true, wr := false, ex := true, const := false, repl := false, ft := false, list := 0 }
  let s := s.modBasin 0 (fun b => { b with phase := .started, objs := NMap.set b.objs loadObj d })
  let s := s.setExtent (extKey 0 loadObj 0) { s.extent (extKey 0 loadObj 0) with v := true }
  let s := s.writeBytes (memKey 0 loadObj 0) bytes
  let x : Quad := { Quad.init with basin := some 0 }
  let x := x.placeCrew 0 0#32 loadRec 0 0 (0, 0, 0)
  let x := { x with issuing := some 0, groups := x.groups.map (fun (e : Nat × Group) =>
    (e.1, { e.2 with jet := some (Jet.fresh e.2.pc) })) }
  { s with agenda := [], cur := (0, 0), quads := NMap.set s.quads 0 x }

end Sys2Proof.Machine
end

