-- ==== Sys2Proof/Machine/Step.lean ====
section
/-! DEFINITION. The step of the machine, and a state in which the next step runs a given instruction. -/

namespace Sys2Proof.Machine

/-- One step: the next move of the agenda, or the model's own choice where the agenda is empty. -/
def step (s : State) : Host.Outcome State Fault Refusal :=
  match s.agenda with
  | [] => s.auto
  | m :: rest => State.perform { s with agenda := rest } m

/-- The state in which the instruction of an opcode-table word stands at the pc of the group that issues next: the word's
bytes, and zeros up to the longest instruction. -/
def State.withFetchWord (s : State) (nbits w : Nat) : State := s.loaded (natBytes 8 (w % 2 ^ nbits))

end Sys2Proof.Machine
end

