-- ==== Sys2Proof/Safety.lean ====
section
/-! DEFINITION. What claims call a completed step, a safe run, a machine whose memory is in order, an instruction that
may issue, the one effect that an instruction has on the group that issues it, and the numbers that a rounded result stands for. -/

namespace Sys2Proof

open Machine

/-- An outcome is a next state. -/
def Completes (o : Out) : Prop := ∃ t, o = .next t

/-- A run of n steps in which none stops. -/
def SafeRun : Nat → State → Prop
  | 0, _ => True
  | n + 1, s => ∃ t, step s = .next t ∧ SafeRun n t

/-- The memory of every byte of the device is in its canonical form. -/
def MemoryInOrder (s : State) : Prop := Memory.wf s.mem = true

/-- The current group is `g` and may issue `i` now (R43, R47): preparation found nothing wrong at this position of its
jet, the position is not the last one, and a catch-up instruction stands first. -/
abbrev Issues (s : State) (i : Instr) (g : Group) : Prop :=
  s.group? s.cur.1 s.cur.2 = some g ∧ g.jetOr.plan.map Prod.fst ≠ some g.jetOr.pos ∧ g.jetOr.pos < 23
    ∧ (isCatchUp i = true → g.jetOr.pos = 0)

/-- What the issue of an instruction makes of the group `h` that its own effect leaves of `g`: the pc, the jet one
position on with the latch, the pending writes and the flags of the instruction, and the counts that the first
instruction of a jet moves (R37, R43, R44, R51). -/
def issuedGroup (g h : Group) (l : Latch) (w : List PendWrite) (f : Flags) (pc : Nat) : Group :=
  let j := g.jetOr
  let first := j.pos = 0
  { h with
    pc := pc, wait := .none,
    jet := some { j with pos := j.pos + 1, latches := l :: j.latches, pend := j.pend ++ w, flags := j.flags ||| f },
    jetCount := if first then g.jetCount + 1#32 else g.jetCount,
    ageCount := if first then 0 else g.ageCount, ageSteps := if first then 0 else g.ageSteps,
    yieldFor := if first then [] else g.yieldFor, blockedSince := if first then none else g.blockedSince }

/-- The instruction issues and completes at once: the next state is this state with the current group changed as
`issuedGroup` says, and nothing else of the machine changes. -/
def Runs (s : State) (i : Instr) (g h : Group) (l : Latch) (w : List PendWrite) (f : Flags) (pc : Nat) : Prop :=
  exec i s = .next (s.setGroup s.cur.1 s.cur.2 (issuedGroup g h l w f pc))

/-- A class F instruction of the lanes runs: its latch and, unless `.nw`, its pending write to `d` hold a value for
which `P` holds in each lane that takes part, and the old value of `d` in each other lane. -/
def LaneRuns (s : State) (i : Instr) (g : Group) (nw : Bool) (d : Nat) (m : Mask) (sels : List Sel)
    (P : Nat → Word → Prop) : Prop :=
  ∃ out f, Runs s i g (g.takeFq sels) (.lane out) (if nw then [] else [.v d m out]) f (g.pc + instrLen i)
    ∧ ∀ l, l < 32 → if m.getLsbD l then P l (Lanes.at out l) else Lanes.at out l = g.lane d l

/-- The same for an instruction that raises no flag. -/
def LaneInt (s : State) (i : Instr) (g : Group) (nw : Bool) (d : BitVec 7) (m : Mask) (sels : List Sel)
    (P : Nat → Word → Prop) : Prop :=
  ∃ out, Runs s i g (g.takeFq sels) (.lane out) (if nw then [] else [.v d.toNat m out]) 0#5 (g.pc + instrLen i)
    ∧ ∀ l, l < 32 → if m.getLsbD l then P l (Lanes.at out l) else Lanes.at out l = g.lane d.toNat l

/-- An instruction of the uniform side runs whose only effect is a value in one uniform register. -/
def UniRuns (s : State) (i : Instr) (g : Group) (d : BitVec 6) (x : Word) : Prop :=
  Runs s i g (g.setS d.toNat x) .none [] 0#5 (g.pc + instrLen i)

/-- The instruction raises a trap (R54 step 1): the next state is that of trap entry with this trap, from the state in
which the jet is open and nothing of the instruction's own effect has happened. -/
def Raises (s : State) (i : Instr) (g : Group) (t : Trap) : Prop :=
  exec i s = .next ({ s.setGroup s.cur.1 s.cur.2 g.opened with freeIx := s.freeIx + 1 }.takeTrap s.cur.1 s.cur.2
    (instrWords i) (instrLen i) t)

/-- A class V instruction runs (R46): a result for the lanes of `m` in register `d`, with its flags, is in flight under the
next identity number, and nothing of the machine outside the group changes but that number. -/
def Flies (s : State) (i : Instr) (g : Group) (sels : List Sel) (d : Nat) (m : Mask) (out : Lanes) (fl : Flags) : Prop :=
  exec i s = .next { s.setGroup s.cur.1 s.cur.2 (issuedGroup g ((g.takeFq sels).fly s.nextId [(Dest.new d m, out)] fl 0)
    .none [] 0#5 (g.pc + instrLen i)) with nextId := s.nextId + 1 }

/-- The group stands at a catch-up instruction that waits (R35): its jet has not started, results that arrived meanwhile are in their
registers, its issue slot is free (in this cycle too, unless the instruction tries again in the next), and nothing else of the machine
changes. -/
def Waits (s : State) (i : Instr) (g : Group) (w : Wait) : Prop :=
  exec i s = .next ((s.setGroup s.cur.1 s.cur.2 { g.leaveJet with wait := w }).freeIssue s.cur.1 (g.tries w))

/-- The group of a slot in the state after a step. -/
def GroupAfter (o : Out) (q slot : Nat) (P : State → Group → Prop) : Prop :=
  ∃ t g, o = .next t ∧ t.group? q slot = some g ∧ P t g

/-- An instruction that sends accesses runs: the group goes on at the following word with every register as it was, the
head of the forward queue consumed where a selector names it, and no byte of memory has changed. -/
def AccessRuns (s : State) (i : Instr) (g : Group) (sels : List Sel) (P : State → Group → Prop) : Prop :=
  GroupAfter (exec i s) s.cur.1 s.cur.2 (fun t h =>
    h.pc = g.pc + instrLen i ∧ h.wait = .none ∧ h.v = g.v ∧ h.s = g.s ∧ h.p = g.p ∧ h.h = g.h ∧ h.t = g.t ∧ h.em = g.em
      ∧ h.part = g.part ∧ h.status = g.status ∧ h.landrec = g.landrec ∧ h.stack = g.stack ∧ h.ret = g.ret
      ∧ h.handler = g.handler ∧ h.fwd = (g.takeFq sels).fwd ∧ t.mem = s.mem ∧ P t h)

/-! ### What a floating-point result stands for (R180, R183) -/

/-- The number that a pattern of a format stands for, where it stands for a finite one (R180, R181). -/
def floatVal (f : FFmt) (x : Nat) : ℚ :=
  let e : Nat := x / 2 ^ f.mb % 2 ^ f.eb
  let m : Nat := x % 2 ^ f.mb
  let v : ℚ := if e = 0 then (if f.flush then 0 else (m : ℚ) * 2 ^ (1 - (f.bias : Int) - f.mb))
    else ((2 ^ f.mb + m : Nat) : ℚ) * 2 ^ ((e : Int) - f.bias - f.mb)
  if x / 2 ^ (f.eb + f.mb) % 2 = 0 then v else -v

/-- The patterns of a format that stand for a finite number. -/
def FloatFinite (f : FFmt) (x : Nat) : Prop :=
  x < 2 ^ f.width ∧ ¬ (f.kind = .ieee ∧ x / 2 ^ f.mb % 2 ^ f.eb = 2 ^ f.eb - 1) ∧
    ¬ (f.kind = .e4m3 ∧ x / 2 ^ f.mb % 2 ^ f.eb = 15 ∧ x % 2 ^ f.mb = 7)

/-- Every magnitude below this one rounds to a finite value: the largest finite one and half a unit of its last place. -/
def floatTop (f : FFmt) : ℚ := floatVal f f.maxPat + 2 ^ (((f.maxPat / 2 ^ f.mb : Nat) : Int) - f.bias - f.mb - 1)

/-- `r` is a finite value nearest to `v`, and the even one of two (R183). A zero of a format that flushes stands for everything
below its smallest normal number (R181). -/
def NearestTo (f : FFmt) (r : Nat) (v : ℚ) : Prop :=
  if f.flush = true ∧ floatVal f r = 0 then |v| < 2 ^ (1 - (f.bias : Int))
  else ∀ w, FloatFinite f w → |floatVal f r - v| ≤ |floatVal f w - v| ∧
    (|floatVal f r - v| = |floatVal f w - v| → floatVal f w ≠ floatVal f r → r % 2 = 0)

/-- `r` is the greatest finite value not above `v`, or, with `up`, the least not below it. -/
def DirectedTo (f : FFmt) (up : Bool) (r : Nat) (v : ℚ) : Prop :=
  if f.flush = true ∧ floatVal f r = 0 then |v| < 2 ^ (1 - (f.bias : Int))
  else if up then v ≤ floatVal f r ∧ ∀ w, FloatFinite f w → v ≤ floatVal f w → floatVal f r ≤ floatVal f w
  else floatVal f r ≤ v ∧ ∀ w, FloatFinite f w → floatVal f w ≤ v → floatVal f w ≤ floatVal f r

/-- `r` is the number `v` rounded once to a format by a mode (R183), as far as no overflow is met. -/
def RoundsTo (f : FFmt) (mode : Rnd) (r : Nat) (v : ℚ) : Prop :=
  match mode with
  | .rn => (|v| < floatTop f → FloatFinite f r) ∧ (FloatFinite f r → NearestTo f r v)
  | .rz => |v| ≤ floatVal f f.maxPat → FloatFinite f r ∧ DirectedTo f (decide (v < 0)) r v
  | .rp => |v| ≤ floatVal f f.maxPat → FloatFinite f r ∧ DirectedTo f true r v
  | .rm => |v| ≤ floatVal f f.maxPat → FloatFinite f r ∧ DirectedTo f false r v

/-- `n` is the number `v` rounded to an integer by a mode (R183, R184). -/
def IntRounds (mode : Rnd) (n : Int) (v : ℚ) : Prop :=
  match mode with
  | .rn => |(n : ℚ) - v| ≤ 1 / 2 ∧ (|(n : ℚ) - v| = 1 / 2 → n % 2 = 0)
  | .rz => n = if 0 ≤ v then ⌊v⌋ else ⌈v⌉
  | .rp => n = ⌈v⌉
  | .rm => n = ⌊v⌋

/-! ### What writing a heading's tile stands for (R208, R212) -/

/-- `q` is 2^14 × x / √S rounded to nearest even. -/
def UnitRounds (S x : ℚ) (q : Int) : Prop :=
  let n : ℚ := q.natAbs
  let a : ℚ := 2 ^ 30 * x ^ 2
  (0 ≤ x → 0 ≤ q) ∧ (x ≤ 0 → q ≤ 0) ∧ a ≤ (2 * n + 1) ^ 2 * S ∧ (q ≠ 0 → (2 * n - 1) ^ 2 * S ≤ a) ∧
    (a = (2 * n + 1) ^ 2 * S ∨ (q ≠ 0 ∧ a = (2 * n - 1) ^ 2 * S) → q % 2 = 0)

/-- The norm entry, the `k` components and the flags that R208 writes for the exact vector v × 2^(n/256), and, with `sat`, R212 for a
saturated one: the zero code for the zero vector; else the logarithm of the length rounded to nearest, within its limits; and, where
rounding each component leaves the sum of squares within 2^16 of 2^28, these components. -/
def Renorms (k : Nat) (v : Nat → ℚ) (n : Int) (sat : Bool) (norm : Half) (q : Nat → Int) (fl : Flags) : Prop :=
  let S : ℚ := ((List.range k).map (fun i => v i ^ 2)).sum
  let dirs := ∀ p : Nat → Int, (∀ i, i < k → UnitRounds S (v i) (p i)) →
    |((List.range k).map (fun i => p i ^ 2)).sum - 2 ^ 28| ≤ 2 ^ 16 → ∀ i, i < k → q i = p i
  let zero := norm = 0x8000#16 ∧ ∀ i, i < k → q i = 0
  (S = 0 → zero ∧ fl = if sat then 0b01000#5 else 0#5) ∧
  (S ≠ 0 → sat = true → norm = 0x7FFF#16 ∧ dirs ∧ fl = 0b01000#5) ∧
  (S ≠ 0 → sat = false → ∀ m : Int, 2 ^ (2 * (m - n) - 1) ≤ S ^ 256 → S ^ 256 ≤ 2 ^ (2 * (m - n) + 1) →
    (m < -32766 → zero ∧ fl = 0b00100#5) ∧
    (32766 < m → norm = 0x7FFF#16 ∧ dirs ∧ fl = 0b01000#5) ∧
    (-32766 ≤ m → m ≤ 32766 → norm.toInt = m ∧ dirs ∧ fl = 0#5))

end Sys2Proof
end

