-- ==== Sys2Proof/Certificates/Slice0/Obligations.lean ====
section
/-! DEFINITION. The statements about the model that the provers are asked for, in the order of OBLIGATIONS.json. -/

open Sys2Proof Sys2Proof.Machine

/-- When the current group may issue the instruction, the destination is allocated and both selectors can be read, IADD,
ISUB, IMUL, IMULHI.s32, IMULHI.n32, IMIN.s32, IMIN.n32, IMAX.s32 and IMAX.n32 complete. The latch and, without .nw,
the pending write of the destination hold in each lane of em the result of R334 (stated on the integers the operands
stand for) and the old value elsewhere. No flag is raised and nothing else of the machine changes but the pc and the
counts of the jet. (R334, R44, R45, R65) -/
def Obligations.LaneIntegerArithmeticRuns : Prop :=
  ∀ (s : State) (g : Group) (nw : Bool) (d : BitVec 7) (a b : Sel),
    g.vOk d.toNat = true → selOk g a = true → selOk g b = true →
    let R := fun (i : Instr) (P : Word → Word → Word → Prop) =>
      Issues s i g → LaneInt s i g nw d g.em [a, b] (fun l x => P (selAt g a l) (selAt g b l) x)
    R (.iaddLane nw d a b) (fun x y r => r.toNat = (x.toNat + y.toNat) % 2 ^ 32) ∧
    R (.isubLane nw d a b) (fun x y r => (r.toNat : Int) = ((x.toNat : Int) - y.toNat) % 2 ^ 32) ∧
    R (.imulLane nw d a b) (fun x y r => r.toNat = x.toNat * y.toNat % 2 ^ 32) ∧
    R (.imulhiS32 nw d a b) (fun x y r => r.toInt = x.toInt * y.toInt / 2 ^ 32) ∧
    R (.imulhiN32 nw d a b) (fun x y r => r.toNat = x.toNat * y.toNat / 2 ^ 32) ∧
    R (.iminS32Lane nw d a b) (fun x y r => r.toInt = min x.toInt y.toInt) ∧
    R (.iminN32 nw d a b) (fun x y r => r.toNat = min x.toNat y.toNat) ∧
    R (.imaxS32Lane nw d a b) (fun x y r => r.toInt = max x.toInt y.toInt) ∧
    R (.imaxN32 nw d a b) (fun x y r => r.toNat = max x.toNat y.toNat)

/-- Under the same conditions AND, OR, XOR, NOT, MOV, MOVI, SHL, SHR.n32, SHR.s32, POPC and CLZ complete, with the bitwise
result of each bit position, the moved value, the shift by bits [7:0] of b (floor division of the signed value for
SHR.s32), the number of set bits, and the number of zero bits above the highest set bit. No flag is raised; nothing
else changes. (R284, R362, R403, R360, R355, R356, R380, R368, R295) -/
def Obligations.LaneLogicAndShiftsRun : Prop :=
  ∀ (s : State) (g : Group) (nw : Bool) (d : BitVec 7) (a b : Sel) (imm : Word),
    g.vOk d.toNat = true → selOk g a = true → selOk g b = true →
    let R := fun (i : Instr) (P : Word → Word → Word → Prop) =>
      Issues s i g → LaneInt s i g nw d g.em [a, b] (fun l x => P (selAt g a l) (selAt g b l) x)
    let U := fun (i : Instr) (P : Word → Word → Prop) =>
      Issues s i g → LaneInt s i g nw d g.em [a] (fun l x => P (selAt g a l) x)
    R (.andLane nw d a b) (fun x y r => ∀ k, r.getLsbD k = (x.getLsbD k && y.getLsbD k)) ∧
    R (.orLane nw d a b) (fun x y r => ∀ k, r.getLsbD k = (x.getLsbD k || y.getLsbD k)) ∧
    R (.xorLane nw d a b) (fun x y r => ∀ k, r.getLsbD k = (x.getLsbD k ^^ y.getLsbD k)) ∧
    R (.shlLane nw d a b) (fun x y r => r.toNat = x.toNat * 2 ^ (y.toNat % 256) % 2 ^ 32) ∧
    R (.shrN32Lane nw d a b) (fun x y r => r.toNat = x.toNat / 2 ^ (y.toNat % 256)) ∧
    R (.shrS32Lane nw d a b) (fun x y r => r.toInt = x.toInt / 2 ^ (y.toNat % 256)) ∧
    U (.notLane nw d a) (fun x r => ∀ k, k < 32 → r.getLsbD k = !x.getLsbD k) ∧
    U (.movLane nw d a) (fun x r => r = x) ∧
    U (.popc nw d a) (fun x r => r.toNat = ((List.range 32).filter (fun k => x.getLsbD k)).length) ∧
    U (.clz nw d a) (fun x r => (x = 0#32 → r.toNat = 32) ∧
      (x ≠ 0#32 → r.toNat < 32 ∧ x.toNat < 2 ^ (32 - r.toNat) ∧ 2 ^ (31 - r.toNat) ≤ x.toNat)) ∧
    (Issues s (.moviLane nw d imm) g → LaneInt s (.moviLane nw d imm) g nw d g.em [] (fun _ r => r = imm))

/-- When the group may issue BFE, the destination is allocated and its three selectors can be read, it completes. With x
the 64-bit extension of a, p = min(pos[7:0], 63) and n = min(len[7:0], 32), a lane that takes part receives the low 32
bits of f, where f is (x >> p) reduced to n bits and, for .s32, read as a signed n-bit number; with n = 0 it is 0;
with p of 32 or more it is 0 for .n32 and filled from bit 31 of a for .s32 when n is not 0. No flag is raised and
nothing else changes. (R287) -/
def Obligations.BitFieldExtractFollowsItsFormula : Prop :=
  ∀ (s : State) (g : Group) (nw : Bool) (gd : Guard) (d : BitVec 7) (a pos len : Sel) (signed : Bool),
    Issues s (.bfe nw gd d a pos len signed) g →
    g.vOk d.toNat = true → selOk g a = true → selOk g pos = true → selOk g len = true →
    LaneInt s (.bfe nw gd d a pos len signed) g nw d (guardMask g gd) [a, pos, len] (fun l r =>
      let x : Int := if signed then (selAt g a l).toInt else (selAt g a l).toNat
      let p := min ((selAt g pos l).toNat % 256) 63
      let n := min ((selAt g len l).toNat % 256) 32
      let f := x / 2 ^ p % 2 ^ n
      let v := if signed = true ∧ 0 < n ∧ 2 ^ n ≤ 2 * f then f - 2 ^ n else f
      (r.toNat : Int) = v % 2 ^ 32 ∧ (n = 0 → r = 0#32) ∧
      (32 ≤ p → signed = false → r = 0#32) ∧
      (32 ≤ p → 0 < n → signed = true → r = if (selAt g a l).toInt < 0 then 0xFFFFFFFF#32 else 0#32))

/-- When the group may issue BFI, the destination is allocated and its selectors can be read, both forms (constant pos and
len; pos in c[7:0] and len in c[15:8]) complete. With p = min(pos, 32) and n = min(len, 32 - p), bit k of the result
is bit k - p of a for p <= k < p + n and bit k of b otherwise. No flag is raised and nothing else changes. (R289) -/
def Obligations.BitFieldInsertFollowsItsFormula : Prop :=
  ∀ (s : State) (g : Group) (nw : Bool) (gd : Guard) (d : BitVec 7) (a b c : Sel) (pos len : BitVec 6),
    g.vOk d.toNat = true → selOk g a = true → selOk g b = true →
    let P := fun (pos len : Nat) (a b r : Word) =>
      let p := min pos 32
      let n := min len (32 - p)
      ∀ k, k < 32 → r.getLsbD k = if p ≤ k ∧ k < p + n then a.getLsbD (k - p) else b.getLsbD k
    (Issues s (.bfi nw gd d a b (.const pos len)) g →
      LaneInt s (.bfi nw gd d a b (.const pos len)) g nw d (guardMask g gd) [a, b] (fun l r =>
        P pos.toNat len.toNat (selAt g a l) (selAt g b l) r)) ∧
    (Issues s (.bfi nw gd d a b (.reg c)) g → selOk g c = true →
      LaneInt s (.bfi nw gd d a b (.reg c)) g nw d (guardMask g gd) [a, b, c] (fun l r =>
        P ((selAt g c l).toNat % 256) ((selAt g c l).toNat / 256 % 256) (selAt g a l) (selAt g b l) r))

/-- When the group may issue them, the destination is allocated and the selectors can be read, IMAD and the lane SEL
complete. IMAD gives (a*b + c) mod 2^32, or the exact value clamped to the signed or the unsigned range; SEL gives a
where the predicate bit XOR the negation is 1 and b elsewhere. Lanes that do not take part keep the old value; no flag
is raised; nothing else changes. (R337, R375, R65) -/
def Obligations.MultiplyAddAndSelectRun : Prop :=
  ∀ (s : State) (g : Group) (nw : Bool) (gd : Guard) (d : BitVec 7) (a b c : Sel) (neg : Bool) (p : BitVec 3),
    g.vOk d.toNat = true → selOk g a = true → selOk g b = true → selOk g c = true →
    let R := fun (form : SatForm) (P : Word → Word → Word → Word → Prop) =>
      Issues s (.imad nw gd d a b c form) g → LaneInt s (.imad nw gd d a b c form) g nw d (guardMask g gd) [a, b, c]
        (fun l x => P (selAt g a l) (selAt g b l) (selAt g c l) x)
    R .wrap (fun x y z r => r.toNat = (x.toNat * y.toNat + z.toNat) % 2 ^ 32) ∧
    R .satS (fun x y z r => r.toInt = max (-2 ^ 31) (min (2 ^ 31 - 1) (x.toInt * y.toInt + z.toInt))) ∧
    R .satN (fun x y z r => r.toNat = min (2 ^ 32 - 1) (x.toNat * y.toNat + z.toNat)) ∧
    (Issues s (.selLane nw gd d a b neg p) g →
      LaneInt s (.selLane nw gd d a b neg p) g nw d (guardMask g gd) [a, b] (fun l r =>
        r = if ((g.getP p.toNat).getLsbD l ^^ neg) then selAt g a l else selAt g b l))

/-- When the group may issue them and both selectors can be read, the lane ISETP and FSETP complete. Unless .nw, the
pending write of the predicate covers exactly the lanes that take part; its bit L, and the latch (1 or 0), hold the
comparison of the table of R338 or R318 in those lanes, and the latch the old bit in the others. ISETP raises no flag;
FSETP raises NV exactly when a lane that takes part compares a NaN with .lt, .le, .gt or .ge, and no other flag.
Nothing else changes. (R338, R318, R319, R44, R59, R65) -/
def Obligations.ComparisonsWritePredicates : Prop :=
  ∀ (s : State) (g : Group) (nw : Bool) (gd : Guard) (p : BitVec 3) (a b : Sel) (c : ICmp) (f : FCmp),
    selOk g a = true → selOk g b = true →
    let m := guardMask g gd
    let R := fun (i : Instr) (fl : Flags) (T : Word → Word → Prop) =>
      ∃ bits out, Runs s i g (g.takeFq [a, b]) (.lane out) (if nw then [] else [.p p.toNat m bits]) fl (g.pc + 8) ∧
        ∀ l, l < 32 → Lanes.at out l = (if m.getLsbD l then boolWord (bits.getLsbD l) else boolWord ((g.getP p.toNat).getLsbD l)) ∧
          (bits.getLsbD l = true ↔ m.getLsbD l = true ∧ T (selAt g a l) (selAt g b l))
    let isNan := fun (x : Word) => x.toNat / 2 ^ 23 % 256 = 255 ∧ x.toNat % 2 ^ 23 ≠ 0
    let un := fun (x y : Word) => isNan x ∨ isNan y
    let key := fun (x : Word) => if x.toNat < 2 ^ 31 then (x.toNat : Int) else 2 ^ 31 - (x.toNat : Int)
    let lt := fun (x y : Word) => key x < key y
    let eq := fun (x y : Word) => key x = key y
    (Issues s (.isetpLane nw gd p a b c) g → R (.isetpLane nw gd p a b c) 0#5 (fun x y =>
      match c with
      | .eq => x.toNat = y.toNat
      | .ne => x.toNat ≠ y.toNat
      | .ltS => x.toInt < y.toInt
      | .leS => x.toInt ≤ y.toInt
      | .gtS => y.toInt < x.toInt
      | .geS => y.toInt ≤ x.toInt
      | .ltN => x.toNat < y.toNat
      | .leN => x.toNat ≤ y.toNat
      | .gtN => y.toNat < x.toNat
      | .geN => y.toNat ≤ x.toNat)) ∧
    (Issues s (.fsetp nw gd p a b f) g →
      let signals := match f with
        | .lt | .le | .gt | .ge => true
        | _ => false
      let nv := signals = true ∧ ∃ l, l < 32 ∧ m.getLsbD l = true ∧ un (selAt g a l) (selAt g b l)
      ∃ fl, ((nv ∧ fl = 0b10000#5) ∨ (¬ nv ∧ fl = 0#5)) ∧ R (.fsetp nw gd p a b f) fl (fun x y =>
      match f with
      | .eq => ¬ un x y ∧ eq x y
      | .ne => ¬ un x y ∧ ¬ eq x y
      | .lt => ¬ un x y ∧ lt x y
      | .le => ¬ un x y ∧ (lt x y ∨ eq x y)
      | .gt => ¬ un x y ∧ lt y x
      | .ge => ¬ un x y ∧ (lt y x ∨ eq x y)
      | .num => ¬ un x y
      | .nan => un x y
      | .equ => un x y ∨ eq x y
      | .neu => un x y ∨ ¬ eq x y
      | .ltu => un x y ∨ lt x y
      | .leu => un x y ∨ lt x y ∨ eq x y
      | .gtu => un x y ∨ lt y x
      | .geu => un x y ∨ lt y x ∨ eq x y))

/-- When the group may issue them, the uniform IADD, ISUB, IMUL, AND, OR, XOR, SHL, SHR.n32, SHR.s32, IMIN.s32, IMAX.s32,
MOV, MOVI, ISETP and SEL complete for every register and every selector: the destination takes the result of the entry
at once, the pc passes the instruction, and nothing else changes (every other register, flag, special register and
byte of memory). (R334, R284, R362, R403, R380, R355, R356, R338, R375, R63) -/
def Obligations.UniformIntegerRuns : Prop :=
  ∀ (s : State) (g : Group) (d : BitVec 6) (a b c : USel) (imm : Word) (cmp : ICmp),
    let R := fun (i : Instr) (P : Word → Prop) => Issues s i g → ∃ r, UniRuns s i g d r ∧ P r
    let x := uAt g a
    let y := uAt g b
    R (.iaddUniform d a b) (fun r => r.toNat = (x.toNat + y.toNat) % 2 ^ 32) ∧
    R (.isubUniform d a b) (fun r => (r.toNat : Int) = ((x.toNat : Int) - y.toNat) % 2 ^ 32) ∧
    R (.imulUniform d a b) (fun r => r.toNat = x.toNat * y.toNat % 2 ^ 32) ∧
    R (.andUniform d a b) (fun r => ∀ k, r.getLsbD k = (x.getLsbD k && y.getLsbD k)) ∧
    R (.orUniform d a b) (fun r => ∀ k, r.getLsbD k = (x.getLsbD k || y.getLsbD k)) ∧
    R (.xorUniform d a b) (fun r => ∀ k, r.getLsbD k = (x.getLsbD k ^^ y.getLsbD k)) ∧
    R (.shlUniform d a b) (fun r => r.toNat = x.toNat * 2 ^ (y.toNat % 256) % 2 ^ 32) ∧
    R (.shrN32Uniform d a b) (fun r => r.toNat = x.toNat / 2 ^ (y.toNat % 256)) ∧
    R (.shrS32Uniform d a b) (fun r => r.toInt = x.toInt / 2 ^ (y.toNat % 256)) ∧
    R (.iminS32Uniform d a b) (fun r => r.toInt = min x.toInt y.toInt) ∧
    R (.imaxS32Uniform d a b) (fun r => r.toInt = max x.toInt y.toInt) ∧
    R (.movUniform d a) (fun r => r = x) ∧
    R (.moviUniform d imm) (fun r => r = imm) ∧
    R (.isetpUniform d a b cmp) (fun r => r = boolWord (match cmp with
      | .eq => decide (x.toNat = y.toNat)
      | .ne => decide (x.toNat ≠ y.toNat)
      | .ltS => decide (x.toInt < y.toInt)
      | .leS => decide (x.toInt ≤ y.toInt)
      | .gtS => decide (y.toInt < x.toInt)
      | .geS => decide (y.toInt ≤ x.toInt)
      | .ltN => decide (x.toNat < y.toNat)
      | .leN => decide (x.toNat ≤ y.toNat)
      | .gtN => decide (y.toNat < x.toNat)
      | .geN => decide (y.toNat ≤ x.toNat))) ∧
    R (.selUniform d a b c) (fun r => r = if uAt g c = 0#32 then y else x)

/-- When the group may issue them, the destination is allocated and the selectors can be read, FADD, FSUB, FMUL, FFMA,
FMIN, FMAX and FRND complete. In each lane that takes part (em, or the guard for FFMA and FRND) the latch and, without
.nw, the pending write hold the result, and the flags of exactly these lanes are joined into those of the jet. The
result is a function of the operands of that lane alone; a NaN operand of FADD, FSUB, FMUL, FFMA or FRND gives
0x7FC00000 and raises NP; FMIN and FMAX return the other operand when exactly one is NaN, and 0x7FC00000 with NP when
both are; of two numbers they return the lesser and the greater, −0 below +0, with no flag. FFMA of finite operands
gives the exact a*b + c rounded once to nearest even (finite when the exact value is below 2^128 - 2^103 in
magnitude); FRND of a finite operand gives the integer to which the mode rounds it, with the sign of the operand.
Nothing else changes. (R306, R307, R314, R315, R316, R317, R183, R185, R182, R44, R65) -/
def Obligations.FloatLaneInstructionsRun : Prop :=
  let frnd := fun (m : Rnd) (x : Word) => w32 (frndW m x.toNat)
    let isNan := fun (x : Word) => x.toNat / 2 ^ 23 % 256 = 255 ∧ x.toNat % 2 ^ 23 ≠ 0
    let val := fun (x : Word) => floatVal fF32 x.toNat
    let fin := fun (x : Word) => FloatFinite fF32 x.toNat
    let key := fun (x : Word) => if x.toNat < 2 ^ 31 then (x.toNat : Int) else 2 ^ 31 - 1 - (x.toNat : Int)
    let nanOut := fun (r : Word × Flags) => r.1 = 0x7FC00000#32 ∧ r.2.getLsbD 0 = true
    (∀ x y, isNan x ∨ isNan y → nanOut (faddW x y) ∧ nanOut (fsubW x y) ∧ nanOut (fmulW x y) ∧ (∀ z, nanOut (ffmaW x y z)) ∧
      (∀ z, nanOut (ffmaW z x y))) ∧
    (∀ m x, isNan x → nanOut (frnd m x)) ∧
    (∀ x y, isNan x → isNan y → nanOut (fminW x y) ∧ nanOut (fmaxW x y)) ∧
    (∀ x y, isNan x → ¬ isNan y → (fminW x y).1 = y ∧ (fmaxW x y).1 = y ∧ (fminW y x).1 = y ∧ (fmaxW y x).1 = y) ∧
    (∀ x y, ¬ isNan x → ¬ isNan y → ((fminW x y).1 = x ∨ (fminW x y).1 = y) ∧ key (fminW x y).1 = min (key x) (key y) ∧ (fminW x y).2 = 0#5 ∧
      ((fmaxW x y).1 = x ∨ (fmaxW x y).1 = y) ∧ key (fmaxW x y).1 = max (key x) (key y) ∧ (fmaxW x y).2 = 0#5) ∧
    (∀ x y z, fin x → fin y → fin z → (|val x * val y + val z| < 2 ^ 128 - 2 ^ 103 → fin (ffmaW x y z).1) ∧
      (fin (ffmaW x y z).1 → NearestTo fF32 (ffmaW x y z).1.toNat (val x * val y + val z))) ∧
    (∀ m x, fin x → fin (frnd m x).1 ∧ (frnd m x).1.toNat / 2 ^ 31 = x.toNat / 2 ^ 31 ∧
      ∃ n : Int, val (frnd m x).1 = n ∧ IntRounds m n (val x)) ∧
    ∀ (s : State) (g : Group) (nw : Bool) (gd : Guard) (d : BitVec 7) (a b c : Sel) (rnd : Rnd),
    g.vOk d.toNat = true → selOk g a = true → selOk g b = true → selOk g c = true →
    let R := fun (i : Instr) (m : Mask) (sels : List Sel) (f : Nat → Word × Flags) => Issues s i g →
      ∃ out, Runs s i g (g.takeFq sels) (.lane out) (if nw then [] else [.v d.toNat m out])
          (flJoin ((maskLanes m).map (fun l => (f l).2))) (g.pc + instrLen i) ∧
        ∀ l, l < 32 → Lanes.at out l = if m.getLsbD l then (f l).1 else g.lane d.toNat l
    let x := fun l => selAt g a l
    let y := fun l => selAt g b l
    R (.fadd nw d a b) g.em [a, b] (fun l => faddW (x l) (y l)) ∧
    R (.fsub nw d a b) g.em [a, b] (fun l => fsubW (x l) (y l)) ∧
    R (.fmul nw d a b) g.em [a, b] (fun l => fmulW (x l) (y l)) ∧
    R (.fmin nw d a b) g.em [a, b] (fun l => fminW (x l) (y l)) ∧
    R (.fmax nw d a b) g.em [a, b] (fun l => fmaxW (x l) (y l)) ∧
    R (.ffma nw gd d a b c) (guardMask g gd) [a, b, c] (fun l => ffmaW (x l) (y l) (selAt g c l)) ∧
    R (.frnd nw gd d a rnd) (guardMask g gd) [a] (fun l => frnd rnd (x l))

/-- When the group may issue them, the destination is allocated and the selectors can be read, FCVT, PADD, PMUL, PFMA,
PMAX and PMIN complete in every type, with the result in the latch and the pending write in each lane that takes part
and the flags of these lanes joined. Sub-element k of a packed result depends on sub-elements k of the operands alone:
operands that agree there give the same sub-element. A sub-element of PADD, PMUL or PFMA on finite ones is the exact
sum, product or product and sum rounded once to nearest even, and one of PMAX or PMIN stands for the greater or the
lesser. FCVT of a finite number of any format to a float format rounds it once by the mode; to an integer format it
rounds it by the mode and clamps it to the range of the format; to a narrower format it keeps the other bits of the
base operand. Nothing else changes. (R311, R365, R366, R186, R183, R184, R65) -/
def Obligations.ConversionsAndPackedOperationsRun : Prop :=
  let pmax := fun (ty : PackTy) (x y : Word) => pminmaxW true ty x y
    let pmin := fun (ty : PackTy) (x y : Word) => pminmaxW false ty x y
    let part := fun (ty : PackTy) (x : Word) (k : Nat) => x.toNat / 2 ^ ((packFF ty).width * k) % 2 ^ (packFF ty).width
    (∀ sat ty k x y x' y', part ty x k = part ty x' k → part ty y k = part ty y' k →
      part ty (paddW sat ty x y).1 k = part ty (paddW sat ty x' y').1 k ∧
      part ty (pmulW sat ty x y).1 k = part ty (pmulW sat ty x' y').1 k ∧
      part ty (pmax ty x y).1 k = part ty (pmax ty x' y').1 k ∧
      part ty (pmin ty x y).1 k = part ty (pmin ty x' y').1 k ∧
      (∀ z z', part ty z k = part ty z' k → part ty (pfmaW sat ty x y z).1 k = part ty (pfmaW sat ty x' y' z').1 k)) ∧
    (∀ sat rnd di si df sf x base b, df.width < 32 → di < 32 / df.width → b < 32 →
      ¬ (df.width * di ≤ b ∧ b < df.width * (di + 1)) →
      (fcvtW sat rnd di si df sf x base).1.getLsbD b = base.getLsbD b) ∧
    (∀ sat ty k x y, k < 32 / (packFF ty).width → let f := packFF ty
      FloatFinite f (part ty x k) → FloatFinite f (part ty y k) →
      let v := floatVal f (part ty x k)
      let w := floatVal f (part ty y k)
      RoundsTo f .rn (part ty (paddW sat ty x y).1 k) (v + w) ∧ RoundsTo f .rn (part ty (pmulW sat ty x y).1 k) (v * w) ∧
      (∀ z, FloatFinite f (part ty z k) → RoundsTo f .rn (part ty (pfmaW sat ty x y z).1 k) (v * w + floatVal f (part ty z k))) ∧
      floatVal f (part ty (pmax ty x y).1 k) = max v w ∧ floatVal f (part ty (pmin ty x y).1 k) = min v w) ∧
    (∀ sat rnd di si df sf x base, di < 32 / df.width → si < 32 / sf.width → df.isFloat = true ∨ sf.isFloat = true →
      let e := x.toNat / 2 ^ (sf.width * si) % 2 ^ sf.width
      let r := (fcvtW sat rnd di si df sf x base).1.toNat / 2 ^ (df.width * di) % 2 ^ df.width
      let signed := fun (c : CvtFmt) => c = .s8 ∨ c = .s16 ∨ c = .s32
      let int := fun (c : CvtFmt) (n : Nat) => if signed c ∧ 2 ^ (c.width - 1) ≤ n then (n : Int) - 2 ^ c.width else n
      (sf.isFloat = true → FloatFinite (cvtFF sf) e) →
      let v : ℚ := if sf.isFloat then floatVal (cvtFF sf) e else int sf e
      (df.isFloat = true → RoundsTo (cvtFF df) rnd r v) ∧
      (df.isFloat = false → ∃ n : Int, IntRounds rnd n v ∧
        int df r = if signed df then max (-2 ^ (df.width - 1)) (min (2 ^ (df.width - 1) - 1) n) else max 0 (min (2 ^ df.width - 1) n))) ∧
    ∀ (s : State) (g : Group) (nw : Bool) (gd : Guard) (d : BitVec 7) (a b c : Sel) (sat : Bool) (ty : PackTy) (rnd : Rnd)
      (di si : BitVec 3) (df sf : CvtFmt),
    g.vOk d.toNat = true → selOk g a = true → selOk g b = true → selOk g c = true →
    let m := guardMask g gd
    let R := fun (i : Instr) (sels : List Sel) (f : Nat → Word × Flags) => Issues s i g →
      ∃ out, Runs s i g (g.takeFq sels) (.lane out) (if nw then [] else [.v d.toNat m out])
          (flJoin ((maskLanes m).map (fun l => (f l).2))) (g.pc + instrLen i) ∧
        ∀ l, l < 32 → Lanes.at out l = if m.getLsbD l then (f l).1 else g.lane d.toNat l
    let x := fun l => selAt g a l
    let y := fun l => selAt g b l
    R (.padd nw gd d a b sat ty) [a, b] (fun l => paddW sat ty (x l) (y l)) ∧
    R (.pmul nw gd d a b sat ty) [a, b] (fun l => pmulW sat ty (x l) (y l)) ∧
    R (.pfma nw gd d a b c sat ty) [a, b, c] (fun l => pfmaW sat ty (x l) (y l) (selAt g c l)) ∧
    R (.pmax nw gd d a b ty) [a, b] (fun l => pmax ty (x l) (y l)) ∧
    R (.pmin nw gd d a b ty) [a, b] (fun l => pmin ty (x l) (y l)) ∧
    (df.width < 32 → R (.fcvt nw gd d a b sat rnd di si df sf) [a, b] (fun l => fcvtW sat rnd di.toNat si.toNat df sf (x l) (y l))) ∧
    (df.width = 32 → R (.fcvt nw gd d a b sat rnd di si df sf) [a] (fun l => fcvtW sat rnd di.toNat si.toNat df sf (x l) 0#32))

/-- With the value of an f32 pattern read as R180 defines it: for finite operands, the result of FADD, FSUB or FMUL is
finite when the exact sum, difference or product is below 2^128 - 2^103 in magnitude; and whenever it is finite, no
finite f32 value lies nearer to the exact value, and when another finite value lies equally near, the result has an
even mantissa. (R183, R180, R307) -/
def Obligations.FloatSumsAndProductsRoundToNearest : Prop :=
  let val := fun (x : Word) => floatVal fF32 x.toNat
    let fin := fun (x : Word) => FloatFinite fF32 x.toNat
    let rounds := fun (r : Word) (v : ℚ) => (|v| < 2 ^ 128 - 2 ^ 103 → fin r) ∧ (fin r → NearestTo fF32 r.toNat v)
    ∀ x y, fin x → fin y →
      rounds (faddW x y).1 (val x + val y) ∧ rounds (fsubW x y).1 (val x - val y) ∧ rounds (fmulW x y).1 (val x * val y)

/-- When the group may issue them, NOP, JMP, CALL and RET with a link field below 0x40 complete. JMP and CALL go to their
own address plus 4 times the signed offset when the condition holds on the selector as a signed number (always for
COND = 0), and to the following word otherwise; a CALL that is taken writes its address plus 8 to the link register;
RET goes to the offset in its register. RET with a link field of 0x40 or more raises 0x02. Nothing else changes. MARK
below depth 16 pushes (rejoin, em, target) and goes on; at depth 16 it raises 0x05 with s58 = 0 and s59 = 16. JOIN
above its floor (the depth at trap entry while in a handler, else 0) pops the top entry, loads em from it and goes to
its address; at or below the floor it raises 0x05 with s58 = 1. A BRA that no TRAIL follows raises 0x03 with s58 = 2.
BRA before a TRAIL, with T the lanes of em whose guard holds and F the others of em: T empty leaves no branch for the
TRAIL; T = em leaves one to the target with em unchanged; a split below depth 16 leaves one that pushes (pending, T,
target), sets em to F and goes to the word after the TRAIL; a split at depth 16 raises 0x05 with s58 = 0. Nothing else
changes. (R339, R293, R374, R359, R75, R72, R21, R350, R340, R291, R43) -/
def Obligations.ControlFlowInstructionsRun : Prop :=
  (∀ (s : State) (g : Group) (t : CondTest) (ofs : BitVec 24) (link : BitVec 6) (l : BitVec 8) (target : Nat),
    (target : Int) = (g.pc : Int) + 4 * ofs.toInt →
    let holds := match t with
      | .always => true
      | .test c a =>
        let x := (uAt g a).toInt
        match c with
        | .z => decide (x = 0)
        | .nz => decide (x ≠ 0)
        | .lt => decide (x < 0)
        | .ge => decide (0 ≤ x)
        | .gt => decide (0 < x)
        | .le => decide (x ≤ 0)
    (Issues s .nop g → Runs s .nop g g .none [] 0#5 (g.pc + 4)) ∧
    (Issues s (.jmp t ofs) g → Runs s (.jmp t ofs) g g .none [] 0#5 (if holds then target else g.pc + 8)) ∧
    (Issues s (.call link t ofs) g → Runs s (.call link t ofs) g
      (if holds then g.setS link.toNat (BitVec.ofNat 32 (g.pc + 8)) else g) .none [] 0#5 (if holds then target else g.pc + 8)) ∧
    (Issues s (.ret l) g → l.toNat < 0x40 → Runs s (.ret l) g g .none [] 0#5 (g.getS l.toNat).toNat) ∧
    (Issues s (.ret l) g → 0x40 ≤ l.toNat → Raises s (.ret l) g Trap.operand)) ∧
  (∀ (s : State) (g : Group) (ofs : BitVec 24) (o : BitVec 16) (gd : Guard) (target far : Nat),
    (target : Int) = (g.pc : Int) + 4 * o.toInt → (far : Int) = (g.pc : Int) + 4 * ofs.toInt →
    let m := guardMask g gd
    let f := g.em &&& ~~~m
    let bra := fun (b : Option PendBranch) => exec (.bra gd o) s = .next (s.setGroup s.cur.1 s.cur.2
      { issuedGroup g g .none [] 0#5 (g.pc + 8) with
        jet := (issuedGroup g g .none [] 0#5 (g.pc + 8)).jet.map (fun j => { j with bra := b }) })
    (Issues s (.mark ofs) g → g.stack.length < 16 → Runs s (.mark ofs) g
      { g with stack := { pending := false, mask := g.em, addr := far } :: g.stack } .none [] 0#5 (g.pc + 8)) ∧
    (Issues s (.mark ofs) g → g.stack.length = 16 → Raises s (.mark ofs) g (Trap.own 0x05 0 16)) ∧
    (∀ e rest, Issues s .join g → g.stack = e :: rest →
      (if g.handler then (g.frame.map (fun x => x.depth)).getD 0 else 0) < g.stack.length →
      Runs s .join g { g with stack := rest, em := e.mask } .none [] 0#5 e.addr) ∧
    (Issues s .join g → g.stack.length ≤ (if g.handler then (g.frame.map (fun x => x.depth)).getD 0 else 0) →
      Raises s .join g (Trap.own 0x05 1 g.stack.length)) ∧
    (Issues s (.bra gd o) g → s.trailAt g (g.pc + 8) = false → Raises s (.bra gd o) g (Trap.own 0x03 2 0)) ∧
    (Issues s (.bra gd o) g → s.trailAt g (g.pc + 8) = true →
      (m = 0#32 → bra none) ∧
      (m ≠ 0#32 → f = 0#32 → bra (some { em := g.em, addr := target, push := none })) ∧
      (m ≠ 0#32 → f ≠ 0#32 → g.stack.length < 16 →
        bra (some { em := f, addr := g.pc + 12, push := some { pending := true, mask := m, addr := target } })) ∧
      (m ≠ 0#32 → f ≠ 0#32 → g.stack.length = 16 → Raises s (.bra gd o) g (Trap.own 0x05 0 16))))

/-- TRAIL completes at every position of a jet at which preparation found nothing wrong, for any names. Afterwards each
lane of each vector register and each bit of each predicate holds the value of the last write of the jet that covers
it, and its old value where none does; a result that arrived while the jet was open lands after them, and where an
earlier jet issued it and a write of this jet or a mark of R46 covers the lane, the lane holds the one value or the
other; p7 reads all ones; that the last of two writes of one jet remains is the model reading of R44 (DEDUCED, log 18)
and that a result of class V or M issued in this very jet lands after its writes is its choice (DESIGN CHOICE, log
78); the flags of the jet are ORed into the status word; the jet is over; the pc, em and the rejoin stack are as the
pending branch of the jet says, or the pc is the following word; uniform registers, memory and every other group stay
as they are. (R395, R43, R44, R185, R21) -/
def Obligations.TrailEndsTheJet : Prop :=
  ∀ (s : State) (g : Group) (names : Option (BitVec 7 × BitVec 7 × BitVec 7)),
    s.group? s.cur.1 s.cur.2 = some g → g.jetOr.plan.map Prod.fst ≠ some g.jetOr.pos →
    let j := g.jetOr
    let vec := fun (ws : List PendWrite) (r l : Nat) (x : Word) => ws.foldl (fun acc w => match w with
      | .v r' m y => if r' = r ∧ m.getLsbD l = true then Lanes.at y l else acc
      | _ => acc) x
    let raced := fun (e : Late) (r l : Nat) => e.dest.raced.getLsbD l = true ∨ (e.id < j.first ∧ (j.wrote r).getLsbD l = true)
    ∃ t h, exec (.trail names) s = .next t ∧ t.group? s.cur.1 s.cur.2 = some h ∧
      (∀ r l, r < 128 → l < 32 → ∃ free : Nat → Bool, h.lane r l = j.late.foldl (fun acc e =>
        if e.dest.reg = r ∧ e.dest.mask.getLsbD l = true then (if raced e r l ∧ free e.ix = false then acc else Lanes.at e.x l)
        else acc) (vec j.pend r l (g.lane r l))) ∧
      (∀ r l, r < 7 → l < 32 → ∃ free : Nat → Bool, (h.getP r).getLsbD l = j.late.foldl (fun acc e =>
        if e.dest.reg = predReg r ∧ e.dest.mask.getLsbD l = true then
          (if raced e (predReg r) l ∧ free e.ix = false then acc else decide (Lanes.at e.x l = 1#32))
        else acc) (j.pend.foldl (fun acc w => match w with
          | .p r' m x => if r' = r ∧ m.getLsbD l = true then x.getLsbD l else acc
          | _ => acc) ((g.getP r).getLsbD l))) ∧
      h.getP 7 = Mask.all ∧ h.status = g.status ||| j.flags ∧ h.jet = none ∧
      h.pc = (match j.bra with
        | none => g.pc + 4
        | some b => b.addr) ∧
      h.em = (match j.bra with
        | none => g.em
        | some b => b.em) ∧
      h.stack = (match j.bra with
        | some { push := some e, .. } => e :: g.stack
        | _ => g.stack) ∧
      (∀ r, h.getS r = g.getS r) ∧ h.part = g.part ∧ h.fwd = g.fwd ∧ h.ret = g.ret ∧ h.handler = g.handler ∧
      { t with quads := s.quads } = s ∧
      (∀ q slot, (q, slot) ≠ s.cur → t.group? q slot = s.group? q slot) ∧
      ((t.quad? s.cur.1).map (fun x => x.issuing)) = some none

/-- SETEM writes em with any value. SETPART with 2, 4, 8, 16 or 32 writes the code 1 to 5 to part at once (the model reads
R377 with R47 so: DEDUCED, log 71) and leaves pending writes which, when the jet ends, put the stale code into every
norm entry of every allocated heading and change nothing else; any other value raises 0x02. MOVS reads em, part, the
depth, the handler flag, the free slots of both queues (16 and 8 less the entries), the status word, the jet count
(this jet included), the power-token wait, the identity numbers and the cycle counter, whose high word it captures
with the low one. MTSR writes the status word (bits [4:0]), the jet count and the power-token wait; for every other
special register it raises 0x02. Nothing else changes. (R376, R377, R209, R357, R358, R51, R185) -/
def Obligations.MaskPartitionAndSpecialsRun : Prop :=
  ∀ (s : State) (g : Group) (a : USel) (d : BitVec 6) (r : SReg),
    let q := s.cur.1
    let cycle := ((s.quad? q).map (fun x => x.cycle)).getD 0
    let x := uAt g a
    let stale := fun (h : Group) => { h with h := g.h } = g ∧
      (∀ n, n < 4 * g.hgran → (∀ c, c < 256 → (h.getH n).dir.getD c 0#16 = (g.getH n).dir.getD c 0#16) ∧
        ∀ t, t < 16 → (h.getH n).norm.getD t 0#16 = 0x8001#16) ∧
      (∀ n, 4 * g.hgran ≤ n → h.getH n = g.getH n)
    (Issues s (.setem a) g → Runs s (.setem a) g { g with em := x } .none [] 0#5 (g.pc + 4)) ∧
    (∀ k, 1 ≤ k → k ≤ 5 → x.toNat = 2 ^ k → Issues s (.setpart a) g → ∃ ws, stale (ws.foldl (Group.land g.jetOr.first) g) ∧
      Runs s (.setpart a) g { g with part := BitVec.ofNat 32 k } .none ws 0#5 (g.pc + 4)) ∧
    ((∀ k, 1 ≤ k → k ≤ 5 → x.toNat ≠ 2 ^ k) → Issues s (.setpart a) g → Raises s (.setpart a) g Trap.operand) ∧
    (Issues s (.movs d r) g → ∃ v, Runs s (.movs d r) g { g.setS d.toNat v with
        capturedHi := if r = .cycLo then BitVec.ofNat 32 (cycle / 2 ^ 32) else g.capturedHi } .none [] 0#5 (g.pc + 4) ∧
      (r = .em → v = g.em) ∧ (r = .part → v = g.part) ∧ (r = .depth → v = BitVec.ofNat 32 g.stack.length) ∧
      (r = .handler → v = boolWord g.handler) ∧ (r = .fwdFree → v = BitVec.ofNat 32 (16 - g.fwd.length)) ∧
      (r = .retFree → v = BitVec.ofNat 32 (8 - g.ret.length)) ∧ (r = .status → v = g.status.setWidth 32) ∧
      (r = .cycLo → v = BitVec.ofNat 32 cycle) ∧ (r = .cycHi → v = g.capturedHi) ∧
      (r = .jetCount → v = g.jetCount + 1#32) ∧ (r = .powerWait → v = g.powerWait) ∧
      (r = .group → v = BitVec.ofNat 32 g.grp) ∧ (r = .crew → v = BitVec.ofNat 32 g.crew) ∧
      (r = .gang → v = BitVec.ofNat 32 g.gang) ∧ (r = .launch → v = g.launch) ∧
      (r = .basin → v = BitVec.ofNat 32 g.basin) ∧ (r = .quadrant → v = BitVec.ofNat 32 q) ∧
      (r = .core → v = BitVec.ofNat 32 (q / 4)) ∧ (r = .cluster → v = BitVec.ofNat 32 (q / 16)) ∧
      (∀ w, r = .landrec w → v = g.landrec.extractLsb' (32 * w.toNat) 32) ∧
      (r = .cLd → v = BitVec.ofNat 32 (g.counter .ld)) ∧ (r = .cSt → v = BitVec.ofNat 32 (g.counter .st)) ∧
      (r = .cCst → v = BitVec.ofNat 32 (g.counter .cst)) ∧ (r = .cSmp → v = BitVec.ofNat 32 (g.counter .smp)) ∧
      (r = .cDsc → v = BitVec.ofNat 32 (g.counter .dsc)) ∧ (r = .cCpy → v = BitVec.ofNat 32 (g.counter .cpy))) ∧
    (Issues s (.mtsr r a) g →
      (r = .status → Runs s (.mtsr r a) g { g with status := x.setWidth 5 } .none [] 0#5 (g.pc + 8)) ∧
      (r = .powerWait → Runs s (.mtsr r a) g { g with powerWait := x } .none [] 0#5 (g.pc + 8)) ∧
      (r = .jetCount → exec (.mtsr r a) s = .next (s.setGroup s.cur.1 s.cur.2
        { issuedGroup g g .none [] 0#5 (g.pc + 8) with jetCount := x })) ∧
      (r ≠ .status → r ≠ .powerWait → r ≠ .jetCount → Raises s (.mtsr r a) g Trap.operand))

/-- QSEND appends the value of its selector to the forward queue. QTAKE removes the oldest entry of the return queue into
its register; when the queue is empty as it issues it raises 0x03 with s58 = 4. QRET appends the value that its
selector delivers in the lowest lane of em, or 0 when em is 0, and consumes the head of the forward queue when it
names fq; a selector that cannot be read raises 0x02. Nothing else changes. PROBE_TOKEN_TIMEOUT completes for a push
that has been blocked for 256 cycles, has no token out and finds its reserve entry free, and only adds its token.
PROBE_TOKEN completes for every token that is out and removes it. That of a forward queue whose group is still blocked
on its own push grants the group the reserve entry, and nothing else changes. That of another queue changes nothing
more when its push is no longer blocked; otherwise whether it comes back is open, and it grants the reserve entry or
not. Which links the tokens of the reservation tables, descent queues and distributors follow is open (log 76). (R48,
R49, R369, R370, R50) -/
def Obligations.QueuesAndProbeTokensRun : Prop :=
  (∀ (s : State) (g : Group) (a : USel) (d : BitVec 6) (x : Sel),
    (Issues s (.qsend a) g → Runs s (.qsend a) g { g with fwd := g.fwd ++ [uAt g a] } .none [] 0#5 (g.pc + 4)) ∧
    (∀ w rest, Issues s (.qtake d) g → g.ret = w :: rest →
      Runs s (.qtake d) g { g.setS d.toNat w with ret := rest } .none [] 0#5 (g.pc + 4)) ∧
    (Issues s (.qtake d) g → g.ret = [] → Raises s (.qtake d) g (Trap.own 0x03 4 0)) ∧
    (∀ l, Issues s (.qret x) g → selOk g x = true → l < 32 → g.em.getLsbD l = true → (∀ k, k < l → g.em.getLsbD k = false) →
      Runs s (.qret x) g { g.takeFq [x] with ret := g.ret ++ [selAt g x l] } .none [] 0#5 (g.pc + 4)) ∧
    (Issues s (.qret x) g → selOk g x = true → g.em = 0#32 →
      Runs s (.qret x) g { g.takeFq [x] with ret := g.ret ++ [0#32] } .none [] 0#5 (g.pc + 4)) ∧
    (Issues s (.qret x) g → selOk g x = false → Raises s (.qret x) g Trap.operand)) ∧
  (∀ (s : State),
    (∀ u, s.probes.any (fun t => t.origin == u) = false → s.reserveTaken u = false → s.pushBlocked u = true →
      ∃ k, k.origin = u ∧ exec (.probeTokenTimeout u) s = .next { s with probes := s.probes ++ [k] }) ∧
    (∀ ix k, s.probes[ix]? = some k →
      let s1 : State := { s with probes := s.probes.eraseIdx ix }
      (∀ q slot, k.origin = .forward q slot → s1.fwdBlocked q slot = true →
        exec (.probeToken ix) s = .next (s1.modGroup q slot (fun g => { g with fwdGrant := true }))) ∧
      (∀ q slot, k.origin = .forward q slot → s1.fwdBlocked q slot = false → exec (.probeToken ix) s = .next s1) ∧
      ((∀ q slot, k.origin ≠ .forward q slot) → s1.pushBlocked k.origin = false → exec (.probeToken ix) s = .next s1) ∧
      ((∀ q slot, k.origin ≠ .forward q slot) → s1.pushBlocked k.origin = true → ∃ back : Bool, exec (.probeToken ix) s =
        .next (if back then ({ s1 with freeIx := s1.freeIx + 1 } : State).grantReserve k.origin |>.settle
          else { s1 with freeIx := s1.freeIx + 1 }))))

/-- With the handler flag 0 and a handler registered, TRAP and BPT complete by trap entry. s56 holds the cause (0x0F or
0x10), s57 the address of the following instruction, s58 the code of TRAP or 0, s59 0; v120 to v127 hold 0 in every
lane; em is unchanged and the handler flag is 1; the pc is the registered offset of the handler object; the rejoin
stack, the status word and every other uniform register keep their values; the frame holds s56 to s63, p0 to p6, em,
part and the top rejoin entry with the depth as they were (and v120 to v127 where they are the group's own). The jet
is over; memory, every request and copy, the banks and every other group are unchanged. When TRAP or BPT issues with
the handler flag 1, or with the flag 0 and no handler registered, the step completes, every group of the same basin
and launch is retired, every launch record of that number that is not complete is marked killed (it completes without
its completion store), and no byte of memory changes. Groups of other basins keep their registers. (R54, R53, R243,
R244, R396, R290, R55, R32) -/
def Obligations.TrapsEnterTheHandlerOrEndTheLaunch : Prop :=
  (∀ (s : State) (g : Group) (code : BitVec 16) (cap : DWord),
    g.handler = false → (s.basin g.basin).handler = some cap →
    let entered := fun (i : Instr) (cause : Nat) (s58 : Word) => Issues s i g →
      ∃ t h f, exec i s = .next t ∧ t.group? s.cur.1 s.cur.2 = some h ∧ h.frame = some f ∧
        h.getS 56 = BitVec.ofNat 32 cause ∧ h.getS 57 = BitVec.ofNat 32 (g.pc + instrLen i) ∧ h.getS 58 = s58 ∧ h.getS 59 = 0#32 ∧
        (∀ n l, 120 ≤ n → n < 128 → h.lane n l = 0#32) ∧ (∀ n, n < 56 ∨ 59 < n → h.getS n = g.getS n) ∧
        h.em = g.em ∧ h.part = g.part ∧ h.handler = true ∧ h.pc = capOfs cap ∧ h.jet = none ∧ h.stack = g.stack ∧
        h.status = g.status ||| g.jetOr.flags ∧
        (∀ n, 56 ≤ n → n < 64 → NMap.get? f.s n = some (g.getS n)) ∧
        (∀ n, n < 7 → NMap.get? f.p n = some (g.opened.endJet.getP n)) ∧
        (g.vgran = 15 → ∀ n, 120 ≤ n → n < 128 → NMap.get? f.v n = some (g.opened.endJet.getV n)) ∧
        f.em = g.em ∧ f.part = g.part ∧ f.top = g.stack.head? ∧ f.depth = g.stack.length ∧
        { t with quads := s.quads, freeIx := s.freeIx, reqs := s.reqs, engines := s.engines } = s ∧
        (∀ id, id < s.nextId → t.req? id = s.req? id) ∧
        (∀ qs, (t.engine qs).acc = (s.engine qs).acc ∧ (t.engine qs).holder = (s.engine qs).holder ∧
          ∀ y, y.id < s.nextId → (y ∈ (t.engine qs).copies ↔ y ∈ (s.engine qs).copies)) ∧
        (∀ q slot, (q, slot) ≠ s.cur → t.group? q slot = s.group? q slot)
    entered (.trap code) 0x0F (code.setWidth 32) ∧ entered .bpt 0x10 0#32) ∧
  (∀ (s : State) (g : Group) (code : BitVec 16) (i : Instr), i = .trap code ∨ i = .bpt → Issues s i g →
    (g.handler = true ∨ (s.basin g.basin).handler = none) →
    ∃ t, exec i s = .next t ∧ t.mem = s.mem ∧
      (∀ q slot h, t.group? q slot = some h → h.basin = g.basin → h.launch = g.launch → h.retired = true) ∧
      (∀ l ∈ (t.basin g.basin).launches, l.num = g.launch → l.complete = false → l.killed = true) ∧
      (∀ q slot h, s.group? q slot = some h → h.basin ≠ g.basin →
        ∃ h', t.group? q slot = some h' ∧ h'.v = h.v ∧ h'.s = h.s ∧ h'.p = h.p ∧ h'.pc = h.pc ∧ h'.em = h.em ∧ h'.retired = h.retired))

/-- TRAPRET is a catch-up instruction whose word is 0x98000000. In a handler, with the frame that trap entry saved from a
group e, it completes: em, part, p0 to p6, s56 to s63 without s57, and v120 to v127 where they are the group's own are
those of e; s57 keeps what the handler left; the rejoin stack has its saved depth and top entry; the handler flag is
0; a new jet starts at the offset in s57; every other register keeps its value (a vector register also takes the
results that arrived since the jet started) and no memory access is ordered or made: memory, lines and requests are
unchanged. A queued notice stays queued for the next boundary; what the handler issued counts as the group's own from
then on. With the handler flag 0 it raises 0x13. (R397, R54, R53, R198) -/
def Obligations.TrapReturnRestoresTheFrame : Prop :=
  encode .trapret = some (0x98000000#32, none) ∧ isCatchUp .trapret = true ∧ ∀ (s : State) (g e : Group), Issues s .trapret g →
    (∀ since os rr, g.handler = true → g.frame = some { e.saveFrame since with orders := os, relReads := rr } → e.stack.length ≤ g.stack.length →
      ∃ t h, exec .trapret s = .next t ∧ t.group? s.cur.1 s.cur.2 = some h ∧
        h.em = e.em ∧ h.part = e.part ∧ (∀ n, n < 7 → h.getP n = e.getP n) ∧
        (∀ n, 56 ≤ n → n < 64 → n ≠ 57 → h.getS n = e.getS n) ∧ h.getS 57 = g.getS 57 ∧
        (∀ n, n < 56 ∨ 64 ≤ n → h.getS n = g.getS n) ∧
        (e.vgran = 15 → ∀ n, 120 ≤ n → n < 128 → h.getV n = e.getV n) ∧ (∀ n, n < 120 → h.getV n = g.leaveJet.getV n) ∧
        h.stack.length = e.stack.length ∧ h.stack.head? = e.stack.head? ∧
        h.stack.drop 1 = g.stack.drop (g.stack.length - e.stack.length + 1) ∧
        h.handler = false ∧ h.frame = none ∧ h.pc = (g.getS 57).toNat ∧ h.jet = none ∧
        h.notices = g.notices.map (fun (n : Notice) => { n with byHandler := false }) ∧
        t.reqs = s.reqs.map (fun (r : Nat × Req) =>
          if r.2.owner = g.owner s.cur.1 s.cur.2 then (r.1, { r.2 with byHandler := false }) else r) ∧
        h.orders = os ++ g.orders ∧ h.relReads = rr ++ g.relReads ∧ h.status = g.status ∧ h.h = g.h ∧ { t with quads := s.quads, engines := s.engines, reqs := s.reqs } = s ∧
        (∀ q slot, (q, slot) ≠ s.cur → t.group? q slot = s.group? q slot)) ∧
    (g.handler = false → Raises s .trapret g (Trap.plain 0x13))

/-- A FENCE of any kind that the group reaches with no older order records its orders: with release, after the write-
combining entries of the group are on their way out, one that waits for its merges and moving entries, and at .gang,
.dev and .sys for its write-class requests and its copies to be acknowledged, and its earlier reads are kept for the
writes that follow; with acquire, one that waits for its earlier reads, then for the host writes at .sys, promotes for
.acq.remote, and invalidates the L1 data at .gang, .dev and .sys. It completes when all of this is over, and otherwise
stands at its own address with the orders left and the issue slot free; once its orders are met it completes and only
the pc and the jet move on. No register of the group changes (but by results that arrived since the jet started) and
no byte of memory. That the writes behind a release wait for the reads before it is read from R129 (log 30, DEDUCED),
and so is which host writes a .sys acquire waits for (log 62, DEDUCED); R130 says neither. (R130, R313, R126, R35) -/
def Obligations.FencesOrderAndComplete : Prop :=
  ∀ (s : State) (g : Group) (k : FenceKind), Issues s (.fence k) g →
    let new := g.wait = .none ∨ ∃ c, g.wait = .until c
    let q := s.cur.1
    let slot := s.cur.2
    let o := g.owner q slot
    let kept := fun (t : State) (h g : Group) => t.mem = s.mem ∧ h.v = g.v ∧ h.s = g.s ∧ h.p = g.p ∧ h.h = g.h ∧ h.em = g.em ∧
      h.status = g.status ∧ h.stack = g.stack
    let wide := fun (sc : Scope) => sc = .gang ∨ sc = .dev ∨ sc = .sys
    let reads := fun (m : State) (id : Nat) => ∃ r, (id, r) ∈ m.reqs ∧ r.owner = o ∧ r.kind.isLsRead = true
    let writes := fun (m : State) (sc : Scope) (id : Nat) =>
      (∃ r, (id, r) ∈ m.reqs ∧ r.owner = o ∧ ((∃ n, r.kind = .merge n) ∨ (wide sc ∧ r.kind.writeClass = true))) ∨
      (∃ x, m.quad? q = some x ∧ ∃ e ∈ x.wc, e.owner = o ∧ e.leaving = true ∧ e.ticket = id) ∨
      (wide sc ∧ ∃ c ∈ (m.engine (slotOf q)).copies, c.owner = o ∧ c.suspended = false ∧ c.kind.isTcopy = false ∧ c.id = id)
    let release := fun (m : State) (sc : Scope) (w : Order) => w.hosts = false ∧ w.promote = false ∧ w.inv = false ∧
      (w.wide = true ↔ wide sc) ∧ ∀ id, id ∈ w.waits ↔ writes m sc id
    let acquire := fun (m : State) (sc : Scope) (remote : Bool) (w : Order) => w.wide = false ∧ w.promote = remote ∧
      (w.hosts = true ↔ sc = .sys) ∧ (w.inv = true ↔ wide sc) ∧ ∀ id, id ∈ w.waits ↔ reads m id
    (new → g.orders = [] →
      let s0 := s.setGroup q slot g.opened
      ∃ (m : State) (ws : List Order) (rr : List Nat) (t : State) (h : Group), m = (match k with
          | .rel sc | .acqrel sc => s0.releaseMove o sc
          | _ => s0) ∧
        (match k with
          | .rel sc => ∃ w, ws = [w] ∧ release m sc w
          | .acqrel sc => ∃ w w', ws = [w, w'] ∧ release m sc w ∧ acquire m sc false w'
          | .acq sc => ∃ w, ws = [w] ∧ acquire m sc false w
          | .acqRemote dev => ∃ w, ws = [w] ∧ acquire m (if dev then .dev else .gang) true w) ∧
        (match k with
          | .rel _ | .acqrel _ => ∀ id, id ∈ rr ↔ id ∈ g.relReads ∨ reads m id
          | _ => rr = g.relReads) ∧
        (let r := State.settle { m.modGroup q slot (fun x => { x with orders := ws, relReads := rr }) with nextId := m.nextId + ws.length }
         r.group? q slot = some h ∧ exec (.fence k) s = .next t ∧
         ((h.orders = [] ∧ kept t h g ∧ t = r.modGroup q slot (fun x => x.advance .none (g.pc + 8))) ∨
          (h.orders ≠ [] ∧ (∀ y, t.group? q slot = some y → kept t y g.leaveJet) ∧
            t = (r.modGroup q slot (fun x => x.stand g (.stage 1))).freeIssue q false)))) ∧
    (∀ n, g.wait = .stage n → g.orders = [] → Runs s (.fence k) g g .none [] 0#5 (g.pc + 8)) ∧
    (new → g.orders ≠ [] → Waits s (.fence k) g (.until .orders))

/-- WAITC completes when the counter of its path is at most the threshold; PFENCE completes when the counters of the paths
that its mask names are 0 (bit 0: ld, st and dsc; bit 1: cst; bit 2: smp; bit 3: cpy) and then has emptied the caches
of those paths in the quadrant. Otherwise the group stands at the instruction with its jet not started, results that
arrived since it started being in their registers. Otherwise no register and no byte of memory changes. OFENCE
completes when every scratchpad request of the group has been applied at its bank and every TCOPY of the group is
complete; it then opens the window of R204. MMWAIT completes when no MMA of the group is staged, in the reservation
table or in execution; it ends the window. Only banks that an ACCST has spoilt in the window change (their elements
are unpredictable: free values); every other accumulator word, every register and every byte of memory keeps its
value. While the work is not over the group stands at the instruction and nothing else changes. (R100, R402, R95,
R367, R91, R204, R361, R354) -/
def Obligations.WaitsAndEngineFencesComplete : Prop :=
  (∀ (s : State) (g : Group) (p : Path) (thr : USel) (m : BitVec 4),
    let kept := fun (t : State) (h g : Group) => t.mem = s.mem ∧ h.v = g.v ∧ h.s = g.s ∧ h.p = g.p ∧ h.h = g.h ∧ h.em = g.em ∧
      h.status = g.status ∧ h.stack = g.stack ∧ h.flights = g.flights
    (Issues s (.waitc p thr) g → GroupAfter (exec (.waitc p thr) s) s.cur.1 s.cur.2 (fun t h =>
      (if g.counter p ≤ (uAt g thr).toNat then kept t h g ∧ h.pc = g.pc + 8 ∧ h.wait = .none
       else kept t h g.leaveJet ∧ h.pc = g.pc ∧ h.wait = .until (.counter p (uAt g thr).toNat) ∧ h.jet = none))) ∧
    (Issues s (.pfence m) g →
      let low := (m.getLsbD 0 = true → g.counter .ld = 0 ∧ g.counter .st = 0 ∧ g.counter .dsc = 0) ∧
        (m.getLsbD 1 = true → g.counter .cst = 0) ∧ (m.getLsbD 2 = true → g.counter .smp = 0) ∧
        (m.getLsbD 3 = true → g.counter .cpy = 0)
      GroupAfter (exec (.pfence m) s) s.cur.1 s.cur.2 (fun t h =>
        (low → kept t h g ∧ h.pc = g.pc + 4 ∧ h.wait = .none ∧ ∃ x, t.quad? s.cur.1 = some x ∧ (m.getLsbD 0 = true → x.l1 = []) ∧
          (m.getLsbD 1 = true → ∀ e ∈ x.ro, e.2.sampler = true) ∧ (m.getLsbD 2 = true → ∀ e ∈ x.ro, e.2.sampler = false)) ∧
        (¬ low → kept t h g.leaveJet ∧ h.pc = g.pc ∧ h.wait = .until (.paths m) ∧ h.jet = none)))) ∧
  (∀ (s : State) (g : Group),
    let q := s.cur.1
    let slot := s.cur.2
    (Issues s .ofence g → s.applied q slot = true → s.tcopiesDone q slot g = true →
      Runs s .ofence g { g with ofence := true, mmDirty := [] } .none [] 0#5 (g.pc + 4)) ∧
    (Issues s .ofence g → s.applied q slot = false → Waits s .ofence g (.until .applied)) ∧
    (Issues s .ofence g → s.applied q slot = true → s.tcopiesDone q slot g = false → Waits s .ofence g (.until .tcopies)) ∧
    (Issues s .mmwait g → s.mmas q slot g = [] → g.mmSpoilt = [] →
      Runs s .mmwait g { g with mmNamed := [] } .none [] 0#5 (g.pc + 4)) ∧
    (Issues s .mmwait g → s.mmas q slot g = [] → g.mmSpoilt ≠ [] →
      ∃ t, exec .mmwait s = .next t ∧
        t.group? q slot = some (issuedGroup g { g with mmNamed := [], mmSpoilt := [] } .none [] 0#5 (g.pc + 4)) ∧
        t.mem = s.mem ∧ (∀ k w, k ∉ g.mmSpoilt → w < 512 →
          NMap.get? (t.engine (slotOf q)).acc (512 * k + w) = NMap.get? (s.engine (slotOf q)).acc (512 * k + w))) ∧
    (Issues s .mmwait g → s.mmas q slot g ≠ [] → Waits s .mmwait g (.until .mm)))

/-- EXIT of a group that holds no accumulator bank completes: the group is retired, its jet, waits, notices, queues and
rejoin stack are gone, its registers and every byte of memory are unchanged, and no group of another basin changes its
registers or its pc. EXIT of a group that holds n banks, the lowest numbered b, raises 0x0B with s58 = n and s59 = b.
YIELD completes; the group will wait for exactly the other groups of its quadrant that are ready as it issues: not
retired, between two jets, at no stall that is not over, with their preparation met and, unless they finish a halt,
not told to stop; nothing else changes. No group that waits so may start while one of those is ready. (R304, R32,
R404, R203) -/
def Obligations.GroupsEndAndYield : Prop :=
  ∀ (s : State) (g : Group),
    let q := s.cur.1
    let slot := s.cur.2
    (Issues s .exit g → s.banksOf q slot = [] → GroupAfter (exec .exit s) q slot (fun t h =>
      h.retired = true ∧ h.jet = none ∧ h.wait = .none ∧ h.notices = [] ∧ h.stack = [] ∧ h.fwd = [] ∧ h.ret = [] ∧
      h.v = g.v ∧ h.s = g.s ∧ h.p = g.p ∧ h.h = g.h ∧ h.em = g.em ∧ t.mem = s.mem ∧
      (∀ q' slot' x, s.group? q' slot' = some x → x.basin ≠ g.basin →
        ∃ y, t.group? q' slot' = some y ∧ y.v = x.v ∧ y.s = x.s ∧ y.p = x.p ∧ y.pc = x.pc ∧ y.retired = x.retired))) ∧
    (∀ b rest, Issues s .exit g → s.banksOf q slot = b :: rest → Raises s .exit g (Trap.own 0x0B (rest.length + 1) b)) ∧
    (∀ x, s.quad? q = some x → ∀ e ∈ s.starters q x, ∀ o ∈ e.2.1.yieldFor, s.isReady q x o = false) ∧
    (Issues s .yield g → let s1 := s.setGroup q slot g.opened
      ∃ r x, s1.quad? q = some x ∧
      exec .yield s = .next (s.setGroup q slot { issuedGroup g g .none [] 0#5 (g.pc + 4) with yieldFor := r }) ∧
      (∀ o, o ∈ r ↔ o ≠ slot ∧ s1.isReady q x o = true) ∧
      ∀ o ∈ r, ∃ k, s.group? q o = some k ∧ k.jet = none ∧ k.retired = false ∧ s1.waitMet q o k = true ∧
        (x.halted = true ∨ k.halted = true → k.wait.pending = true) ∧ (s1.prep q o k).stalls = false ∧ s1.prepMet q o x k (s1.prep q o k) = true)

/-- In a quadrant where no jet issues, nothing has issued in this cycle, the gap after a jet is over, no notice is to be
delivered and some group may start, JET_START completes: one of the groups that may start becomes the issuing group
and the current one, no group that may start has a higher effective priority (priority plus ageing steps), its jet
stands at its first instruction, at its own pc, its registers and pc are unchanged, no group waits for it by a YIELD
any more, and nothing of the machine outside the quadrant changes but what the memory-side cache, the home lines and
the tokens of its basin show for the code lines that had to be fetched. AGEING_STEP raises the steps of a group by one
when 4,096 more cycles are counted and the group is below its ceiling, and changes nothing else. (R35, R36, R37, R43) -/
def Obligations.JetStartTakesTheHighestPriority : Prop :=
  (∀ (s : State) (q : Nat) (x : Quad), s.quad? q = some x → x.issuing = none → x.gapLeft = 0 → x.issued = none → x.noticeDue = false → s.starters q x ≠ [] →
      ∃ t slot g h j, exec (.jetStart q) s = .next t ∧ t.cur = (q, slot) ∧ (∃ p, (slot, g, p) ∈ s.starters q x) ∧
        (t.quad? q).map (fun y => y.issuing) = some (some slot) ∧ t.group? q slot = some h ∧
        h.jet = some j ∧ j.pos = 0 ∧ j.start = g.pc ∧ j.pend = [] ∧ j.latches = [] ∧ h.pc = g.pc ∧
        h.v = g.v ∧ h.s = g.s ∧ h.p = g.p ∧ h.em = g.em ∧
        (∀ e ∈ s.starters q x, e.2.1.prio + e.2.1.ageSteps ≤ g.prio + g.ageSteps) ∧
        (∀ o k, t.group? q o = some k → slot ∉ k.yieldFor) ∧
        { t with quads := s.quads, cur := s.cur, lines := s.lines, blocks := s.blocks, basins := s.basins } = s ∧ (∀ q', q' ≠ q → t.quad? q' = s.quad? q')) ∧
    (∀ (s : State) (q slot : Nat) (g : Group), s.group? q slot = some g → 4096 * (g.ageSteps + 1) ≤ g.ageCount →
      g.prio + g.ageSteps < g.ceil → exec (.ageingStep q slot) s = .next (s.setGroup q slot { g with ageSteps := g.ageSteps + 1 }))

/-- For a group between jets with a queued notice, outside a handler and with one registered, NOTICE_DELIVERY completes:
s56 to s59 hold the cause, the address of the jet not yet started and the two values of the notice, v120 to v122 its
lanes, em its mask, the flag is 1, the pc is the registered offset, the notice is gone from the queue and memory is
unchanged. In a handler, a notice that the handler caused ends the launch: every group of it is retired. (R246, R54,
R55, R244, R245) -/
def Obligations.NoticesAreTakenAtTheBoundary : Prop :=
  ∀ (s : State) (q slot : Nat) (g : Group), s.group? q slot = some g → g.jet = none → g.retired = false → g.wait.done = false →
    (∀ n rest cap, g.handler = false → g.notices = n :: rest → (s.basin g.basin).handler = some cap →
      ∃ t h, exec (.noticeDelivery q slot) s = .next t ∧ t.group? q slot = some h ∧
        h.getS 56 = BitVec.ofNat 32 n.code ∧ h.getS 57 = BitVec.ofNat 32 g.pc ∧ h.getS 58 = n.s58 ∧ h.getS 59 = n.s59 ∧
        (∀ k, k < 56 ∨ 59 < k → h.getS k = g.getS k) ∧
        h.getV 120 = n.v120 ∧ h.getV 121 = n.v121 ∧ h.getV 122 = n.v122 ∧ h.em = n.em ∧ h.handler = true ∧
        h.pc = capOfs cap ∧ h.stack = g.stack ∧ h.status = g.status ∧ h.notices = rest ∧ h.wait = .none ∧ t.mem = s.mem) ∧
    (∀ n, g.handler = true → g.notices.find? (fun n => n.byHandler) = some n →
      ∃ t, exec (.noticeDelivery q slot) s = .next t ∧ t.mem = s.mem ∧
        ∀ q' slot' h, t.group? q' slot' = some h → h.basin = g.basin → h.launch = g.launch → h.retired = true)

/-- When the group may issue VOTE and its destination is allocated, it completes: a result is in flight for exactly the
lanes that take part. In each of them, with w the tile width, P the lanes of its tile that take part and q the
predicate bit XOR the negation: ballot has bit l equal to q of lane T*w + l for lanes of P and 0 elsewhere; any is 1
if q holds in some lane of P, else 0; all is 1 if q holds in every lane of P, else 0. With p7, not negated, ballot is
the local mask of P. It sets no flag, a latch read that reaches it is not readable (0x02), and nothing else of the
machine changes: no register, no other lane, no byte of memory. (R401) -/
def Obligations.VoteWritesTheWordOfItsTile : Prop :=
  ∀ (s : State) (g : Group) (gd : Guard) (d : BitVec 7) (op : VoteOp) (neg : Bool) (p : BitVec 3),
    Issues s (.vote gd d op neg p) g → g.vOk d.toNat = true →
    let m := guardMask g gd
    let w := g.tileWidth
    let q := fun l => (g.getP p.toNat).getLsbD l ^^ neg
    let inP := fun l k => k < 32 ∧ m.getLsbD k = true ∧ k / w = l / w
    ∃ out, Flies s (.vote gd d op neg p) g [] d.toNat m out 0#5 ∧
      (∀ h, (issuedGroup g h .none [] 0#5 (g.pc + 8)).jetOr.latch 0 = .none) ∧
      ∀ l, l < 32 → m.getLsbD l = true →
        (op = .ballot → ∀ b, b < 32 → (Lanes.at out l).getLsbD b = decide (b < w ∧ inP l (l / w * w + b) ∧ q (l / w * w + b) = true)) ∧
        (op = .any → (Lanes.at out l = 1#32 ∧ ∃ k, inP l k ∧ q k = true) ∨ (Lanes.at out l = 0#32 ∧ ∀ k, inP l k → q k = false)) ∧
        (op = .all → (Lanes.at out l = 1#32 ∧ ∀ k, inP l k → q k = true) ∨ (Lanes.at out l = 0#32 ∧ ∃ k, inP l k ∧ q k = false))

/-- For every state and operands in which the group may issue them, the destination is allocated and the selectors can be
read, SHFL, RED and FSFU complete in every mode, operation, type and function: a result is in flight for exactly the
lanes that take part, and nothing else of the machine changes. A lane of SHFL receives the value of the lane of R379,
whether or not that lane takes part, and no flag. A lane of RED receives the combination of the taking-part lanes of
its tile, and no flag: the sum mod 2^32 for integer add, the least or greatest for signed and unsigned min and max,
the bitwise AND, OR or parity, and for f32 the values added, or the lesser or greater taken, in ascending lane order
from the lowest lane, whose NaN counts as 0x7FC00000. A lane of FSFU receives the one value that the fixed mapping of
the function gives its operand, and the flags of exactly the lanes that take part come with the result; for every
function a NaN gives 0x7FC00000 with NP, and the zeros and infinities give the values and the flags (none, or NV and
NP) of the table of R321 (other finite operands: SpecialFunctionsMeetTheirBounds). (R379, R372, R320, R321, R182,
R185, R46, R65) -/
def Obligations.LaneExchangesFly : Prop :=
  (∀ (fn : SfuFn) (x : Word), x.toNat / 2 ^ 23 % 256 = 255 → x.toNat % 2 ^ 23 ≠ 0 →
      (sfuW fn x).1 = 0x7FC00000#32 ∧ (sfuW fn x).2.getLsbD 0 = true) ∧
    (∀ e ∈ ([(.rcp, 0x00000000#32, 0x7F800000#32, 0#5), (.rcp, 0x80000000#32, 0xFF800000#32, 0#5), (.rcp, 0x7F800000#32, 0x00000000#32, 0#5),
        (.rcp, 0xFF800000#32, 0x80000000#32, 0#5), (.rsqrt, 0x00000000#32, 0x7F800000#32, 0#5), (.rsqrt, 0x80000000#32, 0xFF800000#32, 0#5),
        (.rsqrt, 0x7F800000#32, 0x00000000#32, 0#5), (.rsqrt, 0xFF800000#32, 0x7FC00000#32, 0b10001#5), (.sqrt, 0x80000000#32, 0x80000000#32, 0#5),
        (.sqrt, 0x7F800000#32, 0x7F800000#32, 0#5), (.sqrt, 0xFF800000#32, 0x7FC00000#32, 0b10001#5), (.ex2, 0x7F800000#32, 0x7F800000#32, 0#5),
        (.ex2, 0xFF800000#32, 0x00000000#32, 0#5), (.lg2, 0x00000000#32, 0xFF800000#32, 0#5), (.lg2, 0x80000000#32, 0xFF800000#32, 0#5),
        (.lg2, 0x7F800000#32, 0x7F800000#32, 0#5), (.lg2, 0xFF800000#32, 0x7FC00000#32, 0b10001#5), (.sinpi, 0x00000000#32, 0x00000000#32, 0#5), (.sinpi, 0x80000000#32, 0x00000000#32, 0#5), (.sinpi, 0x7F800000#32, 0x7FC00000#32, 0b10001#5),
        (.sinpi, 0xFF800000#32, 0x7FC00000#32, 0b10001#5), (.cospi, 0x7F800000#32, 0x7FC00000#32, 0b10001#5),
        (.cospi, 0xFF800000#32, 0x7FC00000#32, 0b10001#5), (.tanh, 0x7F800000#32, 0x3F800000#32, 0#5), (.tanh, 0xFF800000#32, 0xBF800000#32, 0#5),
        (.tanh, 0x00000000#32, 0x00000000#32, 0#5), (.tanh, 0x80000000#32, 0x80000000#32, 0#5)] : List (SfuFn × Word × Word × Flags)),
      sfuW e.1 e.2.1 = e.2.2) ∧
    ∀ (s : State) (g : Group) (gd : Guard) (d : BitVec 7) (a b : Sel) (mode : ShflMode) (op : RedOp) (ty : Ty3) (fn : SfuFn),
    g.vOk d.toNat = true → selOk g a = true → selOk g b = true →
    let m := guardMask g gd
    let w := g.tileWidth
    let mine := fun l => (List.range 32).filter (fun k => m.getLsbD k && k / w == l / w)
    (Issues s (.shfl gd d a b mode) g → ∃ out, Flies s (.shfl gd d a b mode) g [a, b] d.toNat m out 0#5 ∧
      ∀ l, l < 32 → m.getLsbD l = true →
        let n := (selAt g b l).toNat
        let i := l % w
        let j := match mode with
          | .idx => n % w
          | .up => if n ≤ i then i - n else i
          | .down => if i + n < w then i + n else i
          | .bfly => i ^^^ (n % w)
        Lanes.at out l = selAt g a (l / w * w + j)) ∧
    (Issues s (.red gd d a op ty) g → ∃ out, Flies s (.red gd d a op ty) g [a] d.toNat m out 0#5 ∧
      ∀ l, l < 32 → m.getLsbD l = true →
        let r := Lanes.at out l
        let xs := (mine l).map (fun k => selAt g a k)
        let canon := fun (x : Word) => if x.toNat / 2 ^ 23 % 256 = 255 ∧ x.toNat % 2 ^ 23 ≠ 0 then 0x7FC00000#32 else x
        let chain := fun (f : Word → Word → Word × Flags) => r = (xs.drop 1).foldl (fun acc x => (f acc x).1) (canon (xs.headD 0#32))
        (op = .add → ty ≠ .f32 → r.toNat = (xs.map (fun x => x.toNat)).sum % 2 ^ 32) ∧
        (op = .add → ty = .f32 → chain faddW) ∧
        (op = .min → ty = .s32 → r ∈ xs ∧ ∀ x ∈ xs, r.toInt ≤ x.toInt) ∧
        (op = .max → ty = .s32 → r ∈ xs ∧ ∀ x ∈ xs, x.toInt ≤ r.toInt) ∧
        (op = .min → ty = .n32 → r ∈ xs ∧ ∀ x ∈ xs, r.toNat ≤ x.toNat) ∧
        (op = .max → ty = .n32 → r ∈ xs ∧ ∀ x ∈ xs, x.toNat ≤ r.toNat) ∧
        (op = .min → ty = .f32 → chain fminW) ∧
        (op = .max → ty = .f32 → chain fmaxW) ∧
        (op = .and → ∀ b, r.getLsbD b = decide (b < 32 ∧ ∀ x ∈ xs, x.getLsbD b = true)) ∧
        (op = .or → ∀ b, r.getLsbD b = decide (∃ x ∈ xs, x.getLsbD b = true)) ∧
        (op = .xor → ∀ b, r.getLsbD b = decide ((xs.filter (fun x => x.getLsbD b)).length % 2 = 1))) ∧
    (Issues s (.fsfu gd d a fn) g → ∃ out,
      Flies s (.fsfu gd d a fn) g [a] d.toNat m out (flJoin ((maskLanes m).map (fun l => (sfuW fn (selAt g a l)).2))) ∧
      ∀ l, l < 32 → m.getLsbD l = true → Lanes.at out l = (sfuW fn (selAt g a l)).1)

/-- For every function of FSFU and every finite operand in its domain, with y the real value of the function: a result
that is not finite has OF and y is at least 2^127 in magnitude; a finite one is, for .rcp and .sqrt, the f32 value
nearest to y, ties to even; for .rsqrt within 1 ulp of y; for .ex2 and .tanh within 2 ulp; for .lg2 within 2 ulp, or
2^-22 where |y| < 1; for .sinpi and .cospi within 1 ulp, or 2^-24 where |y| < 1/4; an ulp is the unit in the last
place of f32 at y, at least 2^-149. NX is clear exactly where R321 lists an exact result (.rcp and .sqrt: where the
result equals y), and there the result is y; sinpi of an integer is +0 from 0 on and -0 below, cospi of n + 0.5 is +0.
A negative operand of .rsqrt, .sqrt and .lg2 gives 0x7FC00000 with NV and NP. FSFU puts this mapping in flight by
LaneExchangesFly. (R320, R321, R183, R185) -/
def Obligations.SpecialFunctionsMeetTheirBounds : Prop :=
  ∀ (fn : SfuFn) (x : Word), FloatFinite fF32 x.toNat →
    let a : ℝ := ((floatVal fF32 x.toNat : ℚ) : ℝ)
    let r := (sfuW fn x).1
    let fl := (sfuW fn x).2
    let v : ℝ := ((floatVal fF32 r.toNat : ℚ) : ℝ)
    let y : ℝ := match fn with
      | .rcp => a⁻¹
      | .rsqrt => (Real.sqrt a)⁻¹
      | .sqrt => Real.sqrt a
      | .ex2 => (2 : ℝ) ^ a
      | .lg2 => Real.logb 2 a
      | .sinpi => Real.sin (Real.pi * a)
      | .cospi => Real.cos (Real.pi * a)
      | .tanh => Real.tanh a
    let err : ℝ := |v - y|
    let ulp : ℝ := (2 : ℝ) ^ (max (-149) (Int.log 2 |y| - 23))
    let near := ∀ z : Nat, FloatFinite fF32 z → let e : ℝ := |((floatVal fF32 z : ℚ) : ℝ) - y|
      err ≤ e ∧ (err = e → floatVal fF32 z ≠ floatVal fF32 r.toNat → r.toNat % 2 = 0)
    let exact := match fn with
      | .rcp | .sqrt => FloatFinite fF32 r.toNat ∧ v = y
      | .rsqrt => ∃ k : ℤ, a = (4 : ℝ) ^ k
      | .ex2 => ∃ k : ℤ, a = k ∧ -149 ≤ k ∧ k ≤ 127
      | .lg2 => ∃ k : ℤ, a = (2 : ℝ) ^ k
      | .sinpi | .cospi => ∃ k : ℤ, 2 * a = k
      | .tanh => a = 0
    (a < 0 → fn = .rsqrt ∨ fn = .sqrt ∨ fn = .lg2 → r = 0x7FC00000#32 ∧ fl = 0b10001#5) ∧
    ((fn = .rcp → a ≠ 0) → (fn = .rsqrt ∨ fn = .lg2 → 0 < a) → (fn = .sqrt → 0 ≤ a) →
      (¬ FloatFinite fF32 r.toNat → (2 : ℝ) ^ (127 : ℕ) ≤ |y| ∧ fl.getLsbD 3 = true) ∧
      (FloatFinite fF32 r.toNat → match fn with
        | .rcp | .sqrt => near
        | .rsqrt => err ≤ ulp
        | .ex2 | .tanh => err ≤ 2 * ulp
        | .lg2 => err ≤ 2 * ulp ∨ (|y| < 1 ∧ err ≤ (2 : ℝ) ^ (-22 : ℤ))
        | .sinpi | .cospi => err ≤ ulp ∨ (|y| < 1 / 4 ∧ err ≤ (2 : ℝ) ^ (-24 : ℤ))) ∧
      (fl.getLsbD 1 = false ↔ exact) ∧ (exact → FloatFinite fF32 r.toNat ∧ v = y) ∧
      (∀ k : ℤ, fn = .sinpi → a = k → r = if 0 ≤ a then 0#32 else 0x80000000#32) ∧
      (∀ k : ℤ, fn = .cospi → a = k + 1 / 2 → r = 0#32))

/-- A class V result whose lanes have all returned arrives. Between two jets, in each of its registers (they are distinct
vector registers) a lane of the result that no later jet has written holds the new value, a lane that one has written
holds one of the two values, and every other lane and register is unchanged. While a jet of the group is open no
register changes: the result stands in the jet, in order, and lands at its end. In both cases its flags are ORed into
the status word, it is no longer in flight, only its scoreboard entries are gone, and nothing of the machine outside
the group changes but the counter of free values. That a result writes the register that it names when it arrives,
during a handler too, and that the lanes of an LDS or ATOMS are written together, is read from R46 (log 21, DEDUCED).
(R46, R44, R185, R98) -/
def Obligations.VariableResultsArriveByLane : Prop :=
  ∀ (s : State) (q slot ix : Nat) (g : Group) (f : VFlight), s.group? q slot = some g → g.vflights[ix]? = some f →
    f.waiting = 0 →
    let rest := fun (h : Group) =>
      h.status = g.status ||| f.flags ∧ (∀ e, e ∈ h.vflights ↔ e ∈ g.vflights ∧ e.id ≠ f.id) ∧
      (∀ e, e ∈ h.score ↔ e ∈ g.score ∧ e.flight ≠ some f.id)
    ∃ h, exec (.classVResult q slot ix) s = .next { s.setGroup q slot h with freeIx := s.freeIx + 32 * f.dests.length } ∧ rest h ∧
      (g.jet = none → (f.dests.map (fun e => e.1.reg)).Nodup → (∀ e ∈ f.dests, e.1.reg < 128) →
        { h with v := g.v, status := g.status, vflights := g.vflights, score := g.score } = g ∧
        (∀ e ∈ f.dests, ∀ l, l < 32 →
          (e.1.mask.getLsbD l = true → e.1.raced.getLsbD l = false → h.lane e.1.reg l = Lanes.at e.2 l) ∧
          (e.1.mask.getLsbD l = true → h.lane e.1.reg l = Lanes.at e.2 l ∨ h.lane e.1.reg l = g.lane e.1.reg l) ∧
          (e.1.mask.getLsbD l = false → h.lane e.1.reg l = g.lane e.1.reg l)) ∧
        (∀ r, r ∉ f.dests.map (fun e => e.1.reg) → h.getV r = g.getV r)) ∧
      (∀ j, g.jet = some j → ∃ ls, { h with jet := g.jet, status := g.status, vflights := g.vflights, score := g.score } = g ∧
        h.jet = some { j with late := j.late ++ ls } ∧
        ls.map (fun e => (e.id, e.dest, e.x)) = f.dests.map (fun e => (f.id, e.1, e.2)))

/-- When the group may issue HNRM, the destination and the heading are allocated and R209 finds no fault in the tiles that
take part, HNRM completes: in every lane that takes part the value is -infinity for the zero code, +infinity for the
saturated code, and otherwise a finite f32 whose value is exactly the signed norm entry divided by 256. It sets no
flag and changes nothing else. (R331) -/
def Obligations.HeadingNormReadsExactly : Prop :=
  ∀ (s : State) (g : Group) (nw : Bool) (gd : Guard) (d : BitVec 7) (a : BitVec 8),
    Issues s (.hnrm nw gd d a) g → g.vOk d.toNat = true → a.toNat < 16 → g.hOk a.toNat = true →
    shapeCheck g (guardMask g gd) [a.toNat] = none →
    LaneInt s (.hnrm nw gd d a) g nw d (guardMask g gd) [] (fun l r =>
      let n := (g.getH a.toNat).norm.getD (l / g.tileWidth) 0#16
      let e : ℕ := r.toNat / 2 ^ 23 % 256
      let k : ℕ := r.toNat % 2 ^ 23
      let v : ℚ := (if r.toNat < 2 ^ 31 then 1 else -1) *
        (if e = 0 then (k : ℚ) * 2 ^ (-149 : Int) else ((2 ^ 23 + k : Nat) : ℚ) * 2 ^ ((e : Int) - 150))
      if n = 0x8000#16 then r = 0xFF800000#32
      else if n = 0x7FFF#16 then r = 0x7F800000#32
      else e ≠ 255 ∧ v = (n.toInt : ℚ) / 256)

/-- When the group may issue them, destination and sources are allocated (for HCVT eight vector registers from a multiple
of 8, for HSCL a scalar selector of 0x90 to 0xFF) and R209 finds no fault, HMOV, HCVT, HADD and HSCL complete: the
latch and, without .nw, the pending write for the taking-part lanes hold a heading whose components and norm entries
outside the tiles that take part are those of the destination; the flags are those of the tiles that take part,
joined. In each such tile: HMOV leaves the source unchanged, with no flag; HCVT writes by R208 the vector of the eight
registers (NaN: the zero code and NV; infinities: their signs, saturated); HADD the sum or difference of the two
vectors (a saturated operand: the directions of the saturated ones, saturated; in numbers where the norms differ by
whole powers of two or one is the zero code, else by the mapping that RootWeightsRoundClosely bounds); HSCL the
direction, negated with .neg, and the norm plus 256 f rounded, within the limits of R208 and with the cases of R332
for the zero code, NaN, a saturated source and the infinities. Nothing else changes. When the group may issue them,
registers are allocated and R209 finds no fault, HDOT of heading registers or of latches that hold a heading, and
HEXP, complete. HDOT gives every lane of a tile that takes part the f32 value to which the exact sum of the products
of the components of the two directions in that tile, clamped to [-1, 1], rounds once to nearest even, +0 for a zero
sum, and sets no flag; a source that is neither raises 0x02. HEXP writes the eight registers from a multiple of 8,
each in the lanes that take part: +0 for a zero code or a zero component, the infinity of the sign of the component
with OF for a saturated heading, else the component times 2^(norm/256) as RootWeightsRoundClosely bounds it; a
register outside these eight gets no write, and the flags are those of the lanes that take part, joined. Nothing else
changes. The order of the cases of HSCL and the latch that HEXP leaves, that of its first register, are the model
reading of log 54 (DEDUCED). (R330, R326, R327, R332, R208, R209, R210, R328, R329, R212) -/
def Obligations.HeadingInstructionsRun : Prop :=
  (∀ (s : State) (g : Group) (nw : Bool) (gd : Guard) (d : BitVec 4) (a b : BitVec 8) (v : BitVec 7) (f : Sel) (neg : Bool),
    g.hOk d.toNat = true → a.toNat < 16 → g.hOk a.toNat = true → b.toNat < 16 → g.hOk b.toNat = true →
    let w := g.tileWidth
    let R := fun (i : Instr) (m : Mask) (P : Nat → Half → (Nat → Int) → Flags → Prop) => Issues s i g →
      ∃ x, ∃ fls : Nat → Flags, Runs s i g g (.heading x) (if nw then [] else [.h d.toNat m w x])
          (flJoin (((List.range (32 / w)).filter (fun t => m.getLsbD (t * w))).map fls)) (g.pc + instrLen i) ∧
        (∀ c, c < 256 → m.getLsbD (c / 8) = false → x.dir.getD c 0#16 = (g.getH d.toNat).dir.getD c 0#16) ∧
        (∀ t, t < 16 → m.getLsbD (t * w) = false → x.norm.getD t 0#16 = (g.getH d.toNat).norm.getD t 0#16) ∧
        ∀ t, t < 32 / w → m.getLsbD (t * w) = true →
          P t (x.norm.getD t 0#16) (fun k => (x.dir.getD (8 * w * t + k) 0#16).toInt) (fls t)
    let norm := fun (h : BitVec 8) (t : Nat) => (g.getH h.toNat).norm.getD t 0#16
    let comp := fun (h : BitVec 8) (t k : Nat) => ((g.getH h.toNat).dir.getD (8 * w * t + k) 0#16).toInt
    let sg : Int := if neg then -1 else 1
    (shapeCheck g g.em [a.toNat] = none → R (.hmov nw d a) g.em (fun t n q fl =>
      fl = 0#5 ∧ n = norm a t ∧ ∀ k, k < 8 * w → q k = comp a t k)) ∧
    (v.toNat % 8 = 0 → g.vOk v.toNat = true → g.vOk (v.toNat + 7) = true → shapeCheck g (guardMask g gd) [] = none →
      R (.hcvt nw gd d (.v v)) (guardMask g gd) (fun t n q fl =>
        let x := fun (k : Nat) => (g.lane (v.toNat + k % 8) (t * w + k / 8)).toNat
        let isInf := fun (k : Nat) => x k % 2 ^ 31 = 0x7F800000
        let isNan := fun (k : Nat) => 0x7F800000 < x k % 2 ^ 31
        ((∃ k, k < 8 * w ∧ isNan k) → n = 0x8000#16 ∧ (∀ k, k < 8 * w → q k = 0) ∧ fl = 0b10000#5) ∧
        ((∀ k, k < 8 * w → ¬ isNan k) → (∃ k, k < 8 * w ∧ isInf k) →
          Renorms (8 * w) (fun k => if isInf k then (if x k < 2 ^ 31 then 1 else -1) else 0) 0 true n q fl) ∧
        ((∀ k, k < 8 * w → ¬ isNan k ∧ ¬ isInf k) → Renorms (8 * w) (fun k => floatVal fF32 (x k)) 0 false n q fl))) ∧
    (shapeCheck g (guardMask g gd) [a.toNat, b.toNat] = none → R (.hadd nw gd d a b neg) (guardMask g gd) (fun t n q fl =>
      let na := norm a t
      let nb := norm b t
      let e : Int := (na.toInt - nb.toInt) / 256
      (na = 0x7FFF#16 ∨ nb = 0x7FFF#16 → Renorms (8 * w) (fun k => (if na = 0x7FFF#16 then (comp a t k : ℚ) else 0) +
        (if nb = 0x7FFF#16 then ((sg * comp b t k : Int) : ℚ) else 0)) 0 true n q fl) ∧
      (na ≠ 0x7FFF#16 → nb ≠ 0x7FFF#16 → na = 0x8000#16 ∨ nb = 0x8000#16 ∨ (na.toInt - nb.toInt) % 256 = 0 →
        Renorms (8 * w) (fun k => (if na = 0x8000#16 then 0 else (comp a t k : ℚ) * (if nb = 0x8000#16 then 1 else 2 ^ e)) +
          (if nb = 0x8000#16 then 0 else ((sg * comp b t k : Int) : ℚ)))
          ((if nb = 0x8000#16 then na else nb).toInt - 14 * 256) false n q fl) ∧
      (let tile := fun (h : BitVec 8) => ({ dir := (List.range (8 * w)).map (fun k => comp h t k), norm := norm h t } : TileVec)
       let z := haddTile neg (tile a) (tile b)
       n = z.1.norm ∧ fl = z.2 ∧ ∀ k, k < 8 * w → BitVec.ofInt 16 (q k) = BitVec.ofInt 16 (z.1.dir.getD k 0)))) ∧
    (hsclSel f = true → shapeCheck g (guardMask g gd) [a.toNat] = none → R (.hscl nw gd d a f neg) (guardMask g gd) (fun t n q fl =>
      let x := (selAt g f (t * w)).toNat
      let na := norm a t
      let dirs := ∀ k, k < 8 * w → BitVec.ofInt 16 (q k) = BitVec.ofInt 16 (sg * comp a t k)
      let zero := n = 0x8000#16 ∧ ∀ k, k < 8 * w → q k = 0
      (na = 0x8000#16 → zero ∧ fl = 0#5) ∧
      (na ≠ 0x8000#16 → 0x7F800000 < x % 2 ^ 31 → zero ∧ fl = 0b10000#5) ∧
      (na = 0x7FFF#16 → x % 2 ^ 31 ≤ 0x7F800000 → n = 0x7FFF#16 ∧ dirs ∧ fl = 0#5) ∧
      (na ≠ 0x8000#16 → na ≠ 0x7FFF#16 → (x = 0x7F800000 → n = 0x7FFF#16 ∧ dirs ∧ fl = 0b01000#5) ∧
        (x = 0xFF800000 → zero ∧ fl = 0b00100#5) ∧
        (x % 2 ^ 31 < 0x7F800000 → ∀ r : Int, IntRounds .rn r (256 * floatVal fF32 x) →
          (32766 < na.toInt + r → n = 0x7FFF#16 ∧ dirs ∧ fl = 0b01000#5) ∧
          (na.toInt + r < -32766 → zero ∧ fl = 0b00100#5) ∧
          (-32766 ≤ na.toInt + r → na.toInt + r ≤ 32766 → n.toInt = na.toInt + r ∧ dirs ∧ fl = 0#5)))))) ∧
  (∀ (s : State) (g : Group) (nw : Bool) (gd : Guard) (d : BitVec 7) (a b : BitVec 8) (ha hb : Heading),
    g.vOk d.toNat = true →
    let m := guardMask g gd
    let w := g.tileWidth
    let source := fun (x : BitVec 8) (h : Heading) => (x.toNat < 16 ∧ g.hOk x.toNat = true ∧ h = g.getH x.toNat) ∨
      (0x80 ≤ x.toNat ∧ x.toNat < 0x88 ∧ g.jetOr.latches.getD (x.toNat - 0x80) .none = .heading h)
    let regs := (if a.toNat < 16 then [a.toNat] else []) ++ (if b.toNat < 16 then [b.toNat] else [])
    let sum := fun (t : Nat) => ((List.range (8 * w)).map (fun k =>
      (ha.dir.getD (8 * w * t + k) 0#16).toInt * (hb.dir.getD (8 * w * t + k) 0#16).toInt)).sum
    (Issues s (.hdot nw gd d a b) g → source a ha → source b hb → shapeCheck g m regs = none → ∃ out,
      Runs s (.hdot nw gd d a b) g g (.lane out) (if nw then [] else [.v d.toNat m out]) 0#5 (g.pc + 8) ∧
      (∀ l, l < 32 → m.getLsbD l = false → Lanes.at out l = g.lane d.toNat l) ∧
      ∀ l, l < 32 → m.getLsbD l = true →
        let c : ℚ := max (-1) (min 1 ((sum (l / w) : ℚ) / 2 ^ 28))
        FloatFinite fF32 (Lanes.at out l).toNat ∧ NearestTo fF32 (Lanes.at out l).toNat c ∧ (c = 0 → Lanes.at out l = 0#32)) ∧
    (Issues s (.hdot nw gd d a b) g → (∀ h, ¬ source a h) ∨ (∀ h, ¬ source b h) → Raises s (.hdot nw gd d a b) g Trap.operand) ∧
    (Issues s (.hexp nw gd d a) g → a.toNat < 16 → g.hOk a.toNat = true → d.toNat % 8 = 0 → g.vOk (d.toNat + 7) = true →
      shapeCheck g m [a.toNat] = none → ∃ (outs : List Lanes) (fl : Flags),
      let n := fun (l : Nat) => (g.getH a.toNat).norm.getD (l / w) 0#16
      let c := fun (l j : Nat) => (g.getH a.toNat).dir.getD (8 * l + j) 0#16
      outs.length = 8 ∧
      Runs s (.hexp nw gd d a) g g (.lane (outs.getD 0 Lanes.zero))
        (if nw then [] else (List.range 8).map (fun j => .v (d.toNat + j) m (outs.getD j Lanes.zero))) fl (g.pc + 8) ∧
      (∀ j l, j < 8 → l < 32 → m.getLsbD l = false → Lanes.at (outs.getD j Lanes.zero) l = g.lane (d.toNat + j) l) ∧
      (∀ j l, j < 8 → l < 32 → m.getLsbD l = true → n l = 0x8000#16 ∨ c l j = 0#16 → Lanes.at (outs.getD j Lanes.zero) l = 0#32) ∧
      (∀ j l, j < 8 → l < 32 → m.getLsbD l = true → n l = 0x7FFF#16 → fl.getLsbD 3 = true ∧
        (0 < (c l j).toInt → Lanes.at (outs.getD j Lanes.zero) l = 0x7F800000#32) ∧
        ((c l j).toInt < 0 → Lanes.at (outs.getD j Lanes.zero) l = 0xFF800000#32)) ∧
      (∀ j l, j < 8 → l < 32 → m.getLsbD l = true → Lanes.at (outs.getD j Lanes.zero) l = (hexpComp (n l) (c l j).toInt).1) ∧
      fl = flJoin ((maskLanes m).flatMap (fun l => (List.range 8).map (fun j => (hexpComp (n l) (c l j).toInt).2)))))

/-- HEXP, one component c of a heading with an ordinary norm n, with y = c / 2^14 x 2^(n/256): a result that is not finite
has OF and NX and |y| is at least 2^127; a finite one lies within half a unit and 2^-400 of a unit of y, and where n
is a multiple of 256 it is the f32 value nearest to y, ties to even; NX is clear only if it is y. HADD of two tiles of
8 to 256 components with ordinary norms, where the exact vector is not shorter than 2^-14 of the lesser weight (the
sum of two directions of R208 is not, but where it is 0): the norm is the logarithm of the length, rounded within
2^-400 of a half, under the limits of R208; each component rounds 2^14 x / |x| within 2^-400 of a half, with ties to
even where the norms differ by an odd multiple of 128, and they are written where their squares add to 2^28 within
2^16; the squares of the written direction always do. R208 rounds the exact vector; the 2^-400 is what the 512
fraction bits of the weights leave open (log 54, DEDUCED). (R329, R326, R208, R212, R183) -/
def Obligations.RootWeightsRoundClosely : Prop :=
  (∀ (n : Half) (c : Int), n ≠ 0x8000#16 → n ≠ 0x7FFF#16 → c ≠ 0 → |c| ≤ 2 ^ 15 →
      let y : ℝ := (c : ℝ) / 2 ^ 14 * (2 : ℝ) ^ ((n.toInt : ℝ) / 256)
      let r := (hexpComp n c).1
      let fl := (hexpComp n c).2
      let v : ℝ := ((floatVal fF32 r.toNat : ℚ) : ℝ)
      let err : ℝ := |v - y|
      (¬ FloatFinite fF32 r.toNat → (2 : ℝ) ^ (127 : ℕ) ≤ |y| ∧ fl.getLsbD 3 = true ∧ fl.getLsbD 1 = true) ∧
      (FloatFinite fF32 r.toNat → err ≤ (1 / 2 + (2 : ℝ) ^ (-400 : ℤ)) * (2 : ℝ) ^ (max (-149) (Int.log 2 |y| - 23))) ∧
      (FloatFinite fF32 r.toNat → n.toInt % 256 = 0 → NearestTo fF32 r.toNat ((c : ℚ) * 2 ^ (n.toInt / 256 - 14))) ∧
      (fl.getLsbD 1 = false → v = y)) ∧
    (∀ (neg : Bool) (a b : TileVec), a.dir.length = b.dir.length → 8 ≤ a.dir.length → a.dir.length ≤ 256 →
      (∀ x ∈ a.dir ++ b.dir, |x| ≤ 2 ^ 15) → (∀ n ∈ [a.norm, b.norm], n ≠ 0x8000#16 ∧ n ≠ 0x7FFF#16) →
      let len := a.dir.length
      let na := a.norm.toInt
      let nb := b.norm.toInt
      let base := min na nb
      let y : Nat → ℝ := fun k => (2 : ℝ) ^ (((na - base : Int) : ℝ) / 256) * ((a.dir.getD k 0 : Int) : ℝ) +
        (if neg then -1 else 1) * (2 : ℝ) ^ (((nb - base : Int) : ℝ) / 256) * ((b.dir.getD k 0 : Int) : ℝ)
      let l : ℝ := Real.sqrt ((List.range len).map (fun k => y k ^ 2)).sum
      1 ≤ l →
      let z := haddTile neg a b
      let q := fun (k : Nat) => z.1.dir.getD k 0
      let sum := fun (p : Nat → Int) => ((List.range len).map (fun k => p k ^ 2)).sum
      let dirs := |sum q - 2 ^ 28| ≤ 2 ^ 16 ∧ ∃ p : Nat → Int,
        (∀ k, k < len → |(p k : ℝ) - 2 ^ 14 * y k / l| ≤ 1 / 2 + (2 : ℝ) ^ (-400 : ℤ)) ∧
        ((na - nb) % 256 = 128 → ∀ k, k < len → |(p k : ℝ) - 2 ^ 14 * y k / l| = 1 / 2 → p k % 2 = 0) ∧
        (|sum p - 2 ^ 28| ≤ 2 ^ 16 → ∀ k, k < len → q k = p k)
      ∃ m : Int, |(m : ℝ) - (256 * Real.logb 2 l + base - 14 * 256)| ≤ 1 / 2 + (2 : ℝ) ^ (-400 : ℤ) ∧
        (m < -32766 → z.1.norm = 0x8000#16 ∧ (∀ k, k < len → q k = 0) ∧ z.2 = 0b00100#5) ∧
        (32766 < m → z.1.norm = 0x7FFF#16 ∧ dirs ∧ z.2 = 0b01000#5) ∧
        (-32766 ≤ m → m ≤ 32766 → z.1.norm.toInt = m ∧ dirs ∧ z.2 = 0#5))

/-- When the group may issue them, its operands can be read, its crew is placed, every lane that takes part is within the
scratchpad and aligned, and, for STS and ATOMS, no overwriting loop is open (or no lane takes part in an ordered one),
they complete for every size, operation, type and ordering. Each lane that takes part has a request of the group for
the scratchpad word of its address at that word's bank (its queue counts it from the end of its release on, where it
has one); for STS the request writes each byte of the lane's data registers, lowest first, unless a higher lane writes
the same bytes; LDS has a result in flight for its registers and lanes. No register, no scratchpad byte and no byte of
memory changes. That an ordered STS or ATOMS with no lane taking part completes in an open loop, as the FENCE of R127,
is the choice of the model between R127 and R220 (log 83, DESIGN CHOICE). (R346, R389, R161, R96, R97, R98, R70, R71) -/
def Obligations.ScratchpadAccessesEnterTheirBanks : Prop :=
  ∀ (s : State) (g : Group) (gd : Guard) (d : BitVec 7) (base idx data : Sel) (size : Size) (so : SpOrd) (ofs : BitVec 16)
    (op : AtOp) (ord : AtOrd) (ty : AtTy) (agg nd : Bool) (ofw : BitVec 7) (c : Crew),
    s.crew? s.cur.1 g = some c → selOk g base = true → selOk g idx = true →
    let q := s.cur.1
    let slot := s.cur.2
    let m := guardMask g gd
    let n := sizeBytes size
    let a := fun l => ((selAt g base l).toNat + (selAt g idx l).toNat + (BitVec.ofInt 32 ofs.toInt).toNat) % 2 ^ 32
    let aw := fun l => ((selAt g base l).toNat + (selAt g idx l).toNat + 4 * ofw.toNat) % 2 ^ 32
    let inside := fun (a : Nat → Nat) (n : Nat) => ∀ l, l < 32 → m.getLsbD l = true → a l + n ≤ c.scr * 1024 ∧ a l % n = 0
    let entered := fun (a : Nat → Nat) (t : State) (P : Nat → BankReq → Prop) =>
      (t.quad? q).map (fun x => x.crews) = (s.quad? q).map (fun x => x.crews) ∧
      ∀ l, l < 32 → m.getLsbD l = true → ∃ y r, t.quad? q = some y ∧ r ∈ y.bank (a l / 8 % 16) ∧ r.slot = slot ∧ r.word = a l / 8 ∧
        s.nextId ≤ r.id ∧ P l r
    (Issues s (.lds gd d base idx size so ofs) g → g.dataOk d.toNat n = true → inside a n →
      AccessRuns s (.lds gd d base idx size so ofs) g [base, idx] (fun t h =>
        (∃ f ∈ h.vflights, f.id = s.nextId ∧ f.dests.map (fun e => e.1) = dataDests d.toNat n m) ∧
        entered a t (fun l r => ∃ ls, r.op = .read ls ∧ ∃ e ∈ ls, e.1 = l ∧ e.2.1 = a l))) ∧
    (Issues s (.sts gd d base idx size so ofs) g → g.dataOk d.toNat n = true → inside a n → (g.inLoop = false ∨ (m = 0#32 ∧ so ≠ .plain)) →
      AccessRuns s (.sts gd d base idx size so ofs) g [base, idx] (fun t _ =>
        entered a t (fun l r => ∃ bs, r.op = .write bs ∧ ((∀ k, l < k → k < 32 → m.getLsbD k = true → a k ≠ a l) →
          ∀ i, i < n → i < 8 → ∃ b, NMap.get? bs (a l + i) = some b ∧
            b.toNat = (g.lane (d.toNat + i / 4) l).toNat / 256 ^ (i % 4) % 256)))) ∧
    (Issues s (.atoms gd d base idx data op ord ty agg nd ofw) g → (nd = true ∨ g.dataOk d.toNat (atomBytes ty) = true) →
      (ty = .s64 → (pairSel g data).isSome = true) → (ty ≠ .s64 → selOk g data = true) → inside aw (atomBytes ty) → (g.inLoop = false ∨ (m = 0#32 ∧ ord ≠ .plain)) →
      AccessRuns s (.atoms gd d base idx data op ord ty agg nd ofw) g [base, idx, data] (fun t _ =>
        entered aw t (fun l r => ∃ dest es, r.op = .atom op ty dest es ∧ ∃ e ∈ es, e.lane = l ∧ e.ofs = aw l ∧
          (ty ≠ .s64 → e.data = (selAt g data l).setWidth 64))))

/-- When the operands of LDS or STS can be read and some lane that takes part is misaligned or reaches beyond the
scratchpad of its crew, the instruction raises the bounds trap 0x06 with s59 = 3: em and the lanes of v120 and v122
are exactly the failing lanes, v120 holds their addresses, v122 the size and the scratchpad kind, and v121 is 0. No
lane, failing or not, has any effect. (R97, R244, R245, R346, R389) -/
def Obligations.ScratchpadBoundsTrap : Prop :=
  ∀ (s : State) (g : Group) (gd : Guard) (d : BitVec 7) (base idx : Sel) (size : Size) (so : SpOrd) (ofs : BitVec 16) (c : Crew) (l : Nat),
    s.crew? s.cur.1 g = some c → selOk g base = true → selOk g idx = true → g.dataOk d.toNat (sizeBytes size) = true →
    let m := guardMask g gd
    let n := sizeBytes size
    let a := fun l => ((selAt g base l).toNat + (selAt g idx l).toNat + (BitVec.ofInt 32 ofs.toInt).toNat) % 2 ^ 32
    let bad := fun l => l < 32 ∧ m.getLsbD l = true ∧ (c.scr * 1024 < a l + n ∨ a l % n ≠ 0)
    bad l → ∃ tr : Trap, tr.code = 0x06 ∧ tr.s58 = none ∧ tr.s59 = some 3#32 ∧ tr.after = false ∧
      (∃ em, tr.em = some em ∧ ∀ k, k < 32 → (em.getLsbD k = true ↔ bad k)) ∧
      (∀ k, k < 32 → bad k → Lanes.at tr.v120 k = BitVec.ofNat 32 (a k) ∧ Lanes.at tr.v122 k = BitVec.ofNat 32 (16 * sizeField size + 14)) ∧
      (∀ k, ¬ bad k → Lanes.at tr.v120 k = 0#32 ∧ Lanes.at tr.v122 k = 0#32) ∧ (∀ k, Lanes.at tr.v121 k = 0#32) ∧
      (Issues s (.lds gd d base idx size so ofs) g → Raises s (.lds gd d base idx size so ofs) g tr) ∧
      (Issues s (.sts gd d base idx size so ofs) g → Raises s (.sts gd d base idx size so ofs) g tr)

/-- The oldest request of a bank queue that follows nothing more is served: it leaves the queue, and no other does. A
write sets exactly the bytes it lists in the scratchpad of the group's crew; a read changes no byte and brings the
values read into the result in flight, one request less being outstanding; an atomic add of one 32-bit element adds
modulo 2^32. No register and no byte of memory changes. (R96, R98, R162, R90) -/
def Obligations.BankServicePerformsOneRequest : Prop :=
  ∀ (s : State) (q bank : Nat) (x : Quad) (r : BankReq) (rest : List BankReq) (g : Group) (c : Crew),
    s.quad? q = some x → x.bank bank = r :: rest → r.hold = [] → (∀ o ∈ rest, o.id ≠ r.id) →
    NMap.get? x.groups r.slot = some g → x.crewOf? g = some c →
    ∃ t h c', exec (.scratchpadBankService q bank) s = .next t ∧ t.group? q r.slot = some h ∧ t.crew? q h = some c' ∧
      h.v = g.v ∧ h.s = g.s ∧ h.p = g.p ∧ h.pc = g.pc ∧ t.mem = s.mem ∧
      (∃ y, t.quad? q = some y ∧ ((y.bank bank).map (fun o => o.id)).Perm (rest.map (fun o => o.id))) ∧
      (∀ bs, r.op = .write bs → ∀ a, c'.byte a = bs.foldl (fun acc e => if e.1 = a then e.2 else acc) (c.byte a)) ∧
      (∀ ls, r.op = .read ls → c'.sp = c.sp ∧ ∀ id f, r.flight = some id → f ∈ g.vflights → f.id = id →
        ∃ f' ∈ h.vflights, f'.id = id ∧ f'.waiting = f.waiting - 1 ∧ f'.dests.map (fun e => e.1) = f.dests.map (fun e => e.1) ∧
          ∀ l a n d, ls = [(l, a, n, d)] → n ≤ 4 → l < 32 → ∀ e ∈ f'.dests, e.1.reg = d → Lanes.at e.2 l = BitVec.ofNat 32 (c.num a n)) ∧
      (∀ d e ty, r.op = .atom .add ty d [e] → ty ≠ .f32 → ty ≠ .s64 → c'.num e.ofs 4 = (c.num e.ofs 4 + e.data.toNat) % 2 ^ 32)

/-- The check of R229 on n bytes at an exact offset: no descriptor for the object gives 0x08; a negative offset or an end
beyond the size gives 0x06 with s59 = 1; a misaligned offset gives 0x06 with s59 = 2; a missing right gives 0x07 with
the missing rights in s59; otherwise the access passes. Each cause is reported only when every earlier one is absent.
(R229, R228, R244) -/
def Obligations.AccessChecksFollowTheirOrder : Prop :=
  ∀ (b : Basin) (c : DWord) (ofs : Int) (n al : Nat) (need : Rights), 0 < al →
    (∀ e, findDesc b c = .error e → checkAccess b c ofs n al need = .error e ∧ e.code = 0x08) ∧
    (∀ d, findDesc b c = .ok d →
      let out := ofs < 0 ∨ (d.size : Int) < ofs + n
      let lacks := (need.rd = true ∧ d.have_.rd = false) ∨ (need.wr = true ∧ d.have_.wr = false) ∨ (need.ex = true ∧ d.have_.ex = false)
      (out → checkAccess b c ofs n al need = .error { step := 3, code := 0x06, s59 := 1 }) ∧
      (¬ out → ofs % al ≠ 0 → checkAccess b c ofs n al need = .error { step := 4, code := 0x06, s59 := 2 }) ∧
      (¬ out → ofs % al = 0 → lacks → ∃ m, checkAccess b c ofs n al need = .error { step := 5, code := 0x07, s59 := m } ∧
        (m.testBit 0 = (need.rd && !d.have_.rd)) ∧ (m.testBit 1 = (need.wr && !d.have_.wr)) ∧ (m.testBit 2 = (need.ex && !d.have_.ex))) ∧
      (¬ out → ofs % al = 0 → ¬ lacks → checkAccess b c ofs n al need = .ok ()))

/-- For every state and operands in which the group may issue them, their operands can be read, their registers are
aligned and allocated, every lane that takes part passes the check of R229 at its capability plus index plus offset,
VALSET names at most 8 lanes on one device, and, for those that write while an overwriting loop is open, no scratchpad
request of the crew is outstanding and the check of R219 passes, these instructions complete in every form: the next
state is one in which the group goes on at the following word and no register and no byte of memory has changed. The
lanes that act are those that take part, without those that R219 suppresses whole. When there is one, an instruction
in flight is counted on the path (ld; cst; smp; st for DEP and for ATOM without a result) with its destination
registers and lanes and as many operations as there are distinct lines among these lanes (for SMPL distinct objects,
for VALSET one). Each of these lanes is carried by a request of the group to its device and object, at the line of its
offset, with every other lane of the same line (object; set), and the request holds what the instruction gives the
lane: the offset; for LD and LDC the size, the first register and the hint; for SMPL the two coordinates; for ATOM,
CASV and DEP the operation, the data and the value compared; for LDV the two registers; for CASV and VALSET the
expected version; for VALSET the line among the set's lines, its lanes being all that take part, of which those that
R219 suppresses are quiet: they are compared but write nothing, and their word of D stays (DESIGN CHOICE, log 82).
(R343, R345, R383, R169, R171, R161, R122, R173, R99, R70, R65, R219) -/
def Obligations.LaneAccessesIssueTheirRequests : Prop :=
  ∀ (s : State) (g : Group) (gd : Guard) (d vd : BitVec 7) (cap idx x y : Sel) (size : Size) (lo : LdOrd) (hint : Hint) (ofs : BitVec 16)
    (o12 : BitVec 12) (op : AtOp) (ao : AtOrd) (ty : AtTy) (agg nd : Bool) (ofw : BitVec 7) (ow6 : BitVec 6) (wide w lin : Bool)
    (dop : DepOp) (t3 : Ty3) (vp : BitVec 3) (p : PairSel) (keep : Nat → Nat → Bool),
    pairSel g cap = some p → selOk g idx = true →
    let m := guardMask g gd
    let n := sizeBytes size
    let nw := if wide then 8 else 4
    let b := s.basin g.basin
    let c := fun l => pairAt g p l
    let own := g.owner s.cur.1 s.cur.2
    let ofsOf := fun (k : Int) (l : Nat) => ((capOfs (c l) : Int) + (selAt g idx l).toInt + k).toNat
    let pass := fun (k : Int) (n : Nat) (need : Rights) => ∀ l, l < 32 → m.getLsbD l = true →
      checkAccess b (c l) ((capOfs (c l) : Int) + (selAt g idx l).toInt + k) n n need = .ok ()
    let carried := fun (mm : Mask) (path : Path) (dests : List Dest) (same : Nat → Nat × Nat × Nat) (K : Nat → Req → Prop) (t : State) (h : Group) =>
      mm ≠ 0#32 → ∃ f ∈ h.flights, s.nextId ≤ f.id ∧ f.path = path ∧ f.dests = dests ∧ f.ops = (((maskLanes mm).map same).eraseDups).length ∧
      ∀ l, l < 32 → mm.getLsbD l = true → ∃ id r, t.req? id = some r ∧ f.id < id ∧ r.owner = own ∧ r.flight = [f.id] ∧
        r.dev = capDev (c l) ∧ (∀ k, k < 32 → (r.lanes.getLsbD k = true ↔ mm.getLsbD k = true ∧ same k = same l)) ∧ K l r
    let line := fun (k : Int) (l : Nat) => (capDev (c l), capObj (c l), ofsOf k l / 128)
    let R := fun (i : Instr) (sels : List Sel) (mm : Mask) (path : Path) (dests : List Dest) (k : Int) (K : Nat → ReqKind → Prop) =>
      Issues s i g → AccessRuns s i g sels (carried mm path dests (line k) (fun l r => r.obj = capObj (c l) ∧ r.line = ofsOf k l / 128 ∧ K l r.kind))
    let dataOk := fun (wd : Bool) (x : Sel) => if wd then (pairSel g x).isSome = true else selOk g x = true
    let datum := fun (wd : Bool) (x : Sel) (l : Nat) (v : DWord) =>
      if wd then ∃ p2, pairSel g x = some p2 ∧ v = pairAt g p2 l else v = (selAt g x l).setWidth 64
    let held := fun (wd : Bool) (r l : Nat) => if wd then g.lane (r + 1) l ++ g.lane r l else (g.lane r l).setWidth 64
    let apart := fun (k : Nat) => ¬ (d.toNat ≤ vd.toNat ∧ vd.toNat < d.toNat + k)
    let loop := fun (k : Int) (n size kind : Nat) => (g.inLoop = true → s.crewIdle s.cur.1 g = true) ∧
      s.loopCheck s.cur.1 s.cur.2 g ((laneAccs g m p idx k).map (fun a => a.write n)) size kind = .ok keep
    let kept := fun (k : Int) (n : Nat) => maskOf (fun l => m.getLsbD l && (List.range n).all (fun i => keep l (ofsOf k l + i)))
    let code := fun (wd : Bool) => if wd then 3 else 2
    (g.dataOk d.toNat n = true → pass ofs.toInt n Rights.r → R (.ld gd d cap idx size lo hint ofs) [idx] m .ld (dataDests d.toNat n m) ofs.toInt
      (fun l k => ∃ ls keepL1, k = .load .ld n d.toNat ls hint false keepL1 ∧ (l, ofsOf ofs.toInt l) ∈ ls)) ∧
    (g.dataOk d.toNat n = true → pass ofs.toInt n Rights.r → R (.ldc gd d cap idx size hint ofs) [idx] m .cst (dataDests d.toNat n m) ofs.toInt
      (fun l k => ∃ ls keepL1, k = .load .cst n d.toNat ls hint false keepL1 ∧ (l, ofsOf ofs.toInt l) ∈ ls)) ∧
    (g.dataOk d.toNat 16 = true → selOk g y = true →
      (∀ l, l < 32 → m.getLsbD l = true → checkAccess b (c l) (capOfs (c l)) 64 64 Rights.r = .ok ()) →
      Issues s (.smpl gd d cap idx y lin) g → AccessRuns s (.smpl gd d cap idx y lin) g [idx, y]
        (carried m .smp (dataDests d.toNat 16 m) (fun l => (capDev (c l), capObj (c l), 0)) (fun l r => r.obj = capObj (c l) ∧
          ∃ word ls, r.kind = .smpl d.toNat lin word ls ∧ (l, capOfs (c l), selAt g idx l, selAt g y l) ∈ ls))) ∧
    (g.dataOk d.toNat n = true → g.vOk vd.toNat = true → apart (regCount n) → pass o12.toInt n Rights.r →
      R (.ldv gd d vd cap idx size lo o12) [idx] m .ld (dataDests d.toNat n m ++ [Dest.new vd.toNat m]) o12.toInt
        (fun l k => ∃ ls, k = .ldv n d.toNat vd.toNat ls ∧ (l, ofsOf o12.toInt l) ∈ ls)) ∧
    (g.dataOk d.toNat nw = true → g.vOk vd.toNat = true → apart (regCount nw) → dataOk wide x → pass (4 * ow6.toNat) nw Rights.rw →
      loop (4 * ow6.toNat) nw (code wide) 8 →
      let mm := kept (4 * ow6.toNat) nw
      R (.casv gd d vd cap idx x wide ao ow6) [idx, x] mm .ld (dataDests d.toNat nw mm ++ [Dest.new vd.toNat mm]) (4 * ow6.toNat)
        (fun l k => ∃ es, k = .casv wide d.toNat vd.toNat es ∧ ∃ e ∈ es, e.lane = l ∧ e.ofs = ofsOf (4 * ow6.toNat) l ∧ datum wide x l e.data ∧
          e.cmp = held wide d.toNat l ∧ e.ver = g.lane vd.toNat l)) ∧
    ((nd = true ∨ g.dataOk d.toNat (atomBytes ty) = true) → dataOk (ty == .s64) x →
      pass (4 * ofw.toNat) (atomBytes ty) (if nd then Rights.w else Rights.rw) → loop (4 * ofw.toNat) (atomBytes ty) (code (ty == .s64)) (if nd then 4 else 3) →
      let mm := kept (4 * ofw.toNat) (atomBytes ty)
      R (.atom gd d cap idx x op ao ty agg nd ofw) [idx, x] mm (if nd then .st else .ld) (if nd then [] else dataDests d.toNat (atomBytes ty) mm) (4 * ofw.toNat)
        (fun l k => ∃ es, k = .atom op ty (if nd then none else some d.toNat) es ∧ ∃ e ∈ es, e.lane = l ∧ e.ofs = ofsOf (4 * ofw.toNat) l ∧
          datum (ty == .s64) x l e.data ∧ e.cmp = held (ty == .s64) d.toNat l)) ∧
    (g.vOk d.toNat = true → pass ofs.toInt 4 Rights.w → loop ofs.toInt 4 2 5 →
      R (.dep gd d cap idx dop t3 ofs) [idx] (kept ofs.toInt 4) .st [] ofs.toInt
        (fun l k => ∃ es, k = .dep dop t3 es ∧ es.Pairwise (fun a b => a.lane < b.lane) ∧
          ∃ e ∈ es, e.lane = l ∧ e.ofs = ofsOf ofs.toInt l ∧ e.data = (g.lane d.toNat l).setWidth 64)) ∧
    (g.vOk d.toNat = true → selOk g x = true → (w = true → dataOk wide y) → (maskLanes m).length ≤ 8 →
      (∀ l k, l < 32 → k < 32 → m.getLsbD l = true → m.getLsbD k = true → capDev (c l) = capDev (c k)) →
      pass 0 nw (if w then Rights.rw else Rights.r) → (w = true → loop 0 nw (code wide) 8) →
      let mm := if w then kept 0 nw else m
      Issues s (.valset gd d cap idx x y wide w vp) g → AccessRuns s (.valset gd d cap idx x y wide w vp) g (if w then [idx, x, y] else [idx, x])
        (carried m .ld [Dest.new d.toNat mm, Dest.new (predReg vp.toNat) g.em] (fun _ => (0, 0, 0)) (fun l r => ∃ v, r.kind = .valset v ∧
          v.d = d.toNat ∧ v.wide = wide ∧ v.write = w ∧ v.vp = vp.toNat ∧ v.em = g.em ∧ v.pins = [] ∧
          (∀ k, k ∈ v.quiet ↔ k < 32 ∧ m.getLsbD k = true ∧ mm.getLsbD k = false) ∧
          (capDev (c l) = devHere → lineKey g.basin (capObj (c l)) (ofsOf 0 l / 128) ∈ v.lines) ∧
          ∃ e ∈ v.elems, e.lane = l ∧ e.ofs = capObj (c l) * 2 ^ 40 + ofsOf 0 l ∧ e.ver = selAt g x l ∧ (w = true → datum wide y l e.data))))

/-- For every state and operands in which the group may issue ST, the data registers are aligned and allocated, the
operands can be read, every lane that takes part passes the check of R229 with the write right, and, while an
overwriting loop is open, no scratchpad request of the crew is outstanding and the check of R219 passes, it completes
for every size and ordering: the group goes on at the following word, and no register and no byte of memory changes at
its issue. It issues, into a state in which whatever waits for nothing more then leaves the quadrant, one instruction
counted on the store path and for each line with a byte that R219 keeps one request of the group that waits in the
quadrant. A byte k of a lane's data registers, lowest first, stands in such a request for its address (capability
offset plus signed index plus signed offset plus k) when R219 keeps it, unless a higher lane writes the same address;
every byte of these requests is one that some lane writes and R219 keeps. When the group has no other request
outstanding, each such byte stands after the step in a write-combining entry or a store request of the group. (R387,
R388, R93, R128, R99, R70, R219, R126) -/
def Obligations.StoresIssueTheirBytes : Prop :=
  ∀ (s : State) (g : Group) (gd : Guard) (d : BitVec 7) (cap idx : Sel) (size : Size) (so : StOrd) (hint : Hint) (ofs : BitVec 16) (p : PairSel)
    (keep : Nat → Nat → Bool),
    let i : Instr := .st gd d cap idx size so hint ofs
    let q := s.cur.1
    let own := g.owner q s.cur.2
    Issues s i g → pairSel g cap = some p → selOk g idx = true → g.dataOk d.toNat (sizeBytes size) = true →
    let m := guardMask g gd
    let n := sizeBytes size
    let c := fun l => pairAt g p l
    let a := fun l => (capOfs (c l) : Int) + (selAt g idx l).toInt + ofs.toInt
    (∀ l, l < 32 → m.getLsbD l = true → checkAccess (s.basin g.basin) (c l) (a l) n n Rights.w = .ok ()) →
    (g.inLoop = true → s.crewIdle q g = true) →
    s.loopCheck q s.cur.2 g ((laneAccs g m p idx ofs.toInt).map (fun x => x.write n)) (sizeField size) 2 = .ok keep →
    let byteOf := fun (l k : Nat) (v : Byte) => v.toNat = (g.lane (d.toNat + k / 4) l).toNat / 256 ^ (k % 4) % 256
    let last := fun (l k : Nat) => ∀ l' k', l < l' → l' < 32 → m.getLsbD l' = true → k' < n → keep l' ((a l').toNat + k') = true →
      capObj (c l') = capObj (c l) → capDev (c l') = capDev (c l) → (a l').toNat + k' ≠ (a l).toNat + k
    (∃ (s2 : State) (fid : Nat), exec i s = .next (s2.settle.modGroup q s.cur.2 (fun h => h.advance .none (g.pc + instrLen i))) ∧ s2.mem = s.mem ∧ s.nextId ≤ fid ∧
      (∀ l k, l < 32 → m.getLsbD l = true → k < n → keep l ((a l).toNat + k) = true →
        (∃ h f, s2.group? q s.cur.2 = some h ∧ f ∈ h.flights ∧ f.id = fid ∧ f.path = .st ∧ f.dests = []) ∧
        ∃ (id : Nat) (r : Req) (bs : NMap Byte), s2.req? id = some r ∧ fid < id ∧ r.owner = own ∧ r.flight = [fid] ∧ r.st = .held ∧ r.dev = capDev (c l) ∧ r.obj = capObj (c l) ∧
          r.line = (a l).toNat / 128 ∧ r.lanes.getLsbD l = true ∧ (r.kind = .store false bs ∨ (r.kind = .merge bs ∧ so ≠ .post ∧ capDev (c l) = devHere)) ∧
          (last l k → ∃ v, byteOf l k v ∧ NMap.get? bs ((a l).toNat + k) = some v)) ∧
      (∀ id r bs x, s2.req? id = some r → fid < id → r.kind = .store false bs ∨ r.kind = .merge bs → NMap.has bs x = true →
        ∃ l k, l < 32 ∧ m.getLsbD l = true ∧ k < n ∧ x = (a l).toNat + k ∧ keep l x = true ∧ r.obj = capObj (c l) ∧ r.dev = capDev (c l))) ∧
    AccessRuns s i g [idx] (fun t _ =>
      (∀ id r, s.req? id = some r → r.owner ≠ own) →
      ∀ l k, l < 32 → m.getLsbD l = true → k < n → keep l ((a l).toNat + k) = true → last l k →
        ∃ v, byteOf l k v ∧
          ((∃ x e, t.quad? q = some x ∧ e ∈ x.wc ∧ e.owner = own ∧ e.obj = capObj (c l) ∧
              NMap.get? e.bytes ((a l).toNat + k) = some v) ∨
           (∃ id r bs, t.req? id = some r ∧ r.owner = own ∧ r.dev = capDev (c l) ∧ r.obj = capObj (c l) ∧
              ((∃ o, r.kind = .store o bs) ∨ r.kind = .merge bs) ∧ NMap.get? bs ((a l).toNat + k) = some v)))

/-- LDU with an even capability pair that passes R229 and no older order sends one read of 4 or 8 bytes at the line of its
offset and stands at its address waiting for it, in every ordering; with the answer there it writes the words into its
register or pair and completes. STU, outside an open loop and with the write right, completes when its release is over
(at once when it has none and no order is older): it issues one counted store that holds exactly the bytes of its
register or pair, lowest first. SIGNAL, outside an open loop and with both rights, first acts as a FENCE.rel.sys: it
stands at its address until the orders of the release are met; then it sends one request that holds its operation,
value and offset and waits for it; acknowledged, it completes. An STU with a release stands in the same way. An odd
capability or one above 0x3F raises 0x02 for each of the three, an open loop 0x0D for STU and SIGNAL. No byte of
memory changes at any of these steps, and no register but the destination of LDU and those of results that arrived
since the jet started. (R347, R348, R390, R391, R382, R126, R127, R35) -/
def Obligations.UniformAccessesWaitAndComplete : Prop :=
  ∀ (s : State) (g : Group) (d : BitVec 6) (cap : BitVec 8) (idx : USel) (wide add : Bool) (lo : LdOrd) (so : StOrd) (ofs : BitVec 20) (c : DWord),
    let q := s.cur.1
    let slot := s.cur.2
    let b := s.basin g.basin
    let n := if wide then 8 else 4
    let a := (capOfs c : Int) + (uAt g idx).toInt + ofs.toInt
    let ldu : Instr := .ldu d cap idx wide lo ofs
    let stu : Instr := .stu d cap idx wide so ofs
    let sig : Instr := .signal add cap idx
    let new := g.wait = .none ∨ ∃ k, g.wait = .until k
    let kept := fun (t : State) (h g : Group) => t.mem = s.mem ∧ h.v = g.v ∧ h.p = g.p ∧ h.h = g.h ∧ h.em = g.em ∧ h.status = g.status ∧
      h.stack = g.stack
    let asks := fun (line : Nat) (kind : ReqKind) (t : State) (h : Group) => kept t h g.leaveJet ∧ h.s = g.s ∧ h.pc = g.pc ∧ h.jet = none ∧
      ∃ id r, h.wait = .request id ∧ s.nextId ≤ id ∧ t.req? id = some r ∧ r.owner = g.owner q slot ∧ r.dev = capDev c ∧ r.obj = capObj c ∧
        r.line = line ∧ r.kind = kind
    let releases := fun (t : State) (h : Group) => kept t h g.leaveJet ∧ h.s = g.s ∧ h.pc = g.pc ∧ h.jet = none ∧ h.wait = .stage 1 ∧ h.orders ≠ []
    capPair g cap = some c →
    (Issues s ldu g → (∀ ws, g.wait ≠ .answer ws) → g.orders = [] → checkAccess b c a n n Rights.r = .ok () →
      GroupAfter (exec ldu s) q slot (asks (a.toNat / 128) (.load .ld n 0 [(0, a.toNat)] .normal true (capDev c == devHere)))) ∧
    (∀ ws, Issues s ldu g → g.wait = .answer ws → GroupAfter (exec ldu s) q slot (fun t h => kept t h g ∧ h.pc = g.pc + instrLen ldu ∧
      h.wait = .none ∧ h.getS d.toNat = ws.getD 0 0#32 ∧
      (wide = true → h.getS (d.toNat + 1) = ws.getD 1 0#32) ∧
      ∀ k, k ≠ d.toNat → (wide = true → k ≠ d.toNat + 1) → h.getS k = g.getS k)) ∧
    (Issues s ldu g → (∀ ws, g.wait ≠ .answer ws) → g.orders ≠ [] → checkAccess b c a n n Rights.r = .ok () → Waits s ldu g (.until .orders)) ∧
    (Issues s stu g → g.inLoop = false → checkAccess b c a n n Rights.w = .ok () →
      (((∀ sc, so ≠ .rel sc) ∧ g.orders = []) ∨ ((∃ sc, so = .rel sc) ∧ (∃ k, g.wait = .stage k) ∧ g.orders = [])) →
      AccessRuns s stu g [] (fun _ _ => True) ∧
      ∃ (s2 : State) (h : Group) (f : Flight) (r : Req), exec stu s = .next (s2.settle.modGroup q slot (fun h => h.advance .none (g.pc + instrLen stu))) ∧ s2.mem = s.mem ∧
        s2.group? q slot = some h ∧ f ∈ h.flights ∧ f.id = s.nextId ∧ f.path = .st ∧ f.ops = 1 ∧ f.dests = [] ∧
        s2.req? (s.nextId + 1) = some r ∧ r.owner = g.owner q slot ∧ r.flight = [s.nextId] ∧ r.st = .held ∧ r.dev = capDev c ∧ r.obj = capObj c ∧
        r.line = a.toNat / 128 ∧ ∃ bs, (if capDev c = devHere then r.kind = .merge bs else r.kind = .store false bs) ∧ bs.length = n ∧
          ∀ k, k < n → ∃ v, NMap.get? bs (a.toNat + k) = some v ∧ v.toNat = (g.getS (d.toNat + k / 4)).toNat / 256 ^ (k % 4) % 256) ∧
    (∀ sc, Issues s stu g → so = .rel sc → g.inLoop = false → checkAccess b c a n n Rights.w = .ok () → new → g.orders = [] →
      GroupAfter (exec stu s) q slot (fun t h => releases t h ∨ (kept t h g ∧ h.s = g.s ∧ h.pc = g.pc + instrLen stu ∧ h.wait = .none))) ∧
    (Issues s sig g → g.inLoop = false → checkAccess b c (capOfs c) 4 4 Rights.rw = .ok () → new → g.orders = [] →
      GroupAfter (exec sig s) q slot (fun t h => releases t h ∨ asks (capOfs c / 128) (.signal add (uAt g idx) (capOfs c)) t h)) ∧
    (∀ k, Issues s sig g → g.wait = .stage k → g.inLoop = false → checkAccess b c (capOfs c) 4 4 Rights.rw = .ok () →
      GroupAfter (exec sig s) q slot (asks (capOfs c / 128) (.signal add (uAt g idx) (capOfs c)))) ∧
    (∀ r, Issues s sig g → g.wait = .request r → g.inLoop = false → Waits s sig g (.request r)) ∧
    (∀ ws, Issues s sig g → g.wait = .answer ws → g.inLoop = false → Runs s sig g g .none [] 0#5 (g.pc + instrLen sig)) ∧
    (g.inLoop = true → (Issues s stu g → ∃ tr, tr.code = 0x0D ∧ tr.s59 = some 3#32 ∧ Raises s stu g tr) ∧
      (Issues s sig g → ∃ tr, tr.code = 0x0D ∧ tr.s59 = some 3#32 ∧ Raises s sig g tr)) ∧
    (∀ odd : BitVec 8, odd.toNat % 2 = 1 ∨ 0x40 ≤ odd.toNat →
      (Issues s (.ldu d odd idx wide lo ofs) g → Raises s (.ldu d odd idx wide lo ofs) g Trap.operand) ∧
      (g.inLoop = false → Issues s (.stu d odd idx wide so ofs) g → Raises s (.stu d odd idx wide so ofs) g Trap.operand) ∧
      (g.inLoop = false → Issues s (.signal add odd idx) g → Raises s (.signal add odd idx) g Trap.operand))

/-- For every state in which the k members after a DSC can be fetched and pass the checks of R111, their operands are
readable, every lane that takes part passes R229 and the address rules of a descent group (LD and ST of a lane aligned
and on one line), and, for a .w group while an overwriting loop is open, no scratchpad request of the crew is
outstanding and the check of R219 passes, DSC completes with and without an ST: landrec reads that no lane has landed,
the k members are still to pass, and no register and no byte of memory has changed. The lanes that act are those that
take part, without those of a .w group that R219 suppresses. From a state in which whatever waits for nothing more
then leaves the quadrant, each of them has one descent request of the group, for that lane alone, at the line of its
LD, with the destination, the width, the offsets of its LD and its ST and the members as captured at the prefix; it is
counted on the descent path with the registers of D, and an entry or an overflow mark of the hazard table names it.
(R109, R110, R111, R112, R119, R219) -/
def Obligations.DescentGroupsDepart : Prop :=
  ∀ (s : State) (g : Group) (w : Bool) (k : BitVec 4) (sc : DscScan) (m : DscMember) (rest : List DscMember) (ld : DscLd) (p : PairSel)
    (keep : Nat → Nat → Bool),
    Issues s (.dsc w k) g → s.dscScan g k.toNat 1 (22 - g.jetOr.pos) (g.pc + 4) = .ok sc → sc.bad = none → sc.mem = m :: rest →
    dscReasons w k.toNat sc.mem = none → dscLd m.ins = some ld → (∀ x ∈ sc.mem, memberOperand g ld.wide x = true) →
    pairSel g ld.cap = some p →
    let q := s.cur.1
    let own := g.owner q s.cur.2
    let n := if ld.wide then 8 else 4
    let mask := guardMask g ld.guard
    let c := fun l => pairAt g p l
    let a := fun l => (capOfs (c l) : Int) + (selAt g ld.idx l).toInt + ld.ofs
    let need := if w then Rights.rw else Rights.r
    (∀ l, l < 32 → mask.getLsbD l = true → checkAccess (s.basin g.basin) (c l) (a l) n 1 need = .ok () ∧ a l % n = 0) →
    let departs := fun (mm : Mask) (so : Nat → Option Nat) => GroupAfter (exec (.dsc w k) s) q s.cur.2 (fun t h =>
      h.pc = g.pc + 4 ∧ h.jet.map (fun j => j.dscLeft) = some k.toNat ∧ h.landrec = landrecNone ∧ h.v = g.v ∧ h.s = g.s ∧ h.p = g.p ∧
      h.em = g.em ∧ h.status = g.status ∧ t.mem = s.mem ∧
      (mm ≠ 0#32 → ∃ f ∈ h.flights, f.id = s.nextId ∧ f.path = .dsc ∧ f.ops = (maskLanes mm).length ∧
        f.dests = (dscRegs ld).map (fun r => Dest.new r mm))) ∧
      ∃ (s2 : State), exec (.dsc w k) s = .next (s2.settle.modGroup q s.cur.2 (fun h => h.advance .none (g.pc + 4))) ∧ s2.mem = s.mem ∧
      ∀ l, l < 32 → mm.getLsbD l = true → ∃ (id : Nat) (r : Req) (dd : Descent) (y : Quad), s2.req? id = some r ∧ r.st = .held ∧ s.nextId < id ∧ r.owner = own ∧ r.flight = [s.nextId] ∧
        (∀ j, j < 32 → r.lanes.getLsbD j = decide (j = l)) ∧ r.dev = capDev (c l) ∧ r.obj = capObj (c l) ∧ r.line = (a l).toNat / 128 ∧
        r.kind = .descent dd ∧ dd.lane = l ∧ dd.dst = ld.d ∧ dd.wide = ld.wide ∧ dd.ofs = (a l).toNat ∧ dd.stOfs = so l ∧
        dd.ops = (rest.filterMap (fun x => match x.ins with
          | .ok i => some i
          | .error _ => none)).filterMap (captureOp g (dscRegs ld) l) ∧
        s2.quad? q = some y ∧ ∃ hz ∈ y.hazards, hz.slot = s.cur.2 ∧ id ∈ hz.ids ∧
          (hz.line = none ∨ hz.line = some (anyLine g.basin (capDev (c l)) (capObj (c l)) ((a l).toNat / 128)))
    (w = false → (rest.getLast?).bind (fun x => dscSt ld.wide x.ins) = none → departs mask (fun _ => none)) ∧
    (∀ y p2, (rest.getLast?).bind (fun x => dscSt ld.wide x.ins) = some y → pairSel g y.cap = some p2 → w = true →
      let c2 := fun l => pairAt g p2 l
      let a2 := fun l => (capOfs (c2 l) : Int) + (selAt g y.idx l).toInt + y.ofs
      (∀ l, l < 32 → mask.getLsbD l = true → checkAccess (s.basin g.basin) (c2 l) (a2 l) n 1 Rights.w = .ok () ∧ a2 l % n = 0 ∧
        capDev (c2 l) = capDev (c l) ∧ capObj (c2 l) = capObj (c l) ∧ a2 l / 128 = a l / 128) →
      (g.inLoop = true → s.crewIdle q g = true) →
      s.loopCheck q s.cur.2 g ((laneAccs g mask p2 y.idx y.ofs).map (fun x => x.write n)) (if ld.wide then 3 else 2) 7 = .ok keep →
      departs (maskOf (fun l => mask.getLsbD l && (List.range n).all (fun i => keep l ((a2 l).toNat + i)))) (fun l => some (a2 l).toNat))

/-- For a group at a BAR whose release is over and whose scratchpad requests are applied, with a right count (1 to the
size of the instance, equal to EXP when that is set), nobody held and the group not yet arrived in this phase: an
arrival that is not the last adds the group, sets EXP, and completes (BAR.SYNC stands at the instruction); the last
one flips the phase, empties the barrier and completes, and with BAR each group of the instance that stood at the
barrier may go on. A group that has arrived in this phase already is held, at its BAR, for a later one. A BAR.SYNC
that may go on completes. A wrong count raises 0x0E with the id and reason 1 or 2 when the BAR issues, not again when
its release is over. No register (but by results that arrived since the jet started) and no byte of memory changes.
(R151, R152, R153, R155) -/
def Obligations.BarrierArrivalsCount : Prop :=
  ∀ (s : State) (g : Group) (sync : Bool) (id : BitVec 5) (cnt : USel),
    let i : Instr := .bar sync id cnt
    let q := s.cur.1
    let slot := s.cur.2
    let k := id.toNat
    let n := (uAt g cnt).toNat
    let b := s.barrier q g k
    let m := g.member k
    let kept := fun (t : State) (h g : Group) => t.mem = s.mem ∧ h.v = g.v ∧ h.s = g.s ∧ h.p = g.p ∧ h.h = g.h ∧ h.em = g.em ∧
      h.status = g.status ∧ h.stack = g.stack
    let goesOn := fun (t : State) (h : Group) => kept t h g ∧ h.pc = g.pc + instrLen i ∧ h.wait = .none
    Issues s i g →
    ((∃ e, g.wait = .stage e) → s.applied q slot = true → 1 ≤ n → n ≤ g.instSize k → (b.exp = 0 ∨ b.exp = n) → b.held = [] →
      m ∉ b.arrived →
      (if k < 16 then (s.crew? q g).isSome else ((s.basin g.basin).gang? g.launch g.gang).isSome) = true →
      GroupAfter (exec i s) q slot (fun t h =>
        (b.arr + 1 ≠ n →
          t.barrier q g k = { b with exp := n, arr := b.arr + 1, arrived := b.arrived ++ [m], waiting := if sync then b.waiting ++ [m] else b.waiting } ∧
          (sync = false → goesOn t h) ∧ (sync = true → kept t h g.leaveJet ∧ h.pc = g.pc ∧ h.wait = .bar false ∧ h.jet = none)) ∧
        (b.arr + 1 = n →
          t.barrier q g k = { phase := !b.phase, exp := 0, arr := 0, arrived := [], waiting := [], held := [] } ∧ goesOn t h ∧
          (∀ q' slot' x, s.group? q' slot' = some x → (q', slot') ≠ (q, slot) → x.sameInst g k = true →
            x.member k ∈ b.waiting → x.wait = .bar false → ∃ y, t.group? q' slot' = some y ∧ y.wait = .bar true ∧ y.pc = x.pc ∧ y.v = x.v)))) ∧
    ((∃ e, g.wait = .stage e) → s.applied q slot = true → 1 ≤ n → n ≤ g.instSize k → (b.exp = 0 ∨ b.exp = n) → m ∈ b.arrived →
      (if k < 16 then (s.crew? q g).isSome else ((s.basin g.basin).gang? g.launch g.gang).isSome) = true →
      GroupAfter (exec i s) q slot (fun t h => kept t h g.leaveJet ∧ t.barrier q g k = { b with held := b.held ++ [(m, n, sync)] } ∧
        h.pc = g.pc ∧ h.wait = .bar false ∧ h.jet = none)) ∧
    (g.wait = .bar true → GroupAfter (exec i s) q slot goesOn) ∧
    (g.wait = .none → n = 0 ∨ g.instSize k < n → Raises s i g (Trap.own 0x0E k 1)) ∧
    (g.wait = .none → 1 ≤ n → n ≤ g.instSize k → b.exp ≠ 0 → n ≠ b.exp → Raises s i g (Trap.own 0x0E k 2))

/-- On a gate in bounds, with the crew's earlier scratchpad requests done and, for expect, the reads before the group's
releases over: arrive and sync take one from PENA and give the old phase in d; expect adds to PENB; when PENA and PENB
are then both 0 the phase flips and PENA is EXPA again; EXPA never changes. Arrive and expect complete; sync completes
when the phase flipped and stands at the gate otherwise; wait completes at once when the phase differs from its
operand, with no change of the machine but pc and jet, and stands at the gate otherwise; a group released from a gate
completes, whatever its operands hold by then. A wait operand above 1 raises 0x02 and an address out of bounds raises
0x06 with reason 3. No byte of memory changes. (R156, R157, R158, R160, R324) -/
def Obligations.GateOperationsComplete : Prop :=
  ∀ (s : State) (g : Group) (op : GateOp) (base : USel) (ofs : BitVec 16) (d : BitVec 6) (x : USel) (c : Crew) (k : Nat),
    let q := s.cur.1
    let slot := s.cur.2
    let a := (uAt g base + BitVec.ofInt 32 ofs.toInt).toNat
    let w := c.num a 8
    let I := fun (o : GateOp) => (.gate o base ofs : Instr)
    let done := fun (pena penb : Nat) => if pena = 0 ∧ penb = 0 then true else false
    let becomes := fun (t : State) (pena penb : Nat) => ∃ c', t.crew? q g = some c' ∧
      gateEXPA (c'.num a 8) = gateEXPA w ∧
      gatePH (c'.num a 8) = (gatePH w != done pena penb) ∧
      gatePENA (c'.num a 8) = (if done pena penb then gateEXPA w else pena) ∧
      gatePENB (c'.num a 8) = penb
    let pena := (gatePENA w + 32767) % 32768
    let flips := done pena (gatePENB w)
    s.crew? q g = some c → c.spOk a 8 = true → g.orders = [] → s.crewIdle q g = true →
    (Issues s (I (.arrive d)) g → g.wait = .stage k → s.applied q slot = true → GroupAfter (exec (I (.arrive d)) s) q slot (fun t h =>
      t.mem = s.mem ∧ becomes t pena (gatePENB w) ∧ h.getS d.toNat = boolWord (gatePH w) ∧ (∀ r, r ≠ d.toNat → h.getS r = g.getS r) ∧
      h.v = g.v ∧ h.p = g.p ∧ h.em = g.em ∧ h.pc = g.pc + instrLen (I (.arrive d)) ∧ h.wait = .none)) ∧
    (Issues s (I (.sync d)) g → g.wait = .stage k → s.applied q slot = true → GroupAfter (exec (I (.sync d)) s) q slot (fun t h =>
      t.mem = s.mem ∧ becomes t pena (gatePENB w) ∧ h.getS d.toNat = boolWord (gatePH w) ∧ h.em = g.em ∧
      (flips = true → h.v = g.v ∧ h.p = g.p ∧ h.pc = g.pc + instrLen (I (.sync d)) ∧ h.wait = .none) ∧
      (flips = false → h.v = g.leaveJet.v ∧ h.p = g.leaveJet.p ∧ h.pc = g.pc ∧ h.wait = .gate a (gatePH w) false ∧ h.jet = none))) ∧
    (Issues s (I (.expect x)) g → g.wait = .none → g.relReads = [] → GroupAfter (exec (I (.expect x)) s) q slot (fun t h =>
      t.mem = s.mem ∧ becomes t (gatePENA w) ((gatePENB w + (uAt g x).toNat) % 2 ^ 32) ∧ h.s = g.s ∧ h.v = g.v ∧ h.p = g.p ∧ h.em = g.em ∧
      h.pc = g.pc + instrLen (I (.expect x)) ∧ h.wait = .none)) ∧
    (Issues s (I (.wait x)) g → g.wait = .none → (uAt g x).toNat ≤ 1 →
      (gatePH w ≠ ((uAt g x).toNat == 1) → Runs s (I (.wait x)) g g .none [] 0#5 (g.pc + instrLen (I (.wait x)))) ∧
      (gatePH w = ((uAt g x).toNat == 1) → Waits s (I (.wait x)) g (.gate a (gatePH w) false))) ∧
    (∀ e p r, Issues s (I op) g → g.wait = .gate e p r →
      Runs s (I op) g g .none [] 0#5 (g.pc + instrLen (I op))) ∧
    (Issues s (I (.wait x)) g → (∀ e p r, g.wait ≠ .gate e p r) → 1 < (uAt g x).toNat → Raises s (I (.wait x)) g Trap.operand) ∧
    (∀ base' : USel, let a' := (uAt g base' + BitVec.ofInt 32 ofs.toInt).toNat
      Issues s (.gate op base' ofs) g → (∀ e p r, g.wait ≠ .gate e p r) → (∀ y, op = .wait y → (uAt g y).toNat ≤ 1) → c.scr * 1024 < a' + 8 ∨ a' % 8 ≠ 0 →
      ∃ t, t.code = 0x06 ∧ t.s59 = some 3#32 ∧ Raises s (.gate op base' ofs) g t)

/-- An MMA of a full mask in an OFENCE window, with its tiles in the scratchpad and eight held banks from a multiple of 8,
completes: its request stands in staging, the window is over, the eight banks are named; a request of an earlier MMA
of its jet that still stands in staging goes on to the reservation table (DESIGN CHOICE, log 90). ACCLD of held banks
and aligned words completes: a class V result is in flight that holds, in each lane and register, the word of the bank
(open when an MMA since the last MMWAIT names it). ACCST completes: exactly the words that its lanes name change, each
to the value of the highest lane that names it. No register and no byte of memory changes at issue. A partial mask
raises 0x04, a missing OFENCE 0x02 with (1, 0). (R201, R351, R279, R280, R281, R204) -/
def Obligations.MatrixInstructionsRun : Prop :=
  ∀ (s : State) (g : Group) (gd : Guard) (a b k : BitVec 6) (fmt : MmaFmt) (blka blkb : Blk) (mxa mxb clr : Bool)
    (r : BitVec 7) (bank word : Sel) (w : AccWidth) (ofs : BitVec 7),
    let q := s.cur.1
    let slot := s.cur.2
    let x := s.engine (slotOf q)
    let mma : Instr := .mma gd (.s a) (.s b) (.s k) fmt blka blkb mxa mxb clr
    let ld : Instr := .accld gd r bank word w ofs
    let st : Instr := .accst gd r bank word w ofs
    let m := guardMask g gd
    let n := accWords w
    let kb := (g.getS k.toNat).toNat
    let bk := fun l => (selAt g bank l + ofs.setWidth 32).toNat
    let key := fun l e => 512 * bk l + (selAt g word l).toNat + e
    let lanesOk := ∀ l, l < 32 → m.getLsbD l = true → bk l ≤ 127 ∧ NMap.get? x.holder (bk l) = some (q, slot) ∧
      (selAt g word l).toNat % n = 0 ∧ (selAt g word l).toNat + n ≤ 512
    (∀ c, Issues s mma g → m = Mask.all → g.ofence = true → s.crew? q g = some c →
      c.tileOk (g.getS a.toNat).toNat blka = true → c.tileOk (g.getS b.toNat).toNat blkb = true → kb % 8 = 0 →
      (∀ e, e < 8 → NMap.get? x.holder (kb + e) = some (q, slot)) →
      (∃ f nm, (g.staging = none → Runs s mma g { g with ofence := false, mmDirty := [], staging := some f, mmNamed := nm } .none [] 0#5 (g.pc + instrLen mma)) ∧
        (∀ o, g.staging = some o → exec mma s = .next ((s.modEngine (slotOf q) (fun y => ({ y with
            table := y.table ++ [{ o with age := y.nextAge, waited := 0 }], nextAge := y.nextAge + 1 } : SlotEng).ungrant q slot)).setGroup q slot
          (issuedGroup g { g with ofence := false, mmDirty := [], staging := some f, mmNamed := nm } .none [] 0#5 (g.pc + instrLen mma)))) ∧
        f.q = q ∧ f.slot = slot ∧ f.a = (g.getS a.toNat).toNat ∧ f.b = (g.getS b.toNat).toNat ∧ f.k = kb ∧ f.fmt = fmt ∧ f.clr = clr ∧
        f.blka = blka ∧ f.blkb = blkb ∧ f.mxa = mxa ∧ f.mxb = mxb ∧ (∀ e, e ∈ nm ↔ e ∈ g.mmNamed ∨ (kb ≤ e ∧ e < kb + 8)))) ∧
    (Issues s mma g → m ≠ Mask.all → Raises s mma g (Trap.own 0x04 m.toNat 0)) ∧
    (Issues s mma g → m = Mask.all → g.ofence = false → Raises s mma g (Trap.own 0x02 1 0)) ∧
    (Issues s ld g → g.dataOk r.toNat (4 * n) = true → selOk g bank = true → selOk g word = true → lanesOk →
      ∃ val : Nat → Lanes, exec ld s = .next { s.setGroup q slot (issuedGroup g ((g.takeFq [bank, word]).fly s.nextId
          ((List.range n).map (fun e => (Dest.new (r.toNat + e) m, val e))) flNone 0) .none [] 0#5 (g.pc + instrLen ld)) with
          nextId := s.nextId + 1, freeIx := s.freeIx + 128 } ∧
        ∀ e l, e < n → l < 32 → m.getLsbD l = true → bk l ∉ g.mmNamed → Lanes.at (val e) l = NMap.getD x.acc (key l e) 0#32) ∧
    (Issues s st g → g.dataOk r.toNat (4 * n) = true → selOk g bank = true → selOk g word = true → lanesOk →
      AccessRuns s st g [bank, word] (fun t _ =>
        (∀ l e, l < 32 → e < n → m.getLsbD l = true → (∀ l', l < l' → l' < 32 → m.getLsbD l' = true → key l' 0 ≠ key l 0) →
          NMap.get? (t.engine (slotOf q)).acc (key l e) = some (g.lane (r.toNat + e) l)) ∧
        (∀ z, (∀ l e, l < 32 → e < n → m.getLsbD l = true → key l e ≠ z) →
          NMap.get? (t.engine (slotOf q)).acc z = NMap.get? x.acc z)))

/-- ACQB of 1 to 128 banks enters the queue of the slot and stands at its address; another count raises 0x02 with s58 = 4.
ACQB_GRANT gives the oldest request the lowest run of free banks (at a multiple of 8 for 8 or more), which its group
then holds, and answers it; the group's ACQB then completes with the first bank in d. RELB of held banks that no MMA
of the group names completes, and those banks, and no others, are free. RESERVATION_ENTRY moves a staged MMA into the
table when an entry is free. Neither serves a group that is told to stop. No register but d (and those of results that
arrived since the jet of a waiting ACQB started) and no byte of memory changes. (R203, R283, R373, R201) -/
def Obligations.BanksAreGrantedAndGivenBack : Prop :=
  ∀ (s : State) (g : Group) (d : BitVec 6) (cnt base : USel),
    let q := s.cur.1
    let slot := s.cur.2
    let x := s.engine (slotOf q)
    let n := (uAt g cnt).toNat
    let b := (uAt g base).toNat
    let acq : Instr := .acqb d cnt
    let rel : Instr := .relb base cnt
    let kept := fun (t : State) (h g : Group) => t.mem = s.mem ∧ h.v = g.v ∧ h.s = g.s ∧ h.p = g.p ∧ h.em = g.em ∧ h.stack = g.stack
    (Issues s acq g → g.wait = .none → n = 0 ∨ 128 < n → Raises s acq g (Trap.own 0x02 4 0)) ∧
    (Issues s acq g → g.wait = .none → 1 ≤ n → n ≤ 128 → GroupAfter (exec acq s) q slot (fun t h => kept t h g.leaveJet ∧
      h.wait = .acqb ∧ h.pc = g.pc ∧ h.jet = none ∧ (t.engine (slotOf q)).acqq = x.acqq ++ [(q, slot, n)] ∧
      (t.engine (slotOf q)).holder = x.holder)) ∧
    (∀ v, Issues s acq g → g.wait = .answer [v] → UniRuns s acq g d v) ∧
    (∀ qs q1 slot1 k rest v h, (s.engine qs).acqq = (q1, slot1, k) :: rest → s.slotStops qs = false →
      (k ≥ 8 → v % 8 = 0) → v + k ≤ 128 → 1 ≤ k → (∀ e, e < k → NMap.get? (s.engine qs).holder (v + e) = none) →
      (∀ u, u < v → (k ≥ 8 → u % 8 = 0) → ∃ e, e < k ∧ NMap.get? (s.engine qs).holder (u + e) ≠ none) →
      s.group? q1 slot1 = some h → h.halted = false →
      ∃ t, exec (.acqbGrant qs) s = .next t ∧ t.mem = s.mem ∧ (t.engine qs).acqq = rest ∧
        t.group? q1 slot1 = some { h with wait := .answer [BitVec.ofNat 32 v] } ∧
        (∀ e, e < k → NMap.get? (t.engine qs).holder (v + e) = some (q1, slot1)) ∧
        (∀ e, e < v ∨ v + k ≤ e → NMap.get? (t.engine qs).holder e = NMap.get? (s.engine qs).holder e)) ∧
    (Issues s rel g → g.wait = .none → 1 ≤ n → b + n ≤ 128 → (∀ e, e < n → NMap.get? x.holder (b + e) = some (q, slot)) →
      (∀ r ∈ s.mmas q slot g, b + n ≤ r.k ∨ r.k + 8 ≤ b) →
      GroupAfter (exec rel s) q slot (fun t h => kept t h g ∧ h.pc = g.pc + instrLen rel ∧ h.wait = .none ∧
        (∀ e, e < n → NMap.get? (t.engine (slotOf q)).holder (b + e) = none) ∧
        (∀ e, e < b ∨ b + n ≤ e → NMap.get? (t.engine (slotOf q)).holder e = NMap.get? x.holder e))) ∧
    (∀ q1 slot1 h r, s.group? q1 slot1 = some h → h.staging = some r → s.slotStops (slotOf q1) = false → h.halted = false →
      (s.engine (slotOf q1)).table.length < 16 → ∃ t e, exec (.reservationEntry q1 slot1) s = .next t ∧ t.mem = s.mem ∧
        t.group? q1 slot1 = some { h with staging := none } ∧ (t.engine (slotOf q1)).table = (s.engine (slotOf q1)).table ++ [e] ∧
        e = { r with age := e.age, waited := 0 } ∧ e.age = (s.engine (slotOf q1)).nextAge)

/-- With no pass in execution, a power token, time left in the frame and some eligible entry of a group that is not told
to stop, PASS_GRANT completes: one of them of the highest effective priority leaves the table and is in execution for
32 cycles. PASS_END completes once they have passed: no pass is in execution, each element (m, n) whose rows of A and
B were not written in the window is its old word (0 with CLR) and the sum of R189: for s8 the exact sum of the 128
products modulo 2^32; for the float formats, on finite elements and scales, the f32 sums of runs of 16 exact products,
each rounded once to nearest even, added in ascending K; every accumulator word outside the eight banks of the entry
is unchanged, and no register and no byte of memory changes. POWER_TOKEN_FRAME completes when a frame has ended and
moves only the ring and the gap of its die to the setting in force. (R202, R201, R205, R206, R203, R352, R187, R189,
R204) -/
def Obligations.MatrixPassesRun : Prop :=
  ∀ (s : State) (qs : Nat),
    let x := s.engine qs
    (x.pass = none → s.slotStops qs = false → s.hasToken (qs / 4) = true →
      s.now ≤ (NMap.getD s.rings (qs / 4 / 16) (0, 8)).1 * 4096 + 4064 → (∃ r ∈ x.table, x.eligible r = true ∧ s.crewStops r.q r.slot = false) →
      ∃ t r, exec (.passGrant qs) s = .next t ∧ r ∈ x.table ∧ x.eligible r = true ∧ s.crewStops r.q r.slot = false ∧
        (∀ o ∈ x.table, x.eligible o = true → s.crewStops o.q o.slot = false → o.effPrio ≤ r.effPrio) ∧
        (t.engine qs).pass = some (r, s.now + 32) ∧ (∀ o, o ∈ (t.engine qs).table ↔ o ∈ x.table ∧ o.age ≠ r.age) ∧
        (t.engine qs).acc = x.acc ∧ (t.engine qs).holder = x.holder ∧ t.mem = s.mem ∧ t.quads = s.quads) ∧
    (∀ r e, x.pass = some (r, e) → e ≤ s.now →
      ∃ t, exec (.passEnd qs) s = .next t ∧ (t.engine qs).pass = none ∧ (t.engine qs).table = x.table ∧
        (t.engine qs).holder = x.holder ∧ t.mem = s.mem ∧ t.quads = s.quads ∧
        (∀ z, z < 512 * r.k ∨ 512 * (r.k + 8) ≤ z → NMap.get? (t.engine qs).acc z = NMap.get? x.acc z) ∧
        ∀ g c m n, s.group? r.q r.slot = some g → s.crew? r.q g = some c → m < 64 → n < 64 →
          rowDirty r.dirty r.a (blkSize r.blka) m = false → rowDirty r.dirty r.b (blkSize r.blkb) n = false →
          let old := if r.clr then 0#32 else NMap.getD x.acc (512 * r.k + 64 * m + n) 0#32
          ∃ new, NMap.get? (t.engine qs).acc (512 * r.k + 64 * m + n) = some new ∧
            (r.fmt = .s8 → (new.toNat : Int) = ((old.toNat : Int) + ((List.range 128).map (fun k =>
              (c.byte (tileByte r.a m k)).toInt * (c.byte (tileByte r.b n k)).toInt)).sum) % 2 ^ 32) ∧
            (∀ fa fb, mmaFmts r.fmt = some (fa, fb) →
              let count := 1024 / fa.width
              let side := fun (base row : Nat) (blk : Blk) (i : Nat) =>
                (c.byte (sidecarRow base row + (if count ≤ blkSize blk then 0 else i / blkSize blk))).toNat
              let whole := fun (f : FFmt) (base row : Nat) (blk : Blk) => ∀ i, i < count → FloatFinite f (c.elem base row f.width i) ∧
                (blk ≠ .none → side base row blk i ≠ 255)
              let val := fun (f : FFmt) (base row : Nat) (blk : Blk) (mx : Bool) (i : Nat) => floatVal f (c.elem base row f.width i) *
                (if blk = .none then 1 else 2 ^ ((side base row blk i : Int) - 127) *
                  (if mx = true ∧ (c.byte (sidecarRow base row + 16 + i / 16)).getLsbD (i / 2 % 8) = true then 1 / 2 else 1))
              whole fa r.a m r.blka → whole fb r.b n r.blkb →
              ∃ run : Nat → Word, new = (List.range (count / 16)).foldl (fun acc j => (faddW acc (run j)).1) old ∧
                ∀ j, j < count / 16 → RoundsTo fF32 .rn (run j).toNat ((List.range 16).map (fun i =>
                  val fa r.a m r.blka r.mxa (16 * j + i) * val fb r.b n r.blkb r.mxb (16 * j + i))).sum)) ∧
    (∀ die, s.powered = true → (NMap.getD s.rings die (0, 8)).1 < s.now / 4096 →
      ∃ rs gs, exec (.powerTokenFrame die) s = .next { s with rings := rs, gaps := gs } ∧
        NMap.get? rs die = some ((NMap.getD s.rings die (0, 8)).1 + 1, s.tokensSet) ∧ NMap.get? gs die = some s.gapSet ∧
        ∀ o, o ≠ die → NMap.get? rs o = NMap.get? s.rings o ∧ NMap.get? gs o = NMap.get? s.gaps o)

/-- TLD of an aligned readable capability sends one request for 32 bytes and stands; with the answer it writes the eight
words into its descriptor and completes. TCOPY of a descriptor that passes R194, in the scratchpad, TSTORE of one on
which the group has no other copy, and COPY of two capabilities that pass R229 with a length that is a multiple of 4
and a gate in the scratchpad, complete, in every form: one job of the group for exactly this copy stands last in the
copy quarter of the slot, with nothing of it done, and counts as one operation on cpy; none does when there is nothing
to copy, and a COPY of no byte with a gate sends its completion to the bank of the gate at once. No register, no
descriptor and no byte of memory changes. Behind an earlier copy of its own jet on the descriptor a TCOPY waits in the
copy quarter (DESIGN CHOICE, log 90). A descriptor that R194 refuses raises 0x02 with its number in s58; a length that
is no multiple of 4 raises 0x02 with s58 = 2; in an open loop the three raise 0x0D. That a descriptor with GEN = 0
passes whatever its gate address is (R97) is the choice of the model (log 64, DESIGN CHOICE): R194 and R392 name no
such condition. (R192, R193, R194, R195, R197, R199, R299, R300, R392, R393, R398) -/
def Obligations.CopiesArePosted : Prop :=
  ∀ (s : State) (g : Group) (gd : Guard) (k : BitVec 3) (form : TcopyForm) (cap : BitVec 8) (ofs : Word)
    (dst : BitVec 6) (src : BitVec 8) (len : USel) (gate : Option (BitVec 15)) (c cd : DWord),
    let q := s.cur.1
    let slot := s.cur.2
    let x := s.engine (slotOf q)
    let own := g.owner q slot
    let d := tileOf (g.getT k.toNat)
    let n := (uAt g len).toNat
    let ga := gate.map (fun a => 8 * a.toNat)
    let tld : Instr := .tld k cap ofs
    let tcopy : Instr := .tcopy gd k form
    let tstore : Instr := .tstore k
    let copy : Instr := .copy dst src len gate
    let m := guardMask g gd
    let sels := match form with
      | .strided => []
      | .gather a b => [a, b]
    let gather := match form with
      | .strided => none
      | .gather a b => some (lanesOf (selAt g a), lanesOf (selAt g b))
    let job := fun (kind : CopyKind) (tn : Nat) (mk : Mask) (a : List Nat) => (
      { id := s.nextId + 1, owner := own, kind := kind, t := tn, mask := mk, flight := s.nextId, suspended := false, done := 0, sent := 0, writes := [],
        after := a, asks := [], got := [], kept := [], parked := none, freed := [], bad := none, gated := false, byHandler := g.handler } : CopyJob)
    let posted := fun (kind : CopyKind) (tn : Nat) (mk : Mask) (t : State) (h : Group) =>
      (∃ a, (t.engine (slotOf q)).copies = x.copies ++ [job kind tn mk a]) ∧ ∃ f ∈ h.flights, f.id = s.nextId ∧ f.path = .cpy ∧ f.ops = 1
    let nothing := fun (t : State) => (t.engine (slotOf q)).copies = x.copies
    let looped := fun (i : Instr) => ∃ t, t.code = 0x0D ∧ t.s59 = some 3#32 ∧ Raises s i g t
    (Issues s tld g → (∀ ws, g.wait ≠ .answer ws) → g.orders = [] → capPair g cap = some c → s.copyFree q slot g k.toNat = true →
      checkAccess (s.basin g.basin) c ((capOfs c : Int) + ofs.toInt) 32 32 Rights.r = .ok () →
      GroupAfter (exec tld s) q slot (fun t h => t.mem = s.mem ∧ h.t = g.t ∧ h.v = g.leaveJet.v ∧ h.s = g.s ∧ h.pc = g.pc ∧ h.jet = none ∧
        h.wait = .request s.nextId ∧ ∃ r, t.req? s.nextId = some r ∧ r.owner = own ∧ r.dev = capDev c ∧ r.obj = capObj c ∧
          r.line = ((capOfs c : Int) + ofs.toInt).toNat / 128 ∧ r.kind = .load .ld 32 0 [(0, ((capOfs c : Int) + ofs.toInt).toNat)] .normal true false)) ∧
    (∀ ws, Issues s tld g → g.wait = .answer ws → capPair g cap = some c →
      ∃ v : BitVec 256, Runs s tld g (g.setT k.toNat v) .none [] 0#5 (g.pc + instrLen tld) ∧
        ∀ i, i < 8 → v.extractLsb' (32 * i) 32 = ws.getD i 0#32) ∧
    (Issues s tcopy g → (∀ y ∈ sels, selOk g y = true) →
      (g.inLoop = true → looped tcopy) ∧
      (g.inLoop = false →
        (d.ok = false → Raises s tcopy g (Trap.own 0x02 k.toNat 0)) ∧
        (∀ a, d.ok = true → d.spBad (s.crew? q g) = some a → ∃ t, t.code = 0x06 ∧ t.s59 = some 3#32 ∧ Raises s tcopy g t) ∧
        (d.ok = true → d.spBad (s.crew? q g) = none → AccessRuns s tcopy g sels (fun t h =>
          (m ≠ 0#32 → d.cursor ≠ d.rows → posted (.tcopy gather) k.toNat m t h) ∧ (m = 0#32 ∨ d.cursor = d.rows → nothing t))))) ∧
    (Issues s tstore g → (g.inLoop = true → looped tstore) ∧
      (g.inLoop = false → g.orders = [] → s.copyIdle q slot g k.toNat = true →
        (d.ok = false ∨ d.fmt = 7 → Raises s tstore g (Trap.own 0x02 k.toNat 0)) ∧
        (d.ok = true → d.fmt ≠ 7 → d.spBad (s.crew? q g) = none → s.applied q slot = true → AccessRuns s tstore g [] (fun t h =>
          (d.cursor ≠ d.rows → posted .tstore k.toNat 1#32 t h) ∧ (d.cursor = d.rows → nothing t))))) ∧
    (Issues s copy g → capPair g src = some c → capPair g (dst.setWidth 8) = some cd → (g.inLoop = true → n % 4 = 0 → looped copy) ∧
      (n % 4 ≠ 0 → Raises s copy g (Trap.own 0x02 2 0)) ∧
      (g.inLoop = false → n % 4 = 0 → g.orders = [] → checkAccess (s.basin g.basin) c (capOfs c) n 4 Rights.r = .ok () →
        checkAccess (s.basin g.basin) cd (capOfs cd) n 4 Rights.w = .ok () →
        (∀ a, ga = some a → ∃ y, s.crew? q g = some y ∧ y.spOk a 8 = true) →
        AccessRuns s copy g [] (fun t h => (n ≠ 0 → posted (.copy cd c n ga) 0 1#32 t h) ∧ (n = 0 → nothing t ∧
          ∀ a, ga = some a → ∃ y r j, t.quad? q = some y ∧ r ∈ y.bank (a / 8 % 16) ∧ r.slot = slot ∧ r.word = a / 8 ∧ r.op = .gate a 0 j))))

/-- For a copy that no halt, suspension, parked extent, earlier TCOPY on the descriptor or entry of the outbound queue
holds back. A tile copy with all rows done, whose gate has been reached, leaves the quarter. A TCOPY row that its mask
leaves out counts with nothing copied; one whose check passes and whose memory is at hand completes: each byte of the
tile row in the scratchpad becomes the byte of the memory row expanded by the format of the descriptor, and the row
counts. Rows or lines of a peer are asked for first, one request a line. A TSTORE row sends write requests that carry
exactly its bytes and its scales, and counts when they are over. A row that counts raises CURSOR by one; with a gate
its bytes enter the queue of the bank of the gate, without one the last row ends the copy. A COPY line sends one write
request with the bytes of the source, open only where the ranges overlap, with lower lines of a destination here still
to be written; a COPY with every byte written first sends its completion to its gate and then leaves. A copy that has
met a data error, or whose next row fails its check, is suspended, and its group has one more notice, 0x0A or the code
of the check. Memory changes in none of these steps. That rows and lines of a peer are asked for one request a line is
read from R134 (log 38, DEDUCED), and a line of a peer is written before the next goes out (log 97, DESIGN CHOICE);
that a row of a reloaded descriptor is made without the checks of R194 (log 65) and a line of a resumed COPY without
those of R229 (log 85) are choices of the model. (R196, R197, R198, R199, R200, R300, R301, R188, R191) -/
def Obligations.CopyRowsAndLinesAdvance : Prop :=
  ∀ (s : State) (ix : Nat) (c : CopyJob) (g : Group),
    let q := c.owner.q
    let slot := c.owner.slot
    let qs := slotOf q
    (s.engine qs).copies[ix]? = some c → s.ownerGroup? c.owner = some g → c.suspended = false → s.copyStops qs c = false → c.after = [] →
    s.copyParked c = false → (c.kind.isTcopy = true → s.copyQueued qs c = false) →
    let u := s.leavePark c
    let t := tileOf (g.getT c.t)
    let b := g.basin
    let dev := capDev t.mcap
    let obj := capObj t.mcap
    let row := fun (gather : Option (Lanes × Lanes)) => (t.pieces gather t.cursor).map (fun p => (p.1.toNat, p.2.1))
    let memRow := fun (gather : Option (Lanes × Lanes)) => s.pieceBytes b dev obj (t.rowOfs gather t.cursor).toNat t.rowBytes c.got
    let gone := fun (t' : State) => ∀ j ∈ (t'.engine qs).copies, j.id ≠ c.id
    let gated := fun (t' : State) (a n : Nat) => ∃ y r, t'.quad? q = some y ∧ r ∈ y.bank (a / 8 % 16) ∧ r.slot = slot ∧ r.word = a / 8 ∧
      r.op = .gate a n c.id
    let counts := fun (t' : State) => t'.mem = s.mem ∧ (∃ h, t'.group? q slot = some h ∧ (tileOf (h.getT c.t)).cursor = t.cursor + 1) ∧
      (t.gen = false → t.rows ≤ t.cursor + 1 → gone t') ∧
      (t.gen = true → gated t' (8 * t.gadr) (128 + (if t.blk = 0 then 0 else 32)))
    let asked := fun (o : Out) (dev obj : Nat) (lines : List Nat) => ∃ (s2 : State) (j : CopyJob), o = .next s2.settle ∧ s2.mem = s.mem ∧ j ∈ (s2.engine qs).copies ∧
      j.id = c.id ∧ j.asks = (List.range lines.length).map (fun i => s.nextId + i) ∧ ∀ i l, lines[i]? = some l → ∃ r, s2.req? (s.nextId + i) = some r ∧
        r.kind = .fetch ∧ r.owner = c.owner ∧ r.dev = dev ∧ r.obj = obj ∧ r.line = l
    let stops := fun (o : Out) (code : Nat) => g.retired = false → ∃ t' h n, o = .next t' ∧ t'.mem = s.mem ∧ t'.group? q slot = some h ∧
      h.notices = g.notices ++ [n] ∧ n.code = code ∧ n.job = some c.id ∧ ∀ j ∈ (t'.engine qs).copies, j.id = c.id → j.suspended = true
    let carried := fun (s2 : State) (ws : List Nat) (dev obj a : Nat) (v : Byte) => ∃ i ∈ ws, ∃ r bs, s2.req? i = some r ∧ r.kind = .copyWrite bs ∧
      r.owner = c.owner ∧ r.dev = dev ∧ r.obj = obj ∧ r.line = a / 128 ∧ NMap.get? bs a = some v
    (∀ gather, c.kind = .tcopy gather → c.bad = none → t.cursor < t.rows → t.rows ≤ 64 →
      (rowTaken gather c.mask t.cursor = false → ∃ t', exec (.copyRow qs ix) s = .next t' ∧ counts t' ∧
        ∀ y, s.crew? q g = some y → ∃ z, t'.crew? q g = some z ∧ z.sp = y.sp) ∧
      (rowTaken gather c.mask t.cursor = true →
        (∀ e, t.rowCheck (s.basin b) gather Rights.r t.cursor = some e → stops (exec (.copyRow qs ix) s) e.code) ∧
        (t.rowCheck (s.basin b) gather Rights.r t.cursor = none →
          (∀ ls, u.copySource c b dev obj (row gather) = .ask ls → asked (exec (.copyRow qs ix) s) dev obj ls) ∧
          (∀ s1 y, u.copySource c b dev obj (row gather) = .ok s1 → s.crew? q g = some y →
            ∃ t', exec (.copyRow qs ix) s = .next t' ∧ counts t' ∧ ∃ z, t'.crew? q g = some z ∧
              ∀ k, k < 128 → z.byte (tileByte t.base t.cursor k) = (t.expand (memRow gather)).getD k 0#8)))) ∧
    (c.kind = .tstore → c.bad = none → c.writes = [] → t.cursor < t.rows →
      (c.done = 1 → ∃ t', exec (.copyRow qs ix) s = .next t' ∧ counts t') ∧
      (c.done ≠ 1 → (∀ e, t.rowCheck (s.basin b) none Rights.w t.cursor = some e → stops (exec (.copyRow qs ix) s) e.code) ∧
        (∀ y, t.ok = true → t.fmt ≠ 7 → t.rowCheck (s.basin b) none Rights.w t.cursor = none →
          (dev = devHere → u.copyBehind c ((pieceLines (row none)).map (lineKey b obj)) = false) →
          (∀ p ∈ row none, u.pieceMeets c.id b dev obj p.1 p.2 (dieOf q) true ≠ .absent) → s.crew? q g = some y →
          ∃ (s2 : State) (j : CopyJob), exec (.copyRow qs ix) s = .next s2.settle ∧ s2.mem = s.mem ∧ s2.settle.mem = s.mem ∧ j ∈ (s2.engine qs).copies ∧ j.id = c.id ∧
            j.done = 1 ∧ j.writes ≠ [] ∧
            (∀ k v, (t.shrink ((List.range 128).map (fun k => y.byte (tileByte t.base t.cursor k))))[k]? = some v →
              carried s2 j.writes dev obj ((t.rowOfs none t.cursor).toNat + k) v) ∧
            (t.blk ≠ 0 → ∀ k, k < t.scaleBytes + t.mxBytes → carried s2 j.writes dev obj ((t.scaleOfs t.cursor).toNat + k)
              (y.byte (sidecarRow t.base t.cursor + (if k < t.scaleBytes then k else 16 + (k - t.scaleBytes)))))))) ∧
    ((∀ d x n a, c.kind ≠ .copy d x n a) → c.bad = none → t.rows ≤ t.cursor → s.gatePending c = false →
      ∃ t', exec (.copyRow qs ix) s = .next t' ∧ t'.mem = s.mem ∧ gone t') ∧
    (∀ n side, c.bad = some (n, side) → ((∀ d x n a, c.kind ≠ .copy d x n a) → stops (exec (.copyRow qs ix) s) 0x0A) ∧
      (∀ d x n a, c.kind = .copy d x n a → c.writes = [] → stops (exec (.copyLine qs ix) s) 0x0A)) ∧
    (∀ dst src len gate, c.kind = .copy dst src len gate → c.bad = none →
      (len ≤ c.sent → c.writes = [] → s.gatePending c = false →
        (gate = none ∨ c.gated = true → ∃ t', exec (.copyLine qs ix) s = .next t' ∧ t'.mem = s.mem ∧ gone t') ∧
        (∀ a, gate = some a → c.gated = false → ∃ t', exec (.copyLine qs ix) s = .next t' ∧ t'.mem = s.mem ∧ gated t' a len ∧
          ∀ j ∈ (t'.engine qs).copies, j.id = c.id → j.gated = true)) ∧
      (let a := capOfs dst + c.sent
       let sa := capOfs src + c.sent
       let n := min (128 - a % 128) (len - c.sent)
       c.sent < len →
       (∀ ls, u.copySource c b (capDev src) (capObj src) ((sa, n) :: copyAhead c dst src len n) = .ask ls → asked (exec (.copyLine qs ix) s) (capDev src) (capObj src) ls) ∧
       (∀ s1, u.copySource c b (capDev src) (capObj src) ((sa, n) :: copyAhead c dst src len n) = .ok s1 →
         (capDev dst = devHere → u.copyBehind c ((pieceLines [(a, n)]).map (lineKey b (capObj dst))) = false) →
         u.pieceMeets c.id b (capDev dst) (capObj dst) a n (dieOf q) true ≠ .absent →
         (capDev dst = devHere ∨ c.writes = []) →
         ∃ (s2 : State) (w : Nat) (v : Nat → Byte), exec (.copyLine qs ix) s = .next s2.settle ∧ s2.mem = s.mem ∧ s2.settle.mem = s.mem ∧
           (∃ j ∈ (s2.engine qs).copies, j.id = c.id ∧ j.writes = c.writes ++ [w] ∧ j.done = c.done ∧ j.sent = c.sent + n) ∧
           ∀ i, i < n → carried s2 [w] (capDev dst) (capObj dst) (a + i) (v i) ∧ (copyOverlaps dst src len (a + i) = false →
             v i = NMap.getD c.kept (sa + i) ((s.pieceBytes b (capDev src) (capObj src) sa n c.got).getD i 0#8)))))

/-- OWBEGIN that passes its checks writes the record (capability, length, N, batch 0, granule, depth, no active lane),
clears the mantle and opens the loop at the following OWFOOT. OWFOOT at that address, with declared offsets inside the
region, pushes em and makes active exactly the lanes of the batch that declare a cell which the mantle does not hold
and no lower lane of the batch declares; D gets the iteration numbers. OWNEXT at the right depth adds the cells that
active lanes own to the mantle, raises the batch, restores em and goes back while iterations remain, else closes the
loop. Each completes, in a handler too; outside a handler, without an open loop, OWFOOT before a TRAIL and OWNEXT
raise 0x0D. No byte of memory changes. That OWBEGIN leaves no active lane in A is the choice of the model (log 72,
DESIGN CHOICE): R214 and R216 give A no value there. That OWBEGIN runs in a handler over the loop that it interrupted,
whose walker then is the new one, is read from R220 (log 28, DEDUCED). What OWFOOT and OWNEXT do in a handler without
an open loop is the choice of the model (log 87, DESIGN CHOICE) and not stated here. (R213, R214, R216, R217, R218,
R221, R363) -/
def Obligations.OverwritingLoopsRun : Prop :=
  ∀ (s : State) (g : Group) (x : Crew) (cr : BitVec 6) (cap : BitVec 8) (len : USel) (gran : Gran) (d : BitVec 7) (sels : List Sel) (lp : OpenLoop),
    let q := s.cur.1
    let slot := s.cur.2
    let w := x.walker lp.m
    let kept := fun (t : State) (h : Group) => t.mem = s.mem ∧ h.v = g.v ∧ h.s = g.s ∧ h.p = g.p ∧ h.h = g.h ∧ h.status = g.status ∧ h.wait = .none
    s.crew? q g = some x → g.orders = [] → s.crewIdle q g = true →
    (∀ c, let m := (g.getS (cr.toNat + 1)).toNat
      let l := (uAt g len).toNat
      let gs := 4 * 2 ^ granCode gran
      Issues s (.owbegin cr cap len gran) g → capPair g cap = some c → cr.toNat % 2 = 0 → g.em = Mask.all → g.inLoop = false → g.stack.length < 32 →
      l ≠ 0 → l % gs = 0 → capOfs c % gs = 0 → checkAccess (s.basin g.basin) c (capOfs c) l 1 Rights.w = .ok () → l / gs ≤ 262144 →
      m % 8 = 0 → m + walkerSize (l / gs) ≤ x.scr * 1024 →
      (∃ f, s.fetchWord g (g.pc + 8) = .ok f ∧ (W1.ofWord f).s = false ∧ (W1.ofWord f).x = true ∧ (W1.ofWord f).op.toNat = 0x26) →
      GroupAfter (exec (.owbegin cr cap len gran) s) q slot (fun t h => kept t h ∧ h.em = g.em ∧ h.stack = g.stack ∧
        h.pc = g.pc + instrLen (.owbegin cr cap len gran) ∧ h.loop = some { m := m, b := g.pc + 8 } ∧
        ∃ y, t.crew? q g = some y ∧
          y.walker m = { cap := c, len := l, n := (g.getS cr.toNat).toNat, k := 0, gran := gs, depth := g.stack.length, active := 0#32 } ∧
          (∀ e, e < l / gs → y.mantle m e = false) ∧ (∀ a, a < m ∨ m + walkerSize (l / gs) ≤ a → y.byte a = x.byte a))) ∧
    (let cells := fun (l : Nat) => sels.map (fun y => (selAt g y l).toNat / w.gran)
     Issues s (.owfoot d sels) g → g.vOk d.toNat = true → (∀ y ∈ sels, selOk g y = true) → sels.length ≤ 4 → s.trailAt g (g.pc + 8) = true →
      g.loop = some lp → g.pc = lp.b → g.stack.length < rejoinMax →
      (∀ l, l < 32 → 0 ≤ w.iter l → ∀ y ∈ sels, (selAt g y l).toNat < w.len) →
      GroupAfter (exec (.owfoot d sels) s) q slot (fun t h => kept t h ∧ h.pc = g.pc + instrLen (.owfoot d sels) ∧ h.loop = g.loop ∧
        h.stack = { pending := false, mask := g.em, addr := lp.b } :: g.stack ∧
        (∀ l, l < 32 → (h.em.getLsbD l = true ↔ 0 ≤ w.iter l ∧ ∃ e ∈ cells l, x.mantle lp.m e = false ∧
          ∀ k, k < l → 0 ≤ w.iter k → e ∉ cells k)) ∧
        (∃ m out, h.jet.map (fun j => j.pend) = some (g.jetOr.pend ++ [.v d.toNat m out]) ∧ ∀ l, l < 32 →
          m.getLsbD l = decide (0 ≤ w.iter l) ∧ (0 ≤ w.iter l → Lanes.at out l = BitVec.ofInt 32 (w.iter l))) ∧
        ∃ y, t.crew? q g = some y ∧ (y.walker lp.m).active = h.em ∧ ∀ a, a < lp.m + 0x18 ∨ lp.m + 0x230 ≤ a → y.byte a = x.byte a)) ∧
    (∀ e rest, Issues s .ownext g → g.loop = some lp → g.stack = e :: rest → g.stack.length = w.depth + 1 →
      let k := (w.k + 1) % 2 ^ 32
      GroupAfter (exec .ownext s) q slot (fun t h => kept t h ∧ h.stack = rest ∧ h.em = e.mask ∧
        (32 * k < w.n → h.pc = lp.b ∧ h.loop = g.loop) ∧ (w.n ≤ 32 * k → h.pc = g.pc + instrLen .ownext ∧ h.loop = none) ∧
        ∃ y, t.crew? q g = some y ∧ y.walker lp.m = { w with k := k } ∧
          ∀ z, y.mantle lp.m z = true ↔ x.mantle lp.m z = true ∨ ∃ l j, l < 32 ∧ j < 4 ∧ w.active.getLsbD l = true ∧
            x.owns lp.m l j = true ∧ (x.cells lp.m l)[j]? = some z ∧ z ≠ noCell)) ∧
    (∀ i : Instr, i = .ownext ∨ (i = .owfoot d sels ∧ g.vOk d.toNat = true ∧ (∀ y ∈ sels, selOk g y = true) ∧ s.trailAt g (g.pc + 8) = true) →
      Issues s i g → g.handler = false → g.loop = none → ∃ t, t.code = 0x0D ∧ Raises s i g t)

/-- LAUNCH outside an open loop, after its release: with the ring full d is 0xFFFFFFFF and nothing else changes but the
pc; else it sends one read of its record and stands. With the record there: when the ring is full by then as before;
while the ring entry lies in an absent extent a request parks there for it and it stands; else d is the old tail, TAIL
rises by one, no other register changes, and the ring entry holds the record where the ring can be written, no other
byte changing. COLL with a bad length raises 0x02 where the header of its slot is refused or at hand. COLL after its
release, with a slot that passes its checks and all at hand, puts its bytes into its own area of the slot, sends them
in store requests to every other member on another device, adds its rank to the arrivals and stands with the cycle,
the slot, the length and the operation. COLL_COMBINE with every rank arrived completes: for one waiting group the
result area holds the combination of the contributions; SEQ rises by one, and the group may go on; its COLL then
completes. COLL_WATCHDOG completes when the watchdog has expired: the group has one 0x14 notice more and waits no
longer. In an open loop LAUNCH and COLL raise 0x0D. What LAUNCH does while its ring cannot be written is read from
R239 and R342 (log 47, DEDUCED); that a bad length of COLL comes before its accesses and all its checks before its
release is read from R297 and R298 (log 48, DEDUCED). (R342, R24, R274, R296, R297, R298) -/
def Obligations.LaunchAndCollectivesRun : Prop :=
  ∀ (s : State) (g : Group) (d : BitVec 6) (cap : BitVec 8) (src : BitVec 6) (len : USel) (op : CollOp) (ty : Ty3) (c cs : DWord),
    let q := s.cur.1
    let slot := s.cur.2
    let b := g.basin
    let w := (s.basin b).win
    let e := w.entry w.tail
    let n := (uAt g len).toNat
    let own := g.owner q slot
    let la : Instr := .launch d cap
    let co : Instr := .coll src cap len op ty
    let kept := fun (h k : Group) => h.v = k.v ∧ h.p = k.p ∧ h.h = g.h ∧ h.s = g.s ∧ h.em = g.em ∧ h.stack = g.stack ∧ h.status = g.status
    let looped := fun (i : Instr) => ∃ t, t.code = 0x0D ∧ t.s59 = some 3#32 ∧ Raises s i g t
    capPair g cap = some c →
    (Issues s la g → g.inLoop = true → looped la) ∧
    (∀ k, Issues s la g → g.inLoop = false → g.wait = .stage k → checkAccess (s.basin b) c (capOfs c) 64 64 Rights.r = .ok () →
      (w.full = true → UniRuns s la g d 0xFFFFFFFF#32) ∧
      (w.full = false → GroupAfter (exec la s) q slot (fun t h => kept h g.leaveJet ∧ t.mem = s.mem ∧ h.pc = g.pc ∧ h.jet = none ∧
        h.wait = .request s.nextId ∧ ∃ r, t.req? s.nextId = some r ∧ r.owner = own ∧ r.dev = capDev c ∧ r.obj = capObj c ∧ r.line = capOfs c / 128 ∧
          r.kind = .load .ld 64 0 [(0, capOfs c)] .normal true false))) ∧
    (∀ ws, Issues s la g → g.inLoop = false → g.wait = .answer ws → (w.full = true → UniRuns s la g d 0xFFFFFFFF#32) ∧
      (w.full = false → s.sliceMay b e 64 Rights.w = true → s.custMeets b e 64 true = .absent →
        GroupAfter (exec la s) q slot (fun t h => kept h g.leaveJet ∧ t.mem = s.mem ∧ h.pc = g.pc ∧ h.jet = none ∧ h.wait = .until (.answered s.nextId) ∧
          (t.basin b).win = w ∧ ∃ r, t.req? s.nextId = some r ∧ r.owner = own ∧ r.obj = capObj e ∧ r.st = .parked)) ∧
      (w.full = false → (s.sliceMay b e 64 Rights.w = true → s.custMeets b e 64 true ≠ .wait ∧ s.custMeets b e 64 true ≠ .absent) →
        GroupAfter (exec la s) q slot (fun t h => h.v = g.v ∧ h.p = g.p ∧ h.h = g.h ∧ h.em = g.em ∧ h.stack = g.stack ∧ h.status = g.status ∧ h.pc = g.pc + instrLen la ∧ h.wait = .none ∧ h.getS d.toNat = BitVec.ofNat 32 w.tail ∧
          (∀ r, r ≠ d.toNat → h.getS r = g.getS r) ∧ (t.basin b).win.tail = (w.tail + 1) % 2 ^ 16 ∧
          (let writes := s.sliceMay b e 64 Rights.w = true ∧ s.custMeets b e 64 true = .ok ∧ capDev e = devHere
           (¬ writes → t.mem = s.mem) ∧ (writes → ws.length = 16 →
             (∀ i, i < 64 → t.readByte (memKey b (capObj e) (capOfs e + i)) = BitVec.ofNat 8 ((ws.getD (i / 4) 0#32).toNat / 256 ^ (i % 4))) ∧
             ∀ z, (∀ i, i < 64 → memKey b (capObj e) (capOfs e + i) ≠ z) → t.readByte z = s.readByte z))))) ∧
    (Issues s co g → capPair g (src.setWidth 8) = some cs → g.inLoop = true → looped co) ∧
    (Issues s co g → (capPair g (src.setWidth 8)).isSome = true → g.inLoop = false → g.wait = .none → collLenBad n = true →
      checkAccess (s.basin b) c (capOfs c) 0x40 1 Rights.none ≠ .ok () ∨ capDev c ≠ devHere ∨ s.custMeets b c 0x40 false = .ok →
      ∃ t, t.code = 0x02 ∧ Raises s co g t) ∧
    (∀ k, let m := s.slotMembers b c
      let p := (s.slotNum b c 0 8 + 1) % 2
      let rank := s.slotRank b c
      let mine := capPlus c (slotArea rank p)
      Issues s co g → g.inLoop = false → capPair g (src.setWidth 8) = some cs → g.wait = .stage k → capDev c = devHere →
      checkAccess (s.basin b) c (capOfs c) 0x40 1 Rights.rw = .ok () → s.custMeets b c 0x840 false = .ok → s.collCheck b c cs n = .ok () →
      s.custMeets b cs n false = .ok → s.custMeets b mine n true = .ok → (s.basin b).mayTrack c = true →
      ∃ (s2 : State) (v : Nat → Byte), exec co s = .next ((s2.settle.modGroup q slot (fun h => h.stand g (.coll s.custCycle c n op ty))).freeIssue q false) ∧
        (∃ h, s2.group? q slot = some h ∧ kept h g ∧ h.pc = g.pc) ∧ rank ∈ (s2.basin b).arrivals c p ∧
        (capDev cs = devHere → ∀ i, i < n → v i = s.readByte (memKey b (capObj cs) (capOfs cs + i))) ∧
        (∀ i, i < n → s2.readByte (memKey b (capObj c) (capOfs c + slotArea rank p + i)) = v i) ∧
        (∀ r, r < m → r ≠ rank → s.slotPeer b c r ≠ devHere → ∀ i, i < n → ∃ (id : Nat) (z : Req) (bs : NMap Byte), s2.req? id = some z ∧ z.owner = own ∧ z.st = .held ∧
          z.dev = s.slotPeer b c r ∧ z.obj = capObj c ∧ z.kind = .store false bs ∧ NMap.get? bs (capOfs c + slotArea rank p + i) = some (v i))) ∧
    (∀ ws, Issues s co g → g.inLoop = false → (capPair g (src.setWidth 8)).isSome = true → g.wait = .answer ws →
      GroupAfter (exec co s) q slot (fun t h => kept h g ∧ h.wait = .none ∧ h.pc = g.pc + instrLen co ∧ t.mem = s.mem)) ∧
    (∀ q' slot' h since l o y, s.group? q' slot' = some h → h.wait = .coll since c l o y →
      (let m := s.slotMembers h.basin c
       let seq := s.slotNum h.basin c 0 8
       let p := (seq + 1) % 2
       (∀ r, r < m → r ∈ (s.basin h.basin).arrivals c p) → s.custMeets h.basin c (slotResult m + 4096) true = .ok → capDev c = devHere →
       l ≤ 4096 → capOfs c + slotResult m + 4096 ≤ 2 ^ 40 →
       ∃ t z, exec (.collCombine q' slot') s = .next t ∧ t.group? q' slot' = some z ∧ z.wait = .answer [] ∧ z.v = h.v ∧ z.s = h.s ∧ z.pc = h.pc ∧
         t.slotNum h.basin c 0 8 = (seq + 1) % 2 ^ 64 ∧ ((s.collWaiters h.basin c).length ≤ 1 →
           ∀ i v, (s.collResult h.basin c m p l o y)[i]? = some v → t.readByte (memKey h.basin (capObj c) (capOfs c + slotResult m + i)) = v)) ∧
      (since + (s.basin h.basin).watchdog < s.custCycle →
       ∃ t z, exec (.collWatchdog q' slot') s = .next t ∧ t.mem = s.mem ∧ t.group? q' slot' = some z ∧ z.wait = .none ∧
         (h.retired = false → ∃ f, z.notices = h.notices ++ [f] ∧ f.code = 0x14 ∧ f.s58 = c.setWidth 32 ∧ f.s59 = c.extractLsb' 32 32)))

/-- Outside a handler FWCALL and EXTMAP raise 0x13. In a handler EXTMAP of an offset within an object completes: d is 3
for an object of a peer, one that is not first-touch or an extent that is there; 4 when the pool of the basin has no
extent; else 0, and the entry is valid and names the extent taken from the pool, which now belongs to the object; the
extent reads 0, no other byte, entry or register changes. FWCALL, with a block that it may read and write, stands
until the orders of its release are met; after it, it hands a known function with its block to the custodian and
stands waiting for it, and an unknown one has status 1; with the status there it writes d and completes. (R240, R305,
R234, R323) -/
def Obligations.HandlerInstructionsAreGuarded : Prop :=
  ∀ (s : State) (g : Group) (d : BitVec 6) (cap : BitVec 8) (fn : BitVec 8) (ofs : Word) (c : DWord),
    let q := s.cur.1
    let slot := s.cur.2
    let b := g.basin
    let fw : Instr := .fwcall d cap fn
    let em : Instr := .extmap d cap ofs
    let kept := fun (h : Group) => h.v = g.v ∧ h.p = g.p ∧ h.h = g.h ∧ h.em = g.em ∧ h.stack = g.stack ∧ h.handler = g.handler
    let f : Int := (capOfs c : Int) + ofs.toInt
    let k := extKey b (capObj c) (f.toNat / 65536)
    let ft := capDev c = devHere ∧ ∃ o, NMap.get? (s.basin b).objs (capObj c) = some o ∧ o.ft = true
    let pool := s.pickExt b (s.extDie b (capObj c) (f.toNat / 65536))
    let gives := fun (st : Word) (P : State → Prop) => GroupAfter (exec em s) q slot (fun t h => kept h ∧ h.pc = g.pc + instrLen em ∧ h.wait = .none ∧
      h.getS d.toNat = st ∧ (∀ r, r ≠ d.toNat → h.getS r = g.getS r) ∧ P t)
    let left := fun (h : Group) => h.v = g.leaveJet.v ∧ h.p = g.leaveJet.p ∧ h.h = g.h ∧ h.em = g.em ∧ h.stack = g.stack ∧ h.handler = g.handler
    let stands := fun (w : Wait) (t : State) (h : Group) => left h ∧ t.mem = s.mem ∧ h.s = g.s ∧ h.pc = g.pc ∧ h.jet = none ∧ h.wait = w
    let hands := fun (t : State) (h : Group) => (knownFn fn.toNat = true → stands .call t h ∧
        (t.basin b).calls = (s.basin b).calls ++ [{ fn := fn.toNat, fromGroup := some (g.owner q slot), block := c, held := none }]) ∧
      (knownFn fn.toNat = false → stands (.status 1#32) t h ∧ (t.basin b).calls = (s.basin b).calls)
    capPair g cap = some c →
    (Issues s em g → g.handler = false → Raises s em g (Trap.plain 0x13)) ∧
    (Issues s fw g → g.handler = false → Raises s fw g (Trap.plain 0x13)) ∧
    (Issues s em g → g.handler = true → checkAccess (s.basin b) c f 1 1 Rights.none = .ok () →
      (¬ ft ∨ (s.extent k).v = true → gives 3#32 (fun t => t.extents = s.extents ∧ t.mem = s.mem)) ∧
      (ft → (s.extent k).v = false → pool = none → gives 4#32 (fun t => t.extents = s.extents ∧ t.mem = s.mem)) ∧
      (∀ p, ft → (s.extent k).v = false → pool = some p → gives 0#32 (fun t => (t.extent k).v = true ∧ (t.extent k).chan = p.1 ∧ (t.extent k).idx = p.2 ∧
        (t.extent k).pz = false ∧ (t.extent k).fp = false ∧ (∀ e, e ≠ k → t.extent e = s.extent e) ∧
        NMap.get? t.phys (physKey p.1 p.2) = some (.mapped b (capObj c) (f.toNat / 65536)) ∧
        ∀ z, t.readByte z = if z / 65536 = k then 0#8 else s.readByte z))) ∧
    (Issues s fw g → g.handler = true → checkAccess (s.basin b) c (capOfs c) 64 64 Rights.rw = .ok () →
      (∀ n, g.wait = .stage n → GroupAfter (exec fw s) q slot hands) ∧
      ((g.wait = .none ∨ ∃ n, g.wait = .until n) → g.orders = [] →
        GroupAfter (exec fw s) q slot (fun t h => (stands (.stage 1) t h ∧ h.orders ≠ []) ∨ hands t h))) ∧
    (∀ st, Issues s fw g → g.handler = true → g.wait = .status st →
      GroupAfter (exec fw s) q slot (fun t h => kept h ∧ t.mem = s.mem ∧ h.pc = g.pc + instrLen fw ∧ h.wait = .none ∧ h.getS d.toNat = st ∧
        ∀ r, r ≠ d.toNat → h.getS r = g.getS r))

/-- A request at its home slice that nothing goes before, on a line that is mapped, free and at hand, performs.
STORE_PERFORM writes exactly the bytes that the request carries (a line of a COPY: where each lower one is going to
perform). ATOM_REQUEST of one element writes the result of the operation and answers the old value; of several, it
runs them in order, with one increment if any of them wrote; for SIGNAL it adds modulo 2^32. CASV_REQUEST of one lane
writes when value and version both match, and answers the old value and version; of several, each lane sees the line
as the lower ones left it. DEPOSIT_LANDING writes the combination of each element in order. VALSET_COMMIT, with every
line pinned or with the release under way, performs the lines of one slice: it unpins them and, if every version
matched and the set writes, writes the bytes of the lanes that no open loop suppresses and raises the versions of the
lines written by one; with the last slice the set has performed and answers. Every other performed write raises the
version of its line by one; a compare that fails raises nothing and writes nothing. No other byte and no other version
changes. (R102, R128, R163, R172, R123, R175, R177, R167) -/
def Obligations.WritesPerformAtTheirHome : Prop :=
  ∀ (s : State) (id : Nat) (rq : Req), s.req? id = some rq → id < s.nextId → rq.st = .sent → rq.dev = devHere →
    let b := rq.owner.basin
    let o := rq.obj
    let k := lineKey b o rq.line
    let die := s.homeDie b o rq.line (dieOf rq.owner.q)
    let ready := fun (full : Bool) => rq.after = [] ∧ s.homeMeets id b o rq.line die true full true = .ok ∧ (s.fillLine b o rq.line die).isSome = true
    let answered := fun (t : State) (ws : List (Nat × Nat × Word)) => ∃ z, t.req? id = some z ∧ z.st = .performed ∧ z.writes = ws ∧ z.err = rq.err
    let version := fun (t : State) (n : Word) => (t.line k).version = (s.line k).version + n ∧ ∀ j, j ≠ k → (t.line j).version = (s.line j).version
    let bytes := fun (t : State) (a n x : Nat) => (∀ i, i < n → t.readByte (memKey b o (a + i)) = BitVec.ofNat 8 (x / 256 ^ i)) ∧
      ∀ z, (∀ i, i < n → memKey b o (a + i) ≠ z) → t.readByte z = s.readByte z
    (∀ bs, rq.kind.storeBytes = some bs → NMap.sorted bs = true → (rq.kind.isCopy = true → s.copyMayWrite id rq = true) → ready (bs.length == 128) →
      ∃ t, exec (.storePerform id) s = .next t ∧ answered t rq.writes ∧ version t 1#32 ∧
        (∀ a v, NMap.get? bs a = some v → t.readByte (memKey b o a) = v) ∧
        (∀ z, (∀ a v, NMap.get? bs a = some v → memKey b o a ≠ z) → t.readByte z = s.readByte z)) ∧
    (∀ op ty d es, rq.kind = .atom op ty d es → ready false → ∃ t, exec (.atomRequest id) s = .next t ∧
      (let x := s.atomElems b o op ty d es
       answered t x.2.1 ∧ t.mem = x.1.mem ∧ version t (if x.2.2 then 1#32 else 0#32)) ∧ ∀ e, es = [e] →
        let n := atomBytes ty
        let old : DWord := BitVec.ofNat 64 (s.objNum b o e.ofs n)
        answered t (atomWrites ty d e.lane old) ∧ bytes t e.ofs n (atomNew op ty old e.data e.cmp).toNat ∧
        version t (if op = .cas ∧ old ≠ (if ty = .s64 then e.cmp else (e.cmp.setWidth 32).setWidth 64) then 0#32 else 1#32)) ∧
    (∀ v a, rq.kind = .signal true v a → ready false → ∃ t, exec (.atomRequest id) s = .next t ∧ answered t rq.writes ∧
      version t 1#32 ∧ bytes t a 4 ((s.objNum b o a 4 + v.toNat) % 2 ^ 32)) ∧
    (∀ wide d v es, rq.kind = .casv wide d v es → ready false → ∃ t, exec (.casvRequest id) s = .next t ∧
      (let x := s.casvElems b o rq.line die wide d v es
       answered t x.2 ∧ t.mem = x.1.mem ∧ ∀ j, (t.line j).version = (x.1.line j).version) ∧ ∀ e, es = [e] →
        let n := if wide then 8 else 4
        let old : DWord := BitVec.ofNat 64 (s.objNum b o e.ofs n)
        let hit := old = (if wide then e.cmp else (e.cmp.setWidth 32).setWidth 64) ∧ (s.line k).version = e.ver
        answered t ((if wide then [(d, e.lane, old.setWidth 32), (d + 1, e.lane, old.extractLsb' 32 32)] else [(d, e.lane, old.setWidth 32)])
          ++ [(v, e.lane, (s.line k).version)]) ∧
        (hit → bytes t e.ofs n e.data.toNat ∧ version t 1#32) ∧ (¬ hit → t.mem = s.mem ∧ version t 0#32)) ∧
    (∀ op ty es code s1, rq.kind = .dep op ty es → rq.after = [] → s.landing id rq true = .at_ code s1 →
      ∃ t, exec (.depositLanding id) s = .next t ∧ answered t rq.writes ∧ version t 1#32 ∧
        t.mem = (es.foldl (fun (x : State) e => x.putBytes b o (bytesAt e.ofs 4
          (depWord op ty (BitVec.ofNat 32 (x.objNum b o e.ofs 4)) (e.data.setWidth 32)).toNat)) s).mem ∧
        ∀ e, es = [e] → bytes t e.ofs 4 (depWord op ty (BitVec.ofNat 32 (s.objNum b o e.ofs 4)) (e.data.setWidth 32)).toNat) ∧
    (∀ w, rq.kind = .valset w → w.verdict ≠ none ∨ w.pins.length = w.lines.length → s.valsetLeft rq w ≠ [] → ∃ slice ∈ s.valsetLeft rq w,
      let mine := w.lines.filter (fun j => !w.done.contains j && s.sliceFor b (keyObj j) (keyLine j) (dieOf rq.owner.q) == slice)
      let ok := w.verdict.getD (w.holds b)
      ∃ t z v, exec (.valsetCommit id) s = .next t ∧ t.req? id = some z ∧ z.kind = .valset v ∧ v.verdict = some ok ∧
        v.done = w.done ++ mine ∧ v.elems = w.elems ∧ (∀ j ∈ mine, (t.line j).pin ≠ some id) ∧
        (if v.done.length = w.lines.length then z.st = .performed ∧ z.ok = ok ∧ v.quiet = w.quiet ∧ z.writes = v.dWrites b ∧ z.err = rq.err else z.st = .sent) ∧
        (ok = false ∨ w.write = false → t.mem = s.mem ∧ ∀ j, (t.line j).version = (s.line j).version) ∧
        (ok = true → w.write = true → mine.Nodup → (∀ j ∈ mine, j = lineKey b (keyObj j) (keyLine j)) →
          ∀ j, (t.line j).version = (s.line j).version + (if j ∈ mine ∧ Valset.lineBytes b w j ≠ [] then 1#32 else 0#32)) ∧
        (∀ e, ok = true → w.write = true → w.elems = [e] → e.lane ∉ w.quiet → e.ofs / 2 ^ 40 < 2 ^ 14 → e.ofs % 2 ^ 40 / 128 < 2 ^ 33 →
          let at_ := fun i => memKey b (e.ofs / 2 ^ 40) (e.ofs % 2 ^ 40 + i)
          lineKey b (e.ofs / 2 ^ 40) (e.ofs % 2 ^ 40 / 128) ∈ mine →
          (∀ i, i < (if w.wide then 8 else 4) → t.readByte (at_ i) = BitVec.ofNat 8 (e.data.toNat / 256 ^ i)) ∧
          ∀ z, (∀ i, i < (if w.wide then 8 else 4) → at_ i ≠ z) → t.readByte z = s.readByte z))

/-- READ_REQUEST and LDV_REQUEST of a line that is at hand take its 128 bytes and its version, and change nothing in
memory; a sampler request none of whose reads is held, refused or absent performs, with the channels of its texels.
DESCENT_LANDING of a lane that may land answers the value of its instructions on the bytes read, or on the L1 copy
that serves it, and with an ST stores that value. READ_RESPONSE and DESCENT_RETURN of a read that has performed, or
was sent to a peer over a port that is up, and WRITE_ACK of a write, complete and end the request; a sampler read at a
peer asks for its texels once its headers have come. Between two jets the answer of a performed request without an
error brings exactly its words to the lanes of their registers: a load its bytes, lowest first, in words of 32 bits,
an atomic, CASV, VALSET, sampler or descent the values that it answered, VALSET its predicate and a descent its
landing nibble; a SIGNAL that waits for its acknowledgement has it; with an error it changes no register and queues
the data error. No byte of memory changes but those a descent stores. (R102, R128, R135, R170, R113, R115, R46, R116,
R244, R385) -/
def Obligations.ReadsAndAnswersComplete : Prop :=
  ∀ (s : State) (id : Nat) (rq : Req), s.req? id = some rq → id < s.nextId →
    let b := rq.owner.basin
    let o := rq.obj
    let k := lineKey b o rq.line
    let die := s.homeDie b o rq.line (dieOf rq.owner.q)
    let here := rq.st = .sent ∧ rq.dev = devHere
    let ready := here ∧ rq.after = [] ∧ s.homeMeets id b o rq.line die false false true = .ok ∧ (s.fillLine b o rq.line die).isSome = true
    let took := fun (x : Out) => ∃ t z, x = .next t ∧ t.mem = s.mem ∧ t.req? id = some z ∧ z.st = .performed ∧ z.version = (s.line k).version ∧
      (∀ i, i < 128 → NMap.get? z.data (128 * rq.line + i) = some (s.readByte (memKey b o (128 * rq.line + i)))) ∧
      ∀ j, (t.line j).version = (s.line j).version
    let ended := fun (x : Out) => ∃ t, x = .next t ∧ t.mem = s.mem ∧ t.req? id = none
    let back := rq.st = .performed ∨ (rq.st = .sent ∧ rq.dev ≠ devHere ∧ s.portUp rq = true)
    let good := fun (g : Group) => rq.st = .performed ∧ rq.err = none ∧ s.ownerGroup? rq.owner = some g ∧ g.jet = none ∧
      ∀ f ∈ g.flights, ∀ e ∈ f.dests, e.raced = 0#32
    let brings := fun (x : Out) (g : Group) (ws : List (Nat × Nat × Word)) => ∃ t z, x = .next t ∧ t.group? rq.owner.q rq.owner.slot = some z ∧
      z.s = g.s ∧ z.pc = g.pc ∧ z.em = g.em ∧ ∀ r m, r < 128 → m < 32 → Lanes.at (z.getV r) m =
        match ws.find? (fun w => w.1 == r && w.2.1 == m) with
        | some w => w.2.2
        | none => Lanes.at (g.getV r) m
    let fails := fun (x : Out) => ∀ n g, rq.st = .performed → rq.err = some n → s.ownerGroup? rq.owner = some g → g.retired = false →
      ∃ t z, x = .next t ∧ t.group? rq.owner.q rq.owner.slot = some z ∧ z.v = g.v ∧ z.p = g.p ∧ z.pc = g.pc ∧ z.notices = g.notices ++ [rq.dataError n]
    (∀ p n d ls h u c, rq.kind = .load p n d ls h u c → (ready → took (exec (.readRequest id) s)) ∧ (back → ended (exec (.readResponse id) s)) ∧
      fails (exec (.readResponse id) s) ∧
      ∀ g, good g → u = false → brings (exec (.readResponse id) s) g (loadWrites d n ls (fun a => s.readBack rq a))) ∧
    (∀ n d v ls, rq.kind = .ldv n d v ls → (ready → took (exec (.ldvRequest id) s)) ∧ (back → ended (exec (.readResponse id) s)) ∧
      fails (exec (.readResponse id) s) ∧
      ∀ g, good g → brings (exec (.readResponse id) s) g (loadWrites d n ls (fun a => NMap.getD rq.data a 0#8) ++ ls.map (fun e => (v, e.1, rq.version)))) ∧
    (∀ d lin wd ls, rq.kind = .smpl d lin wd ls →
      (here → rq.after = [] → (∀ e ∈ ls, ∀ a ∈ s.smplReads rq lin e, s.smplMeets id rq a = .ok) → (s.smplFill rq (s.needs rq)).isSome = true →
        ∃ t z, exec (.readRequest id) s = .next t ∧ t.mem = s.mem ∧ t.req? id = some z ∧ z.st = .performed ∧
          ∀ e ∈ ls, s.smplFault rq lin e = none →
            let h := s.smplHdr rq.owner.q b o e.2.1
            let ts := (s.smplTexels rq lin e).map (fun a => BitVec.ofNat 32 (leNat ((List.range 4).map (fun i => s.smplByte rq.owner.q b o (a + i)))))
            let cs := if h.ok then texResult h lin e.2.2.1 e.2.2.2 (s.freeIx + 4 * e.1) ts else [0#32, 0#32, 0#32, 0#32]
            ∀ c x, cs[c]? = some x → (d + c, e.1, x) ∈ z.writes) ∧
      (rq.st = .performed ∨ rq.data ≠ [] → back → ended (exec (.readResponse id) s)) ∧
      (rq.st = .sent → rq.data = [] → back → ∃ t, exec (.readResponse id) s = .next t ∧ t.mem = s.mem ∧
        ∀ z, t.req? id = some z → z.data.length = 128 * rq.peerLines.length ∧ (∀ g, s.ownerGroup? rq.owner = some g →
          ∃ h, t.group? rq.owner.q rq.owner.slot = some h ∧ h.v = g.v ∧ h.p = g.p ∧ h.pc = g.pc)) ∧
      fails (exec (.readResponse id) s) ∧ ∀ g, good g → brings (exec (.readResponse id) s) g rq.writes) ∧
    ((∃ op ty d es, rq.kind = .atom op ty (some d) es) ∨ (∃ w d v es, rq.kind = .casv w d v es) →
      (back → ended (exec (.readResponse id) s)) ∧ fails (exec (.readResponse id) s) ∧ ∀ g, good g → brings (exec (.readResponse id) s) g rq.writes) ∧
    (∀ w, rq.kind = .valset w → (back → ended (exec (.readResponse id) s)) ∧ fails (exec (.readResponse id) s) ∧
      ∀ g, good g → brings (exec (.readResponse id) s) g rq.writes ∧ ∀ t, exec (.readResponse id) s = .next t → w.vp < 7 → (∀ e ∈ rq.writes, e.1 < 128) →
        ∃ z, t.group? rq.owner.q rq.owner.slot = some z ∧ z.getP w.vp = (g.getP w.vp &&& ~~~w.em) ||| (if rq.ok then w.em else 0#32) ∧
          ∀ r, r ≠ w.vp → z.getP r = g.getP r) ∧
    (rq.kind = .fetch → back → ended (exec (.readResponse id) s)) ∧
    ((∃ x bs, rq.kind = .store x bs) ∨ (∃ op ty es, rq.kind = .atom op ty none es) ∨ (∃ a v x, rq.kind = .signal a v x) ∨
      (∃ op ty es, rq.kind = .dep op ty es) → (back → ended (exec (.writeAck id) s)) ∧ fails (exec (.writeAck id) s) ∧
        ∀ g, good g → brings (exec (.writeAck id) s) g [] ∧ (g.wait = .request id →
          ∃ t h, exec (.writeAck id) s = .next t ∧ t.group? rq.owner.q rq.owner.slot = some h ∧ h.wait = .answer [])) ∧
    (∀ bs, rq.kind = .copyWrite bs → back → ended (exec (.writeAck id) s)) ∧
    (∀ w, rq.kind = .descent w →
      (∀ x c, here → w.stOfs = none → s.l1Serves rq = true → s.quad? rq.owner.q = some x → NMap.get? x.l1 rq.key = some c →
        ∃ t z, exec (.descentLanding id) s = .next t ∧ t.mem = s.mem ∧ t.req? id = some z ∧ z.st = .performed ∧ z.writes = w.result (w.run (l1Value c w)) ∧
          z.landing = 0 ∧ z.version = c.version) ∧
      (∀ code s1, here → rq.after = [] → (w.stOfs.isSome = true ∨ s.l1Serves rq = false) → s.landing id rq w.stOfs.isSome = .at_ code s1 →
        let x := w.run (s.dscRead b o w)
        ∃ t z, exec (.descentLanding id) s = .next t ∧ t.req? id = some z ∧ z.st = .performed ∧ z.writes = w.result x ∧
          z.landing = code + (if w.stOfs.isSome then 8 else 0) ∧ z.version = (t.line k).version ∧
          (w.stOfs = none → t.mem = s.mem ∧ (t.line k).version = (s.line k).version) ∧
          (∀ a, w.stOfs = some a → (t.line k).version = (s.line k).version + 1#32 ∧
            (∀ i, i < (if w.wide then 8 else 4) → t.readByte (memKey b o (a + i)) = BitVec.ofNat 8 (x.toNat / 256 ^ i)) ∧
            ∀ z, (∀ i, i < (if w.wide then 8 else 4) → memKey b o (a + i) ≠ z) → t.readByte z = s.readByte z)) ∧
      (back → ended (exec (.descentReturn id) s)) ∧ fails (exec (.descentReturn id) s) ∧
      ∀ g, good g → brings (exec (.descentReturn id) s) g rq.writes ∧ ∀ t, exec (.descentReturn id) s = .next t →
        ∃ z, t.group? rq.owner.q rq.owner.slot = some z ∧ z.landrec = (g.recordLanding rq.flight w.lane (landNibble rq rq.landing)).landrec)

/-- WC_TIMEOUT sends an entry 64 cycles after its first write; it enters the outbound queue while that has room.
VALSET_PIN pins the next line at its version; VALSET_TIMEOUT gives up, not ok: the set is out of every park list and
its release goes to the slices. COLLAPSE leaves one copy, the one on the lowest die. BLOCK_WRITE_BACK leaves no line
of the block resident, in the state that the memory port chooses, or no copy in the memory-side cache. PROMOTE_REQUEST
is taken up, waits for the entries before the last narrow release, and is over at once without any. EXTENT_ABSENT,
with what goes before the request parked, sets FP, parks it, for a sampler read the lanes that meet the extent, and
gives the first one a 0x09 notice; the request of a copy, and a read of a retired group, end. EXTENT_MONITOR_FIRE
sends every parked request again, ends those that stand for a COLL or a LAUNCH, and lets the parked copies go on.
BUCKET_REFILL adds its gain to each share, up to the cap. REQUEST_TIMEOUT counts and changes nothing else;
PEER_REQUEST_TIMEOUT answers with an error after 2^22 cycles. Each completes when it is due, and none changes a byte
of memory. That BLOCK_WRITE_BACK frees the home copies of the 16 lines, and that a block which no slice holds leaves
the memory-side cache, is read from R104 and R106 by inference (log 37, DEDUCED); so is the state that the memory port
chooses for a block (log 56, DEDUCED), that the requests which stand for a COLL or a LAUNCH end when their extent is
there (log 47, DEDUCED), and which requests park before which (log 79, DEDUCED). (R93, R175, R177, R108, R104, R106,
R131, R239, R241, R117, R261, R272) -/
def Obligations.FabricStepsComplete : Prop :=
  ∀ (s : State) (id : Nat) (rq : Req),
    let b := rq.owner.basin
    let is := s.req? id = some rq ∧ id < s.nextId
    (∀ q x ix e, s.quad? q = some x → x.wc[ix]? = some e → e.since + 64 ≤ s.now → ∃ t, exec (.wcTimeout q ix) s = .next t ∧ t.mem = s.mem ∧
      (e.owner.q = q → (s.outbound q).length + x.wc.length ≤ outboundMax → ∃ i z, s.nextId ≤ i ∧ t.req? i = some z ∧ z.kind = .store true e.bytes ∧
        z.owner = e.owner ∧ z.obj = e.obj ∧ z.line = e.line ∧ z.flight = e.flight ∧ z.st = .sent)) ∧
    (∀ w k, is → rq.kind = .valset w → rq.st = .sent → rq.dev = devHere → rq.after = [] → rq.err = none → w.lines[w.pins.length]? = some k →
      w.verdict = none → w.late s.now = false → s.valsetReplicated w = false → k = lineKey b (keyObj k) (keyLine k) →
      (let die := s.homeDie b (keyObj k) (keyLine k) (dieOf rq.owner.q)
       s.homeMeets id b (keyObj k) (keyLine k) die true (w.write && (Valset.lineBytes b w k).length == 128) true = .ok ∧
         (s.fillLine b (keyObj k) (keyLine k) die).isSome = true) →
      ∃ t z v, exec (.valsetPin id w.pins.length) s = .next t ∧ t.mem = s.mem ∧ (t.line k).pin = some id ∧ t.req? id = some z ∧
        z.kind = .valset v ∧ v.pins = w.pins ++ [(k, (s.line k).version)] ∧ v.firstPin = some (w.firstPin.getD s.now) ∧ z.st = .sent) ∧
    (∀ w, is → rq.kind = .valset w → rq.st = .sent ∨ rq.st = .parked → w.verdict = none → w.pins.length ≠ w.lines.length → w.late s.now = true →
      ∃ t, exec (.valsetTimeout id) s = .next t ∧ t.mem = s.mem ∧ t.lines = s.lines ∧
        t.req? id = some { rq with st := .sent, freed := [], kind := .valset { w with verdict := some false } } ∧
        (∀ e ∈ t.extents, id ∉ e.2.parked) ∧ NMap.getD t.field fieldTimeout 0 = min (NMap.getD s.field fieldTimeout 0 + 1) (2 ^ 64 - 1)) ∧
    (∀ bb o x i, (s.extent (extKey bb o x)).reps ≠ [] → s.collapser bb o x = some i →
      let e := s.extent (extKey bb o x)
      ∃ t, exec (.collapse bb o x) s = .next t ∧ t.mem = s.mem ∧
      (let y := t.extent (extKey bb o x)
       y.reps = [] ∧ y.v = e.v ∧ y.fp = e.fp ∧ y.parked = e.parked ∧ y.first = s.collapseFirst bb o x i ∧
       ∀ p ∈ e.reps, p.1 ≤ 3 → (∀ r ∈ e.reps, p.1 ≤ r.1 ∧ (r.1 = p.1 → r = p)) → y.chan = p.2.1 ∧ y.idx = p.2.2)) ∧
    (∀ blk, let key := fun i => blk / 2 ^ 29 * 2 ^ 33 + blk % 2 ^ 29 * 16 + i
      let bb := blk / 2 ^ 43
      let o := blk / 2 ^ 29 % 2 ^ 14
      let e := s.extent (extKey bb o (blk % 2 ^ 29 * 16 / 512))
      let dies := (List.range 16).foldl (fun (a : BitVec 4) i => a ||| (s.line (key i)).res) 0#4
      let x := s.block blk
      let base := (List.range 4).foldl (fun (a : BitVec 4) d => if (dies &&& dieBit d) ≠ 0#4 then a ||| dieBit (e.mscDie d) else a) 0#4
      let gone := fun (t : State) => t.mem = s.mem ∧ ∀ i, i < 16 → (t.line (key i)).res = 0#4 ∧ (t.line (key i)).version = (s.line (key i)).version
      e.v = true → (∀ i, i < 16 → (s.line (key i)).pin = none ∧ (s.line (key i)).pend = []) →
      (dies ≠ 0#4 → (∀ i, i < 16 → (s.line (key i)).dirty = false) → ∃ t, exec (.blockWriteBack blk) s = .next t ∧ gone t ∧ t.blocks = s.blocks) ∧
      (dies ≠ 0#4 → (∃ i, i < 16 ∧ (s.line (key i)).dirty = true) →
        (∀ i, i < 16 → (s.line (key i)).res ≠ 0#4) ∨ x.comp = 3#2 ∨ x.msc ≠ 0#4 ∨ (s.activate bb (e.chan / 32)).isSome = true →
        let c := blockState (s.readBytes (memKey bb o (128 * (blk % 2 ^ 29 * 16))) 2048)
        let y : Block := if c = 3#2 then { comp := c, msc := 0#4, newer := false } else { comp := c, msc := x.msc ||| base, newer := true }
        (∀ d, d < 4 → y.msc &&& dieBit d ≠ 0#4 → s.mscRoom blk d y = true) →
        ∃ t, exec (.blockWriteBack blk) s = .next t ∧ gone t ∧ t.block blk = y) ∧
      (dies = 0#4 → x.msc ≠ 0#4 → x.newer = false ∨ x.comp = 3#2 ∨ (s.activate bb (e.chan / 32)).isSome = true →
        ∃ t, exec (.blockWriteBack blk) s = .next t ∧ t.mem = s.mem ∧ t.lines = s.lines ∧ t.block blk = { x with msc := 0#4, newer := false })) ∧
    (∀ q, is → rq.kind = .promote q → rq.st = .sent →
      let mark := ((s.quad? q).map (fun x => x.relMark)).getD 0
      let e := (s.reqIds (fun w => w.owner.q == q && w.kind.isOutb)).filter (fun i => decide (i < mark))
      ∃ (s2 : State), exec (.promoteRequest id q) s = .next s2.settle ∧ s2.settle.mem = s.mem ∧ s2.req? id = some { rq with st := .performed, holdFor := e } ∧
        (e = [] → s2.settle.req? id = none)) ∧
    (∀ e, is → rq.st = .sent → rq.dev = devHere → (s.needs rq).find? (fun e => s.lineAbsent b e.1 e.2) = some e →
      let k := extKey b e.1 (e.2 / 512)
      s.mayPark (rq.standAt e) k = true →
      (rq.kind.isCopy = true → s.copyLower id rq = [] → ∃ t, exec (.extentAbsent id) s = .next t ∧ t.mem = s.mem ∧ t.req? id = none) ∧
      let gone := rq.kind.writeClass = false ∧ ∃ g, s.ownerGroup? rq.owner = some g ∧ g.retired = true
      (rq.kind.isCopy = false → gone → ∃ t, exec (.extentAbsent id) s = .next t ∧ t.mem = s.mem ∧ (t.extent k).fp = true ∧
        ((∀ d lin wd ls, rq.kind ≠ .smpl d lin wd ls) → t.req? id = none)) ∧
      (rq.kind.isCopy = false → ¬ gone → ∃ t i z, exec (.extentAbsent id) s = .next t ∧ t.mem = s.mem ∧ (t.extent k).fp = true ∧
        (t.extent k).parked = (s.extent k).parked ++ [i] ∧ t.req? i = some z ∧ z.st = .parked ∧
        ((∀ d lin wd ls, rq.kind ≠ .smpl d lin wd ls) → i = id ∧ z.kind = rq.kind) ∧ (i = id ∨ i = s.nextId) ∧
        ∀ g, s.ownerGroup? rq.owner = some g → g.retired = false → ∃ h, t.group? rq.owner.q rq.owner.slot = some h ∧ h.v = g.v ∧ h.pc = g.pc ∧
          ((s.extent k).fp = true → h.notices = g.notices) ∧ ((s.extent k).fp = false → ∃ n, h.notices = g.notices ++ [n] ∧ n.code = 0x09))) ∧
    (∀ k, (s.extent k).v = true → (s.extent k).parked ≠ [] → ∃ t, exec (.extentMonitorFire k) s = .next t ∧ t.mem = s.mem ∧
      (t.extent k).parked = [] ∧
      (∀ q c, c ∈ (t.engine (slotOf q)).copies → c.id ∈ (s.extent k).parked → c.id < s.nextId → s.req? c.id = none → c.parked = none) ∧
      ∀ i r, i ∈ (s.extent k).parked → i < s.nextId → s.req? i = some r → (∀ q, r.kind ≠ .promote q) →
        (r.kind.isProbe = true → t.req? i = none) ∧ (r.kind.isProbe = false → ∃ z, t.req? i = some z ∧ z.st = .sent ∧ z.kind = r.kind)) ∧
    (∀ stack, s.powered = true → NMap.getD s.refills stack 0 < (s.now - s.upAt) / 16 → ∃ t, exec (.bucketRefill stack) s = .next t ∧
      { t with refills := s.refills, basins := s.basins } = s ∧ NMap.getD t.refills stack 0 = NMap.getD s.refills stack 0 + 1 ∧
      (∀ bb y, NMap.get? s.basins bb = some y → y.phase = .started → y.stackGroups stack ≠ 0 →
        t.share bb stack = min (s.share bb stack + (s.stackCfg stack).2 * y.stackGroups stack / 8) (s.shareCap bb stack)) ∧
      (∀ bb k, k ≠ stack → t.share bb k = s.share bb k)) ∧
    (is → rq.st = .sent ∨ rq.st = .performed → exec (.requestTimeout id) s = .next { s with
      field := NMap.set s.field fieldReissue (min (NMap.getD s.field fieldReissue 0 + 1) (2 ^ 64 - 1)) }) ∧
    (is → rq.dev ≠ devHere → rq.st = .sent → rq.sentAt + 2 ^ 22 ≤ s.now → ∃ t, exec (.peerRequestTimeout id) s = .next t ∧ t.mem = s.mem ∧
      t.quads = s.quads ∧ t.req? id = some { rq with st := .performed, err := some 3 })

/-- TAIL moves the tail exactly when the ring has room for the step, else the tail stays. CONTROL_WINDOW_WRITE of whole
dwords completes: a mailbox dword or a call is ignored while BUSY is set, a dword with a byte enable clear and a read-
only register are ignored, EQHEAD takes the value, EQLOST clears the bits written as 1, and a write of MBCALL with a
known function sets BUSY and hands the call over; a control read returns each dword as it stands and changes nothing
else. WINDOW_WRITE that passes R229 puts each of its bytes into the inbound queue, or sends it to the peer that the
window names, and changes no byte of memory; one that fails leaves the queue alone. HOST_WRITE_PERFORM of a write that
no earlier one to its line precedes, on lines at hand, writes exactly its bytes, raises its line by one version and
leaves the queue. WINDOW_READ with no earlier host write, on lines at hand, completes; and within a line it returns
the bytes of memory. ERROR_RECORD_WINDOW writes a held record out when its window has closed; FIELD_RECORD_READ
returns the field record. (R133, R166, R266, R267, R268, R269, R264, R277) -/
def Obligations.HostAccessesComplete : Prop :=
  ∀ (s : State) (b : Nat) (x : Basin), s.basin b = x →
    (∀ v : Word, x.phase = .started → let n := v.toNat % 2 ^ 16
      let fits := (n + 2 ^ 16 - x.win.tail) % 2 ^ 16 ≤ 2 ^ x.win.lqk - (x.win.tail + 2 ^ 16 - x.win.head) % 2 ^ 16
      ∃ t, exec (.tail b v) s = .next t ∧ t.mem = s.mem ∧ t.quads = s.quads ∧ (t.basin b).launches = x.launches ∧
        (t.basin b).win.tail = if fits then n else x.win.tail) ∧
    (∀ fn ofs dws, fn ≤ 16 → s.hasWindow fn = true → ofs % 4 = 0 →
      let caller := if fn = 0 then 16 else fn - 1
      let w := s.winOf caller
      ∃ t, exec (.controlWindowWrite fn ofs dws) s = .next t ∧ t.mem = s.mem ∧
        ((∀ d ∈ dws, d = none) → t.winOf caller = w) ∧
        (∀ v, dws = [some v] →
          (w.busy = true → 0x100 ≤ ofs → ofs ≤ 0x140 → t.winOf caller = w ∧ t.callsOf caller = s.callsOf caller) ∧
          (ofs = 0x144 ∨ ofs = 0x210 → t.winOf caller = w) ∧
          (ofs = 0x20C → t.winOf caller = { w with eqhead := v }) ∧ (ofs = 0x214 → t.winOf caller = { w with eqlost := w.eqlost &&& ~~~v }) ∧
          (w.busy = false → ofs = 0x140 → knownFn (v.toNat % 256) = true → (caller = 16 → s.bootFailed = false) →
            (t.winOf caller).busy = true ∧ (t.winOf caller).fn = v.toNat % 256 ∧
            t.callsOf caller = s.callsOf caller ++ [{ fn := v.toNat % 256, fromGroup := none, block := 0#64, held := none }]))) ∧
    (∀ fn ofs n rest, fn ≤ 16 → s.hasWindow fn = true → ofs % 4 = 0 → s.agenda = .control fn ofs n :: rest →
      step s = .next { s with agenda := rest, outbox := s.outbox ++
        [.windowRead fn ofs ((List.range n).map (fun i => s.readDword (if fn = 0 then 16 else fn - 1) (ofs + 4 * i)))] }) ∧
    (∀ win ofs data, x.phase = .started → win ≤ 7 → ofs < 2 ^ 30 →
      let c := s.aperture b win
      let a := capOfs c + ofs
      (∀ e, checkAccess x c a data.length 1 Rights.w = .error e → ∃ t, exec (.windowWrite b win ofs data) s = .next t ∧ t.mem = s.mem ∧ t.inbound = s.inbound) ∧
      (checkAccess x c a data.length 1 Rights.w = .ok () → capDev c ≠ devHere → s.custMeets b (capAt c a) data.length true ≠ .wait →
        ∃ t, exec (.windowWrite b win ofs data) s = .next t ∧ t.mem = s.mem ∧ t.inbound = s.inbound ∧
          (s.custMeets b (capAt c a) data.length true = .ok → ∃ new, t.outbox = s.outbox ++ new ∧
            (∀ y ∈ new, ∃ bs, y = .peerStore b (capDev c) (capObj c) bs) ∧
            ∀ i v, a + data.length ≤ 2 ^ 40 → data[i]? = some v → ∃ bs, .peerStore b (capDev c) (capObj c) bs ∈ new ∧ NMap.get? bs (capOfs c + ofs + i) = some v)) ∧
      (checkAccess x c a data.length 1 Rights.w = .ok () → capDev c = devHere →
        ∃ t, exec (.windowWrite b win ofs data) s = .next t ∧ t.mem = s.mem ∧ (∃ new, t.inbound = s.inbound ++ new) ∧
          ∀ i, i < data.length → ∃ h ∈ t.inbound, s.nextId ≤ h.id ∧ h.basin = b ∧ h.obj = capObj c ∧ h.ofs ≤ a + i ∧
            h.ofs / 128 = (a + i) / 128 ∧ h.bytes[a + i - h.ofs]? = data[i]?)) ∧
    (∀ ix h, s.inbound[ix]? = some h → (h.park = none ∨ ∃ p, h.park = some p ∧ p.freed = true ∧ p.after = []) → h.obj < 2 ^ 14 → h.ofs + h.bytes.length ≤ 2 ^ 40 →
      (∀ o ∈ s.inbound.take ix, ¬ (o.basin = h.basin ∧ o.obj = h.obj ∧ o.ofs / 128 = h.ofs / 128)) →
      s.hereMeets h.id h.basin h.obj h.ofs h.bytes.length true (fun _ => 0) = .ok →
      let k := lineKey h.basin h.obj (h.ofs / 128)
      ∃ t, exec (.hostWritePerform ix) s = .next t ∧ t.inbound = s.inbound.eraseIdx ix ∧
        (∀ i v, h.bytes[i]? = some v → t.readByte (memKey h.basin h.obj (h.ofs + i)) = v) ∧
        (∀ z, (∀ i, i < h.bytes.length → memKey h.basin h.obj (h.ofs + i) ≠ z) → t.readByte z = s.readByte z) ∧
        (h.bytes ≠ [] → (h.ofs + h.bytes.length - 1) / 128 = h.ofs / 128 → (t.line k).version = (s.line k).version + 1#32 ∧
          ∀ j, j ≠ k → (t.line j).version = (s.line j).version)) ∧
    (∀ win ofs n, x.phase = .started → win ≤ 7 → ofs < 2 ^ 30 →
      let c := s.aperture b win
      let a := capOfs c + ofs
      checkAccess x c a n 1 Rights.r = .ok () → (∀ h ∈ s.inbound, h.basin ≠ b) →
      (∀ h ∈ s.hostReads, ¬ (h.basin = b ∧ h.win = win ∧ h.ofs = ofs ∧ h.len = n)) →
      ((∀ p ∈ lineParts a n, ∀ m, s.custMeets b (mkCap (capDev c) (capObj c) p.2.1) p.2.2 false = m → m ≠ .wait ∧ m ≠ .absent) →
        ∃ t ps, exec (.windowRead b win ofs n) s = .next t ∧ t.mem = s.mem ∧ t.outbox.getLast? = some (.readDone b (some ps)) ∧
          ps.length = (lineParts a n).length) ∧
      (0 < n → a / 128 = (a + n - 1) / 128 → a + n ≤ 2 ^ 40 → capDev c = devHere → s.custMeets b (mkCap devHere (capObj c) a) n false = .ok →
        ∃ t, exec (.windowRead b win ofs n) s = .next t ∧ t.mem = s.mem ∧
          t.outbox = s.outbox ++ [.readDone b (some [(0, s.readBytes (memKey b (capObj c) a) n, false)])])) ∧
    (∀ ix e, s.errHeld[ix]? = some e → e.first + 2 ^ 20 ≤ s.custCycle →
      ∃ t, exec (.errorRecordWindow ix) s = .next t ∧ t.mem = s.mem ∧ t.quads = s.quads ∧ t.errHeld = s.errHeld.eraseIdx ix) ∧
    (∀ pf, (pf = true → s.hasWindow 0 = true) → exec (.fieldRecordRead pf) s = .next { s with outbox := s.outbox ++ [.record s.field] })

/-- LAUNCH_ACCEPT takes the next entry: HEAD rises by one, and a well-formed record becomes the youngest launch, a
malformed one or one that cannot be read none. WAIT_SIGNAL_MONITOR makes a held launch whose signal holds eligible; a
read of a signal at a peer that is answered with an error leaves its record, and the launch held. GANG_PLACEMENT of a
gang that fits places it whole: each new group starts at the entry of its record with full em, the argument pointer in
s0 and s1 and its gang number, and no group that was there changes a register or its pc. MIGRATION first stops the
first crew that must move and then, once it is at rest, moves it with its registers. GROUP_RESOURCES_FREE empties the
slot of a retired group with no read outstanding. LAUNCH_COMPLETION ends a launch whose groups have retired and whose
writes are acknowledged: it stores DONEVAL when the record asks for it; a store that is refused, or answered with an
error, ends the launch without its cascade, and one on an absent extent parks. CASCADE_READ puts the next record in
its place, or ends the launch when that is malformed or cannot be read. That a launch stays held when the read of its
signal is answered with an error is the choice of the model (log 70, DESIGN CHOICE): R26 is silent. That the crews of
a migration stop and move one at a time is read from R33 (log 46, DEDUCED), and their ranking among equal ones is a
choice (log 68, DESIGN CHOICE). (R23, R24, R26, R28, R30, R31, R32, R33, R42, R27, R239, R242) -/
def Obligations.LaunchStepsComplete : Prop :=
  ∀ (s : State) (b : Nat),
    let x := s.basin b
    let w := x.win
    let c := w.entry w.head
    (∀ s1 r, x.phase = .started → x.accepting = true → w.head ≠ w.tail → x.launches.length < 32 → (∀ i ∈ x.tailWaits, ∀ h ∈ s.inbound, h.id ≠ i) →
      s.readRecord b c = some (s1, r) → ∃ t, exec (.launchAccept b) s = .next t ∧ t.mem = s.mem ∧ t.quads = s.quads ∧
        (t.basin b).win.head = (w.head + 1) % 2 ^ 16 ∧
        (∀ e, r = .error e → (t.basin b).launches = x.launches) ∧
        (∀ v, r = .ok v → s1.recordOk b (lrecOf v) = true → ∃ l, (t.basin b).launches = x.launches ++ [l] ∧ l.record = v ∧ l.placed = 0 ∧
          l.retired = 0 ∧ l.killed = false ∧ l.complete = false ∧ l.eligible = s1.waitHolds b (lrecOf v)) ∧
        (∀ v, r = .ok v → s1.recordOk b (lrecOf v) = false → (t.basin b).launches = x.launches)) ∧
    (∀ n l, s.launch? b n = some l → x.phase = .started → l.eligible = false → l.killed = false → l.complete = false → s.waitHolds b l.fields = true →
      ∃ t, exec (.waitSignalMonitor b n) s = .next t ∧ t.mem = s.mem ∧ t.quads = s.quads ∧ t.launch? b n = some { l with eligible := true }) ∧
    (∀ n l, s.launch? b n = some l → x.phase = .started → l.eligible = false → l.killed = false → l.complete = false → s.waitHolds b l.fields = false →
      l.fields.wen = true → capDev l.fields.waitsig ≠ devHere → s.custMeets b l.fields.waitsig 4 false = .bad 3 →
      ∃ t, exec (.waitSignalMonitor b n) s = .next t ∧ t.mem = s.mem ∧ t.quads = s.quads ∧ t.launch? b n = some l ∧ t ≠ s) ∧
    (∀ l, s.mayPlace b = true → s.headLaunch b = some l → (s.placeGang b l.num l.fields l.placed).isSome = true →
      ∃ t, exec (.gangPlacement b) s = .next t ∧ t.mem = s.mem ∧
        (∀ z, s.launch? b l.num = some z → t.launch? b l.num = some { z with placed := z.placed + 1 }) ∧
        (∀ q slot g, s.group? q slot = some g → ∃ h, t.group? q slot = some h ∧ h.v = g.v ∧ h.s = g.s ∧ h.p = g.p ∧ h.em = g.em ∧ h.pc = g.pc) ∧
        (∀ q slot h, t.group? q slot = some h → s.group? q slot = none → h.basin = b ∧ h.launch = l.num ∧ h.gang = l.placed ∧
          h.pc = capOfs l.fields.entry ∧ h.em = Mask.all ∧ h.getS 0 = l.fields.args.setWidth 32 ∧
          h.getS 1 = l.fields.args.extractLsb' 32 32 ∧ (∀ r, 2 ≤ r → h.getS r = 0#32) ∧ h.prio = l.fields.prio)) ∧
    (∀ l m ms, s.mayPlace b = true → s.headLaunch b = some l → s.placeGang b l.num l.fields l.placed = none → s.migrationPlan b l = some (m :: ms) →
      let s1 := s.haltCrews b [m.1]
      (s1 ≠ s → exec (.migration b) s = .next s1 ∧ ∀ q slot g, s.group? q slot = some g → ∃ h ys, s1.group? q slot = some { g with halted := h, yieldFor := ys }) ∧
      (∀ y u, s1 = s → s.quad? m.1.1 = some y → (∀ p ∈ y.crewGroups m.1.2, s.groupQuiet m.1.1 p.1 p.2 = true) →
        s.moveCrew m.1.1 m.1.2 m.2 = some u → exec (.migration b) s = .next (u.unhalt b).settle ∧ (u.unhalt b).settle.mem = s.mem ∧
        (m.2 ≠ m.1.1 → (∀ p ∈ y.crewGroups m.1.2, m.1.2.firstSlot ≤ p.1 ∧ p.1 < m.1.2.firstSlot + m.1.2.size ∧ NMap.get? y.groups p.1 = some p.2) →
          ∀ p ∈ y.crewGroups m.1.2, ∃ slot h, (u.unhalt b).settle.group? m.2 slot = some h ∧ h.v = p.2.v ∧ h.s = p.2.s ∧ h.p = p.2.p ∧
            h.em = p.2.em ∧ h.pc = p.2.pc ∧ h.stack = p.2.stack))) ∧
    (∀ q y slot g, s.quad? q = some y → NMap.get? y.groups slot = some g → g.retired = true → y.bankIds slot = [] →
      (∀ p, p ≠ .st → g.counter p = 0) → ∃ t, exec (.groupResourcesFree q slot) s = .next t ∧ t.mem = s.mem ∧ t.group? q slot = none ∧
        ∀ q' slot', (q', slot') ≠ (q, slot) → t.group? q' slot' = s.group? q' slot') ∧
    (∀ n l, s.launch? b n = some l → x.phase = .started → l.complete = false → (l.killed = true ∨ l.placed = l.fields.gangs) →
      l.retired = l.groups → s.drained b n = true →
      let run := exec (.launchCompletion b n) s
      let after := fun (t : State) => (l.fields.cen = true ∧ l.killed = false → t.launch? b n = some { l with complete := true }) ∧
        (l.fields.cen = false ∨ l.killed = true → t.launch? b n = none)
      let stored := l.killed = false ∧ l.fields.den = true
      let meets := s.custMeets b l.fields.donesig 4 true
      let may := s.sliceMay b l.fields.donesig 4 Rights.w
      let k := extKey b (capObj l.fields.donesig) (capOfs l.fields.donesig / 65536)
      (l.killed = true ∨ l.fields.den = false → ∃ t, run = .next t ∧ t.mem = s.mem ∧ after t) ∧
      (stored → l.refused = false → may = true → meets = .ok → ∃ t, run = .next t ∧ after t ∧ (capDev l.fields.donesig = devHere →
        ∀ i, i < 4 → t.readByte (memKey b (capObj l.fields.donesig) (capOfs l.fields.donesig + i)) = BitVec.ofNat 8 (l.fields.doneval.toNat / 256 ^ i))) ∧
      (stored → l.refused = true ∨ may = false ∨ (∃ e, meets = .bad e) → ∃ t, run = .next t ∧ t.mem = s.mem ∧ t.launch? b n = none) ∧
      (stored → l.refused = false → may = true → meets = .absent → l.parked ≠ some k → ∃ t, run = .next t ∧ t.mem = s.mem ∧
        (t.extent k).fp = true ∧ t.launch? b n = some { l with parked := some k })) ∧
    (∀ n l s1 r, s.launch? b n = some l → x.phase = .started → l.complete = true → s.readRecord b l.fields.casc = some (s1, r) →
      ∃ t, exec (.cascadeRead b n) s = .next t ∧ t.mem = s.mem ∧
        (∀ v, r = .ok v → s1.recordOk b (lrecOf v) = true → ∃ m ∈ (t.basin b).launches, m.record = v ∧ m.age = l.age ∧ m.cascade = true ∧ m.placed = 0) ∧
        (∀ v, r = .ok v → s1.recordOk b (lrecOf v) = false → t.launch? b n = none) ∧ (∀ e, r = .error e → t.launch? b n = none))

/-- PEER_REQUEST without an earlier one on its lines, over ports that are up, completes: without a started basin, an
object and an export the answer is an error and nothing changes; with its lines at hand a read answers the bytes, a
store and a SIGNAL write exactly their bytes, an atomic runs its elements and answers the old values, and a
contribution is stored in its place of the slot and counted. IMPORT_REMOVAL removes the import. RESTORE_ELSEWHERE into
a basin that fits, whose pool has room, makes it started with a new key, with everything that was saved.
LINK_CRC_RETRY is counted. ECC_CORRECTION of a mapped line completes and changes no byte. UNCORRECTABLE_ERROR in a
group gives it a data-error notice; on a line it drops a clean copy, of the home slice or of the memory-side cache, or
poisons the line. EXTENT_RETIREMENT above the threshold retires the physical extent and maps a fresh one, of the
reserve or the pool, or, with no extent free, poisons the entry. No byte changes but those of a write of a peer or an
arrival, and no register. The error of a request without an export is read from R134 and R237 (log 49, DEDUCED). That
an error on a line without a home copy, of which no clean copy stands in the memory-side cache, poisons it is the
choice of the model (log 50, DESIGN CHOICE): R262 speaks of the only dirty copy. So is which extent a retirement takes
(log 12, DESIGN CHOICE). (R134, R253, R270, R237, R260, R261, R262, R233, R274) -/
def Obligations.PeersAndErrorsComplete : Prop :=
  ∀ (s : State),
    (∀ ix r, s.peerIn[ix]? = some r → (∀ o ∈ s.peerIn.take ix, ∀ l ∈ o.lines, l ∉ r.lines) →
      (∀ k ∈ r.lines, peerPort (keyObj k) (keyLine k) ∉ s.downPorts) →
      let x := s.basin r.basin
      let b := r.basin
      let p := r.ask.span
      let run := exec (.peerRequest ix) s
      let gone := fun (t : State) (bs : List Byte) => t.peerIn = s.peerIn.eraseIdx ix ∧ t.quads = s.quads ∧
        ∃ v, t.outbox = s.outbox ++ [.peerAnswer r.id v bs false]
      let wrote := fun (t : State) (a n : Nat) (f : Nat → Byte) => (∀ i, i < n → t.readByte (memKey b r.obj (a + i)) = f i) ∧
        ∀ z, (∀ i, i < n → memKey b r.obj (a + i) ≠ z) → t.readByte z = s.readByte z
      (r.park = none → x.phase ≠ .started ∨ NMap.get? x.objs r.obj = none ∨ x.exported r = false →
        run = .next { s with peerIn := s.peerIn.eraseIdx ix, outbox := s.outbox ++ [.peerAnswer r.id 0#32 [] true] }) ∧
      (∀ y, r.park = some y → y.freed = true → y.after = [] → x.phase = .started → s.hereMeets y.id b r.obj p.1 p.2 (!r.ask.isRead) (portDie r.obj) = .ok →
        (∀ slot rank tag bs, r.ask ≠ .coll slot rank tag bs) → ∃ t, run = .next t ∧ t.mem = (s.peerPerform r).1.mem) ∧
      (x.phase = .started → r.park = none → NMap.has x.objs r.obj = true → x.exported r = true →
        checkAccess x (mkCap devHere r.obj p.1) p.1 p.2 1 Rights.none = .ok () → s.hereMeets s.nextId b r.obj p.1 p.2 (!r.ask.isRead) (portDie r.obj) = .absent →
        ∃ t y, run = .next t ∧ t.mem = s.mem ∧ t.quads = s.quads ∧ t.outbox = s.outbox ∧ t.peerIn = s.peerIn.set ix { r with park := some y } ∧ y.freed = false ∧
          (t.extent (s.absentExt b r.obj p.1 p.2)).fp = true ∧ y.id ∈ (t.extent (s.absentExt b r.obj p.1 p.2)).parked) ∧
      (x.phase = .started → r.park = none → NMap.has x.objs r.obj = true → x.exported r = true → r.obj < 2 ^ 14 → p.1 + p.2 ≤ 2 ^ 40 →
        checkAccess x (mkCap devHere r.obj p.1) p.1 p.2 1 Rights.none = .ok () → s.hereMeets s.nextId b r.obj p.1 p.2 (!r.ask.isRead) (portDie r.obj) = .ok →
        (∀ ofs n, r.ask = .read ofs n → ∃ t, run = .next t ∧ t.mem = s.mem ∧ gone t (s.readBytes (memKey b r.obj ofs) n)) ∧
        (∀ ofs bs, r.ask = .store ofs bs → ∃ t, run = .next t ∧ gone t [] ∧ wrote t ofs bs.length (fun i => bs.getD i 0#8)) ∧
        (∀ add v ofs, r.ask = .signal add v ofs → ∃ t, run = .next t ∧ gone t [] ∧ wrote t ofs 4 (fun i =>
          BitVec.ofNat 8 ((if add then (s.objNum b r.obj ofs 4 + v.toNat) % 2 ^ 32 else v.toNat) / 256 ^ i))) ∧
        (∀ op ty es, r.ask = .atom op ty es → ∃ t, run = .next t ∧ t.mem = (s.atomElems b r.obj op ty none es).1.mem ∧
          gone t (es.flatMap (fun e => natBytes (atomBytes ty) (s.objNum b r.obj e.ofs (atomBytes ty))))) ∧
        (∀ slot rank tag bs, r.ask = .coll slot rank tag bs → slot < 2 ^ 40 → let c := mkCap devHere r.obj slot
          x.mayTrack c = true → ∃ t, run = .next t ∧ gone t [] ∧ wrote t (slot + slotArea rank (tag % 2)) bs.length (fun i => bs.getD i 0#8) ∧
            (s.slotNum b c 0 8 < tag → rank ∈ (t.basin b).arrivals c (tag % 2))))) ∧
    (∀ b dev obj d, d ∈ (s.basin b).imports → d.dev = dev → d.onum = obj → ∃ t, exec (.importRemoval b dev obj) s = .next t ∧ t.mem = s.mem ∧
      (∀ e ∈ (t.basin b).imports, ¬ (e.dev = dev ∧ e.onum = obj)) ∧ (t.basin b).objs = (s.basin b).objs ∧
      ∀ q slot g, s.group? q slot = some g → t.group? q slot = some g) ∧
    (∀ ix im u, s.images[ix]? = some im → s.takes im = true → (s.arrive ix im).imageRoom im = some u →
      let b := im.target
      ∃ t, exec (.restoreElsewhere ix) s = .next t ∧ t.images = s.images.eraseIdx ix ∧ (t.basin b).phase = .started ∧
        (t.basin b).key = some s.keyDraws ∧ t.keyDraws = s.keyDraws + 1 ∧ (t.basin b).handler = im.basin.handler ∧ (t.basin b).slots = (s.basin b).slots ∧
        (∀ o, NMap.get? (t.basin b).objs o = (NMap.get? im.basin.objs o).map (fun d => { d with list := listAddr (s.freeIx + o) })) ∧
        ∃ new, t.saved = s.saved ++ new ∧ new.map (fun e => (e.1, e.2.image.groups.map (fun p => (p.1, p.2.v, p.2.s, p.2.pc)))) =
          im.quads.map (fun q => (b, q.image.groups.map (fun p => (p.1, p.2.v, p.2.s, p.2.pc))))) ∧
    (∀ n, s.powered = true → ∃ t, exec (.linkCrcRetry n) s = .next t ∧ { t with field := s.field, freeIx := s.freeIx } = s ∧
      NMap.getD t.field (fieldRetry n) 0 = min (NMap.getD s.field (fieldRetry n) 0 + 1) (2 ^ 64 - 1)) ∧
    (∀ k p, s.linePhys k = some p → ∃ t, exec (.eccCorrection k) s = .next t ∧ t.mem = s.mem ∧ t.lines = s.lines ∧ t.extents = s.extents ∧
      ∀ q slot, t.group? q slot = s.group? q slot) ∧
    (∀ q slot k g, s.group? q slot = some g → ∃ t h, exec (.uncorrectableError (some (q, slot)) k) s = .next t ∧ t.mem = s.mem ∧
      t.group? q slot = some h ∧ h.v = g.v ∧ h.s = g.s ∧ h.pc = g.pc ∧
      (g.retired = false → ∃ n, h.notices = g.notices ++ [n] ∧ n.code = 0x0A ∧ n.s58 = 1#32)) ∧
    (∀ k p, s.linePhys k = some p → ∃ t, exec (.uncorrectableError none k) s = .next t ∧ t.mem = s.mem ∧
      ((s.line k).res ≠ 0#4 → (s.line k).dirty = false → (t.line k).res = (if (s.line k).pin.isSome then (s.line k).res else 0#4) ∧ (t.line k).poisoned = (s.line k).poisoned) ∧
      (let bk := blockKey (keyBasin k) (keyObj k) (keyLine k)
       let clean := (s.line k).res = 0#4 ∧ (s.block bk).msc ≠ 0#4 ∧ (s.block bk).newer = false
       let spare := (s.line k).res = 0#4 ∧ (s.block bk).msc = 0#4 ∧ 2 ≤ (s.extent (k / 512)).reps.length
       (clean → (t.block bk).msc = 0#4 ∧ t.lines = s.lines) ∧ (spare → t = s) ∧
       (((s.line k).res = 0#4 ∨ (s.line k).dirty = true) → ¬ clean → ¬ spare → (t.line k).poisoned = true)) ∧ (t.line k).version = (s.line k).version) ∧
    (∀ p b obj ext, Config.retireThreshold < NMap.getD s.eccs p 0 → NMap.get? s.phys p = some (.mapped b obj ext) →
      let k := extKey b obj ext
      let fresh := (s.reserveExt b (p / 65536 / 64)).or (s.pickExt b (p / 65536 / 64))
      ∃ t, exec (.extentRetirement p) s = .next t ∧ t.mem = s.mem ∧ t.quads = s.quads ∧ t.lines = s.lines ∧
        (∀ f, fresh = some f → NMap.get? t.phys p = some .retired ∧
          ((s.extent k).chan = p / 65536 → (s.extent k).idx = p % 65536 → (t.extent k).chan = f.1 ∧ (t.extent k).idx = f.2)) ∧
        (fresh = none → (t.extent k).pz = true))

/-- QUANTUM_END gives the turn to the next basin with work, after the one whose turn ended or that left the order, or
another quantum when there is none; the shared quadrants that nobody holds pass to the basin whose turn it is, and
those of the basin that loses it are told to stop. HALT of a quadrant told to stop, with every group at rest and every
write of it acknowledged, saves its registers and pcs under its basin and leaves no group in it; with the last
quadrant of a slot its accumulators are saved too. RESTORE brings a saved quadrant back with the same registers,
predicates, em and pcs, and the accumulators of its slot, running; one with nothing saved just runs. POWER_ON brings
the device up and logs the stacks and ports that failed to train, or leaves a boot failure with MBSTAT 0xFF.
THROTTLE_CHANGE takes a legal setting at most once in 2^22 custodian cycles. THERMAL_TRIP tells every basin to halt
and TRIP_CLEARS lets it go. None of them changes a byte of memory. (R254, R255, R256, R257, R258, R259, R275, R276,
R206) -/
def Obligations.SwitchesAndModuleStepsComplete : Prop :=
  ∀ (s : State),
    let given := fun (t : State) (b : Nat) => t.mem = s.mem ∧ t.turn = some (b, s.custCycle) ∧
      ∀ q ∈ s.quadIds s.sharedSlots, (s.quadOr q).basin = none → ∃ y, t.quad? q = some y ∧ y.basin = some b ∧ y.halted = true ∧ y.groups = []
    (∀ b, s.tripped = false → s.turn = none → s.nextTurn s.lastTurn = some b → ∃ t, exec .quantumEnd s = .next t ∧ given t b ∧
      ∀ q x, s.quad? q = some x → x.basin.isSome = true → t.quad? q = some x) ∧
    (∀ b since, s.tripped = false → s.turn = some (b, since) → since + (s.basin b).quantum ≤ s.custCycle →
      (∀ e ∈ s.quads, e.2.halted = true → ∀ c, e.2.basin = some c → (s.basin c).sliced = false) →
      (s.nextTurn b = none → ∃ t, exec .quantumEnd s = .next t ∧ given t b ∧ ∀ q x, s.quad? q = some x → x.basin.isSome = true → t.quad? q = some x) ∧
      (∀ n, s.nextTurn b = some n → ∃ t, exec .quantumEnd s = .next t ∧ given t n ∧
        ∀ q x, s.quad? q = some x → x.basin.isSome = true → t.quad? q = some (if x.basin = some b then { x with halted := true } else x))) ∧
    (∀ q x b, s.quad? q = some x → x.basin = some b → x.halted = true → s.isSaved b q = false → s.quadQuiet q x = true →
      ∃ t y, exec (.halt q) s = .next t ∧ t.mem = s.mem ∧ t.quad? q = some y ∧ y.groups = [] ∧ y.halted = true ∧
        y.tag = x.tag + 1#32 ∧ (∃ sv, (b, sv) ∈ t.saved ∧ sv.quad = q ∧ ∀ slot g, NMap.get? x.groups slot = some g →
          ∃ h, NMap.get? sv.image.groups slot = some h ∧ h.v = g.v ∧ h.s = g.s ∧ h.p = g.p ∧ h.h = g.h ∧ h.em = g.em ∧ h.pc = g.pc ∧
            h.stack = g.stack ∧ h.status = g.status) ∧
        ((∀ e ∈ s.quads, slotOf e.1 = slotOf q → e.1 = q ∨ s.isSaved b e.1 = true) → ∃ en, (b, en) ∈ t.savedEng ∧ en.qs = slotOf q ∧
          en.image.acc = (s.engine (slotOf q)).acc ∧ en.image.holder = (s.engine (slotOf q)).holder)) ∧
    (∀ q x b, s.quad? q = some x → x.basin = some b → x.halted = true → s.tripped = false → (s.basin b).moving = false → s.turnOf b = some b →
      ((s.basin b).sliced = true → ∀ e ∈ s.quads, ∀ c, e.2.basin = some c → c ≠ b → (s.basin c).sliced = false) →
      (s.saved.find? (fun e => e.1 == b && e.2.quad == q) = none → exec (.restore q) s =
        .next (s.setQuad q { x with halted := false, groups := x.groups.map (fun e => (e.1, { e.2 with yieldFor := [] })) })) ∧
      ∀ sv, s.saved.find? (fun e => e.1 == b && e.2.quad == q) = some (b, sv) → ∃ t y, exec (.restore q) s = .next t ∧ t.mem = s.mem ∧
        t.quad? q = some y ∧ y.halted = false ∧ y.tag = x.tag ∧ (∀ slot g, NMap.get? sv.image.groups slot = some g →
          ∃ h, NMap.get? y.groups slot = some h ∧ h.v = g.v ∧ h.s = g.s ∧ h.p = g.p ∧ h.em = g.em ∧ h.pc = g.pc ∧ h.stack = g.stack) ∧
        ∀ en, s.savedEng.find? (fun e => e.1 == b && e.2.qs == slotOf q) = some (b, en) →
          (t.engine (slotOf q)).acc = en.image.acc ∧ (t.engine (slotOf q)).holder = en.image.holder) ∧
    (s.powered = false → s.bootFailed = false → ∃ t, exec .powerOn s = .next t ∧ t.mem = s.mem ∧ t.quads = s.quads ∧ t.basins = s.basins ∧
      ((t.powered = true ∧ t.bootFailed = false ∧ t.upAt = s.now ∧ t.outbox = s.outbox ++ [.disabled t.downStacks t.downPorts] ∧ (∀ c ∈ t.sites, c / 16 < 4 ∧ c % 16 < 13) ∧
          (∀ k ∈ t.downStacks, k < 8) ∧ ∀ k ∈ t.downPorts, k < 36) ∨
       (t.powered = false ∧ t.bootFailed = true ∧ t.pf.mbstat = 0xFF#32))) ∧
    (∀ tokens gap, s.powered = true → 2 ≤ tokens → tokens ≤ 8 → gap ≤ 24 → (∀ t, s.lastThrottle = some t → t + 2 ^ 22 ≤ s.custCycle) →
      ∃ t, exec (.throttleChange tokens gap) s = .next t ∧ t.tokensSet = tokens ∧ t.gapSet = gap ∧ t.lastThrottle = some s.custCycle ∧
        t.rings = s.rings ∧ t.gaps = s.gaps ∧ t.mem = s.mem ∧ t.quads = s.quads ∧
        NMap.getD t.field fieldSetting 0 = min (NMap.getD s.field fieldSetting 0 + 1) (2 ^ 64 - 1)) ∧
    (s.powered = true → s.tripped = false → ∃ t, exec .thermalTrip s = .next t ∧ t.tripped = true ∧ t.mem = s.mem ∧
      ∀ q x, s.quad? q = some x → t.quad? q = some (if x.basin.isSome then { x with halted := true } else x)) ∧
    (s.tripped = true → exec .tripClears s = .next { s with tripped := false })

/-- The oldest call of a basin, in its mailbox or with its block at hand, ends: the call is over, and the mailbox has its
status and is not busy, or the calling group has it and keeps its registers. OBJ_CREATE of a number that is free, with
an image that can be read or without one, ends with 0, 4 or 6; exactly on 0 the object is there, with the bytes of the
image; 3 when it exists, 2 for attributes that R228 forbids. OBJ_DESTROY of an object that nothing uses removes it;
one in use begins and waits, with its block read once; 3 when there is none. EXT_MAP of an absent extent of a first-
touch object with a free extent maps it; EXT_UNMAP removes one that nothing uses; EXT_REFUSE of an absent one empties
its park list, answers each request there with a data error, and ends those that stand for a COLL or a LAUNCH.
OBJ_EXPORT to a bound peer enters the export. OBJ_IMPORT ends with 0 and the import, or 7. SET_HANDLER of an aligned
offset of an executable object registers it. OBJ_QUERY, POOL_QUERY and ATTEST end with 0; in the mailbox the first two
give the descriptor and the free extents of each die. That a call whose outputs are written writes them with status 0
alone, and that OBJ_DESTROY begins at once and ends when nothing that passed its checks is outstanding, is read from
R235 and R237 (log 39, DEDUCED). That EXT_REFUSE ends the requests that stand for a COLL or a LAUNCH, whose
instruction then meets its access again, is read from R242 (log 47, DEDUCED). (R234, R235, R236, R237, R240, R242,
R243, R269, R275, R323) -/
def Obligations.ObjectCallsEndWithTheirStatus : Prop :=
  ∀ (s : State) (caller : Nat) (c : Call) (rest : List Call), caller < 16 → s.callsOf caller = c :: rest →
    let box := (List.range 64).map (fun i => NMap.getD (s.winOf caller).mbox i 0#8)
    let bs : List Byte := c.held.getD (match c.fromGroup with
      | none => box
      | some o => s.custBytes o.basin c.block 64)
    let hand := ∀ o, c.fromGroup = some o → if c.held = none then s.custMeets o.basin c.block 64 true = .ok
      else capDev c.block = devHere → s.custMeets o.basin c.block 64 true ≠ .wait
    let u : State := match c.held, c.fromGroup with
      | none, some o => s.custDone o.basin c.block 64
      | _, _ => s
    let ends := fun (x : Out) (st : Word) (P : State → Prop) => ∃ t, x = .next t ∧ P t ∧ t.callsOf caller = rest ∧
      (c.fromGroup = none → (t.winOf caller).mbstat = st ∧ (t.winOf caller).busy = false) ∧
      (∀ o g, c.fromGroup = some o → s.ownerGroup? o = some g → g.wait = .call → ∃ h, t.group? o.q o.slot = some h ∧
        h.wait = .status st ∧ h.v = g.v ∧ h.s = g.s ∧ h.p = g.p ∧ h.pc = g.pc)
    let out := fun (t : State) (at_ n v : Nat) => c.fromGroup = none → ∀ i, i < n →
      NMap.getD (t.winOf caller).mbox (0x20 + at_ + i) 0#8 = BitVec.ofNat 8 (v / 256 ^ i)
    let b := s.basin caller
    let obj := blk bs 0 8
    let cap := blkCap bs 0
    let x := capOfs cap / 65536
    let k := extKey caller (capObj cap) x
    let there := fun (P : ObjDesc → Prop) => capDev cap = devHere ∧ ∃ d, NMap.get? b.objs (capObj cap) = some d ∧ capOfs cap ≤ d.sizeM1 ∧ P d
    let st := fun (n : Nat) => BitVec.ofNat 32 n
    let size := blk bs 8 8
    let d := descOf size (blk bs 0x10 8)
    let img := blkCap bs 0x18
    hand →
    (c.fn = 0x01 → obj ≤ 16382 → 0 < size → size ≤ 2 ^ 40 →
      (d.allowed = false → ends (exec (.objCreate caller) s) (st 2) (fun t => (t.basin caller).objs = b.objs)) ∧
      (d.allowed = true → img = 0#64 ∨ (d.ft = false ∧ checkAccess b img (capOfs img) size 1 Rights.r = .ok ()) →
        (NMap.has b.objs obj = true → ends (exec (.objCreate caller) s) (st 3) (fun t => (t.basin caller).objs = b.objs)) ∧
        (NMap.has b.objs obj = false → (img = 0#64 ∨ u.custMeets caller img size false = .ok) → ∃ n, ends (exec (.objCreate caller) s) (st n) (fun t =>
          (n = 0 → (∃ a, NMap.get? (t.basin caller).objs obj = some { d with list := a }) ∧ out t 0 8 (mkCap devHere obj 0).toNat ∧
            (c.fromGroup = none → img ≠ 0#64 → capDev img = devHere → ∀ i, i < size →
              t.readByte (memKey caller obj i) = s.readByte (memKey caller (capObj img) (capOfs img + i)))) ∧
          (n ≠ 0 → (n = 4 ∨ n = 6) ∧ (t.basin caller).objs = b.objs) ∧ (d.ft = true → n = 0))))) ∧
    (c.fn = 0x02 → obj ≤ 16382 → (s.objHere caller obj = false → ends (exec (.objDestroy caller) s) (st 3) (fun t => (t.basin caller).objs = b.objs)) ∧
      (NMap.has b.objs obj = true → s.objBusy caller obj = false → ends (exec (.objDestroy caller) s) (st 0) (fun t =>
        NMap.get? (t.basin caller).objs obj = none ∧ ∀ e ∈ (t.basin caller).exports, e.obj ≠ obj)) ∧
      (NMap.has b.objs obj = true → ((u.holdBlock caller bs).beginDestroy caller obj).objBusy caller obj = true →
        ∃ t, exec (.objDestroy caller) s = .next t ∧ t.mem = s.mem ∧ t.callsOf caller = { c with held := some bs } :: rest ∧
          NMap.get? (t.basin caller).objs obj = none ∧ obj ∈ (t.basin caller).dying)) ∧
    (c.fn = 0x03 → there (fun d => d.ft = true) → (s.extent k).v = false → (s.mapExt caller (capObj cap) x).isSome = true →
      ends (exec (.extMap caller) s) (st 0) (fun t => (t.extent k).v = true)) ∧
    (c.fn = 0x04 → there (fun d => d.ft = true) → (s.extent k).v = true → s.extBusy k = false →
      ends (exec (.extUnmap caller) s) (st 0) (fun t => (t.extent k).v = false)) ∧
    (c.fn = 0x05 → there (fun d => d.ft = true) → (s.extent k).v = false →
      ends (exec (.extRefuse caller) s) (st 0) (fun t => (t.extent k).parked = [] ∧ (t.extent k).v = false ∧
        ∀ i r, i ∈ (s.extent k).parked → i < s.nextId → s.req? i = some r → (∀ q, r.kind ≠ .promote q) →
          (r.kind.isProbe = true → t.req? i = none) ∧
          (r.kind.isProbe = false → ∃ z, t.req? i = some z ∧ z.st = .performed ∧ z.err = some 2))) ∧
    (c.fn = 0x06 → obj ≤ 16383 → blk bs 8 8 ≤ 1022 → NMap.has b.peers (blk bs 8 8) = true → ∀ d, NMap.get? b.objs obj = some d →
      ends (exec (.objExport caller) s) (st 0) (fun t => { obj := obj, peer := blk bs 8 8, rd := (blk bs 0x10 8).testBit 0 && d.rd, wr := (blk bs 0x10 8).testBit 1 && d.wr } ∈ (t.basin caller).exports)) ∧
    (c.fn = 0x07 → blk bs 0 8 ≤ 1022 → blk bs 8 8 ≤ 16383 → NMap.has b.peers (blk bs 0 8) = true → b.imports.length < 4096 →
      (∀ d ∈ b.imports, ¬ (d.dev = blk bs 0 8 ∧ d.onum = blk bs 8 8)) → ∃ n, (n = 0 ∨ n = 7) ∧
      ends (exec (.objImport caller) s) (st n) (fun t => (n = 7 → (t.basin caller).imports = b.imports) ∧
        (n = 0 → out t 0 8 (mkCap (blk bs 0 8) (blk bs 8 8) 0).toNat ∧
          ∃ d, (t.basin caller).imports = b.imports ++ [d] ∧ d.dev = blk bs 0 8 ∧ d.onum = blk bs 8 8))) ∧
    (c.fn = 0x08 → there (fun d => d.ex = true) → capOfs cap % 4 = 0 →
      ends (exec (.setHandler caller) s) (st 0) (fun t => (t.basin caller).handler = some cap)) ∧
    (c.fn = 0x09 → obj ≤ 16383 → ∀ d, NMap.get? b.objs obj = some d →
      ends (exec (.objQuery caller) s) (st 0) (fun t => (t.basin caller).objs = b.objs ∧ out t 0 32 (d.image obj))) ∧
    (c.fn = 0x0A → ends (exec (.poolQuery caller) s) (st 0) (fun t => (t.basin caller).objs = b.objs ∧
      ∀ d, d < 4 → out t (4 * d) 4 (s.poolCount caller d))) ∧
    (c.fn = 0x0B → let a := blkCap bs 0x10
      checkAccess b a (capOfs a) 256 256 Rights.w = .ok () → u.custMeets caller a 256 true = .ok →
      ends (exec (.attest caller) s) (st 0) (fun t => (t.basin caller).objs = b.objs))

/-- The oldest call of physical function 0 ends: BASIN_CREATE of a free basin with free resources of stacks that trained,
no extent of another basin in them (log 12), creates it, the control basin only once; BASIN_SLOTS gives it shared
slots; BASIN_START of a created basin with credits and slots, fixed or time-sliced with a quantum in range, ends with
0 and the basin started under a new key, or with 4; BASIN_REVOKE takes its key, its bytes and its handler and leaves
every other basin its quadrants; BASIN_RELEASE makes it free; BASIN_MOVE of a movable basin begins by halting it, or
ends with 3, 4 or 7, and once its quadrants are saved sends it, without its key, and revokes it here; BASIN_SLOTQUERY
ends with 0; PEER_BIND enters the peer with 0, or ends with 7; STACK_BUDGET sets CAP and RATE. Each of the nine calls
that a group of a basin without control makes ends with 5 and changes no phase of a basin and no byte. That
BASIN_SLOTS may be called twice is read from R249 (log 45, DEDUCED), and that the bytes of a revoked basin read 0 is
the choice of the model (log 7, DESIGN CHOICE). (R248, R249, R250, R251, R252, R253, R260, R271, R118, R269, R323) -/
def Obligations.HypervisorCallsEndWithTheirStatus : Prop :=
  ∀ (s : State) (c : Call) (rest : List Call),
    (∀ caller o, caller < 16 → (s.basin caller).control = false → (s.basin caller).calls = c :: rest → c.fromGroup = some o →
      (if c.held = none then s.custMeets o.basin c.block 64 true = .ok else capDev c.block = devHere → s.custMeets o.basin c.block 64 true ≠ .wait) →
      ∀ e ∈ [(0x40, Instr.basinCreate caller), (0x41, Instr.basinSlots caller), (0x42, Instr.basinStart caller), (0x43, Instr.basinRevoke caller),
        (0x44, Instr.basinRelease caller), (0x45, Instr.basinMove caller), (0x46, Instr.basinSlotquery caller), (0x47, Instr.peerBind caller),
        (0x48, Instr.stackBudget caller)], c.fn = e.1 →
      ∃ t, exec e.2 s = .next t ∧ t.mem = s.mem ∧ (t.basin caller).calls = rest ∧ (∀ k, (t.basin k).phase = (s.basin k).phase) ∧
        ∀ g, s.ownerGroup? o = some g → g.wait = .call → ∃ h, t.group? o.q o.slot = some h ∧ h.wait = .status 5#32 ∧ h.v = g.v ∧ h.s = g.s ∧ h.pc = g.pc) ∧
    (s.pfCalls = c :: rest → c.fromGroup = none →
    let bs := c.held.getD ((List.range 64).map (fun i => NMap.getD s.pf.mbox i 0#8))
    let ends := fun (x : Out) (st : Nat) (P : State → Prop) => ∃ t, x = .next t ∧ P t ∧ t.pfCalls = rest ∧
      t.pf.mbstat = BitVec.ofNat 32 st ∧ t.pf.busy = false
    let b := blk bs 0 4
    let x := s.basin b
    let slices := maskSet 64 (blk bs 8 8)
    let groups := maskSet 64 (blk bs 0x10 8)
    b ≤ 15 →
    (c.fn = 0x40 → x.phase = .free → (blk bs 4 4) % 4 ≤ 1 → ((blk bs 4 4).testBit 8 = true → ∀ e ∈ s.basins, e.2.control = false) → slices ≠ [] → groups ≠ [] →
      (∀ e ∈ s.basins, (∀ k ∈ slices, k ∉ e.2.slices) ∧ ∀ k ∈ groups, k ∉ e.2.groups) → (∀ k ∈ groups, k / 8 ∉ s.downStacks ∧ s.lentGroup k = false) →
      ends (exec (.basinCreate 16) s) 0 (fun t => (t.basin b).phase = .created ∧ (t.basin b).slices = slices ∧
        (t.basin b).groups = groups ∧ (t.basin b).sliced = ((blk bs 4 4) % 4 == 1) ∧ (t.basin b).control = (blk bs 4 4).testBit 8)) ∧
    (c.fn = 0x41 → x.phase = .created → x.sliced = false → (∀ e ∈ s.basins, ¬ (e.2.phase = .started ∧ e.2.sliced = true)) →
      let slots := maskSet 192 (blk bs 8 8 + 2 ^ 64 * blk bs 0x10 8 + 2 ^ 128 * blk bs 0x18 8)
      (∀ n ∈ slots, n ∈ s.sharedSlots) → ends (exec (.basinSlots 16) s) 0 (fun t => ∀ n, n < 192 → (n ∈ (t.basin b).slots ↔ n ∈ x.slots ∨ n ∈ slots))) ∧
    (c.fn = 0x42 → x.phase = .created → blk bs 0x10 4 ≠ 0 → (x.sliced = false → x.slots ≠ []) →
      (x.sliced = true → 500000 ≤ blk bs 4 4 ∧ blk bs 4 4 ≤ 500000000 ∧ s.sharedSlots ≠ []) →
      s.basins.foldl (fun n e => if e.2.phase = .started then n + e.2.credits else n) (blk bs 0x10 4) ≤ 32 → ∃ n, (n = 0 ∨ n = 4) ∧
      ends (exec (.basinStart 16) s) n (fun t => (n = 4 → (t.basin b).phase = .created) ∧ (n = 0 → (t.basin b).phase = .started ∧
        (t.basin b).key = some s.keyDraws ∧ (t.basin b).credits = blk bs 0x10 4 ∧ (t.basin b).watchdog = blk bs 8 8 ∧
        (t.basin b).quantum = if x.sliced then blk bs 4 4 else 0))) ∧
    (c.fn = 0x43 → x.phase = .started → ends (exec (.basinRevoke 16) s) 0 (fun t => (t.basin b).phase = .revoked ∧ (t.basin b).key = none ∧
      (t.basin b).handler = none ∧ (∀ z, z / 2 ^ 54 = b → t.readByte z = 0#8) ∧ (∀ z, z / 2 ^ 54 ≠ b → t.readByte z = s.readByte z) ∧
      ∀ q y d, s.quad? q = some y → y.basin = some d → d ≠ b → ∃ z, t.quad? q = some z ∧ z.basin = y.basin ∧ z.halted = y.halted)) ∧
    (c.fn = 0x44 → x.phase = .revoked → ends (exec (.basinRelease 16) s) 0 (fun t => (t.basin b).phase = .free ∧ (t.basin b).slots = [] ∧ ∀ z, z / 2 ^ 54 ≠ b → t.readByte z = s.readByte z)) ∧
    (c.fn = 0x45 → x.moving = false → blk bs 4 4 ≤ 1022 → blk bs 8 4 ≤ 15 → x.phase = .started → x.exports = [] → x.imports = [] →
      NMap.has x.peers (blk bs 4 4) = true → (∃ t, exec (.basinMove 16) s = .next t ∧ t.mem = s.mem ∧ t.pfCalls = { c with held := some bs } :: rest ∧ (t.basin b).moving = true) ∨
        ∃ n, (n = 3 ∨ n = 4 ∨ n = 7) ∧ ends (exec (.basinMove 16) s) n (fun t => t.mem = s.mem ∧ (t.basin b).phase = .started ∧ (t.basin b).moving = false)) ∧
    (c.fn = 0x45 → x.moving = true → s.allSaved b = true → (∀ e ∈ x.calls, e.fn = 0x45) → ends (exec (.basinMove 16) s) 0 (fun t =>
      (t.basin b).phase = .revoked ∧ (t.basin b).key = none ∧ .moved (blk bs 4 4) (s.toImage b (blk bs 8 4)) ∈ t.outbox ∧ (s.toImage b (blk bs 8 4)).basin.key = none)) ∧
    (c.fn = 0x46 → ends (exec (.basinSlotquery 16) s) 0 (fun t => ∀ k, (t.basin k).phase = (s.basin k).phase)) ∧
    (c.fn = 0x47 → x.phase = .created ∨ x.phase = .started → blk bs 4 4 ≤ 1022 → blk bs 8 4 ≤ 1023 → blk bs 0xC 4 ≤ 15 → NMap.has x.peers (blk bs 4 4) = false → ∃ n, (n = 0 ∨ n = 7) ∧
      ends (exec (.peerBind 16) s) n (fun t => n = 0 → NMap.get? (t.basin b).peers (blk bs 4 4) = some (blk bs 8 4, blk bs 0xC 4))) ∧
    (c.fn = 0x48 → b ≤ 7 → (∀ e ∈ s.basins, e.2.phase = .started → s.custMeets e.1 (mkCap devHere 16383 (0x100 + 8 * b)) 8 true ≠ .wait) → budgetOk (blk bs 4 4) = true → budgetOk (blk bs 8 4) = true →
      ends (exec (.stackBudget 16) s) 0 (fun t => t.stackCfg b = (blk bs 4 4, blk bs 8 4))))

/-- State.reset: the device is not up, no byte of memory is listed and every byte reads 0, memory is in order, no extent
is mapped, every basin number is free, no quadrant is held, no group exists, no request is outstanding, no error
record is held, no trip holds and the token setting is 8. That unlisted bytes read 0 rests on R232 and R40 (mapped
memory is scrubbed); the token setting is the unthrottled one (log entry 6). (R8, R40, R206, R232, R250, R265) -/
def Obligations.ResetLeavesADeviceThatIsOff : Prop :=
  State.reset.powered = false ∧ State.reset.mem = [] ∧ Memory.wf State.reset.mem = true ∧ (∀ k, State.reset.readByte k = 0#8) ∧
    (∀ k, (State.reset.extent k).v = false) ∧ (∀ b, (State.reset.basin b).phase = .free) ∧ (∀ q, State.reset.quad? q = none) ∧
    (∀ q slot, State.reset.group? q slot = none) ∧ State.reset.reqs = [] ∧ State.reset.inbound = [] ∧ State.reset.errHeld = [] ∧
    State.reset.tripped = false ∧ State.reset.tokensSet = 8 ∧ State.reset.turn = none

/-- When the next move is the issue of a quadrant whose issuing group has not issued in this cycle, has no descent members
left to pass, and the words at its pc can be fetched and decode to i, then the step is exec i on the state in which
the move is taken from the agenda, the quadrant is marked as having issued and that group is the current one. When the
words do not decode and the structure of the jet is in order, the step is trap entry with the illegal-encoding cause
0x01 from that group, with no other effect. When a word cannot be fetched, the step is trap entry with the cause that
the fetch gives; a poisoned line is recorded first. A move that names an instruction that has an encoding is refused:
it runs only from its words. That a fetch trap has s58 = 0 when its first word cannot be fetched and comes before
every check of the jet is read from R229, R230 and R54 (log 17, DEDUCED); that a data error of a fetch is taken at the
instruction is the choice of the model (log 19, DESIGN CHOICE). (R35, R43, R54, R57, R58, R230, R262) -/
def Obligations.StepRunsTheDecodedInstruction : Prop :=
  (∀ (s : State) (q slot : Nat) (rest : List Move) (x : Quad) (g : Group) (w0 w1 : Word) (i : Instr),
    s.agenda = .issue q :: rest → s.quad? q = some x → x.issuing = some slot → x.issued = none → NMap.get? x.groups slot = some g →
    let t : State := { { s with agenda := rest }.setQuad q { x with issued := some slot } with cur := (q, slot) }
    t.fetch g = .ok (w0, w1) → g.jetOr.dscLeft = 0 → decode w0 w1 = .ok i →
    step s = exec i t) ∧
    (∀ (s : State) (q slot : Nat) (rest : List Move) (x : Quad) (g : Group) (w0 w1 : Word) (e : DecErr),
      s.agenda = .issue q :: rest → s.quad? q = some x → x.issuing = some slot → x.issued = none → NMap.get? x.groups slot = some g →
      let t : State := { { s with agenda := rest }.setQuad q { x with issued := some slot } with cur := (q, slot) }
      t.fetch g = .ok (w0, w1) → g.jetOr.dscLeft = 0 → decode w0 w1 = .error e → g.jetOr.plan = none → g.jetOr.pos < 23 →
      (overrunFirstWord (W1.ofWord w0) = true → g.jetOr.pos = 0) → isTrailWord (W1.ofWord w0) = false →
      step s = .next ((t.setGroup q slot g.opened).takeTrap q slot (w0, w1) (wordLen w0) (Trap.plain 0x01))) ∧
    (∀ (s : State) (q slot : Nat) (rest : List Move) (x : Quad) (g : Group) (w0 : Word) (tr : Trap),
      s.agenda = .issue q :: rest → s.quad? q = some x → x.issuing = some slot → x.issued = none → NMap.get? x.groups slot = some g →
      let t : State := { { s with agenda := rest }.setQuad q { x with issued := some slot } with cur := (q, slot) }
      t.fetch g = .error tr → (t.fetchWord g g.pc = .ok w0 ∨ w0 = 0#32 ∧ ∃ e, t.fetchWord g g.pc = .error e) →
      step s = .next (((t.fetchError g tr).setGroup q slot g.opened).takeTrap q slot (w0, 0#32) (wordLen w0) tr)) ∧
    (∀ (s : State) (i : Instr) (rest : List Move), s.agenda = .event i :: rest → (encode i).isSome = true → ∃ r, step s = .refused r)

/-- For every state whose memory is in order (offsets strictly rising, no listed byte equal to what an unlisted byte reads
as), every step of the machine, whatever move it takes and whatever instruction or event runs, leads to a state whose
memory is in order. That unlisted bytes read 0 is the scrubbing of R232. (R225, R232, R128) -/
def Obligations.MemoryStaysInOrder : Prop :=
  ∀ s t : State, MemoryInOrder s → step s = .next t → MemoryInOrder t

/-- For every well-formed instruction that has an encoding, at every value that its operands admit, the encoder gives
words, and decoding them gives back exactly that instruction; the length of the first word is the length that the
encoder gives. No bit of an encoding is dropped. (R56, R57, R58, R59, R60, R61, R65) -/
def Obligations.DecodingInvertsEncoding : Prop :=
  ∀ (i : Instr) (w0 : Word) (w1 : Option Word), WellFormed i = true → encode i = some (w0, w1) →
    decode w0 (w1.getD 0#32) = .ok i ∧ wordLen w0 = instrLen i ∧ (w1.isSome = true ↔ instrLen i = 8)

/-- Each word or pair of words that the encoding chapter prints for a written line decodes to that instruction, field by
field: IADD, IADD.nw, FMUL, XOR, HMOV of the lane set, IADD and ISUB of the uniform set, IMAD under a guard, MOVI of
both sets, LD.acq.crew, LDS, ISETP, BRA, JMP, NOP, IADD and SHL of the lane number, and ST. (R57, R58, R60, R61, R63,
R64, R67, R68, R69, R71, R72, R75) -/
def Obligations.PrintedWordsDecode : Prop :=
  decode 0x02050280#32 0#32 = .ok (.iaddLane false 5#7 (.v 2#7) (.latch 0#3)) ∧
    decode 0x028502A7#32 0#32 = .ok (.iaddLane true 5#7 (.v 2#7) (.imm 23#5)) ∧
    decode 0x160788B1#32 0#32 = .ok (.fmul false 7#7 .fq (.fconst 1#4)) ∧
    decode 0x0D038BC9#32 0#32 = .ok (.xorLane false 3#7 .tileid (.s 9#6)) ∧
    decode 0x1B030900#32 0#32 = .ok (.hmov false 3#4 9#8) ∧
    decode 0x82030145#32 0#32 = .ok (.iaddUniform 3#6 (.s 1#6) (.imm 5#7)) ∧
    decode 0x830404BF#32 0#32 = .ok (.isubUniform 4#6 (.s 4#6) (.imm 0x7F#7)) ∧
    decode 0x400502A1#32 0x38000000#32 = .ok (.imad false { neg := false, p := 3#3 } 5#7 (.v 2#7) (.imm 17#5) (.latch 0#3) .wrap) ∧
    decode 0x4A0A0000#32 0x3F800000#32 = .ok (.moviLane false 10#7 0x3F800000#32) ∧
    decode 0xC0090000#32 0xFFFFFFFF#32 = .ok (.moviUniform 9#6 0xFFFFFFFF#32) ∧
    decode 0x80000000#32 0#32 = .ok .nop ∧
    decode 0x020289A7#32 0#32 = .ok (.iaddLane false 2#7 .laneid (.imm 7#5)) ∧
    decode 0x0F0189A2#32 0#32 = .ok (.shlLane false 1#7 .laneid (.imm 2#5)) ∧
    decode 0x5308048A#32 0x74480040#32 = .ok (.ld Guard.none 8#7 (.v 4#7) .zero .b32 (.acq .crew) .normal 0x40#16) ∧
    decode 0x5703C28A#32 0x74000010#32 = .ok (.lds Guard.none 3#7 (.s 2#6) .zero .b32 .plain 16#16) ∧
    decode 0x42010406#32 0x70020000#32 = .ok (.isetpLane false Guard.none 1#3 (.v 4#7) (.v 6#7) .ltS) ∧
    decode 0x5F000000#32 0x90000005#32 = .ok (.bra { neg := true, p := 1#3 } 5#16) ∧
    decode 0xC3000700#32 0x30FFFFF4#32 = .ok (.jmp (.test .lt (.s 7#6)) 0xFFFFF4#24) ∧
    decode 0x5402C001#32 0x74000000#32 = .ok (.st Guard.none 2#7 (.s 0#6) (.v 1#7) .b32 .plain .normal 0#16)
end

