-- ==== Sys2Proof/Laws/Exec.lean ====
section
/-! SUPPORT. The dispatch, one equation a constructor: `exec` of an instruction is its meaning. -/

namespace Sys2Proof.Machine

theorem exec_movLane {s : State} {a0} {a1} {a2} : exec (.movLane a0 a1 a2) s = execMovLane a0 a1 a2 s := rfl
theorem exec_iaddLane {s : State} {a0} {a1} {a2} {a3} : exec (.iaddLane a0 a1 a2 a3) s = execIaddLane a0 a1 a2 a3 s := rfl
theorem exec_isubLane {s : State} {a0} {a1} {a2} {a3} : exec (.isubLane a0 a1 a2 a3) s = execIsubLane a0 a1 a2 a3 s := rfl
theorem exec_imulLane {s : State} {a0} {a1} {a2} {a3} : exec (.imulLane a0 a1 a2 a3) s = execImulLane a0 a1 a2 a3 s := rfl
theorem exec_imulhiS32 {s : State} {a0} {a1} {a2} {a3} : exec (.imulhiS32 a0 a1 a2 a3) s = execImulhiS32 a0 a1 a2 a3 s := rfl
theorem exec_imulhiN32 {s : State} {a0} {a1} {a2} {a3} : exec (.imulhiN32 a0 a1 a2 a3) s = execImulhiN32 a0 a1 a2 a3 s := rfl
theorem exec_iminS32Lane {s : State} {a0} {a1} {a2} {a3} : exec (.iminS32Lane a0 a1 a2 a3) s = execIminS32Lane a0 a1 a2 a3 s := rfl
theorem exec_iminN32 {s : State} {a0} {a1} {a2} {a3} : exec (.iminN32 a0 a1 a2 a3) s = execIminN32 a0 a1 a2 a3 s := rfl
theorem exec_imaxS32Lane {s : State} {a0} {a1} {a2} {a3} : exec (.imaxS32Lane a0 a1 a2 a3) s = execImaxS32Lane a0 a1 a2 a3 s := rfl
theorem exec_imaxN32 {s : State} {a0} {a1} {a2} {a3} : exec (.imaxN32 a0 a1 a2 a3) s = execImaxN32 a0 a1 a2 a3 s := rfl
theorem exec_andLane {s : State} {a0} {a1} {a2} {a3} : exec (.andLane a0 a1 a2 a3) s = execAndLane a0 a1 a2 a3 s := rfl
theorem exec_orLane {s : State} {a0} {a1} {a2} {a3} : exec (.orLane a0 a1 a2 a3) s = execOrLane a0 a1 a2 a3 s := rfl
theorem exec_xorLane {s : State} {a0} {a1} {a2} {a3} : exec (.xorLane a0 a1 a2 a3) s = execXorLane a0 a1 a2 a3 s := rfl
theorem exec_notLane {s : State} {a0} {a1} {a2} : exec (.notLane a0 a1 a2) s = execNotLane a0 a1 a2 s := rfl
theorem exec_shlLane {s : State} {a0} {a1} {a2} {a3} : exec (.shlLane a0 a1 a2 a3) s = execShlLane a0 a1 a2 a3 s := rfl
theorem exec_shrN32Lane {s : State} {a0} {a1} {a2} {a3} : exec (.shrN32Lane a0 a1 a2 a3) s = execShrN32Lane a0 a1 a2 a3 s := rfl
theorem exec_shrS32Lane {s : State} {a0} {a1} {a2} {a3} : exec (.shrS32Lane a0 a1 a2 a3) s = execShrS32Lane a0 a1 a2 a3 s := rfl
theorem exec_popc {s : State} {a0} {a1} {a2} : exec (.popc a0 a1 a2) s = execPopc a0 a1 a2 s := rfl
theorem exec_clz {s : State} {a0} {a1} {a2} : exec (.clz a0 a1 a2) s = execClz a0 a1 a2 s := rfl
theorem exec_fadd {s : State} {a0} {a1} {a2} {a3} : exec (.fadd a0 a1 a2 a3) s = execFadd a0 a1 a2 a3 s := rfl
theorem exec_fsub {s : State} {a0} {a1} {a2} {a3} : exec (.fsub a0 a1 a2 a3) s = execFsub a0 a1 a2 a3 s := rfl
theorem exec_fmul {s : State} {a0} {a1} {a2} {a3} : exec (.fmul a0 a1 a2 a3) s = execFmul a0 a1 a2 a3 s := rfl
theorem exec_fmin {s : State} {a0} {a1} {a2} {a3} : exec (.fmin a0 a1 a2 a3) s = execFmin a0 a1 a2 a3 s := rfl
theorem exec_fmax {s : State} {a0} {a1} {a2} {a3} : exec (.fmax a0 a1 a2 a3) s = execFmax a0 a1 a2 a3 s := rfl
theorem exec_qret {s : State} {a0} : exec (.qret a0) s = execQret a0 s := rfl
theorem exec_dsc {s : State} {a0} {a1} : exec (.dsc a0 a1) s = execDsc a0 a1 s := rfl
theorem exec_hmov {s : State} {a0} {a1} {a2} : exec (.hmov a0 a1 a2) s = execHmov a0 a1 a2 s := rfl
theorem exec_imad {s : State} {a0} {a1} {a2} {a3} {a4} {a5} {a6} : exec (.imad a0 a1 a2 a3 a4 a5 a6) s = execImad a0 a1 a2 a3 a4 a5 a6 s := rfl
theorem exec_ffma {s : State} {a0} {a1} {a2} {a3} {a4} {a5} : exec (.ffma a0 a1 a2 a3 a4 a5) s = execFfma a0 a1 a2 a3 a4 a5 s := rfl
theorem exec_isetpLane {s : State} {a0} {a1} {a2} {a3} {a4} {a5} : exec (.isetpLane a0 a1 a2 a3 a4 a5) s = execIsetpLane a0 a1 a2 a3 a4 a5 s := rfl
theorem exec_fsetp {s : State} {a0} {a1} {a2} {a3} {a4} {a5} : exec (.fsetp a0 a1 a2 a3 a4 a5) s = execFsetp a0 a1 a2 a3 a4 a5 s := rfl
theorem exec_selLane {s : State} {a0} {a1} {a2} {a3} {a4} {a5} {a6} : exec (.selLane a0 a1 a2 a3 a4 a5 a6) s = execSelLane a0 a1 a2 a3 a4 a5 a6 s := rfl
theorem exec_bfe {s : State} {a0} {a1} {a2} {a3} {a4} {a5} {a6} : exec (.bfe a0 a1 a2 a3 a4 a5 a6) s = execBfe a0 a1 a2 a3 a4 a5 a6 s := rfl
theorem exec_bfi {s : State} {a0} {a1} {a2} {a3} {a4} {a5} : exec (.bfi a0 a1 a2 a3 a4 a5) s = execBfi a0 a1 a2 a3 a4 a5 s := rfl
theorem exec_fcvt {s : State} {a0} {a1} {a2} {a3} {a4} {a5} {a6} {a7} {a8} {a9} {a10} : exec (.fcvt a0 a1 a2 a3 a4 a5 a6 a7 a8 a9 a10) s = execFcvt a0 a1 a2 a3 a4 a5 a6 a7 a8 a9 a10 s := rfl
theorem exec_frnd {s : State} {a0} {a1} {a2} {a3} {a4} : exec (.frnd a0 a1 a2 a3 a4) s = execFrnd a0 a1 a2 a3 a4 s := rfl
theorem exec_fsfu {s : State} {a0} {a1} {a2} {a3} : exec (.fsfu a0 a1 a2 a3) s = execFsfu a0 a1 a2 a3 s := rfl
theorem exec_moviLane {s : State} {a0} {a1} {a2} : exec (.moviLane a0 a1 a2) s = execMoviLane a0 a1 a2 s := rfl
theorem exec_padd {s : State} {a0} {a1} {a2} {a3} {a4} {a5} {a6} : exec (.padd a0 a1 a2 a3 a4 a5 a6) s = execPadd a0 a1 a2 a3 a4 a5 a6 s := rfl
theorem exec_pmul {s : State} {a0} {a1} {a2} {a3} {a4} {a5} {a6} : exec (.pmul a0 a1 a2 a3 a4 a5 a6) s = execPmul a0 a1 a2 a3 a4 a5 a6 s := rfl
theorem exec_pfma {s : State} {a0} {a1} {a2} {a3} {a4} {a5} {a6} {a7} : exec (.pfma a0 a1 a2 a3 a4 a5 a6 a7) s = execPfma a0 a1 a2 a3 a4 a5 a6 a7 s := rfl
theorem exec_pmax {s : State} {a0} {a1} {a2} {a3} {a4} {a5} : exec (.pmax a0 a1 a2 a3 a4 a5) s = execPmax a0 a1 a2 a3 a4 a5 s := rfl
theorem exec_pmin {s : State} {a0} {a1} {a2} {a3} {a4} {a5} : exec (.pmin a0 a1 a2 a3 a4 a5) s = execPmin a0 a1 a2 a3 a4 a5 s := rfl
theorem exec_shfl {s : State} {a0} {a1} {a2} {a3} {a4} : exec (.shfl a0 a1 a2 a3 a4) s = execShfl a0 a1 a2 a3 a4 s := rfl
theorem exec_vote {s : State} {a0} {a1} {a2} {a3} {a4} : exec (.vote a0 a1 a2 a3 a4) s = execVote a0 a1 a2 a3 a4 s := rfl
theorem exec_red {s : State} {a0} {a1} {a2} {a3} {a4} : exec (.red a0 a1 a2 a3 a4) s = execRed a0 a1 a2 a3 a4 s := rfl
theorem exec_ld {s : State} {a0} {a1} {a2} {a3} {a4} {a5} {a6} {a7} : exec (.ld a0 a1 a2 a3 a4 a5 a6 a7) s = execLd a0 a1 a2 a3 a4 a5 a6 a7 s := rfl
theorem exec_st {s : State} {a0} {a1} {a2} {a3} {a4} {a5} {a6} {a7} : exec (.st a0 a1 a2 a3 a4 a5 a6 a7) s = execSt a0 a1 a2 a3 a4 a5 a6 a7 s := rfl
theorem exec_ldc {s : State} {a0} {a1} {a2} {a3} {a4} {a5} {a6} : exec (.ldc a0 a1 a2 a3 a4 a5 a6) s = execLdc a0 a1 a2 a3 a4 a5 a6 s := rfl
theorem exec_smpl {s : State} {a0} {a1} {a2} {a3} {a4} {a5} : exec (.smpl a0 a1 a2 a3 a4 a5) s = execSmpl a0 a1 a2 a3 a4 a5 s := rfl
theorem exec_lds {s : State} {a0} {a1} {a2} {a3} {a4} {a5} {a6} : exec (.lds a0 a1 a2 a3 a4 a5 a6) s = execLds a0 a1 a2 a3 a4 a5 a6 s := rfl
theorem exec_sts {s : State} {a0} {a1} {a2} {a3} {a4} {a5} {a6} : exec (.sts a0 a1 a2 a3 a4 a5 a6) s = execSts a0 a1 a2 a3 a4 a5 a6 s := rfl
theorem exec_atom {s : State} {a0} {a1} {a2} {a3} {a4} {a5} {a6} {a7} {a8} {a9} {a10} : exec (.atom a0 a1 a2 a3 a4 a5 a6 a7 a8 a9 a10) s = execAtom a0 a1 a2 a3 a4 a5 a6 a7 a8 a9 a10 s := rfl
theorem exec_atoms {s : State} {a0} {a1} {a2} {a3} {a4} {a5} {a6} {a7} {a8} {a9} {a10} : exec (.atoms a0 a1 a2 a3 a4 a5 a6 a7 a8 a9 a10) s = execAtoms a0 a1 a2 a3 a4 a5 a6 a7 a8 a9 a10 s := rfl
theorem exec_dep {s : State} {a0} {a1} {a2} {a3} {a4} {a5} {a6} : exec (.dep a0 a1 a2 a3 a4 a5 a6) s = execDep a0 a1 a2 a3 a4 a5 a6 s := rfl
theorem exec_ldv {s : State} {a0} {a1} {a2} {a3} {a4} {a5} {a6} {a7} : exec (.ldv a0 a1 a2 a3 a4 a5 a6 a7) s = execLdv a0 a1 a2 a3 a4 a5 a6 a7 s := rfl
theorem exec_casv {s : State} {a0} {a1} {a2} {a3} {a4} {a5} {a6} {a7} {a8} : exec (.casv a0 a1 a2 a3 a4 a5 a6 a7 a8) s = execCasv a0 a1 a2 a3 a4 a5 a6 a7 a8 s := rfl
theorem exec_valset {s : State} {a0} {a1} {a2} {a3} {a4} {a5} {a6} {a7} {a8} : exec (.valset a0 a1 a2 a3 a4 a5 a6 a7 a8) s = execValset a0 a1 a2 a3 a4 a5 a6 a7 a8 s := rfl
theorem exec_bra {s : State} {a0} {a1} : exec (.bra a0 a1) s = execBra a0 a1 s := rfl
theorem exec_hcvt {s : State} {a0} {a1} {a2} {a3} : exec (.hcvt a0 a1 a2 a3) s = execHcvt a0 a1 a2 a3 s := rfl
theorem exec_hexp {s : State} {a0} {a1} {a2} {a3} : exec (.hexp a0 a1 a2 a3) s = execHexp a0 a1 a2 a3 s := rfl
theorem exec_hdot {s : State} {a0} {a1} {a2} {a3} {a4} : exec (.hdot a0 a1 a2 a3 a4) s = execHdot a0 a1 a2 a3 a4 s := rfl
theorem exec_hadd {s : State} {a0} {a1} {a2} {a3} {a4} {a5} : exec (.hadd a0 a1 a2 a3 a4 a5) s = execHadd a0 a1 a2 a3 a4 a5 s := rfl
theorem exec_hscl {s : State} {a0} {a1} {a2} {a3} {a4} {a5} : exec (.hscl a0 a1 a2 a3 a4 a5) s = execHscl a0 a1 a2 a3 a4 a5 s := rfl
theorem exec_hnrm {s : State} {a0} {a1} {a2} {a3} : exec (.hnrm a0 a1 a2 a3) s = execHnrm a0 a1 a2 a3 s := rfl
theorem exec_owfoot {s : State} {a0} {a1} : exec (.owfoot a0 a1) s = execOwfoot a0 a1 s := rfl
theorem exec_mma {s : State} {a0} {a1} {a2} {a3} {a4} {a5} {a6} {a7} {a8} {a9} : exec (.mma a0 a1 a2 a3 a4 a5 a6 a7 a8 a9) s = execMma a0 a1 a2 a3 a4 a5 a6 a7 a8 a9 s := rfl
theorem exec_accld {s : State} {a0} {a1} {a2} {a3} {a4} {a5} : exec (.accld a0 a1 a2 a3 a4 a5) s = execAccld a0 a1 a2 a3 a4 a5 s := rfl
theorem exec_accst {s : State} {a0} {a1} {a2} {a3} {a4} {a5} : exec (.accst a0 a1 a2 a3 a4 a5) s = execAccst a0 a1 a2 a3 a4 a5 s := rfl
theorem exec_tcopy {s : State} {a0} {a1} {a2} : exec (.tcopy a0 a1 a2) s = execTcopy a0 a1 a2 s := rfl
theorem exec_nop {s : State} : exec (.nop) s = execNop s := rfl
theorem exec_movUniform {s : State} {a0} {a1} : exec (.movUniform a0 a1) s = execMovUniform a0 a1 s := rfl
theorem exec_iaddUniform {s : State} {a0} {a1} {a2} : exec (.iaddUniform a0 a1 a2) s = execIaddUniform a0 a1 a2 s := rfl
theorem exec_isubUniform {s : State} {a0} {a1} {a2} : exec (.isubUniform a0 a1 a2) s = execIsubUniform a0 a1 a2 s := rfl
theorem exec_imulUniform {s : State} {a0} {a1} {a2} : exec (.imulUniform a0 a1 a2) s = execImulUniform a0 a1 a2 s := rfl
theorem exec_andUniform {s : State} {a0} {a1} {a2} : exec (.andUniform a0 a1 a2) s = execAndUniform a0 a1 a2 s := rfl
theorem exec_orUniform {s : State} {a0} {a1} {a2} : exec (.orUniform a0 a1 a2) s = execOrUniform a0 a1 a2 s := rfl
theorem exec_xorUniform {s : State} {a0} {a1} {a2} : exec (.xorUniform a0 a1 a2) s = execXorUniform a0 a1 a2 s := rfl
theorem exec_shlUniform {s : State} {a0} {a1} {a2} : exec (.shlUniform a0 a1 a2) s = execShlUniform a0 a1 a2 s := rfl
theorem exec_shrN32Uniform {s : State} {a0} {a1} {a2} : exec (.shrN32Uniform a0 a1 a2) s = execShrN32Uniform a0 a1 a2 s := rfl
theorem exec_shrS32Uniform {s : State} {a0} {a1} {a2} : exec (.shrS32Uniform a0 a1 a2) s = execShrS32Uniform a0 a1 a2 s := rfl
theorem exec_iminS32Uniform {s : State} {a0} {a1} {a2} : exec (.iminS32Uniform a0 a1 a2) s = execIminS32Uniform a0 a1 a2 s := rfl
theorem exec_imaxS32Uniform {s : State} {a0} {a1} {a2} : exec (.imaxS32Uniform a0 a1 a2) s = execImaxS32Uniform a0 a1 a2 s := rfl
theorem exec_qsend {s : State} {a0} : exec (.qsend a0) s = execQsend a0 s := rfl
theorem exec_qtake {s : State} {a0} : exec (.qtake a0) s = execQtake a0 s := rfl
theorem exec_movs {s : State} {a0} {a1} : exec (.movs a0 a1) s = execMovs a0 a1 s := rfl
theorem exec_join {s : State} : exec (.join) s = execJoin s := rfl
theorem exec_ret {s : State} {a0} : exec (.ret a0) s = execRet a0 s := rfl
theorem exec_exit {s : State} : exec (.exit) s = execExit s := rfl
theorem exec_trail {s : State} {a0} : exec (.trail a0) s = execTrail a0 s := rfl
theorem exec_ofence {s : State} : exec (.ofence) s = execOfence s := rfl
theorem exec_pfence {s : State} {a0} : exec (.pfence a0) s = execPfence a0 s := rfl
theorem exec_yield {s : State} : exec (.yield) s = execYield s := rfl
theorem exec_bpt {s : State} : exec (.bpt) s = execBpt s := rfl
theorem exec_trapret {s : State} : exec (.trapret) s = execTrapret s := rfl
theorem exec_setem {s : State} {a0} : exec (.setem a0) s = execSetem a0 s := rfl
theorem exec_setpart {s : State} {a0} : exec (.setpart a0) s = execSetpart a0 s := rfl
theorem exec_mmwait {s : State} : exec (.mmwait) s = execMmwait s := rfl
theorem exec_ownext {s : State} : exec (.ownext) s = execOwnext s := rfl
theorem exec_moviUniform {s : State} {a0} {a1} : exec (.moviUniform a0 a1) s = execMoviUniform a0 a1 s := rfl
theorem exec_isetpUniform {s : State} {a0} {a1} {a2} {a3} : exec (.isetpUniform a0 a1 a2 a3) s = execIsetpUniform a0 a1 a2 a3 s := rfl
theorem exec_selUniform {s : State} {a0} {a1} {a2} {a3} : exec (.selUniform a0 a1 a2 a3) s = execSelUniform a0 a1 a2 a3 s := rfl
theorem exec_jmp {s : State} {a0} {a1} : exec (.jmp a0 a1) s = execJmp a0 a1 s := rfl
theorem exec_call {s : State} {a0} {a1} {a2} : exec (.call a0 a1 a2) s = execCall a0 a1 a2 s := rfl
theorem exec_mark {s : State} {a0} : exec (.mark a0) s = execMark a0 s := rfl
theorem exec_fence {s : State} {a0} : exec (.fence a0) s = execFence a0 s := rfl
theorem exec_bar {s : State} {a0} {a1} {a2} : exec (.bar a0 a1 a2) s = execBar a0 a1 a2 s := rfl
theorem exec_gate {s : State} {a0} {a1} {a2} : exec (.gate a0 a1 a2) s = execGate a0 a1 a2 s := rfl
theorem exec_waitc {s : State} {a0} {a1} : exec (.waitc a0 a1) s = execWaitc a0 a1 s := rfl
theorem exec_ldu {s : State} {a0} {a1} {a2} {a3} {a4} {a5} : exec (.ldu a0 a1 a2 a3 a4 a5) s = execLdu a0 a1 a2 a3 a4 a5 s := rfl
theorem exec_stu {s : State} {a0} {a1} {a2} {a3} {a4} {a5} : exec (.stu a0 a1 a2 a3 a4 a5) s = execStu a0 a1 a2 a3 a4 a5 s := rfl
theorem exec_acqb {s : State} {a0} {a1} : exec (.acqb a0 a1) s = execAcqb a0 a1 s := rfl
theorem exec_relb {s : State} {a0} {a1} : exec (.relb a0 a1) s = execRelb a0 a1 s := rfl
theorem exec_launch {s : State} {a0} {a1} : exec (.launch a0 a1) s = execLaunch a0 a1 s := rfl
theorem exec_signal {s : State} {a0} {a1} {a2} : exec (.signal a0 a1 a2) s = execSignal a0 a1 a2 s := rfl
theorem exec_coll {s : State} {a0} {a1} {a2} {a3} {a4} : exec (.coll a0 a1 a2 a3 a4) s = execColl a0 a1 a2 a3 a4 s := rfl
theorem exec_trap {s : State} {a0} : exec (.trap a0) s = execTrap a0 s := rfl
theorem exec_fwcall {s : State} {a0} {a1} {a2} : exec (.fwcall a0 a1 a2) s = execFwcall a0 a1 a2 s := rfl
theorem exec_mtsr {s : State} {a0} {a1} : exec (.mtsr a0 a1) s = execMtsr a0 a1 s := rfl
theorem exec_extmap {s : State} {a0} {a1} {a2} : exec (.extmap a0 a1 a2) s = execExtmap a0 a1 a2 s := rfl
theorem exec_owbegin {s : State} {a0} {a1} {a2} {a3} : exec (.owbegin a0 a1 a2 a3) s = execOwbegin a0 a1 a2 a3 s := rfl
theorem exec_tstore {s : State} {a0} : exec (.tstore a0) s = execTstore a0 s := rfl
theorem exec_copy {s : State} {a0} {a1} {a2} {a3} : exec (.copy a0 a1 a2 a3) s = execCopy a0 a1 a2 a3 s := rfl
theorem exec_tld {s : State} {a0} {a1} {a2} : exec (.tld a0 a1 a2) s = execTld a0 a1 a2 s := rfl
theorem exec_jetStart {s : State} {a0} : exec (.jetStart a0) s = execJetStart a0 s := rfl
theorem exec_ageingStep {s : State} {a0} {a1} : exec (.ageingStep a0 a1) s = execAgeingStep a0 a1 s := rfl
theorem exec_classVResult {s : State} {a0} {a1} {a2} : exec (.classVResult a0 a1 a2) s = execClassVResult a0 a1 a2 s := rfl
theorem exec_noticeDelivery {s : State} {a0} {a1} : exec (.noticeDelivery a0 a1) s = execNoticeDelivery a0 a1 s := rfl
theorem exec_tail {s : State} {a0} {a1} : exec (.tail a0 a1) s = execTail a0 a1 s := rfl
theorem exec_controlWindowWrite {s : State} {a0} {a1} {a2} : exec (.controlWindowWrite a0 a1 a2) s = execControlWindowWrite a0 a1 a2 s := rfl
theorem exec_windowRead {s : State} {a0} {a1} {a2} {a3} : exec (.windowRead a0 a1 a2 a3) s = execWindowRead a0 a1 a2 a3 s := rfl
theorem exec_windowWrite {s : State} {a0} {a1} {a2} {a3} : exec (.windowWrite a0 a1 a2 a3) s = execWindowWrite a0 a1 a2 a3 s := rfl
theorem exec_hostWritePerform {s : State} {a0} : exec (.hostWritePerform a0) s = execHostWritePerform a0 s := rfl
theorem exec_launchAccept {s : State} {a0} : exec (.launchAccept a0) s = execLaunchAccept a0 s := rfl
theorem exec_waitSignalMonitor {s : State} {a0} {a1} : exec (.waitSignalMonitor a0 a1) s = execWaitSignalMonitor a0 a1 s := rfl
theorem exec_gangPlacement {s : State} {a0} : exec (.gangPlacement a0) s = execGangPlacement a0 s := rfl
theorem exec_migration {s : State} {a0} : exec (.migration a0) s = execMigration a0 s := rfl
theorem exec_groupResourcesFree {s : State} {a0} {a1} : exec (.groupResourcesFree a0 a1) s = execGroupResourcesFree a0 a1 s := rfl
theorem exec_launchCompletion {s : State} {a0} {a1} : exec (.launchCompletion a0 a1) s = execLaunchCompletion a0 a1 s := rfl
theorem exec_cascadeRead {s : State} {a0} {a1} : exec (.cascadeRead a0 a1) s = execCascadeRead a0 a1 s := rfl
theorem exec_wcTimeout {s : State} {a0} {a1} : exec (.wcTimeout a0 a1) s = execWcTimeout a0 a1 s := rfl
theorem exec_storePerform {s : State} {a0} : exec (.storePerform a0) s = execStorePerform a0 s := rfl
theorem exec_writeAck {s : State} {a0} : exec (.writeAck a0) s = execWriteAck a0 s := rfl
theorem exec_readRequest {s : State} {a0} : exec (.readRequest a0) s = execReadRequest a0 s := rfl
theorem exec_readResponse {s : State} {a0} : exec (.readResponse a0) s = execReadResponse a0 s := rfl
theorem exec_atomRequest {s : State} {a0} : exec (.atomRequest a0) s = execAtomRequest a0 s := rfl
theorem exec_casvRequest {s : State} {a0} : exec (.casvRequest a0) s = execCasvRequest a0 s := rfl
theorem exec_ldvRequest {s : State} {a0} : exec (.ldvRequest a0) s = execLdvRequest a0 s := rfl
theorem exec_descentLanding {s : State} {a0} : exec (.descentLanding a0) s = execDescentLanding a0 s := rfl
theorem exec_descentReturn {s : State} {a0} : exec (.descentReturn a0) s = execDescentReturn a0 s := rfl
theorem exec_depositLanding {s : State} {a0} : exec (.depositLanding a0) s = execDepositLanding a0 s := rfl
theorem exec_valsetPin {s : State} {a0} {a1} : exec (.valsetPin a0 a1) s = execValsetPin a0 a1 s := rfl
theorem exec_valsetCommit {s : State} {a0} : exec (.valsetCommit a0) s = execValsetCommit a0 s := rfl
theorem exec_valsetTimeout {s : State} {a0} : exec (.valsetTimeout a0) s = execValsetTimeout a0 s := rfl
theorem exec_collapse {s : State} {a0} {a1} {a2} : exec (.collapse a0 a1 a2) s = execCollapse a0 a1 a2 s := rfl
theorem exec_blockWriteBack {s : State} {a0} : exec (.blockWriteBack a0) s = execBlockWriteBack a0 s := rfl
theorem exec_promoteRequest {s : State} {a0} {a1} : exec (.promoteRequest a0 a1) s = execPromoteRequest a0 a1 s := rfl
theorem exec_probeTokenTimeout {s : State} {a0} : exec (.probeTokenTimeout a0) s = execProbeTokenTimeout a0 s := rfl
theorem exec_probeToken {s : State} {a0} : exec (.probeToken a0) s = execProbeToken a0 s := rfl
theorem exec_bucketRefill {s : State} {a0} : exec (.bucketRefill a0) s = execBucketRefill a0 s := rfl
theorem exec_powerTokenFrame {s : State} {a0} : exec (.powerTokenFrame a0) s = execPowerTokenFrame a0 s := rfl
theorem exec_reservationEntry {s : State} {a0} {a1} : exec (.reservationEntry a0 a1) s = execReservationEntry a0 a1 s := rfl
theorem exec_passGrant {s : State} {a0} : exec (.passGrant a0) s = execPassGrant a0 s := rfl
theorem exec_passEnd {s : State} {a0} : exec (.passEnd a0) s = execPassEnd a0 s := rfl
theorem exec_acqbGrant {s : State} {a0} : exec (.acqbGrant a0) s = execAcqbGrant a0 s := rfl
theorem exec_copyRow {s : State} {a0} {a1} : exec (.copyRow a0 a1) s = execCopyRow a0 a1 s := rfl
theorem exec_copyLine {s : State} {a0} {a1} : exec (.copyLine a0 a1) s = execCopyLine a0 a1 s := rfl
theorem exec_scratchpadBankService {s : State} {a0} {a1} : exec (.scratchpadBankService a0 a1) s = execScratchpadBankService a0 a1 s := rfl
theorem exec_extentAbsent {s : State} {a0} : exec (.extentAbsent a0) s = execExtentAbsent a0 s := rfl
theorem exec_extentMonitorFire {s : State} {a0} : exec (.extentMonitorFire a0) s = execExtentMonitorFire a0 s := rfl
theorem exec_collCombine {s : State} {a0} {a1} : exec (.collCombine a0 a1) s = execCollCombine a0 a1 s := rfl
theorem exec_collWatchdog {s : State} {a0} {a1} : exec (.collWatchdog a0 a1) s = execCollWatchdog a0 a1 s := rfl
theorem exec_peerRequest {s : State} {a0} : exec (.peerRequest a0) s = execPeerRequest a0 s := rfl
theorem exec_peerRequestTimeout {s : State} {a0} : exec (.peerRequestTimeout a0) s = execPeerRequestTimeout a0 s := rfl
theorem exec_requestTimeout {s : State} {a0} : exec (.requestTimeout a0) s = execRequestTimeout a0 s := rfl
theorem exec_linkCrcRetry {s : State} {a0} : exec (.linkCrcRetry a0) s = execLinkCrcRetry a0 s := rfl
theorem exec_eccCorrection {s : State} {a0} : exec (.eccCorrection a0) s = execEccCorrection a0 s := rfl
theorem exec_uncorrectableError {s : State} {a0} {a1} : exec (.uncorrectableError a0 a1) s = execUncorrectableError a0 a1 s := rfl
theorem exec_extentRetirement {s : State} {a0} : exec (.extentRetirement a0) s = execExtentRetirement a0 s := rfl
theorem exec_errorRecordWindow {s : State} {a0} : exec (.errorRecordWindow a0) s = execErrorRecordWindow a0 s := rfl
theorem exec_quantumEnd {s : State} : exec (.quantumEnd) s = execQuantumEnd s := rfl
theorem exec_halt {s : State} {a0} : exec (.halt a0) s = execHalt a0 s := rfl
theorem exec_restore {s : State} {a0} : exec (.restore a0) s = execRestore a0 s := rfl
theorem exec_objCreate {s : State} {a0} : exec (.objCreate a0) s = execObjCreate a0 s := rfl
theorem exec_objDestroy {s : State} {a0} : exec (.objDestroy a0) s = execObjDestroy a0 s := rfl
theorem exec_extMap {s : State} {a0} : exec (.extMap a0) s = execExtMap a0 s := rfl
theorem exec_extUnmap {s : State} {a0} : exec (.extUnmap a0) s = execExtUnmap a0 s := rfl
theorem exec_extRefuse {s : State} {a0} : exec (.extRefuse a0) s = execExtRefuse a0 s := rfl
theorem exec_objExport {s : State} {a0} : exec (.objExport a0) s = execObjExport a0 s := rfl
theorem exec_objImport {s : State} {a0} : exec (.objImport a0) s = execObjImport a0 s := rfl
theorem exec_setHandler {s : State} {a0} : exec (.setHandler a0) s = execSetHandler a0 s := rfl
theorem exec_objQuery {s : State} {a0} : exec (.objQuery a0) s = execObjQuery a0 s := rfl
theorem exec_poolQuery {s : State} {a0} : exec (.poolQuery a0) s = execPoolQuery a0 s := rfl
theorem exec_attest {s : State} {a0} : exec (.attest a0) s = execAttest a0 s := rfl
theorem exec_basinCreate {s : State} {a0} : exec (.basinCreate a0) s = execBasinCreate a0 s := rfl
theorem exec_basinSlots {s : State} {a0} : exec (.basinSlots a0) s = execBasinSlots a0 s := rfl
theorem exec_basinStart {s : State} {a0} : exec (.basinStart a0) s = execBasinStart a0 s := rfl
theorem exec_basinRevoke {s : State} {a0} : exec (.basinRevoke a0) s = execBasinRevoke a0 s := rfl
theorem exec_basinRelease {s : State} {a0} : exec (.basinRelease a0) s = execBasinRelease a0 s := rfl
theorem exec_basinMove {s : State} {a0} : exec (.basinMove a0) s = execBasinMove a0 s := rfl
theorem exec_basinSlotquery {s : State} {a0} : exec (.basinSlotquery a0) s = execBasinSlotquery a0 s := rfl
theorem exec_peerBind {s : State} {a0} : exec (.peerBind a0) s = execPeerBind a0 s := rfl
theorem exec_stackBudget {s : State} {a0} : exec (.stackBudget a0) s = execStackBudget a0 s := rfl
theorem exec_powerOn {s : State} : exec (.powerOn) s = execPowerOn s := rfl
theorem exec_throttleChange {s : State} {a0} {a1} : exec (.throttleChange a0 a1) s = execThrottleChange a0 a1 s := rfl
theorem exec_thermalTrip {s : State} : exec (.thermalTrip) s = execThermalTrip s := rfl
theorem exec_fieldRecordRead {s : State} {a0} : exec (.fieldRecordRead a0) s = execFieldRecordRead a0 s := rfl
theorem exec_tripClears {s : State} : exec (.tripClears) s = execTripClears s := rfl
theorem exec_importRemoval {s : State} {a0} {a1} {a2} : exec (.importRemoval a0 a1 a2) s = execImportRemoval a0 a1 a2 s := rfl
theorem exec_restoreElsewhere {s : State} {a0} : exec (.restoreElsewhere a0) s = execRestoreElsewhere a0 s := rfl

end Sys2Proof.Machine
end

