-- ==== Sys2Proof/Laws/Maps.lean ====
section
/-! SUPPORT. Laws of finite maps and of the groups kept in them: what a read after a write gives, and that a write
keeps the keys rising. -/

namespace Sys2Proof.Machine

variable {α : Type}

/-! ### Reading after writing -/

@[simp] theorem NMap.get?_nil (i : Nat) : NMap.get? ([] : NMap α) i = none := rfl

theorem NMap.get?_set (m : NMap α) (i j : Nat) (x : α) :
    NMap.get? (NMap.set m i x) j = if i = j then some x else NMap.get? m j := by
  induction m with
  | nil => simp [NMap.set, NMap.get?]
  | cons e t ih =>
    obtain ⟨k, v⟩ := e
    simp only [NMap.set]
    split
    · simp [NMap.get?]
    · split
      · subst_vars
        simp only [NMap.get?]
        split <;> rfl
      · simp only [NMap.get?, ih]
        split
        · split
          · omega
          · rfl
        · rfl

@[simp] theorem NMap.get?_set_self (m : NMap α) (i : Nat) (x : α) : NMap.get? (NMap.set m i x) i = some x := by
  simp [NMap.get?_set]

theorem NMap.get?_set_of_ne (m : NMap α) {i j : Nat} (x : α) (h : i ≠ j) :
    NMap.get? (NMap.set m i x) j = NMap.get? m j := by
  simp [NMap.get?_set, h]

theorem NMap.getD_set (m : NMap α) (i j : Nat) (x d : α) :
    NMap.getD (NMap.set m i x) j d = if i = j then x else NMap.getD m j d := by
  simp only [NMap.getD, NMap.get?_set]
  split <;> rfl

@[simp] theorem NMap.getD_set_self (m : NMap α) (i : Nat) (x d : α) : NMap.getD (NMap.set m i x) i d = x := by
  simp [NMap.getD_set]

theorem NMap.getD_set_of_ne (m : NMap α) {i j : Nat} (x d : α) (h : i ≠ j) :
    NMap.getD (NMap.set m i x) j d = NMap.getD m j d := by
  simp [NMap.getD_set, h]

@[simp] theorem NMap.set_set (m : NMap α) (i : Nat) (x y : α) : NMap.set (NMap.set m i x) i y = NMap.set m i y := by
  induction m with
  | nil => simp [NMap.set]
  | cons e t ih =>
    obtain ⟨k, v⟩ := e
    simp only [NMap.set]
    split
    · simp [NMap.set]
    · split
      · subst_vars; simp [NMap.set]
      · simp [NMap.set, *]

theorem NMap.get?_erase (m : NMap α) (i j : Nat) :
    NMap.get? (NMap.erase m i) j = if i = j then none else NMap.get? m j := by
  induction m with
  | nil => simp [NMap.erase, NMap.get?]
  | cons e t ih =>
    obtain ⟨k, v⟩ := e
    simp only [NMap.erase] at ih
    by_cases h : k = i
    · subst h
      simp only [NMap.erase, List.filter_cons, bne_self_eq_false, Bool.false_eq_true, if_false, ih, NMap.get?]
      by_cases h2 : k = j <;> simp [h2]
    · have h' : (k != i) = true := by simp [h]
      simp only [NMap.erase, List.filter_cons, h', if_true, NMap.get?, ih]
      by_cases h2 : k = j
      · subst h2; simp [Ne.symm h]
      · simp [h2]

/-! ### The keys stay rising -/

/-- Every key of a map is at least a bound. -/
def NMap.above (m : NMap α) (k : Nat) : Prop := ∀ e ∈ m, k < e.1

theorem NMap.sorted_cons (a : Nat × α) (m : NMap α) :
    NMap.sorted (a :: m) = true ↔ NMap.above m a.1 ∧ NMap.sorted m = true := by
  induction m generalizing a with
  | nil => simp [NMap.sorted, NMap.above]
  | cons b t ih =>
    simp only [NMap.sorted, Bool.and_eq_true, decide_eq_true_eq]
    constructor
    · rintro ⟨h1, h2⟩
      refine ⟨fun e he => ?_, h2⟩
      rcases List.mem_cons.1 he with rfl | he
      · exact h1
      · exact Nat.lt_trans h1 (((ih b).1 h2).1 e he)
    · rintro ⟨h1, h2⟩
      exact ⟨h1 b (by simp), h2⟩

theorem NMap.sorted_filter (m : NMap α) (p : Nat × α → Bool) (h : NMap.sorted m = true) :
    NMap.sorted (m.filter p) = true := by
  induction m with
  | nil => rfl
  | cons a t ih =>
    have h2 := (NMap.sorted_cons a t).1 h
    simp only [List.filter_cons]
    split
    · exact (NMap.sorted_cons a _).2 ⟨fun e he => h2.1 e (List.mem_filter.1 he).1, ih h2.2⟩
    · exact ih h2.2

theorem NMap.mem_set (m : NMap α) (i : Nat) (x : α) (e : Nat × α) (h : e ∈ NMap.set m i x) : e = (i, x) ∨ e ∈ m := by
  induction m with
  | nil => simpa [NMap.set] using h
  | cons a t ih =>
    obtain ⟨k, v⟩ := a
    simp only [NMap.set] at h
    split at h
    · simpa using h
    · split at h
      · rcases List.mem_cons.1 h with h | h
        · exact .inl h
        · exact .inr (List.mem_cons_of_mem _ h)
      · rcases List.mem_cons.1 h with h | h
        · exact .inr (h ▸ List.mem_cons_self ..)
        · rcases ih h with h | h
          · exact .inl h
          · exact .inr (List.mem_cons_of_mem _ h)

theorem NMap.sorted_set (m : NMap α) (i : Nat) (x : α) (h : NMap.sorted m = true) : NMap.sorted (NMap.set m i x) = true := by
  induction m with
  | nil => rfl
  | cons a t ih =>
    obtain ⟨k, v⟩ := a
    have h2 := (NMap.sorted_cons _ _).1 h
    simp only [NMap.set]
    split
    · refine (NMap.sorted_cons _ _).2 ⟨fun e he => ?_, h⟩
      rcases List.mem_cons.1 he with rfl | he
      · assumption
      · exact Nat.lt_trans (by assumption) (h2.1 e he)
    · split
      · subst_vars
        exact (NMap.sorted_cons _ _).2 ⟨h2.1, h2.2⟩
      · refine (NMap.sorted_cons _ _).2 ⟨fun e he => ?_, ih h2.2⟩
        rcases NMap.mem_set _ _ _ _ he with rfl | he
        · simp only at *; omega
        · exact h2.1 e he

/-! ### Groups -/

theorem State.quad?_of_group? {s : State} {q slot : Nat} {g : Group} (h : s.group? q slot = some g) :
    ∃ x, s.quad? q = some x ∧ NMap.get? x.groups slot = some g := by
  simp only [State.group?] at h
  split at h
  · exact ⟨_, by assumption, h⟩
  · exact absurd h (by simp)

/-- What a slot holds after a group was put into it. -/
theorem State.group?_setGroup {s : State} {q slot : Nat} {g g' : Group} (h : s.group? q slot = some g) :
    (s.setGroup q slot g').group? q slot = some g' := by
  obtain ⟨x, hx, -⟩ := State.quad?_of_group? h
  simp only [State.quad?] at hx
  simp [State.setGroup, State.modQuad, State.group?, State.quad?, NMap.modify, hx, Quad.setGroup]

/-- Of two groups put into one slot the second stays. -/
theorem State.setGroup_setGroup (s : State) (q slot : Nat) (g g' : Group) :
    (s.setGroup q slot g).setGroup q slot g' = s.setGroup q slot g' := by
  simp only [State.setGroup, State.modQuad, NMap.modify]
  cases h : NMap.get? s.quads q with
  | none => simp [h]
  | some x => simp [Quad.setGroup]

/-- Another slot keeps its group. -/
theorem State.group?_setGroup_of_ne (s : State) {q slot q' slot' : Nat} (g : Group) (h : (q, slot) ≠ (q', slot')) :
    (s.setGroup q slot g).group? q' slot' = s.group? q' slot' := by
  simp only [State.setGroup, State.modQuad, State.group?, State.quad?, NMap.modify]
  cases hx : NMap.get? s.quads q with
  | none => rfl
  | some x =>
    by_cases hq : q = q'
    · subst hq
      have : slot ≠ slot' := fun e => h (by rw [e])
      simp [hx, Quad.setGroup, NMap.get?_set_of_ne _ _ this]
    · simp [NMap.get?_set_of_ne _ _ hq]

theorem State.modGroup_eq {s : State} {q slot : Nat} {g : Group} (h : s.group? q slot = some g) (f : Group → Group) :
    s.modGroup q slot f = s.setGroup q slot (f g) := by
  simp [State.modGroup, h]

/-! ### Registers -/

theorem Group.getV_setV (g : Group) (n r : Nat) (x : Lanes) : (g.setV n x).getV r = if n = r then x else g.getV r := by
  simp only [Group.getV, Group.setV, NMap.getD_set]

theorem Group.getS_setS (g : Group) (n r : Nat) (x : Word) : (g.setS n x).getS r = if n = r then x else g.getS r := by
  simp only [Group.getS, Group.setS, NMap.getD_set]

/-- `p7` stays all ones and every other predicate reads what was written (R40). -/
theorem Group.getP_setP (g : Group) (n r : Nat) (x : Mask) :
    (g.setP n x).getP r = if r = 7 then Mask.all else if n = r then x else g.getP r := by
  simp only [Group.getP, Group.setP]
  by_cases h : n = 7
  · subst h
    by_cases h2 : r = 7
    · simp [h2]
    · have : ¬ (7 = r) := fun e => h2 e.symm
      simp [h2, this]
  · by_cases h2 : r = 7 <;> simp [h, h2, NMap.getD_set]

theorem Group.getH_setH (g : Group) (n r : Nat) (x : Heading) : (g.setH n x).getH r = if n = r then x else g.getH r := by
  simp only [Group.getH, Group.setH, NMap.getD_set]

theorem Group.getT_setT (g : Group) (n r : Nat) (x : BitVec 256) : (g.setT n x).getT r = if n = r then x else g.getT r := by
  simp only [Group.getT, Group.setT, NMap.getD_set]

/-! ### Lanes -/

@[simp] theorem Lanes.at_lanesOf (f : Nat → Word) (l : Nat) : Lanes.at (lanesOf f) l = if l < 32 then f l else 0#32 := by
  simp only [Lanes.at, lanesOf, List.getD_eq_getElem?_getD, List.getElem?_map]
  by_cases h : l < 32
  · simp [h]
  · simp [h]

@[simp] theorem Lanes.at_zero (l : Nat) : Lanes.at Lanes.zero l = 0#32 := by simp [Lanes.zero]

theorem Lanes.at_blend (m : Mask) (a b : Lanes) {l : Nat} (h : l < 32) :
    Lanes.at (Lanes.blend m a b) l = if m.getLsbD l then Lanes.at a l else Lanes.at b l := by
  simp [Lanes.blend, h]

end Sys2Proof.Machine
end

