-- ==== Sys2Proof/Laws/State.lean ====
section
/-! SUPPORT. What every named update of the state and of a group leaves alone and what it writes: one lemma a field,
true by definition, so that no proof unfolds a record update. -/

namespace Sys2Proof.Machine

/-! ### Updates of the whole state -/

@[simp] theorem State.setQuad_agenda (s : State) (q : Nat) (x : Quad) : (s.setQuad q x).agenda = s.agenda := rfl
@[simp] theorem State.setQuad_now (s : State) (q : Nat) (x : Quad) : (s.setQuad q x).now = s.now := rfl
@[simp] theorem State.setQuad_freeIx (s : State) (q : Nat) (x : Quad) : (s.setQuad q x).freeIx = s.freeIx := rfl
@[simp] theorem State.setQuad_nextId (s : State) (q : Nat) (x : Quad) : (s.setQuad q x).nextId = s.nextId := rfl
@[simp] theorem State.setQuad_cur (s : State) (q : Nat) (x : Quad) : (s.setQuad q x).cur = s.cur := rfl
@[simp] theorem State.setQuad_outbox (s : State) (q : Nat) (x : Quad) : (s.setQuad q x).outbox = s.outbox := rfl
@[simp] theorem State.setQuad_powered (s : State) (q : Nat) (x : Quad) : (s.setQuad q x).powered = s.powered := rfl
@[simp] theorem State.setQuad_bootFailed (s : State) (q : Nat) (x : Quad) : (s.setQuad q x).bootFailed = s.bootFailed := rfl
@[simp] theorem State.setQuad_sites (s : State) (q : Nat) (x : Quad) : (s.setQuad q x).sites = s.sites := rfl
@[simp] theorem State.setQuad_mem (s : State) (q : Nat) (x : Quad) : (s.setQuad q x).mem = s.mem := rfl
@[simp] theorem State.setQuad_lines (s : State) (q : Nat) (x : Quad) : (s.setQuad q x).lines = s.lines := rfl
@[simp] theorem State.setQuad_blocks (s : State) (q : Nat) (x : Quad) : (s.setQuad q x).blocks = s.blocks := rfl
@[simp] theorem State.setQuad_extents (s : State) (q : Nat) (x : Quad) : (s.setQuad q x).extents = s.extents := rfl
@[simp] theorem State.setQuad_phys (s : State) (q : Nat) (x : Quad) : (s.setQuad q x).phys = s.phys := rfl
@[simp] theorem State.setQuad_basins (s : State) (q : Nat) (x : Quad) : (s.setQuad q x).basins = s.basins := rfl
@[simp] theorem State.setQuad_engines (s : State) (q : Nat) (x : Quad) : (s.setQuad q x).engines = s.engines := rfl
@[simp] theorem State.setQuad_reqs (s : State) (q : Nat) (x : Quad) : (s.setQuad q x).reqs = s.reqs := rfl
@[simp] theorem State.setQuad_inbound (s : State) (q : Nat) (x : Quad) : (s.setQuad q x).inbound = s.inbound := rfl
@[simp] theorem State.setQuad_hostReads (s : State) (q : Nat) (x : Quad) : (s.setQuad q x).hostReads = s.hostReads := rfl
@[simp] theorem State.setQuad_peerIn (s : State) (q : Nat) (x : Quad) : (s.setQuad q x).peerIn = s.peerIn := rfl
@[simp] theorem State.setQuad_images (s : State) (q : Nat) (x : Quad) : (s.setQuad q x).images = s.images := rfl
@[simp] theorem State.setQuad_saved (s : State) (q : Nat) (x : Quad) : (s.setQuad q x).saved = s.saved := rfl
@[simp] theorem State.setQuad_savedEng (s : State) (q : Nat) (x : Quad) : (s.setQuad q x).savedEng = s.savedEng := rfl
@[simp] theorem State.setQuad_stackCaps (s : State) (q : Nat) (x : Quad) : (s.setQuad q x).stackCaps = s.stackCaps := rfl
@[simp] theorem State.setQuad_refills (s : State) (q : Nat) (x : Quad) : (s.setQuad q x).refills = s.refills := rfl
@[simp] theorem State.setQuad_upAt (s : State) (q : Nat) (x : Quad) : (s.setQuad q x).upAt = s.upAt := rfl
@[simp] theorem State.setQuad_rings (s : State) (q : Nat) (x : Quad) : (s.setQuad q x).rings = s.rings := rfl
@[simp] theorem State.setQuad_gaps (s : State) (q : Nat) (x : Quad) : (s.setQuad q x).gaps = s.gaps := rfl
@[simp] theorem State.setQuad_gapSet (s : State) (q : Nat) (x : Quad) : (s.setQuad q x).gapSet = s.gapSet := rfl
@[simp] theorem State.setQuad_tokensSet (s : State) (q : Nat) (x : Quad) : (s.setQuad q x).tokensSet = s.tokensSet := rfl
@[simp] theorem State.setQuad_eccs (s : State) (q : Nat) (x : Quad) : (s.setQuad q x).eccs = s.eccs := rfl
@[simp] theorem State.setQuad_tripped (s : State) (q : Nat) (x : Quad) : (s.setQuad q x).tripped = s.tripped := rfl
@[simp] theorem State.setQuad_lastThrottle (s : State) (q : Nat) (x : Quad) : (s.setQuad q x).lastThrottle = s.lastThrottle := rfl
@[simp] theorem State.setQuad_errHeld (s : State) (q : Nat) (x : Quad) : (s.setQuad q x).errHeld = s.errHeld := rfl
@[simp] theorem State.setQuad_pf (s : State) (q : Nat) (x : Quad) : (s.setQuad q x).pf = s.pf := rfl
@[simp] theorem State.setQuad_pfCalls (s : State) (q : Nat) (x : Quad) : (s.setQuad q x).pfCalls = s.pfCalls := rfl
@[simp] theorem State.setQuad_field (s : State) (q : Nat) (x : Quad) : (s.setQuad q x).field = s.field := rfl
@[simp] theorem State.setQuad_turn (s : State) (q : Nat) (x : Quad) : (s.setQuad q x).turn = s.turn := rfl
@[simp] theorem State.setQuad_lastTurn (s : State) (q : Nat) (x : Quad) : (s.setQuad q x).lastTurn = s.lastTurn := rfl
@[simp] theorem State.setQuad_probes (s : State) (q : Nat) (x : Quad) : (s.setQuad q x).probes = s.probes := rfl
@[simp] theorem State.setQuad_granted (s : State) (q : Nat) (x : Quad) : (s.setQuad q x).granted = s.granted := rfl
@[simp] theorem State.setQuad_downStacks (s : State) (q : Nat) (x : Quad) : (s.setQuad q x).downStacks = s.downStacks := rfl
@[simp] theorem State.setQuad_downPorts (s : State) (q : Nat) (x : Quad) : (s.setQuad q x).downPorts = s.downPorts := rfl
@[simp] theorem State.setQuad_keyDraws (s : State) (q : Nat) (x : Quad) : (s.setQuad q x).keyDraws = s.keyDraws := rfl
@[simp] theorem State.setQuad_quads (s : State) (q : Nat) (x : Quad) : (s.setQuad q x).quads = NMap.set s.quads q x := rfl

@[simp] theorem State.modQuad_agenda (s : State) (q : Nat) (f : Quad → Quad) : (s.modQuad q f).agenda = s.agenda := rfl
@[simp] theorem State.modQuad_now (s : State) (q : Nat) (f : Quad → Quad) : (s.modQuad q f).now = s.now := rfl
@[simp] theorem State.modQuad_freeIx (s : State) (q : Nat) (f : Quad → Quad) : (s.modQuad q f).freeIx = s.freeIx := rfl
@[simp] theorem State.modQuad_nextId (s : State) (q : Nat) (f : Quad → Quad) : (s.modQuad q f).nextId = s.nextId := rfl
@[simp] theorem State.modQuad_cur (s : State) (q : Nat) (f : Quad → Quad) : (s.modQuad q f).cur = s.cur := rfl
@[simp] theorem State.modQuad_outbox (s : State) (q : Nat) (f : Quad → Quad) : (s.modQuad q f).outbox = s.outbox := rfl
@[simp] theorem State.modQuad_powered (s : State) (q : Nat) (f : Quad → Quad) : (s.modQuad q f).powered = s.powered := rfl
@[simp] theorem State.modQuad_bootFailed (s : State) (q : Nat) (f : Quad → Quad) : (s.modQuad q f).bootFailed = s.bootFailed := rfl
@[simp] theorem State.modQuad_sites (s : State) (q : Nat) (f : Quad → Quad) : (s.modQuad q f).sites = s.sites := rfl
@[simp] theorem State.modQuad_mem (s : State) (q : Nat) (f : Quad → Quad) : (s.modQuad q f).mem = s.mem := rfl
@[simp] theorem State.modQuad_lines (s : State) (q : Nat) (f : Quad → Quad) : (s.modQuad q f).lines = s.lines := rfl
@[simp] theorem State.modQuad_blocks (s : State) (q : Nat) (f : Quad → Quad) : (s.modQuad q f).blocks = s.blocks := rfl
@[simp] theorem State.modQuad_extents (s : State) (q : Nat) (f : Quad → Quad) : (s.modQuad q f).extents = s.extents := rfl
@[simp] theorem State.modQuad_phys (s : State) (q : Nat) (f : Quad → Quad) : (s.modQuad q f).phys = s.phys := rfl
@[simp] theorem State.modQuad_basins (s : State) (q : Nat) (f : Quad → Quad) : (s.modQuad q f).basins = s.basins := rfl
@[simp] theorem State.modQuad_engines (s : State) (q : Nat) (f : Quad → Quad) : (s.modQuad q f).engines = s.engines := rfl
@[simp] theorem State.modQuad_reqs (s : State) (q : Nat) (f : Quad → Quad) : (s.modQuad q f).reqs = s.reqs := rfl
@[simp] theorem State.modQuad_inbound (s : State) (q : Nat) (f : Quad → Quad) : (s.modQuad q f).inbound = s.inbound := rfl
@[simp] theorem State.modQuad_hostReads (s : State) (q : Nat) (f : Quad → Quad) : (s.modQuad q f).hostReads = s.hostReads := rfl
@[simp] theorem State.modQuad_peerIn (s : State) (q : Nat) (f : Quad → Quad) : (s.modQuad q f).peerIn = s.peerIn := rfl
@[simp] theorem State.modQuad_images (s : State) (q : Nat) (f : Quad → Quad) : (s.modQuad q f).images = s.images := rfl
@[simp] theorem State.modQuad_saved (s : State) (q : Nat) (f : Quad → Quad) : (s.modQuad q f).saved = s.saved := rfl
@[simp] theorem State.modQuad_savedEng (s : State) (q : Nat) (f : Quad → Quad) : (s.modQuad q f).savedEng = s.savedEng := rfl
@[simp] theorem State.modQuad_stackCaps (s : State) (q : Nat) (f : Quad → Quad) : (s.modQuad q f).stackCaps = s.stackCaps := rfl
@[simp] theorem State.modQuad_refills (s : State) (q : Nat) (f : Quad → Quad) : (s.modQuad q f).refills = s.refills := rfl
@[simp] theorem State.modQuad_upAt (s : State) (q : Nat) (f : Quad → Quad) : (s.modQuad q f).upAt = s.upAt := rfl
@[simp] theorem State.modQuad_rings (s : State) (q : Nat) (f : Quad → Quad) : (s.modQuad q f).rings = s.rings := rfl
@[simp] theorem State.modQuad_gaps (s : State) (q : Nat) (f : Quad → Quad) : (s.modQuad q f).gaps = s.gaps := rfl
@[simp] theorem State.modQuad_gapSet (s : State) (q : Nat) (f : Quad → Quad) : (s.modQuad q f).gapSet = s.gapSet := rfl
@[simp] theorem State.modQuad_tokensSet (s : State) (q : Nat) (f : Quad → Quad) : (s.modQuad q f).tokensSet = s.tokensSet := rfl
@[simp] theorem State.modQuad_eccs (s : State) (q : Nat) (f : Quad → Quad) : (s.modQuad q f).eccs = s.eccs := rfl
@[simp] theorem State.modQuad_tripped (s : State) (q : Nat) (f : Quad → Quad) : (s.modQuad q f).tripped = s.tripped := rfl
@[simp] theorem State.modQuad_lastThrottle (s : State) (q : Nat) (f : Quad → Quad) : (s.modQuad q f).lastThrottle = s.lastThrottle := rfl
@[simp] theorem State.modQuad_errHeld (s : State) (q : Nat) (f : Quad → Quad) : (s.modQuad q f).errHeld = s.errHeld := rfl
@[simp] theorem State.modQuad_pf (s : State) (q : Nat) (f : Quad → Quad) : (s.modQuad q f).pf = s.pf := rfl
@[simp] theorem State.modQuad_pfCalls (s : State) (q : Nat) (f : Quad → Quad) : (s.modQuad q f).pfCalls = s.pfCalls := rfl
@[simp] theorem State.modQuad_field (s : State) (q : Nat) (f : Quad → Quad) : (s.modQuad q f).field = s.field := rfl
@[simp] theorem State.modQuad_turn (s : State) (q : Nat) (f : Quad → Quad) : (s.modQuad q f).turn = s.turn := rfl
@[simp] theorem State.modQuad_lastTurn (s : State) (q : Nat) (f : Quad → Quad) : (s.modQuad q f).lastTurn = s.lastTurn := rfl
@[simp] theorem State.modQuad_probes (s : State) (q : Nat) (f : Quad → Quad) : (s.modQuad q f).probes = s.probes := rfl
@[simp] theorem State.modQuad_granted (s : State) (q : Nat) (f : Quad → Quad) : (s.modQuad q f).granted = s.granted := rfl
@[simp] theorem State.modQuad_downStacks (s : State) (q : Nat) (f : Quad → Quad) : (s.modQuad q f).downStacks = s.downStacks := rfl
@[simp] theorem State.modQuad_downPorts (s : State) (q : Nat) (f : Quad → Quad) : (s.modQuad q f).downPorts = s.downPorts := rfl
@[simp] theorem State.modQuad_keyDraws (s : State) (q : Nat) (f : Quad → Quad) : (s.modQuad q f).keyDraws = s.keyDraws := rfl
@[simp] theorem State.modQuad_quads (s : State) (q : Nat) (f : Quad → Quad) : (s.modQuad q f).quads = NMap.modify s.quads q f := rfl

@[simp] theorem State.setGroup_agenda (s : State) (q slot : Nat) (g : Group) : (s.setGroup q slot g).agenda = s.agenda := rfl
@[simp] theorem State.setGroup_now (s : State) (q slot : Nat) (g : Group) : (s.setGroup q slot g).now = s.now := rfl
@[simp] theorem State.setGroup_freeIx (s : State) (q slot : Nat) (g : Group) : (s.setGroup q slot g).freeIx = s.freeIx := rfl
@[simp] theorem State.setGroup_nextId (s : State) (q slot : Nat) (g : Group) : (s.setGroup q slot g).nextId = s.nextId := rfl
@[simp] theorem State.setGroup_cur (s : State) (q slot : Nat) (g : Group) : (s.setGroup q slot g).cur = s.cur := rfl
@[simp] theorem State.setGroup_outbox (s : State) (q slot : Nat) (g : Group) : (s.setGroup q slot g).outbox = s.outbox := rfl
@[simp] theorem State.setGroup_powered (s : State) (q slot : Nat) (g : Group) : (s.setGroup q slot g).powered = s.powered := rfl
@[simp] theorem State.setGroup_bootFailed (s : State) (q slot : Nat) (g : Group) : (s.setGroup q slot g).bootFailed = s.bootFailed := rfl
@[simp] theorem State.setGroup_sites (s : State) (q slot : Nat) (g : Group) : (s.setGroup q slot g).sites = s.sites := rfl
@[simp] theorem State.setGroup_mem (s : State) (q slot : Nat) (g : Group) : (s.setGroup q slot g).mem = s.mem := rfl
@[simp] theorem State.setGroup_lines (s : State) (q slot : Nat) (g : Group) : (s.setGroup q slot g).lines = s.lines := rfl
@[simp] theorem State.setGroup_blocks (s : State) (q slot : Nat) (g : Group) : (s.setGroup q slot g).blocks = s.blocks := rfl
@[simp] theorem State.setGroup_extents (s : State) (q slot : Nat) (g : Group) : (s.setGroup q slot g).extents = s.extents := rfl
@[simp] theorem State.setGroup_phys (s : State) (q slot : Nat) (g : Group) : (s.setGroup q slot g).phys = s.phys := rfl
@[simp] theorem State.setGroup_basins (s : State) (q slot : Nat) (g : Group) : (s.setGroup q slot g).basins = s.basins := rfl
@[simp] theorem State.setGroup_engines (s : State) (q slot : Nat) (g : Group) : (s.setGroup q slot g).engines = s.engines := rfl
@[simp] theorem State.setGroup_reqs (s : State) (q slot : Nat) (g : Group) : (s.setGroup q slot g).reqs = s.reqs := rfl
@[simp] theorem State.setGroup_inbound (s : State) (q slot : Nat) (g : Group) : (s.setGroup q slot g).inbound = s.inbound := rfl
@[simp] theorem State.setGroup_hostReads (s : State) (q slot : Nat) (g : Group) : (s.setGroup q slot g).hostReads = s.hostReads := rfl
@[simp] theorem State.setGroup_peerIn (s : State) (q slot : Nat) (g : Group) : (s.setGroup q slot g).peerIn = s.peerIn := rfl
@[simp] theorem State.setGroup_images (s : State) (q slot : Nat) (g : Group) : (s.setGroup q slot g).images = s.images := rfl
@[simp] theorem State.setGroup_saved (s : State) (q slot : Nat) (g : Group) : (s.setGroup q slot g).saved = s.saved := rfl
@[simp] theorem State.setGroup_savedEng (s : State) (q slot : Nat) (g : Group) : (s.setGroup q slot g).savedEng = s.savedEng := rfl
@[simp] theorem State.setGroup_stackCaps (s : State) (q slot : Nat) (g : Group) : (s.setGroup q slot g).stackCaps = s.stackCaps := rfl
@[simp] theorem State.setGroup_refills (s : State) (q slot : Nat) (g : Group) : (s.setGroup q slot g).refills = s.refills := rfl
@[simp] theorem State.setGroup_upAt (s : State) (q slot : Nat) (g : Group) : (s.setGroup q slot g).upAt = s.upAt := rfl
@[simp] theorem State.setGroup_rings (s : State) (q slot : Nat) (g : Group) : (s.setGroup q slot g).rings = s.rings := rfl
@[simp] theorem State.setGroup_gaps (s : State) (q slot : Nat) (g : Group) : (s.setGroup q slot g).gaps = s.gaps := rfl
@[simp] theorem State.setGroup_gapSet (s : State) (q slot : Nat) (g : Group) : (s.setGroup q slot g).gapSet = s.gapSet := rfl
@[simp] theorem State.setGroup_tokensSet (s : State) (q slot : Nat) (g : Group) : (s.setGroup q slot g).tokensSet = s.tokensSet := rfl
@[simp] theorem State.setGroup_eccs (s : State) (q slot : Nat) (g : Group) : (s.setGroup q slot g).eccs = s.eccs := rfl
@[simp] theorem State.setGroup_tripped (s : State) (q slot : Nat) (g : Group) : (s.setGroup q slot g).tripped = s.tripped := rfl
@[simp] theorem State.setGroup_lastThrottle (s : State) (q slot : Nat) (g : Group) : (s.setGroup q slot g).lastThrottle = s.lastThrottle := rfl
@[simp] theorem State.setGroup_errHeld (s : State) (q slot : Nat) (g : Group) : (s.setGroup q slot g).errHeld = s.errHeld := rfl
@[simp] theorem State.setGroup_pf (s : State) (q slot : Nat) (g : Group) : (s.setGroup q slot g).pf = s.pf := rfl
@[simp] theorem State.setGroup_pfCalls (s : State) (q slot : Nat) (g : Group) : (s.setGroup q slot g).pfCalls = s.pfCalls := rfl
@[simp] theorem State.setGroup_field (s : State) (q slot : Nat) (g : Group) : (s.setGroup q slot g).field = s.field := rfl
@[simp] theorem State.setGroup_turn (s : State) (q slot : Nat) (g : Group) : (s.setGroup q slot g).turn = s.turn := rfl
@[simp] theorem State.setGroup_lastTurn (s : State) (q slot : Nat) (g : Group) : (s.setGroup q slot g).lastTurn = s.lastTurn := rfl
@[simp] theorem State.setGroup_probes (s : State) (q slot : Nat) (g : Group) : (s.setGroup q slot g).probes = s.probes := rfl
@[simp] theorem State.setGroup_granted (s : State) (q slot : Nat) (g : Group) : (s.setGroup q slot g).granted = s.granted := rfl
@[simp] theorem State.setGroup_downStacks (s : State) (q slot : Nat) (g : Group) : (s.setGroup q slot g).downStacks = s.downStacks := rfl
@[simp] theorem State.setGroup_downPorts (s : State) (q slot : Nat) (g : Group) : (s.setGroup q slot g).downPorts = s.downPorts := rfl
@[simp] theorem State.setGroup_keyDraws (s : State) (q slot : Nat) (g : Group) : (s.setGroup q slot g).keyDraws = s.keyDraws := rfl
@[simp] theorem State.setGroup_quads (s : State) (q slot : Nat) (g : Group) : (s.setGroup q slot g).quads = NMap.modify s.quads q (fun x => x.setGroup slot g) := rfl

@[simp] theorem State.freeIssue_agenda (s : State) (q : Nat) (again : Bool) : (s.freeIssue q again).agenda = s.agenda := rfl
@[simp] theorem State.freeIssue_now (s : State) (q : Nat) (again : Bool) : (s.freeIssue q again).now = s.now := rfl
@[simp] theorem State.freeIssue_freeIx (s : State) (q : Nat) (again : Bool) : (s.freeIssue q again).freeIx = s.freeIx := rfl
@[simp] theorem State.freeIssue_nextId (s : State) (q : Nat) (again : Bool) : (s.freeIssue q again).nextId = s.nextId := rfl
@[simp] theorem State.freeIssue_cur (s : State) (q : Nat) (again : Bool) : (s.freeIssue q again).cur = s.cur := rfl
@[simp] theorem State.freeIssue_outbox (s : State) (q : Nat) (again : Bool) : (s.freeIssue q again).outbox = s.outbox := rfl
@[simp] theorem State.freeIssue_powered (s : State) (q : Nat) (again : Bool) : (s.freeIssue q again).powered = s.powered := rfl
@[simp] theorem State.freeIssue_bootFailed (s : State) (q : Nat) (again : Bool) : (s.freeIssue q again).bootFailed = s.bootFailed := rfl
@[simp] theorem State.freeIssue_sites (s : State) (q : Nat) (again : Bool) : (s.freeIssue q again).sites = s.sites := rfl
@[simp] theorem State.freeIssue_mem (s : State) (q : Nat) (again : Bool) : (s.freeIssue q again).mem = s.mem := rfl
@[simp] theorem State.freeIssue_lines (s : State) (q : Nat) (again : Bool) : (s.freeIssue q again).lines = s.lines := rfl
@[simp] theorem State.freeIssue_blocks (s : State) (q : Nat) (again : Bool) : (s.freeIssue q again).blocks = s.blocks := rfl
@[simp] theorem State.freeIssue_extents (s : State) (q : Nat) (again : Bool) : (s.freeIssue q again).extents = s.extents := rfl
@[simp] theorem State.freeIssue_phys (s : State) (q : Nat) (again : Bool) : (s.freeIssue q again).phys = s.phys := rfl
@[simp] theorem State.freeIssue_basins (s : State) (q : Nat) (again : Bool) : (s.freeIssue q again).basins = s.basins := rfl
@[simp] theorem State.freeIssue_engines (s : State) (q : Nat) (again : Bool) : (s.freeIssue q again).engines = s.engines := rfl
@[simp] theorem State.freeIssue_reqs (s : State) (q : Nat) (again : Bool) : (s.freeIssue q again).reqs = s.reqs := rfl
@[simp] theorem State.freeIssue_inbound (s : State) (q : Nat) (again : Bool) : (s.freeIssue q again).inbound = s.inbound := rfl
@[simp] theorem State.freeIssue_hostReads (s : State) (q : Nat) (again : Bool) : (s.freeIssue q again).hostReads = s.hostReads := rfl
@[simp] theorem State.freeIssue_peerIn (s : State) (q : Nat) (again : Bool) : (s.freeIssue q again).peerIn = s.peerIn := rfl
@[simp] theorem State.freeIssue_images (s : State) (q : Nat) (again : Bool) : (s.freeIssue q again).images = s.images := rfl
@[simp] theorem State.freeIssue_saved (s : State) (q : Nat) (again : Bool) : (s.freeIssue q again).saved = s.saved := rfl
@[simp] theorem State.freeIssue_savedEng (s : State) (q : Nat) (again : Bool) : (s.freeIssue q again).savedEng = s.savedEng := rfl
@[simp] theorem State.freeIssue_stackCaps (s : State) (q : Nat) (again : Bool) : (s.freeIssue q again).stackCaps = s.stackCaps := rfl
@[simp] theorem State.freeIssue_refills (s : State) (q : Nat) (again : Bool) : (s.freeIssue q again).refills = s.refills := rfl
@[simp] theorem State.freeIssue_upAt (s : State) (q : Nat) (again : Bool) : (s.freeIssue q again).upAt = s.upAt := rfl
@[simp] theorem State.freeIssue_rings (s : State) (q : Nat) (again : Bool) : (s.freeIssue q again).rings = s.rings := rfl
@[simp] theorem State.freeIssue_gaps (s : State) (q : Nat) (again : Bool) : (s.freeIssue q again).gaps = s.gaps := rfl
@[simp] theorem State.freeIssue_gapSet (s : State) (q : Nat) (again : Bool) : (s.freeIssue q again).gapSet = s.gapSet := rfl
@[simp] theorem State.freeIssue_tokensSet (s : State) (q : Nat) (again : Bool) : (s.freeIssue q again).tokensSet = s.tokensSet := rfl
@[simp] theorem State.freeIssue_eccs (s : State) (q : Nat) (again : Bool) : (s.freeIssue q again).eccs = s.eccs := rfl
@[simp] theorem State.freeIssue_tripped (s : State) (q : Nat) (again : Bool) : (s.freeIssue q again).tripped = s.tripped := rfl
@[simp] theorem State.freeIssue_lastThrottle (s : State) (q : Nat) (again : Bool) : (s.freeIssue q again).lastThrottle = s.lastThrottle := rfl
@[simp] theorem State.freeIssue_errHeld (s : State) (q : Nat) (again : Bool) : (s.freeIssue q again).errHeld = s.errHeld := rfl
@[simp] theorem State.freeIssue_pf (s : State) (q : Nat) (again : Bool) : (s.freeIssue q again).pf = s.pf := rfl
@[simp] theorem State.freeIssue_pfCalls (s : State) (q : Nat) (again : Bool) : (s.freeIssue q again).pfCalls = s.pfCalls := rfl
@[simp] theorem State.freeIssue_field (s : State) (q : Nat) (again : Bool) : (s.freeIssue q again).field = s.field := rfl
@[simp] theorem State.freeIssue_turn (s : State) (q : Nat) (again : Bool) : (s.freeIssue q again).turn = s.turn := rfl
@[simp] theorem State.freeIssue_lastTurn (s : State) (q : Nat) (again : Bool) : (s.freeIssue q again).lastTurn = s.lastTurn := rfl
@[simp] theorem State.freeIssue_probes (s : State) (q : Nat) (again : Bool) : (s.freeIssue q again).probes = s.probes := rfl
@[simp] theorem State.freeIssue_granted (s : State) (q : Nat) (again : Bool) : (s.freeIssue q again).granted = s.granted := rfl
@[simp] theorem State.freeIssue_downStacks (s : State) (q : Nat) (again : Bool) : (s.freeIssue q again).downStacks = s.downStacks := rfl
@[simp] theorem State.freeIssue_downPorts (s : State) (q : Nat) (again : Bool) : (s.freeIssue q again).downPorts = s.downPorts := rfl
@[simp] theorem State.freeIssue_keyDraws (s : State) (q : Nat) (again : Bool) : (s.freeIssue q again).keyDraws = s.keyDraws := rfl

@[simp] theorem State.endIssue_agenda (s : State) (q : Nat) : (s.endIssue q).agenda = s.agenda := rfl
@[simp] theorem State.endIssue_now (s : State) (q : Nat) : (s.endIssue q).now = s.now := rfl
@[simp] theorem State.endIssue_freeIx (s : State) (q : Nat) : (s.endIssue q).freeIx = s.freeIx := rfl
@[simp] theorem State.endIssue_nextId (s : State) (q : Nat) : (s.endIssue q).nextId = s.nextId := rfl
@[simp] theorem State.endIssue_cur (s : State) (q : Nat) : (s.endIssue q).cur = s.cur := rfl
@[simp] theorem State.endIssue_outbox (s : State) (q : Nat) : (s.endIssue q).outbox = s.outbox := rfl
@[simp] theorem State.endIssue_powered (s : State) (q : Nat) : (s.endIssue q).powered = s.powered := rfl
@[simp] theorem State.endIssue_bootFailed (s : State) (q : Nat) : (s.endIssue q).bootFailed = s.bootFailed := rfl
@[simp] theorem State.endIssue_sites (s : State) (q : Nat) : (s.endIssue q).sites = s.sites := rfl
@[simp] theorem State.endIssue_mem (s : State) (q : Nat) : (s.endIssue q).mem = s.mem := rfl
@[simp] theorem State.endIssue_lines (s : State) (q : Nat) : (s.endIssue q).lines = s.lines := rfl
@[simp] theorem State.endIssue_blocks (s : State) (q : Nat) : (s.endIssue q).blocks = s.blocks := rfl
@[simp] theorem State.endIssue_extents (s : State) (q : Nat) : (s.endIssue q).extents = s.extents := rfl
@[simp] theorem State.endIssue_phys (s : State) (q : Nat) : (s.endIssue q).phys = s.phys := rfl
@[simp] theorem State.endIssue_basins (s : State) (q : Nat) : (s.endIssue q).basins = s.basins := rfl
@[simp] theorem State.endIssue_engines (s : State) (q : Nat) : (s.endIssue q).engines = s.engines := rfl
@[simp] theorem State.endIssue_reqs (s : State) (q : Nat) : (s.endIssue q).reqs = s.reqs := rfl
@[simp] theorem State.endIssue_inbound (s : State) (q : Nat) : (s.endIssue q).inbound = s.inbound := rfl
@[simp] theorem State.endIssue_hostReads (s : State) (q : Nat) : (s.endIssue q).hostReads = s.hostReads := rfl
@[simp] theorem State.endIssue_peerIn (s : State) (q : Nat) : (s.endIssue q).peerIn = s.peerIn := rfl
@[simp] theorem State.endIssue_images (s : State) (q : Nat) : (s.endIssue q).images = s.images := rfl
@[simp] theorem State.endIssue_saved (s : State) (q : Nat) : (s.endIssue q).saved = s.saved := rfl
@[simp] theorem State.endIssue_savedEng (s : State) (q : Nat) : (s.endIssue q).savedEng = s.savedEng := rfl
@[simp] theorem State.endIssue_stackCaps (s : State) (q : Nat) : (s.endIssue q).stackCaps = s.stackCaps := rfl
@[simp] theorem State.endIssue_refills (s : State) (q : Nat) : (s.endIssue q).refills = s.refills := rfl
@[simp] theorem State.endIssue_upAt (s : State) (q : Nat) : (s.endIssue q).upAt = s.upAt := rfl
@[simp] theorem State.endIssue_rings (s : State) (q : Nat) : (s.endIssue q).rings = s.rings := rfl
@[simp] theorem State.endIssue_gaps (s : State) (q : Nat) : (s.endIssue q).gaps = s.gaps := rfl
@[simp] theorem State.endIssue_gapSet (s : State) (q : Nat) : (s.endIssue q).gapSet = s.gapSet := rfl
@[simp] theorem State.endIssue_tokensSet (s : State) (q : Nat) : (s.endIssue q).tokensSet = s.tokensSet := rfl
@[simp] theorem State.endIssue_eccs (s : State) (q : Nat) : (s.endIssue q).eccs = s.eccs := rfl
@[simp] theorem State.endIssue_tripped (s : State) (q : Nat) : (s.endIssue q).tripped = s.tripped := rfl
@[simp] theorem State.endIssue_lastThrottle (s : State) (q : Nat) : (s.endIssue q).lastThrottle = s.lastThrottle := rfl
@[simp] theorem State.endIssue_errHeld (s : State) (q : Nat) : (s.endIssue q).errHeld = s.errHeld := rfl
@[simp] theorem State.endIssue_pf (s : State) (q : Nat) : (s.endIssue q).pf = s.pf := rfl
@[simp] theorem State.endIssue_pfCalls (s : State) (q : Nat) : (s.endIssue q).pfCalls = s.pfCalls := rfl
@[simp] theorem State.endIssue_field (s : State) (q : Nat) : (s.endIssue q).field = s.field := rfl
@[simp] theorem State.endIssue_turn (s : State) (q : Nat) : (s.endIssue q).turn = s.turn := rfl
@[simp] theorem State.endIssue_lastTurn (s : State) (q : Nat) : (s.endIssue q).lastTurn = s.lastTurn := rfl
@[simp] theorem State.endIssue_probes (s : State) (q : Nat) : (s.endIssue q).probes = s.probes := rfl
@[simp] theorem State.endIssue_granted (s : State) (q : Nat) : (s.endIssue q).granted = s.granted := rfl
@[simp] theorem State.endIssue_downStacks (s : State) (q : Nat) : (s.endIssue q).downStacks = s.downStacks := rfl
@[simp] theorem State.endIssue_downPorts (s : State) (q : Nat) : (s.endIssue q).downPorts = s.downPorts := rfl
@[simp] theorem State.endIssue_keyDraws (s : State) (q : Nat) : (s.endIssue q).keyDraws = s.keyDraws := rfl

@[simp] theorem State.writeByte_agenda (s : State) (k : Nat) (b : Byte) : (s.writeByte k b).agenda = s.agenda := rfl
@[simp] theorem State.writeByte_now (s : State) (k : Nat) (b : Byte) : (s.writeByte k b).now = s.now := rfl
@[simp] theorem State.writeByte_freeIx (s : State) (k : Nat) (b : Byte) : (s.writeByte k b).freeIx = s.freeIx := rfl
@[simp] theorem State.writeByte_nextId (s : State) (k : Nat) (b : Byte) : (s.writeByte k b).nextId = s.nextId := rfl
@[simp] theorem State.writeByte_cur (s : State) (k : Nat) (b : Byte) : (s.writeByte k b).cur = s.cur := rfl
@[simp] theorem State.writeByte_outbox (s : State) (k : Nat) (b : Byte) : (s.writeByte k b).outbox = s.outbox := rfl
@[simp] theorem State.writeByte_powered (s : State) (k : Nat) (b : Byte) : (s.writeByte k b).powered = s.powered := rfl
@[simp] theorem State.writeByte_bootFailed (s : State) (k : Nat) (b : Byte) : (s.writeByte k b).bootFailed = s.bootFailed := rfl
@[simp] theorem State.writeByte_sites (s : State) (k : Nat) (b : Byte) : (s.writeByte k b).sites = s.sites := rfl
@[simp] theorem State.writeByte_lines (s : State) (k : Nat) (b : Byte) : (s.writeByte k b).lines = s.lines := rfl
@[simp] theorem State.writeByte_blocks (s : State) (k : Nat) (b : Byte) : (s.writeByte k b).blocks = s.blocks := rfl
@[simp] theorem State.writeByte_extents (s : State) (k : Nat) (b : Byte) : (s.writeByte k b).extents = s.extents := rfl
@[simp] theorem State.writeByte_phys (s : State) (k : Nat) (b : Byte) : (s.writeByte k b).phys = s.phys := rfl
@[simp] theorem State.writeByte_basins (s : State) (k : Nat) (b : Byte) : (s.writeByte k b).basins = s.basins := rfl
@[simp] theorem State.writeByte_quads (s : State) (k : Nat) (b : Byte) : (s.writeByte k b).quads = s.quads := rfl
@[simp] theorem State.writeByte_engines (s : State) (k : Nat) (b : Byte) : (s.writeByte k b).engines = s.engines := rfl
@[simp] theorem State.writeByte_reqs (s : State) (k : Nat) (b : Byte) : (s.writeByte k b).reqs = s.reqs := rfl
@[simp] theorem State.writeByte_inbound (s : State) (k : Nat) (b : Byte) : (s.writeByte k b).inbound = s.inbound := rfl
@[simp] theorem State.writeByte_hostReads (s : State) (k : Nat) (b : Byte) : (s.writeByte k b).hostReads = s.hostReads := rfl
@[simp] theorem State.writeByte_peerIn (s : State) (k : Nat) (b : Byte) : (s.writeByte k b).peerIn = s.peerIn := rfl
@[simp] theorem State.writeByte_images (s : State) (k : Nat) (b : Byte) : (s.writeByte k b).images = s.images := rfl
@[simp] theorem State.writeByte_saved (s : State) (k : Nat) (b : Byte) : (s.writeByte k b).saved = s.saved := rfl
@[simp] theorem State.writeByte_savedEng (s : State) (k : Nat) (b : Byte) : (s.writeByte k b).savedEng = s.savedEng := rfl
@[simp] theorem State.writeByte_stackCaps (s : State) (k : Nat) (b : Byte) : (s.writeByte k b).stackCaps = s.stackCaps := rfl
@[simp] theorem State.writeByte_refills (s : State) (k : Nat) (b : Byte) : (s.writeByte k b).refills = s.refills := rfl
@[simp] theorem State.writeByte_upAt (s : State) (k : Nat) (b : Byte) : (s.writeByte k b).upAt = s.upAt := rfl
@[simp] theorem State.writeByte_rings (s : State) (k : Nat) (b : Byte) : (s.writeByte k b).rings = s.rings := rfl
@[simp] theorem State.writeByte_gaps (s : State) (k : Nat) (b : Byte) : (s.writeByte k b).gaps = s.gaps := rfl
@[simp] theorem State.writeByte_gapSet (s : State) (k : Nat) (b : Byte) : (s.writeByte k b).gapSet = s.gapSet := rfl
@[simp] theorem State.writeByte_tokensSet (s : State) (k : Nat) (b : Byte) : (s.writeByte k b).tokensSet = s.tokensSet := rfl
@[simp] theorem State.writeByte_eccs (s : State) (k : Nat) (b : Byte) : (s.writeByte k b).eccs = s.eccs := rfl
@[simp] theorem State.writeByte_tripped (s : State) (k : Nat) (b : Byte) : (s.writeByte k b).tripped = s.tripped := rfl
@[simp] theorem State.writeByte_lastThrottle (s : State) (k : Nat) (b : Byte) : (s.writeByte k b).lastThrottle = s.lastThrottle := rfl
@[simp] theorem State.writeByte_errHeld (s : State) (k : Nat) (b : Byte) : (s.writeByte k b).errHeld = s.errHeld := rfl
@[simp] theorem State.writeByte_pf (s : State) (k : Nat) (b : Byte) : (s.writeByte k b).pf = s.pf := rfl
@[simp] theorem State.writeByte_pfCalls (s : State) (k : Nat) (b : Byte) : (s.writeByte k b).pfCalls = s.pfCalls := rfl
@[simp] theorem State.writeByte_field (s : State) (k : Nat) (b : Byte) : (s.writeByte k b).field = s.field := rfl
@[simp] theorem State.writeByte_turn (s : State) (k : Nat) (b : Byte) : (s.writeByte k b).turn = s.turn := rfl
@[simp] theorem State.writeByte_lastTurn (s : State) (k : Nat) (b : Byte) : (s.writeByte k b).lastTurn = s.lastTurn := rfl
@[simp] theorem State.writeByte_probes (s : State) (k : Nat) (b : Byte) : (s.writeByte k b).probes = s.probes := rfl
@[simp] theorem State.writeByte_granted (s : State) (k : Nat) (b : Byte) : (s.writeByte k b).granted = s.granted := rfl
@[simp] theorem State.writeByte_downStacks (s : State) (k : Nat) (b : Byte) : (s.writeByte k b).downStacks = s.downStacks := rfl
@[simp] theorem State.writeByte_downPorts (s : State) (k : Nat) (b : Byte) : (s.writeByte k b).downPorts = s.downPorts := rfl
@[simp] theorem State.writeByte_keyDraws (s : State) (k : Nat) (b : Byte) : (s.writeByte k b).keyDraws = s.keyDraws := rfl
@[simp] theorem State.writeByte_mem (s : State) (k : Nat) (b : Byte) : (s.writeByte k b).mem = memSet s.mem k b := rfl

@[simp] theorem State.writeBytes_agenda (s : State) (k : Nat) (bs : List Byte) : (s.writeBytes k bs).agenda = s.agenda := rfl
@[simp] theorem State.writeBytes_now (s : State) (k : Nat) (bs : List Byte) : (s.writeBytes k bs).now = s.now := rfl
@[simp] theorem State.writeBytes_freeIx (s : State) (k : Nat) (bs : List Byte) : (s.writeBytes k bs).freeIx = s.freeIx := rfl
@[simp] theorem State.writeBytes_nextId (s : State) (k : Nat) (bs : List Byte) : (s.writeBytes k bs).nextId = s.nextId := rfl
@[simp] theorem State.writeBytes_cur (s : State) (k : Nat) (bs : List Byte) : (s.writeBytes k bs).cur = s.cur := rfl
@[simp] theorem State.writeBytes_outbox (s : State) (k : Nat) (bs : List Byte) : (s.writeBytes k bs).outbox = s.outbox := rfl
@[simp] theorem State.writeBytes_powered (s : State) (k : Nat) (bs : List Byte) : (s.writeBytes k bs).powered = s.powered := rfl
@[simp] theorem State.writeBytes_bootFailed (s : State) (k : Nat) (bs : List Byte) : (s.writeBytes k bs).bootFailed = s.bootFailed := rfl
@[simp] theorem State.writeBytes_sites (s : State) (k : Nat) (bs : List Byte) : (s.writeBytes k bs).sites = s.sites := rfl
@[simp] theorem State.writeBytes_lines (s : State) (k : Nat) (bs : List Byte) : (s.writeBytes k bs).lines = s.lines := rfl
@[simp] theorem State.writeBytes_blocks (s : State) (k : Nat) (bs : List Byte) : (s.writeBytes k bs).blocks = s.blocks := rfl
@[simp] theorem State.writeBytes_extents (s : State) (k : Nat) (bs : List Byte) : (s.writeBytes k bs).extents = s.extents := rfl
@[simp] theorem State.writeBytes_phys (s : State) (k : Nat) (bs : List Byte) : (s.writeBytes k bs).phys = s.phys := rfl
@[simp] theorem State.writeBytes_basins (s : State) (k : Nat) (bs : List Byte) : (s.writeBytes k bs).basins = s.basins := rfl
@[simp] theorem State.writeBytes_quads (s : State) (k : Nat) (bs : List Byte) : (s.writeBytes k bs).quads = s.quads := rfl
@[simp] theorem State.writeBytes_engines (s : State) (k : Nat) (bs : List Byte) : (s.writeBytes k bs).engines = s.engines := rfl
@[simp] theorem State.writeBytes_reqs (s : State) (k : Nat) (bs : List Byte) : (s.writeBytes k bs).reqs = s.reqs := rfl
@[simp] theorem State.writeBytes_inbound (s : State) (k : Nat) (bs : List Byte) : (s.writeBytes k bs).inbound = s.inbound := rfl
@[simp] theorem State.writeBytes_hostReads (s : State) (k : Nat) (bs : List Byte) : (s.writeBytes k bs).hostReads = s.hostReads := rfl
@[simp] theorem State.writeBytes_peerIn (s : State) (k : Nat) (bs : List Byte) : (s.writeBytes k bs).peerIn = s.peerIn := rfl
@[simp] theorem State.writeBytes_images (s : State) (k : Nat) (bs : List Byte) : (s.writeBytes k bs).images = s.images := rfl
@[simp] theorem State.writeBytes_saved (s : State) (k : Nat) (bs : List Byte) : (s.writeBytes k bs).saved = s.saved := rfl
@[simp] theorem State.writeBytes_savedEng (s : State) (k : Nat) (bs : List Byte) : (s.writeBytes k bs).savedEng = s.savedEng := rfl
@[simp] theorem State.writeBytes_stackCaps (s : State) (k : Nat) (bs : List Byte) : (s.writeBytes k bs).stackCaps = s.stackCaps := rfl
@[simp] theorem State.writeBytes_refills (s : State) (k : Nat) (bs : List Byte) : (s.writeBytes k bs).refills = s.refills := rfl
@[simp] theorem State.writeBytes_upAt (s : State) (k : Nat) (bs : List Byte) : (s.writeBytes k bs).upAt = s.upAt := rfl
@[simp] theorem State.writeBytes_rings (s : State) (k : Nat) (bs : List Byte) : (s.writeBytes k bs).rings = s.rings := rfl
@[simp] theorem State.writeBytes_gaps (s : State) (k : Nat) (bs : List Byte) : (s.writeBytes k bs).gaps = s.gaps := rfl
@[simp] theorem State.writeBytes_gapSet (s : State) (k : Nat) (bs : List Byte) : (s.writeBytes k bs).gapSet = s.gapSet := rfl
@[simp] theorem State.writeBytes_tokensSet (s : State) (k : Nat) (bs : List Byte) : (s.writeBytes k bs).tokensSet = s.tokensSet := rfl
@[simp] theorem State.writeBytes_eccs (s : State) (k : Nat) (bs : List Byte) : (s.writeBytes k bs).eccs = s.eccs := rfl
@[simp] theorem State.writeBytes_tripped (s : State) (k : Nat) (bs : List Byte) : (s.writeBytes k bs).tripped = s.tripped := rfl
@[simp] theorem State.writeBytes_lastThrottle (s : State) (k : Nat) (bs : List Byte) : (s.writeBytes k bs).lastThrottle = s.lastThrottle := rfl
@[simp] theorem State.writeBytes_errHeld (s : State) (k : Nat) (bs : List Byte) : (s.writeBytes k bs).errHeld = s.errHeld := rfl
@[simp] theorem State.writeBytes_pf (s : State) (k : Nat) (bs : List Byte) : (s.writeBytes k bs).pf = s.pf := rfl
@[simp] theorem State.writeBytes_pfCalls (s : State) (k : Nat) (bs : List Byte) : (s.writeBytes k bs).pfCalls = s.pfCalls := rfl
@[simp] theorem State.writeBytes_field (s : State) (k : Nat) (bs : List Byte) : (s.writeBytes k bs).field = s.field := rfl
@[simp] theorem State.writeBytes_turn (s : State) (k : Nat) (bs : List Byte) : (s.writeBytes k bs).turn = s.turn := rfl
@[simp] theorem State.writeBytes_lastTurn (s : State) (k : Nat) (bs : List Byte) : (s.writeBytes k bs).lastTurn = s.lastTurn := rfl
@[simp] theorem State.writeBytes_probes (s : State) (k : Nat) (bs : List Byte) : (s.writeBytes k bs).probes = s.probes := rfl
@[simp] theorem State.writeBytes_granted (s : State) (k : Nat) (bs : List Byte) : (s.writeBytes k bs).granted = s.granted := rfl
@[simp] theorem State.writeBytes_downStacks (s : State) (k : Nat) (bs : List Byte) : (s.writeBytes k bs).downStacks = s.downStacks := rfl
@[simp] theorem State.writeBytes_downPorts (s : State) (k : Nat) (bs : List Byte) : (s.writeBytes k bs).downPorts = s.downPorts := rfl
@[simp] theorem State.writeBytes_keyDraws (s : State) (k : Nat) (bs : List Byte) : (s.writeBytes k bs).keyDraws = s.keyDraws := rfl

@[simp] theorem State.putBytes_agenda (s : State) (b obj : Nat) (bytes : NMap Byte) : (s.putBytes b obj bytes).agenda = s.agenda := rfl
@[simp] theorem State.putBytes_now (s : State) (b obj : Nat) (bytes : NMap Byte) : (s.putBytes b obj bytes).now = s.now := rfl
@[simp] theorem State.putBytes_freeIx (s : State) (b obj : Nat) (bytes : NMap Byte) : (s.putBytes b obj bytes).freeIx = s.freeIx := rfl
@[simp] theorem State.putBytes_nextId (s : State) (b obj : Nat) (bytes : NMap Byte) : (s.putBytes b obj bytes).nextId = s.nextId := rfl
@[simp] theorem State.putBytes_cur (s : State) (b obj : Nat) (bytes : NMap Byte) : (s.putBytes b obj bytes).cur = s.cur := rfl
@[simp] theorem State.putBytes_outbox (s : State) (b obj : Nat) (bytes : NMap Byte) : (s.putBytes b obj bytes).outbox = s.outbox := rfl
@[simp] theorem State.putBytes_powered (s : State) (b obj : Nat) (bytes : NMap Byte) : (s.putBytes b obj bytes).powered = s.powered := rfl
@[simp] theorem State.putBytes_bootFailed (s : State) (b obj : Nat) (bytes : NMap Byte) : (s.putBytes b obj bytes).bootFailed = s.bootFailed := rfl
@[simp] theorem State.putBytes_sites (s : State) (b obj : Nat) (bytes : NMap Byte) : (s.putBytes b obj bytes).sites = s.sites := rfl
@[simp] theorem State.putBytes_lines (s : State) (b obj : Nat) (bytes : NMap Byte) : (s.putBytes b obj bytes).lines = s.lines := rfl
@[simp] theorem State.putBytes_blocks (s : State) (b obj : Nat) (bytes : NMap Byte) : (s.putBytes b obj bytes).blocks = s.blocks := rfl
@[simp] theorem State.putBytes_extents (s : State) (b obj : Nat) (bytes : NMap Byte) : (s.putBytes b obj bytes).extents = s.extents := rfl
@[simp] theorem State.putBytes_phys (s : State) (b obj : Nat) (bytes : NMap Byte) : (s.putBytes b obj bytes).phys = s.phys := rfl
@[simp] theorem State.putBytes_basins (s : State) (b obj : Nat) (bytes : NMap Byte) : (s.putBytes b obj bytes).basins = s.basins := rfl
@[simp] theorem State.putBytes_quads (s : State) (b obj : Nat) (bytes : NMap Byte) : (s.putBytes b obj bytes).quads = s.quads := rfl
@[simp] theorem State.putBytes_engines (s : State) (b obj : Nat) (bytes : NMap Byte) : (s.putBytes b obj bytes).engines = s.engines := rfl
@[simp] theorem State.putBytes_reqs (s : State) (b obj : Nat) (bytes : NMap Byte) : (s.putBytes b obj bytes).reqs = s.reqs := rfl
@[simp] theorem State.putBytes_inbound (s : State) (b obj : Nat) (bytes : NMap Byte) : (s.putBytes b obj bytes).inbound = s.inbound := rfl
@[simp] theorem State.putBytes_hostReads (s : State) (b obj : Nat) (bytes : NMap Byte) : (s.putBytes b obj bytes).hostReads = s.hostReads := rfl
@[simp] theorem State.putBytes_peerIn (s : State) (b obj : Nat) (bytes : NMap Byte) : (s.putBytes b obj bytes).peerIn = s.peerIn := rfl
@[simp] theorem State.putBytes_images (s : State) (b obj : Nat) (bytes : NMap Byte) : (s.putBytes b obj bytes).images = s.images := rfl
@[simp] theorem State.putBytes_saved (s : State) (b obj : Nat) (bytes : NMap Byte) : (s.putBytes b obj bytes).saved = s.saved := rfl
@[simp] theorem State.putBytes_savedEng (s : State) (b obj : Nat) (bytes : NMap Byte) : (s.putBytes b obj bytes).savedEng = s.savedEng := rfl
@[simp] theorem State.putBytes_stackCaps (s : State) (b obj : Nat) (bytes : NMap Byte) : (s.putBytes b obj bytes).stackCaps = s.stackCaps := rfl
@[simp] theorem State.putBytes_refills (s : State) (b obj : Nat) (bytes : NMap Byte) : (s.putBytes b obj bytes).refills = s.refills := rfl
@[simp] theorem State.putBytes_upAt (s : State) (b obj : Nat) (bytes : NMap Byte) : (s.putBytes b obj bytes).upAt = s.upAt := rfl
@[simp] theorem State.putBytes_rings (s : State) (b obj : Nat) (bytes : NMap Byte) : (s.putBytes b obj bytes).rings = s.rings := rfl
@[simp] theorem State.putBytes_gaps (s : State) (b obj : Nat) (bytes : NMap Byte) : (s.putBytes b obj bytes).gaps = s.gaps := rfl
@[simp] theorem State.putBytes_gapSet (s : State) (b obj : Nat) (bytes : NMap Byte) : (s.putBytes b obj bytes).gapSet = s.gapSet := rfl
@[simp] theorem State.putBytes_tokensSet (s : State) (b obj : Nat) (bytes : NMap Byte) : (s.putBytes b obj bytes).tokensSet = s.tokensSet := rfl
@[simp] theorem State.putBytes_eccs (s : State) (b obj : Nat) (bytes : NMap Byte) : (s.putBytes b obj bytes).eccs = s.eccs := rfl
@[simp] theorem State.putBytes_tripped (s : State) (b obj : Nat) (bytes : NMap Byte) : (s.putBytes b obj bytes).tripped = s.tripped := rfl
@[simp] theorem State.putBytes_lastThrottle (s : State) (b obj : Nat) (bytes : NMap Byte) : (s.putBytes b obj bytes).lastThrottle = s.lastThrottle := rfl
@[simp] theorem State.putBytes_errHeld (s : State) (b obj : Nat) (bytes : NMap Byte) : (s.putBytes b obj bytes).errHeld = s.errHeld := rfl
@[simp] theorem State.putBytes_pf (s : State) (b obj : Nat) (bytes : NMap Byte) : (s.putBytes b obj bytes).pf = s.pf := rfl
@[simp] theorem State.putBytes_pfCalls (s : State) (b obj : Nat) (bytes : NMap Byte) : (s.putBytes b obj bytes).pfCalls = s.pfCalls := rfl
@[simp] theorem State.putBytes_field (s : State) (b obj : Nat) (bytes : NMap Byte) : (s.putBytes b obj bytes).field = s.field := rfl
@[simp] theorem State.putBytes_turn (s : State) (b obj : Nat) (bytes : NMap Byte) : (s.putBytes b obj bytes).turn = s.turn := rfl
@[simp] theorem State.putBytes_lastTurn (s : State) (b obj : Nat) (bytes : NMap Byte) : (s.putBytes b obj bytes).lastTurn = s.lastTurn := rfl
@[simp] theorem State.putBytes_probes (s : State) (b obj : Nat) (bytes : NMap Byte) : (s.putBytes b obj bytes).probes = s.probes := rfl
@[simp] theorem State.putBytes_granted (s : State) (b obj : Nat) (bytes : NMap Byte) : (s.putBytes b obj bytes).granted = s.granted := rfl
@[simp] theorem State.putBytes_downStacks (s : State) (b obj : Nat) (bytes : NMap Byte) : (s.putBytes b obj bytes).downStacks = s.downStacks := rfl
@[simp] theorem State.putBytes_downPorts (s : State) (b obj : Nat) (bytes : NMap Byte) : (s.putBytes b obj bytes).downPorts = s.downPorts := rfl
@[simp] theorem State.putBytes_keyDraws (s : State) (b obj : Nat) (bytes : NMap Byte) : (s.putBytes b obj bytes).keyDraws = s.keyDraws := rfl

@[simp] theorem State.setLine_agenda (s : State) (k : Nat) (l : Line) : (s.setLine k l).agenda = s.agenda := rfl
@[simp] theorem State.setLine_now (s : State) (k : Nat) (l : Line) : (s.setLine k l).now = s.now := rfl
@[simp] theorem State.setLine_freeIx (s : State) (k : Nat) (l : Line) : (s.setLine k l).freeIx = s.freeIx := rfl
@[simp] theorem State.setLine_nextId (s : State) (k : Nat) (l : Line) : (s.setLine k l).nextId = s.nextId := rfl
@[simp] theorem State.setLine_cur (s : State) (k : Nat) (l : Line) : (s.setLine k l).cur = s.cur := rfl
@[simp] theorem State.setLine_outbox (s : State) (k : Nat) (l : Line) : (s.setLine k l).outbox = s.outbox := rfl
@[simp] theorem State.setLine_powered (s : State) (k : Nat) (l : Line) : (s.setLine k l).powered = s.powered := rfl
@[simp] theorem State.setLine_bootFailed (s : State) (k : Nat) (l : Line) : (s.setLine k l).bootFailed = s.bootFailed := rfl
@[simp] theorem State.setLine_sites (s : State) (k : Nat) (l : Line) : (s.setLine k l).sites = s.sites := rfl
@[simp] theorem State.setLine_mem (s : State) (k : Nat) (l : Line) : (s.setLine k l).mem = s.mem := rfl
@[simp] theorem State.setLine_blocks (s : State) (k : Nat) (l : Line) : (s.setLine k l).blocks = s.blocks := rfl
@[simp] theorem State.setLine_extents (s : State) (k : Nat) (l : Line) : (s.setLine k l).extents = s.extents := rfl
@[simp] theorem State.setLine_phys (s : State) (k : Nat) (l : Line) : (s.setLine k l).phys = s.phys := rfl
@[simp] theorem State.setLine_basins (s : State) (k : Nat) (l : Line) : (s.setLine k l).basins = s.basins := rfl
@[simp] theorem State.setLine_quads (s : State) (k : Nat) (l : Line) : (s.setLine k l).quads = s.quads := rfl
@[simp] theorem State.setLine_engines (s : State) (k : Nat) (l : Line) : (s.setLine k l).engines = s.engines := rfl
@[simp] theorem State.setLine_reqs (s : State) (k : Nat) (l : Line) : (s.setLine k l).reqs = s.reqs := rfl
@[simp] theorem State.setLine_inbound (s : State) (k : Nat) (l : Line) : (s.setLine k l).inbound = s.inbound := rfl
@[simp] theorem State.setLine_hostReads (s : State) (k : Nat) (l : Line) : (s.setLine k l).hostReads = s.hostReads := rfl
@[simp] theorem State.setLine_peerIn (s : State) (k : Nat) (l : Line) : (s.setLine k l).peerIn = s.peerIn := rfl
@[simp] theorem State.setLine_images (s : State) (k : Nat) (l : Line) : (s.setLine k l).images = s.images := rfl
@[simp] theorem State.setLine_saved (s : State) (k : Nat) (l : Line) : (s.setLine k l).saved = s.saved := rfl
@[simp] theorem State.setLine_savedEng (s : State) (k : Nat) (l : Line) : (s.setLine k l).savedEng = s.savedEng := rfl
@[simp] theorem State.setLine_stackCaps (s : State) (k : Nat) (l : Line) : (s.setLine k l).stackCaps = s.stackCaps := rfl
@[simp] theorem State.setLine_refills (s : State) (k : Nat) (l : Line) : (s.setLine k l).refills = s.refills := rfl
@[simp] theorem State.setLine_upAt (s : State) (k : Nat) (l : Line) : (s.setLine k l).upAt = s.upAt := rfl
@[simp] theorem State.setLine_rings (s : State) (k : Nat) (l : Line) : (s.setLine k l).rings = s.rings := rfl
@[simp] theorem State.setLine_gaps (s : State) (k : Nat) (l : Line) : (s.setLine k l).gaps = s.gaps := rfl
@[simp] theorem State.setLine_gapSet (s : State) (k : Nat) (l : Line) : (s.setLine k l).gapSet = s.gapSet := rfl
@[simp] theorem State.setLine_tokensSet (s : State) (k : Nat) (l : Line) : (s.setLine k l).tokensSet = s.tokensSet := rfl
@[simp] theorem State.setLine_eccs (s : State) (k : Nat) (l : Line) : (s.setLine k l).eccs = s.eccs := rfl
@[simp] theorem State.setLine_tripped (s : State) (k : Nat) (l : Line) : (s.setLine k l).tripped = s.tripped := rfl
@[simp] theorem State.setLine_lastThrottle (s : State) (k : Nat) (l : Line) : (s.setLine k l).lastThrottle = s.lastThrottle := rfl
@[simp] theorem State.setLine_errHeld (s : State) (k : Nat) (l : Line) : (s.setLine k l).errHeld = s.errHeld := rfl
@[simp] theorem State.setLine_pf (s : State) (k : Nat) (l : Line) : (s.setLine k l).pf = s.pf := rfl
@[simp] theorem State.setLine_pfCalls (s : State) (k : Nat) (l : Line) : (s.setLine k l).pfCalls = s.pfCalls := rfl
@[simp] theorem State.setLine_field (s : State) (k : Nat) (l : Line) : (s.setLine k l).field = s.field := rfl
@[simp] theorem State.setLine_turn (s : State) (k : Nat) (l : Line) : (s.setLine k l).turn = s.turn := rfl
@[simp] theorem State.setLine_lastTurn (s : State) (k : Nat) (l : Line) : (s.setLine k l).lastTurn = s.lastTurn := rfl
@[simp] theorem State.setLine_probes (s : State) (k : Nat) (l : Line) : (s.setLine k l).probes = s.probes := rfl
@[simp] theorem State.setLine_granted (s : State) (k : Nat) (l : Line) : (s.setLine k l).granted = s.granted := rfl
@[simp] theorem State.setLine_downStacks (s : State) (k : Nat) (l : Line) : (s.setLine k l).downStacks = s.downStacks := rfl
@[simp] theorem State.setLine_downPorts (s : State) (k : Nat) (l : Line) : (s.setLine k l).downPorts = s.downPorts := rfl
@[simp] theorem State.setLine_keyDraws (s : State) (k : Nat) (l : Line) : (s.setLine k l).keyDraws = s.keyDraws := rfl
@[simp] theorem State.setLine_lines (s : State) (k : Nat) (l : Line) : (s.setLine k l).lines = NMap.set s.lines k l := rfl

@[simp] theorem State.setBlock_agenda (s : State) (k : Nat) (x : Block) : (s.setBlock k x).agenda = s.agenda := rfl
@[simp] theorem State.setBlock_now (s : State) (k : Nat) (x : Block) : (s.setBlock k x).now = s.now := rfl
@[simp] theorem State.setBlock_freeIx (s : State) (k : Nat) (x : Block) : (s.setBlock k x).freeIx = s.freeIx := rfl
@[simp] theorem State.setBlock_nextId (s : State) (k : Nat) (x : Block) : (s.setBlock k x).nextId = s.nextId := rfl
@[simp] theorem State.setBlock_cur (s : State) (k : Nat) (x : Block) : (s.setBlock k x).cur = s.cur := rfl
@[simp] theorem State.setBlock_outbox (s : State) (k : Nat) (x : Block) : (s.setBlock k x).outbox = s.outbox := rfl
@[simp] theorem State.setBlock_powered (s : State) (k : Nat) (x : Block) : (s.setBlock k x).powered = s.powered := rfl
@[simp] theorem State.setBlock_bootFailed (s : State) (k : Nat) (x : Block) : (s.setBlock k x).bootFailed = s.bootFailed := rfl
@[simp] theorem State.setBlock_sites (s : State) (k : Nat) (x : Block) : (s.setBlock k x).sites = s.sites := rfl
@[simp] theorem State.setBlock_mem (s : State) (k : Nat) (x : Block) : (s.setBlock k x).mem = s.mem := rfl
@[simp] theorem State.setBlock_lines (s : State) (k : Nat) (x : Block) : (s.setBlock k x).lines = s.lines := rfl
@[simp] theorem State.setBlock_extents (s : State) (k : Nat) (x : Block) : (s.setBlock k x).extents = s.extents := rfl
@[simp] theorem State.setBlock_phys (s : State) (k : Nat) (x : Block) : (s.setBlock k x).phys = s.phys := rfl
@[simp] theorem State.setBlock_basins (s : State) (k : Nat) (x : Block) : (s.setBlock k x).basins = s.basins := rfl
@[simp] theorem State.setBlock_quads (s : State) (k : Nat) (x : Block) : (s.setBlock k x).quads = s.quads := rfl
@[simp] theorem State.setBlock_engines (s : State) (k : Nat) (x : Block) : (s.setBlock k x).engines = s.engines := rfl
@[simp] theorem State.setBlock_reqs (s : State) (k : Nat) (x : Block) : (s.setBlock k x).reqs = s.reqs := rfl
@[simp] theorem State.setBlock_inbound (s : State) (k : Nat) (x : Block) : (s.setBlock k x).inbound = s.inbound := rfl
@[simp] theorem State.setBlock_hostReads (s : State) (k : Nat) (x : Block) : (s.setBlock k x).hostReads = s.hostReads := rfl
@[simp] theorem State.setBlock_peerIn (s : State) (k : Nat) (x : Block) : (s.setBlock k x).peerIn = s.peerIn := rfl
@[simp] theorem State.setBlock_images (s : State) (k : Nat) (x : Block) : (s.setBlock k x).images = s.images := rfl
@[simp] theorem State.setBlock_saved (s : State) (k : Nat) (x : Block) : (s.setBlock k x).saved = s.saved := rfl
@[simp] theorem State.setBlock_savedEng (s : State) (k : Nat) (x : Block) : (s.setBlock k x).savedEng = s.savedEng := rfl
@[simp] theorem State.setBlock_stackCaps (s : State) (k : Nat) (x : Block) : (s.setBlock k x).stackCaps = s.stackCaps := rfl
@[simp] theorem State.setBlock_refills (s : State) (k : Nat) (x : Block) : (s.setBlock k x).refills = s.refills := rfl
@[simp] theorem State.setBlock_upAt (s : State) (k : Nat) (x : Block) : (s.setBlock k x).upAt = s.upAt := rfl
@[simp] theorem State.setBlock_rings (s : State) (k : Nat) (x : Block) : (s.setBlock k x).rings = s.rings := rfl
@[simp] theorem State.setBlock_gaps (s : State) (k : Nat) (x : Block) : (s.setBlock k x).gaps = s.gaps := rfl
@[simp] theorem State.setBlock_gapSet (s : State) (k : Nat) (x : Block) : (s.setBlock k x).gapSet = s.gapSet := rfl
@[simp] theorem State.setBlock_tokensSet (s : State) (k : Nat) (x : Block) : (s.setBlock k x).tokensSet = s.tokensSet := rfl
@[simp] theorem State.setBlock_eccs (s : State) (k : Nat) (x : Block) : (s.setBlock k x).eccs = s.eccs := rfl
@[simp] theorem State.setBlock_tripped (s : State) (k : Nat) (x : Block) : (s.setBlock k x).tripped = s.tripped := rfl
@[simp] theorem State.setBlock_lastThrottle (s : State) (k : Nat) (x : Block) : (s.setBlock k x).lastThrottle = s.lastThrottle := rfl
@[simp] theorem State.setBlock_errHeld (s : State) (k : Nat) (x : Block) : (s.setBlock k x).errHeld = s.errHeld := rfl
@[simp] theorem State.setBlock_pf (s : State) (k : Nat) (x : Block) : (s.setBlock k x).pf = s.pf := rfl
@[simp] theorem State.setBlock_pfCalls (s : State) (k : Nat) (x : Block) : (s.setBlock k x).pfCalls = s.pfCalls := rfl
@[simp] theorem State.setBlock_field (s : State) (k : Nat) (x : Block) : (s.setBlock k x).field = s.field := rfl
@[simp] theorem State.setBlock_turn (s : State) (k : Nat) (x : Block) : (s.setBlock k x).turn = s.turn := rfl
@[simp] theorem State.setBlock_lastTurn (s : State) (k : Nat) (x : Block) : (s.setBlock k x).lastTurn = s.lastTurn := rfl
@[simp] theorem State.setBlock_probes (s : State) (k : Nat) (x : Block) : (s.setBlock k x).probes = s.probes := rfl
@[simp] theorem State.setBlock_granted (s : State) (k : Nat) (x : Block) : (s.setBlock k x).granted = s.granted := rfl
@[simp] theorem State.setBlock_downStacks (s : State) (k : Nat) (x : Block) : (s.setBlock k x).downStacks = s.downStacks := rfl
@[simp] theorem State.setBlock_downPorts (s : State) (k : Nat) (x : Block) : (s.setBlock k x).downPorts = s.downPorts := rfl
@[simp] theorem State.setBlock_keyDraws (s : State) (k : Nat) (x : Block) : (s.setBlock k x).keyDraws = s.keyDraws := rfl
@[simp] theorem State.setBlock_blocks (s : State) (k : Nat) (x : Block) : (s.setBlock k x).blocks = NMap.set s.blocks k x := rfl

@[simp] theorem State.setExtent_agenda (s : State) (k : Nat) (x : Extent) : (s.setExtent k x).agenda = s.agenda := rfl
@[simp] theorem State.setExtent_now (s : State) (k : Nat) (x : Extent) : (s.setExtent k x).now = s.now := rfl
@[simp] theorem State.setExtent_freeIx (s : State) (k : Nat) (x : Extent) : (s.setExtent k x).freeIx = s.freeIx := rfl
@[simp] theorem State.setExtent_nextId (s : State) (k : Nat) (x : Extent) : (s.setExtent k x).nextId = s.nextId := rfl
@[simp] theorem State.setExtent_cur (s : State) (k : Nat) (x : Extent) : (s.setExtent k x).cur = s.cur := rfl
@[simp] theorem State.setExtent_outbox (s : State) (k : Nat) (x : Extent) : (s.setExtent k x).outbox = s.outbox := rfl
@[simp] theorem State.setExtent_powered (s : State) (k : Nat) (x : Extent) : (s.setExtent k x).powered = s.powered := rfl
@[simp] theorem State.setExtent_bootFailed (s : State) (k : Nat) (x : Extent) : (s.setExtent k x).bootFailed = s.bootFailed := rfl
@[simp] theorem State.setExtent_sites (s : State) (k : Nat) (x : Extent) : (s.setExtent k x).sites = s.sites := rfl
@[simp] theorem State.setExtent_mem (s : State) (k : Nat) (x : Extent) : (s.setExtent k x).mem = s.mem := rfl
@[simp] theorem State.setExtent_lines (s : State) (k : Nat) (x : Extent) : (s.setExtent k x).lines = s.lines := rfl
@[simp] theorem State.setExtent_blocks (s : State) (k : Nat) (x : Extent) : (s.setExtent k x).blocks = s.blocks := rfl
@[simp] theorem State.setExtent_phys (s : State) (k : Nat) (x : Extent) : (s.setExtent k x).phys = s.phys := rfl
@[simp] theorem State.setExtent_basins (s : State) (k : Nat) (x : Extent) : (s.setExtent k x).basins = s.basins := rfl
@[simp] theorem State.setExtent_quads (s : State) (k : Nat) (x : Extent) : (s.setExtent k x).quads = s.quads := rfl
@[simp] theorem State.setExtent_engines (s : State) (k : Nat) (x : Extent) : (s.setExtent k x).engines = s.engines := rfl
@[simp] theorem State.setExtent_reqs (s : State) (k : Nat) (x : Extent) : (s.setExtent k x).reqs = s.reqs := rfl
@[simp] theorem State.setExtent_inbound (s : State) (k : Nat) (x : Extent) : (s.setExtent k x).inbound = s.inbound := rfl
@[simp] theorem State.setExtent_hostReads (s : State) (k : Nat) (x : Extent) : (s.setExtent k x).hostReads = s.hostReads := rfl
@[simp] theorem State.setExtent_peerIn (s : State) (k : Nat) (x : Extent) : (s.setExtent k x).peerIn = s.peerIn := rfl
@[simp] theorem State.setExtent_images (s : State) (k : Nat) (x : Extent) : (s.setExtent k x).images = s.images := rfl
@[simp] theorem State.setExtent_saved (s : State) (k : Nat) (x : Extent) : (s.setExtent k x).saved = s.saved := rfl
@[simp] theorem State.setExtent_savedEng (s : State) (k : Nat) (x : Extent) : (s.setExtent k x).savedEng = s.savedEng := rfl
@[simp] theorem State.setExtent_stackCaps (s : State) (k : Nat) (x : Extent) : (s.setExtent k x).stackCaps = s.stackCaps := rfl
@[simp] theorem State.setExtent_refills (s : State) (k : Nat) (x : Extent) : (s.setExtent k x).refills = s.refills := rfl
@[simp] theorem State.setExtent_upAt (s : State) (k : Nat) (x : Extent) : (s.setExtent k x).upAt = s.upAt := rfl
@[simp] theorem State.setExtent_rings (s : State) (k : Nat) (x : Extent) : (s.setExtent k x).rings = s.rings := rfl
@[simp] theorem State.setExtent_gaps (s : State) (k : Nat) (x : Extent) : (s.setExtent k x).gaps = s.gaps := rfl
@[simp] theorem State.setExtent_gapSet (s : State) (k : Nat) (x : Extent) : (s.setExtent k x).gapSet = s.gapSet := rfl
@[simp] theorem State.setExtent_tokensSet (s : State) (k : Nat) (x : Extent) : (s.setExtent k x).tokensSet = s.tokensSet := rfl
@[simp] theorem State.setExtent_eccs (s : State) (k : Nat) (x : Extent) : (s.setExtent k x).eccs = s.eccs := rfl
@[simp] theorem State.setExtent_tripped (s : State) (k : Nat) (x : Extent) : (s.setExtent k x).tripped = s.tripped := rfl
@[simp] theorem State.setExtent_lastThrottle (s : State) (k : Nat) (x : Extent) : (s.setExtent k x).lastThrottle = s.lastThrottle := rfl
@[simp] theorem State.setExtent_errHeld (s : State) (k : Nat) (x : Extent) : (s.setExtent k x).errHeld = s.errHeld := rfl
@[simp] theorem State.setExtent_pf (s : State) (k : Nat) (x : Extent) : (s.setExtent k x).pf = s.pf := rfl
@[simp] theorem State.setExtent_pfCalls (s : State) (k : Nat) (x : Extent) : (s.setExtent k x).pfCalls = s.pfCalls := rfl
@[simp] theorem State.setExtent_field (s : State) (k : Nat) (x : Extent) : (s.setExtent k x).field = s.field := rfl
@[simp] theorem State.setExtent_turn (s : State) (k : Nat) (x : Extent) : (s.setExtent k x).turn = s.turn := rfl
@[simp] theorem State.setExtent_lastTurn (s : State) (k : Nat) (x : Extent) : (s.setExtent k x).lastTurn = s.lastTurn := rfl
@[simp] theorem State.setExtent_probes (s : State) (k : Nat) (x : Extent) : (s.setExtent k x).probes = s.probes := rfl
@[simp] theorem State.setExtent_granted (s : State) (k : Nat) (x : Extent) : (s.setExtent k x).granted = s.granted := rfl
@[simp] theorem State.setExtent_downStacks (s : State) (k : Nat) (x : Extent) : (s.setExtent k x).downStacks = s.downStacks := rfl
@[simp] theorem State.setExtent_downPorts (s : State) (k : Nat) (x : Extent) : (s.setExtent k x).downPorts = s.downPorts := rfl
@[simp] theorem State.setExtent_keyDraws (s : State) (k : Nat) (x : Extent) : (s.setExtent k x).keyDraws = s.keyDraws := rfl
@[simp] theorem State.setExtent_extents (s : State) (k : Nat) (x : Extent) : (s.setExtent k x).extents = NMap.set s.extents k x := rfl

@[simp] theorem State.modBasin_agenda (s : State) (b : Nat) (f : Basin → Basin) : (s.modBasin b f).agenda = s.agenda := rfl
@[simp] theorem State.modBasin_now (s : State) (b : Nat) (f : Basin → Basin) : (s.modBasin b f).now = s.now := rfl
@[simp] theorem State.modBasin_freeIx (s : State) (b : Nat) (f : Basin → Basin) : (s.modBasin b f).freeIx = s.freeIx := rfl
@[simp] theorem State.modBasin_nextId (s : State) (b : Nat) (f : Basin → Basin) : (s.modBasin b f).nextId = s.nextId := rfl
@[simp] theorem State.modBasin_cur (s : State) (b : Nat) (f : Basin → Basin) : (s.modBasin b f).cur = s.cur := rfl
@[simp] theorem State.modBasin_outbox (s : State) (b : Nat) (f : Basin → Basin) : (s.modBasin b f).outbox = s.outbox := rfl
@[simp] theorem State.modBasin_powered (s : State) (b : Nat) (f : Basin → Basin) : (s.modBasin b f).powered = s.powered := rfl
@[simp] theorem State.modBasin_bootFailed (s : State) (b : Nat) (f : Basin → Basin) : (s.modBasin b f).bootFailed = s.bootFailed := rfl
@[simp] theorem State.modBasin_sites (s : State) (b : Nat) (f : Basin → Basin) : (s.modBasin b f).sites = s.sites := rfl
@[simp] theorem State.modBasin_mem (s : State) (b : Nat) (f : Basin → Basin) : (s.modBasin b f).mem = s.mem := rfl
@[simp] theorem State.modBasin_lines (s : State) (b : Nat) (f : Basin → Basin) : (s.modBasin b f).lines = s.lines := rfl
@[simp] theorem State.modBasin_blocks (s : State) (b : Nat) (f : Basin → Basin) : (s.modBasin b f).blocks = s.blocks := rfl
@[simp] theorem State.modBasin_extents (s : State) (b : Nat) (f : Basin → Basin) : (s.modBasin b f).extents = s.extents := rfl
@[simp] theorem State.modBasin_phys (s : State) (b : Nat) (f : Basin → Basin) : (s.modBasin b f).phys = s.phys := rfl
@[simp] theorem State.modBasin_quads (s : State) (b : Nat) (f : Basin → Basin) : (s.modBasin b f).quads = s.quads := rfl
@[simp] theorem State.modBasin_engines (s : State) (b : Nat) (f : Basin → Basin) : (s.modBasin b f).engines = s.engines := rfl
@[simp] theorem State.modBasin_reqs (s : State) (b : Nat) (f : Basin → Basin) : (s.modBasin b f).reqs = s.reqs := rfl
@[simp] theorem State.modBasin_inbound (s : State) (b : Nat) (f : Basin → Basin) : (s.modBasin b f).inbound = s.inbound := rfl
@[simp] theorem State.modBasin_hostReads (s : State) (b : Nat) (f : Basin → Basin) : (s.modBasin b f).hostReads = s.hostReads := rfl
@[simp] theorem State.modBasin_peerIn (s : State) (b : Nat) (f : Basin → Basin) : (s.modBasin b f).peerIn = s.peerIn := rfl
@[simp] theorem State.modBasin_images (s : State) (b : Nat) (f : Basin → Basin) : (s.modBasin b f).images = s.images := rfl
@[simp] theorem State.modBasin_saved (s : State) (b : Nat) (f : Basin → Basin) : (s.modBasin b f).saved = s.saved := rfl
@[simp] theorem State.modBasin_savedEng (s : State) (b : Nat) (f : Basin → Basin) : (s.modBasin b f).savedEng = s.savedEng := rfl
@[simp] theorem State.modBasin_stackCaps (s : State) (b : Nat) (f : Basin → Basin) : (s.modBasin b f).stackCaps = s.stackCaps := rfl
@[simp] theorem State.modBasin_refills (s : State) (b : Nat) (f : Basin → Basin) : (s.modBasin b f).refills = s.refills := rfl
@[simp] theorem State.modBasin_upAt (s : State) (b : Nat) (f : Basin → Basin) : (s.modBasin b f).upAt = s.upAt := rfl
@[simp] theorem State.modBasin_rings (s : State) (b : Nat) (f : Basin → Basin) : (s.modBasin b f).rings = s.rings := rfl
@[simp] theorem State.modBasin_gaps (s : State) (b : Nat) (f : Basin → Basin) : (s.modBasin b f).gaps = s.gaps := rfl
@[simp] theorem State.modBasin_gapSet (s : State) (b : Nat) (f : Basin → Basin) : (s.modBasin b f).gapSet = s.gapSet := rfl
@[simp] theorem State.modBasin_tokensSet (s : State) (b : Nat) (f : Basin → Basin) : (s.modBasin b f).tokensSet = s.tokensSet := rfl
@[simp] theorem State.modBasin_eccs (s : State) (b : Nat) (f : Basin → Basin) : (s.modBasin b f).eccs = s.eccs := rfl
@[simp] theorem State.modBasin_tripped (s : State) (b : Nat) (f : Basin → Basin) : (s.modBasin b f).tripped = s.tripped := rfl
@[simp] theorem State.modBasin_lastThrottle (s : State) (b : Nat) (f : Basin → Basin) : (s.modBasin b f).lastThrottle = s.lastThrottle := rfl
@[simp] theorem State.modBasin_errHeld (s : State) (b : Nat) (f : Basin → Basin) : (s.modBasin b f).errHeld = s.errHeld := rfl
@[simp] theorem State.modBasin_pf (s : State) (b : Nat) (f : Basin → Basin) : (s.modBasin b f).pf = s.pf := rfl
@[simp] theorem State.modBasin_pfCalls (s : State) (b : Nat) (f : Basin → Basin) : (s.modBasin b f).pfCalls = s.pfCalls := rfl
@[simp] theorem State.modBasin_field (s : State) (b : Nat) (f : Basin → Basin) : (s.modBasin b f).field = s.field := rfl
@[simp] theorem State.modBasin_turn (s : State) (b : Nat) (f : Basin → Basin) : (s.modBasin b f).turn = s.turn := rfl
@[simp] theorem State.modBasin_lastTurn (s : State) (b : Nat) (f : Basin → Basin) : (s.modBasin b f).lastTurn = s.lastTurn := rfl
@[simp] theorem State.modBasin_probes (s : State) (b : Nat) (f : Basin → Basin) : (s.modBasin b f).probes = s.probes := rfl
@[simp] theorem State.modBasin_granted (s : State) (b : Nat) (f : Basin → Basin) : (s.modBasin b f).granted = s.granted := rfl
@[simp] theorem State.modBasin_downStacks (s : State) (b : Nat) (f : Basin → Basin) : (s.modBasin b f).downStacks = s.downStacks := rfl
@[simp] theorem State.modBasin_downPorts (s : State) (b : Nat) (f : Basin → Basin) : (s.modBasin b f).downPorts = s.downPorts := rfl
@[simp] theorem State.modBasin_keyDraws (s : State) (b : Nat) (f : Basin → Basin) : (s.modBasin b f).keyDraws = s.keyDraws := rfl
@[simp] theorem State.modBasin_basins (s : State) (b : Nat) (f : Basin → Basin) : (s.modBasin b f).basins = NMap.set s.basins b (f (s.basin b)) := rfl

@[simp] theorem State.modEngine_agenda (s : State) (qs : Nat) (f : SlotEng → SlotEng) : (s.modEngine qs f).agenda = s.agenda := rfl
@[simp] theorem State.modEngine_now (s : State) (qs : Nat) (f : SlotEng → SlotEng) : (s.modEngine qs f).now = s.now := rfl
@[simp] theorem State.modEngine_freeIx (s : State) (qs : Nat) (f : SlotEng → SlotEng) : (s.modEngine qs f).freeIx = s.freeIx := rfl
@[simp] theorem State.modEngine_nextId (s : State) (qs : Nat) (f : SlotEng → SlotEng) : (s.modEngine qs f).nextId = s.nextId := rfl
@[simp] theorem State.modEngine_cur (s : State) (qs : Nat) (f : SlotEng → SlotEng) : (s.modEngine qs f).cur = s.cur := rfl
@[simp] theorem State.modEngine_outbox (s : State) (qs : Nat) (f : SlotEng → SlotEng) : (s.modEngine qs f).outbox = s.outbox := rfl
@[simp] theorem State.modEngine_powered (s : State) (qs : Nat) (f : SlotEng → SlotEng) : (s.modEngine qs f).powered = s.powered := rfl
@[simp] theorem State.modEngine_bootFailed (s : State) (qs : Nat) (f : SlotEng → SlotEng) : (s.modEngine qs f).bootFailed = s.bootFailed := rfl
@[simp] theorem State.modEngine_sites (s : State) (qs : Nat) (f : SlotEng → SlotEng) : (s.modEngine qs f).sites = s.sites := rfl
@[simp] theorem State.modEngine_mem (s : State) (qs : Nat) (f : SlotEng → SlotEng) : (s.modEngine qs f).mem = s.mem := rfl
@[simp] theorem State.modEngine_lines (s : State) (qs : Nat) (f : SlotEng → SlotEng) : (s.modEngine qs f).lines = s.lines := rfl
@[simp] theorem State.modEngine_blocks (s : State) (qs : Nat) (f : SlotEng → SlotEng) : (s.modEngine qs f).blocks = s.blocks := rfl
@[simp] theorem State.modEngine_extents (s : State) (qs : Nat) (f : SlotEng → SlotEng) : (s.modEngine qs f).extents = s.extents := rfl
@[simp] theorem State.modEngine_phys (s : State) (qs : Nat) (f : SlotEng → SlotEng) : (s.modEngine qs f).phys = s.phys := rfl
@[simp] theorem State.modEngine_basins (s : State) (qs : Nat) (f : SlotEng → SlotEng) : (s.modEngine qs f).basins = s.basins := rfl
@[simp] theorem State.modEngine_quads (s : State) (qs : Nat) (f : SlotEng → SlotEng) : (s.modEngine qs f).quads = s.quads := rfl
@[simp] theorem State.modEngine_reqs (s : State) (qs : Nat) (f : SlotEng → SlotEng) : (s.modEngine qs f).reqs = s.reqs := rfl
@[simp] theorem State.modEngine_inbound (s : State) (qs : Nat) (f : SlotEng → SlotEng) : (s.modEngine qs f).inbound = s.inbound := rfl
@[simp] theorem State.modEngine_hostReads (s : State) (qs : Nat) (f : SlotEng → SlotEng) : (s.modEngine qs f).hostReads = s.hostReads := rfl
@[simp] theorem State.modEngine_peerIn (s : State) (qs : Nat) (f : SlotEng → SlotEng) : (s.modEngine qs f).peerIn = s.peerIn := rfl
@[simp] theorem State.modEngine_images (s : State) (qs : Nat) (f : SlotEng → SlotEng) : (s.modEngine qs f).images = s.images := rfl
@[simp] theorem State.modEngine_saved (s : State) (qs : Nat) (f : SlotEng → SlotEng) : (s.modEngine qs f).saved = s.saved := rfl
@[simp] theorem State.modEngine_savedEng (s : State) (qs : Nat) (f : SlotEng → SlotEng) : (s.modEngine qs f).savedEng = s.savedEng := rfl
@[simp] theorem State.modEngine_stackCaps (s : State) (qs : Nat) (f : SlotEng → SlotEng) : (s.modEngine qs f).stackCaps = s.stackCaps := rfl
@[simp] theorem State.modEngine_refills (s : State) (qs : Nat) (f : SlotEng → SlotEng) : (s.modEngine qs f).refills = s.refills := rfl
@[simp] theorem State.modEngine_upAt (s : State) (qs : Nat) (f : SlotEng → SlotEng) : (s.modEngine qs f).upAt = s.upAt := rfl
@[simp] theorem State.modEngine_rings (s : State) (qs : Nat) (f : SlotEng → SlotEng) : (s.modEngine qs f).rings = s.rings := rfl
@[simp] theorem State.modEngine_gaps (s : State) (qs : Nat) (f : SlotEng → SlotEng) : (s.modEngine qs f).gaps = s.gaps := rfl
@[simp] theorem State.modEngine_gapSet (s : State) (qs : Nat) (f : SlotEng → SlotEng) : (s.modEngine qs f).gapSet = s.gapSet := rfl
@[simp] theorem State.modEngine_tokensSet (s : State) (qs : Nat) (f : SlotEng → SlotEng) : (s.modEngine qs f).tokensSet = s.tokensSet := rfl
@[simp] theorem State.modEngine_eccs (s : State) (qs : Nat) (f : SlotEng → SlotEng) : (s.modEngine qs f).eccs = s.eccs := rfl
@[simp] theorem State.modEngine_tripped (s : State) (qs : Nat) (f : SlotEng → SlotEng) : (s.modEngine qs f).tripped = s.tripped := rfl
@[simp] theorem State.modEngine_lastThrottle (s : State) (qs : Nat) (f : SlotEng → SlotEng) : (s.modEngine qs f).lastThrottle = s.lastThrottle := rfl
@[simp] theorem State.modEngine_errHeld (s : State) (qs : Nat) (f : SlotEng → SlotEng) : (s.modEngine qs f).errHeld = s.errHeld := rfl
@[simp] theorem State.modEngine_pf (s : State) (qs : Nat) (f : SlotEng → SlotEng) : (s.modEngine qs f).pf = s.pf := rfl
@[simp] theorem State.modEngine_pfCalls (s : State) (qs : Nat) (f : SlotEng → SlotEng) : (s.modEngine qs f).pfCalls = s.pfCalls := rfl
@[simp] theorem State.modEngine_field (s : State) (qs : Nat) (f : SlotEng → SlotEng) : (s.modEngine qs f).field = s.field := rfl
@[simp] theorem State.modEngine_turn (s : State) (qs : Nat) (f : SlotEng → SlotEng) : (s.modEngine qs f).turn = s.turn := rfl
@[simp] theorem State.modEngine_lastTurn (s : State) (qs : Nat) (f : SlotEng → SlotEng) : (s.modEngine qs f).lastTurn = s.lastTurn := rfl
@[simp] theorem State.modEngine_probes (s : State) (qs : Nat) (f : SlotEng → SlotEng) : (s.modEngine qs f).probes = s.probes := rfl
@[simp] theorem State.modEngine_granted (s : State) (qs : Nat) (f : SlotEng → SlotEng) : (s.modEngine qs f).granted = s.granted := rfl
@[simp] theorem State.modEngine_downStacks (s : State) (qs : Nat) (f : SlotEng → SlotEng) : (s.modEngine qs f).downStacks = s.downStacks := rfl
@[simp] theorem State.modEngine_downPorts (s : State) (qs : Nat) (f : SlotEng → SlotEng) : (s.modEngine qs f).downPorts = s.downPorts := rfl
@[simp] theorem State.modEngine_keyDraws (s : State) (qs : Nat) (f : SlotEng → SlotEng) : (s.modEngine qs f).keyDraws = s.keyDraws := rfl
@[simp] theorem State.modEngine_engines (s : State) (qs : Nat) (f : SlotEng → SlotEng) : (s.modEngine qs f).engines = NMap.set s.engines qs (f (s.engine qs)) := rfl

@[simp] theorem State.setReq_agenda (s : State) (id : Nat) (r : Req) : (s.setReq id r).agenda = s.agenda := rfl
@[simp] theorem State.setReq_now (s : State) (id : Nat) (r : Req) : (s.setReq id r).now = s.now := rfl
@[simp] theorem State.setReq_freeIx (s : State) (id : Nat) (r : Req) : (s.setReq id r).freeIx = s.freeIx := rfl
@[simp] theorem State.setReq_nextId (s : State) (id : Nat) (r : Req) : (s.setReq id r).nextId = s.nextId := rfl
@[simp] theorem State.setReq_cur (s : State) (id : Nat) (r : Req) : (s.setReq id r).cur = s.cur := rfl
@[simp] theorem State.setReq_outbox (s : State) (id : Nat) (r : Req) : (s.setReq id r).outbox = s.outbox := rfl
@[simp] theorem State.setReq_powered (s : State) (id : Nat) (r : Req) : (s.setReq id r).powered = s.powered := rfl
@[simp] theorem State.setReq_bootFailed (s : State) (id : Nat) (r : Req) : (s.setReq id r).bootFailed = s.bootFailed := rfl
@[simp] theorem State.setReq_sites (s : State) (id : Nat) (r : Req) : (s.setReq id r).sites = s.sites := rfl
@[simp] theorem State.setReq_mem (s : State) (id : Nat) (r : Req) : (s.setReq id r).mem = s.mem := rfl
@[simp] theorem State.setReq_lines (s : State) (id : Nat) (r : Req) : (s.setReq id r).lines = s.lines := rfl
@[simp] theorem State.setReq_blocks (s : State) (id : Nat) (r : Req) : (s.setReq id r).blocks = s.blocks := rfl
@[simp] theorem State.setReq_extents (s : State) (id : Nat) (r : Req) : (s.setReq id r).extents = s.extents := rfl
@[simp] theorem State.setReq_phys (s : State) (id : Nat) (r : Req) : (s.setReq id r).phys = s.phys := rfl
@[simp] theorem State.setReq_basins (s : State) (id : Nat) (r : Req) : (s.setReq id r).basins = s.basins := rfl
@[simp] theorem State.setReq_quads (s : State) (id : Nat) (r : Req) : (s.setReq id r).quads = s.quads := rfl
@[simp] theorem State.setReq_engines (s : State) (id : Nat) (r : Req) : (s.setReq id r).engines = s.engines := rfl
@[simp] theorem State.setReq_inbound (s : State) (id : Nat) (r : Req) : (s.setReq id r).inbound = s.inbound := rfl
@[simp] theorem State.setReq_hostReads (s : State) (id : Nat) (r : Req) : (s.setReq id r).hostReads = s.hostReads := rfl
@[simp] theorem State.setReq_peerIn (s : State) (id : Nat) (r : Req) : (s.setReq id r).peerIn = s.peerIn := rfl
@[simp] theorem State.setReq_images (s : State) (id : Nat) (r : Req) : (s.setReq id r).images = s.images := rfl
@[simp] theorem State.setReq_saved (s : State) (id : Nat) (r : Req) : (s.setReq id r).saved = s.saved := rfl
@[simp] theorem State.setReq_savedEng (s : State) (id : Nat) (r : Req) : (s.setReq id r).savedEng = s.savedEng := rfl
@[simp] theorem State.setReq_stackCaps (s : State) (id : Nat) (r : Req) : (s.setReq id r).stackCaps = s.stackCaps := rfl
@[simp] theorem State.setReq_refills (s : State) (id : Nat) (r : Req) : (s.setReq id r).refills = s.refills := rfl
@[simp] theorem State.setReq_upAt (s : State) (id : Nat) (r : Req) : (s.setReq id r).upAt = s.upAt := rfl
@[simp] theorem State.setReq_rings (s : State) (id : Nat) (r : Req) : (s.setReq id r).rings = s.rings := rfl
@[simp] theorem State.setReq_gaps (s : State) (id : Nat) (r : Req) : (s.setReq id r).gaps = s.gaps := rfl
@[simp] theorem State.setReq_gapSet (s : State) (id : Nat) (r : Req) : (s.setReq id r).gapSet = s.gapSet := rfl
@[simp] theorem State.setReq_tokensSet (s : State) (id : Nat) (r : Req) : (s.setReq id r).tokensSet = s.tokensSet := rfl
@[simp] theorem State.setReq_eccs (s : State) (id : Nat) (r : Req) : (s.setReq id r).eccs = s.eccs := rfl
@[simp] theorem State.setReq_tripped (s : State) (id : Nat) (r : Req) : (s.setReq id r).tripped = s.tripped := rfl
@[simp] theorem State.setReq_lastThrottle (s : State) (id : Nat) (r : Req) : (s.setReq id r).lastThrottle = s.lastThrottle := rfl
@[simp] theorem State.setReq_errHeld (s : State) (id : Nat) (r : Req) : (s.setReq id r).errHeld = s.errHeld := rfl
@[simp] theorem State.setReq_pf (s : State) (id : Nat) (r : Req) : (s.setReq id r).pf = s.pf := rfl
@[simp] theorem State.setReq_pfCalls (s : State) (id : Nat) (r : Req) : (s.setReq id r).pfCalls = s.pfCalls := rfl
@[simp] theorem State.setReq_field (s : State) (id : Nat) (r : Req) : (s.setReq id r).field = s.field := rfl
@[simp] theorem State.setReq_turn (s : State) (id : Nat) (r : Req) : (s.setReq id r).turn = s.turn := rfl
@[simp] theorem State.setReq_lastTurn (s : State) (id : Nat) (r : Req) : (s.setReq id r).lastTurn = s.lastTurn := rfl
@[simp] theorem State.setReq_probes (s : State) (id : Nat) (r : Req) : (s.setReq id r).probes = s.probes := rfl
@[simp] theorem State.setReq_granted (s : State) (id : Nat) (r : Req) : (s.setReq id r).granted = s.granted := rfl
@[simp] theorem State.setReq_downStacks (s : State) (id : Nat) (r : Req) : (s.setReq id r).downStacks = s.downStacks := rfl
@[simp] theorem State.setReq_downPorts (s : State) (id : Nat) (r : Req) : (s.setReq id r).downPorts = s.downPorts := rfl
@[simp] theorem State.setReq_keyDraws (s : State) (id : Nat) (r : Req) : (s.setReq id r).keyDraws = s.keyDraws := rfl
@[simp] theorem State.setReq_reqs (s : State) (id : Nat) (r : Req) : (s.setReq id r).reqs = NMap.set s.reqs id r := rfl

@[simp] theorem State.addReq_agenda (s : State) (r : Req) : (s.addReq r).agenda = s.agenda := rfl
@[simp] theorem State.addReq_now (s : State) (r : Req) : (s.addReq r).now = s.now := rfl
@[simp] theorem State.addReq_freeIx (s : State) (r : Req) : (s.addReq r).freeIx = s.freeIx := rfl
@[simp] theorem State.addReq_cur (s : State) (r : Req) : (s.addReq r).cur = s.cur := rfl
@[simp] theorem State.addReq_outbox (s : State) (r : Req) : (s.addReq r).outbox = s.outbox := rfl
@[simp] theorem State.addReq_powered (s : State) (r : Req) : (s.addReq r).powered = s.powered := rfl
@[simp] theorem State.addReq_bootFailed (s : State) (r : Req) : (s.addReq r).bootFailed = s.bootFailed := rfl
@[simp] theorem State.addReq_sites (s : State) (r : Req) : (s.addReq r).sites = s.sites := rfl
@[simp] theorem State.addReq_mem (s : State) (r : Req) : (s.addReq r).mem = s.mem := rfl
@[simp] theorem State.addReq_lines (s : State) (r : Req) : (s.addReq r).lines = s.lines := rfl
@[simp] theorem State.addReq_blocks (s : State) (r : Req) : (s.addReq r).blocks = s.blocks := rfl
@[simp] theorem State.addReq_extents (s : State) (r : Req) : (s.addReq r).extents = s.extents := rfl
@[simp] theorem State.addReq_phys (s : State) (r : Req) : (s.addReq r).phys = s.phys := rfl
@[simp] theorem State.addReq_basins (s : State) (r : Req) : (s.addReq r).basins = s.basins := rfl
@[simp] theorem State.addReq_quads (s : State) (r : Req) : (s.addReq r).quads = s.quads := rfl
@[simp] theorem State.addReq_engines (s : State) (r : Req) : (s.addReq r).engines = s.engines := rfl
@[simp] theorem State.addReq_inbound (s : State) (r : Req) : (s.addReq r).inbound = s.inbound := rfl
@[simp] theorem State.addReq_hostReads (s : State) (r : Req) : (s.addReq r).hostReads = s.hostReads := rfl
@[simp] theorem State.addReq_peerIn (s : State) (r : Req) : (s.addReq r).peerIn = s.peerIn := rfl
@[simp] theorem State.addReq_images (s : State) (r : Req) : (s.addReq r).images = s.images := rfl
@[simp] theorem State.addReq_saved (s : State) (r : Req) : (s.addReq r).saved = s.saved := rfl
@[simp] theorem State.addReq_savedEng (s : State) (r : Req) : (s.addReq r).savedEng = s.savedEng := rfl
@[simp] theorem State.addReq_stackCaps (s : State) (r : Req) : (s.addReq r).stackCaps = s.stackCaps := rfl
@[simp] theorem State.addReq_refills (s : State) (r : Req) : (s.addReq r).refills = s.refills := rfl
@[simp] theorem State.addReq_upAt (s : State) (r : Req) : (s.addReq r).upAt = s.upAt := rfl
@[simp] theorem State.addReq_rings (s : State) (r : Req) : (s.addReq r).rings = s.rings := rfl
@[simp] theorem State.addReq_gaps (s : State) (r : Req) : (s.addReq r).gaps = s.gaps := rfl
@[simp] theorem State.addReq_gapSet (s : State) (r : Req) : (s.addReq r).gapSet = s.gapSet := rfl
@[simp] theorem State.addReq_tokensSet (s : State) (r : Req) : (s.addReq r).tokensSet = s.tokensSet := rfl
@[simp] theorem State.addReq_eccs (s : State) (r : Req) : (s.addReq r).eccs = s.eccs := rfl
@[simp] theorem State.addReq_tripped (s : State) (r : Req) : (s.addReq r).tripped = s.tripped := rfl
@[simp] theorem State.addReq_lastThrottle (s : State) (r : Req) : (s.addReq r).lastThrottle = s.lastThrottle := rfl
@[simp] theorem State.addReq_errHeld (s : State) (r : Req) : (s.addReq r).errHeld = s.errHeld := rfl
@[simp] theorem State.addReq_pf (s : State) (r : Req) : (s.addReq r).pf = s.pf := rfl
@[simp] theorem State.addReq_pfCalls (s : State) (r : Req) : (s.addReq r).pfCalls = s.pfCalls := rfl
@[simp] theorem State.addReq_field (s : State) (r : Req) : (s.addReq r).field = s.field := rfl
@[simp] theorem State.addReq_turn (s : State) (r : Req) : (s.addReq r).turn = s.turn := rfl
@[simp] theorem State.addReq_lastTurn (s : State) (r : Req) : (s.addReq r).lastTurn = s.lastTurn := rfl
@[simp] theorem State.addReq_probes (s : State) (r : Req) : (s.addReq r).probes = s.probes := rfl
@[simp] theorem State.addReq_granted (s : State) (r : Req) : (s.addReq r).granted = s.granted := rfl
@[simp] theorem State.addReq_downStacks (s : State) (r : Req) : (s.addReq r).downStacks = s.downStacks := rfl
@[simp] theorem State.addReq_downPorts (s : State) (r : Req) : (s.addReq r).downPorts = s.downPorts := rfl
@[simp] theorem State.addReq_keyDraws (s : State) (r : Req) : (s.addReq r).keyDraws = s.keyDraws := rfl
@[simp] theorem State.addReq_nextId (s : State) (r : Req) : (s.addReq r).nextId = s.nextId + 1 := rfl

@[simp] theorem State.count_agenda (s : State) (k : Nat) : (s.count k).agenda = s.agenda := rfl
@[simp] theorem State.count_now (s : State) (k : Nat) : (s.count k).now = s.now := rfl
@[simp] theorem State.count_freeIx (s : State) (k : Nat) : (s.count k).freeIx = s.freeIx := rfl
@[simp] theorem State.count_nextId (s : State) (k : Nat) : (s.count k).nextId = s.nextId := rfl
@[simp] theorem State.count_cur (s : State) (k : Nat) : (s.count k).cur = s.cur := rfl
@[simp] theorem State.count_outbox (s : State) (k : Nat) : (s.count k).outbox = s.outbox := rfl
@[simp] theorem State.count_powered (s : State) (k : Nat) : (s.count k).powered = s.powered := rfl
@[simp] theorem State.count_bootFailed (s : State) (k : Nat) : (s.count k).bootFailed = s.bootFailed := rfl
@[simp] theorem State.count_sites (s : State) (k : Nat) : (s.count k).sites = s.sites := rfl
@[simp] theorem State.count_mem (s : State) (k : Nat) : (s.count k).mem = s.mem := rfl
@[simp] theorem State.count_lines (s : State) (k : Nat) : (s.count k).lines = s.lines := rfl
@[simp] theorem State.count_blocks (s : State) (k : Nat) : (s.count k).blocks = s.blocks := rfl
@[simp] theorem State.count_extents (s : State) (k : Nat) : (s.count k).extents = s.extents := rfl
@[simp] theorem State.count_phys (s : State) (k : Nat) : (s.count k).phys = s.phys := rfl
@[simp] theorem State.count_basins (s : State) (k : Nat) : (s.count k).basins = s.basins := rfl
@[simp] theorem State.count_quads (s : State) (k : Nat) : (s.count k).quads = s.quads := rfl
@[simp] theorem State.count_engines (s : State) (k : Nat) : (s.count k).engines = s.engines := rfl
@[simp] theorem State.count_reqs (s : State) (k : Nat) : (s.count k).reqs = s.reqs := rfl
@[simp] theorem State.count_inbound (s : State) (k : Nat) : (s.count k).inbound = s.inbound := rfl
@[simp] theorem State.count_hostReads (s : State) (k : Nat) : (s.count k).hostReads = s.hostReads := rfl
@[simp] theorem State.count_peerIn (s : State) (k : Nat) : (s.count k).peerIn = s.peerIn := rfl
@[simp] theorem State.count_images (s : State) (k : Nat) : (s.count k).images = s.images := rfl
@[simp] theorem State.count_saved (s : State) (k : Nat) : (s.count k).saved = s.saved := rfl
@[simp] theorem State.count_savedEng (s : State) (k : Nat) : (s.count k).savedEng = s.savedEng := rfl
@[simp] theorem State.count_stackCaps (s : State) (k : Nat) : (s.count k).stackCaps = s.stackCaps := rfl
@[simp] theorem State.count_refills (s : State) (k : Nat) : (s.count k).refills = s.refills := rfl
@[simp] theorem State.count_upAt (s : State) (k : Nat) : (s.count k).upAt = s.upAt := rfl
@[simp] theorem State.count_rings (s : State) (k : Nat) : (s.count k).rings = s.rings := rfl
@[simp] theorem State.count_gaps (s : State) (k : Nat) : (s.count k).gaps = s.gaps := rfl
@[simp] theorem State.count_gapSet (s : State) (k : Nat) : (s.count k).gapSet = s.gapSet := rfl
@[simp] theorem State.count_tokensSet (s : State) (k : Nat) : (s.count k).tokensSet = s.tokensSet := rfl
@[simp] theorem State.count_eccs (s : State) (k : Nat) : (s.count k).eccs = s.eccs := rfl
@[simp] theorem State.count_tripped (s : State) (k : Nat) : (s.count k).tripped = s.tripped := rfl
@[simp] theorem State.count_lastThrottle (s : State) (k : Nat) : (s.count k).lastThrottle = s.lastThrottle := rfl
@[simp] theorem State.count_errHeld (s : State) (k : Nat) : (s.count k).errHeld = s.errHeld := rfl
@[simp] theorem State.count_pf (s : State) (k : Nat) : (s.count k).pf = s.pf := rfl
@[simp] theorem State.count_pfCalls (s : State) (k : Nat) : (s.count k).pfCalls = s.pfCalls := rfl
@[simp] theorem State.count_turn (s : State) (k : Nat) : (s.count k).turn = s.turn := rfl
@[simp] theorem State.count_lastTurn (s : State) (k : Nat) : (s.count k).lastTurn = s.lastTurn := rfl
@[simp] theorem State.count_probes (s : State) (k : Nat) : (s.count k).probes = s.probes := rfl
@[simp] theorem State.count_granted (s : State) (k : Nat) : (s.count k).granted = s.granted := rfl
@[simp] theorem State.count_downStacks (s : State) (k : Nat) : (s.count k).downStacks = s.downStacks := rfl
@[simp] theorem State.count_downPorts (s : State) (k : Nat) : (s.count k).downPorts = s.downPorts := rfl
@[simp] theorem State.count_keyDraws (s : State) (k : Nat) : (s.count k).keyDraws = s.keyDraws := rfl

@[simp] theorem State.modParks_agenda (s : State) (f : Parked → Parked) : (s.modParks f).agenda = s.agenda := rfl
@[simp] theorem State.modParks_now (s : State) (f : Parked → Parked) : (s.modParks f).now = s.now := rfl
@[simp] theorem State.modParks_freeIx (s : State) (f : Parked → Parked) : (s.modParks f).freeIx = s.freeIx := rfl
@[simp] theorem State.modParks_nextId (s : State) (f : Parked → Parked) : (s.modParks f).nextId = s.nextId := rfl
@[simp] theorem State.modParks_cur (s : State) (f : Parked → Parked) : (s.modParks f).cur = s.cur := rfl
@[simp] theorem State.modParks_outbox (s : State) (f : Parked → Parked) : (s.modParks f).outbox = s.outbox := rfl
@[simp] theorem State.modParks_powered (s : State) (f : Parked → Parked) : (s.modParks f).powered = s.powered := rfl
@[simp] theorem State.modParks_bootFailed (s : State) (f : Parked → Parked) : (s.modParks f).bootFailed = s.bootFailed := rfl
@[simp] theorem State.modParks_sites (s : State) (f : Parked → Parked) : (s.modParks f).sites = s.sites := rfl
@[simp] theorem State.modParks_mem (s : State) (f : Parked → Parked) : (s.modParks f).mem = s.mem := rfl
@[simp] theorem State.modParks_lines (s : State) (f : Parked → Parked) : (s.modParks f).lines = s.lines := rfl
@[simp] theorem State.modParks_blocks (s : State) (f : Parked → Parked) : (s.modParks f).blocks = s.blocks := rfl
@[simp] theorem State.modParks_extents (s : State) (f : Parked → Parked) : (s.modParks f).extents = s.extents := rfl
@[simp] theorem State.modParks_phys (s : State) (f : Parked → Parked) : (s.modParks f).phys = s.phys := rfl
@[simp] theorem State.modParks_basins (s : State) (f : Parked → Parked) : (s.modParks f).basins = s.basins := rfl
@[simp] theorem State.modParks_quads (s : State) (f : Parked → Parked) : (s.modParks f).quads = s.quads := rfl
@[simp] theorem State.modParks_engines (s : State) (f : Parked → Parked) : (s.modParks f).engines = s.engines := rfl
@[simp] theorem State.modParks_reqs (s : State) (f : Parked → Parked) : (s.modParks f).reqs = s.reqs := rfl
@[simp] theorem State.modParks_images (s : State) (f : Parked → Parked) : (s.modParks f).images = s.images := rfl
@[simp] theorem State.modParks_saved (s : State) (f : Parked → Parked) : (s.modParks f).saved = s.saved := rfl
@[simp] theorem State.modParks_savedEng (s : State) (f : Parked → Parked) : (s.modParks f).savedEng = s.savedEng := rfl
@[simp] theorem State.modParks_stackCaps (s : State) (f : Parked → Parked) : (s.modParks f).stackCaps = s.stackCaps := rfl
@[simp] theorem State.modParks_refills (s : State) (f : Parked → Parked) : (s.modParks f).refills = s.refills := rfl
@[simp] theorem State.modParks_upAt (s : State) (f : Parked → Parked) : (s.modParks f).upAt = s.upAt := rfl
@[simp] theorem State.modParks_rings (s : State) (f : Parked → Parked) : (s.modParks f).rings = s.rings := rfl
@[simp] theorem State.modParks_gaps (s : State) (f : Parked → Parked) : (s.modParks f).gaps = s.gaps := rfl
@[simp] theorem State.modParks_gapSet (s : State) (f : Parked → Parked) : (s.modParks f).gapSet = s.gapSet := rfl
@[simp] theorem State.modParks_tokensSet (s : State) (f : Parked → Parked) : (s.modParks f).tokensSet = s.tokensSet := rfl
@[simp] theorem State.modParks_eccs (s : State) (f : Parked → Parked) : (s.modParks f).eccs = s.eccs := rfl
@[simp] theorem State.modParks_tripped (s : State) (f : Parked → Parked) : (s.modParks f).tripped = s.tripped := rfl
@[simp] theorem State.modParks_lastThrottle (s : State) (f : Parked → Parked) : (s.modParks f).lastThrottle = s.lastThrottle := rfl
@[simp] theorem State.modParks_errHeld (s : State) (f : Parked → Parked) : (s.modParks f).errHeld = s.errHeld := rfl
@[simp] theorem State.modParks_pf (s : State) (f : Parked → Parked) : (s.modParks f).pf = s.pf := rfl
@[simp] theorem State.modParks_pfCalls (s : State) (f : Parked → Parked) : (s.modParks f).pfCalls = s.pfCalls := rfl
@[simp] theorem State.modParks_field (s : State) (f : Parked → Parked) : (s.modParks f).field = s.field := rfl
@[simp] theorem State.modParks_turn (s : State) (f : Parked → Parked) : (s.modParks f).turn = s.turn := rfl
@[simp] theorem State.modParks_lastTurn (s : State) (f : Parked → Parked) : (s.modParks f).lastTurn = s.lastTurn := rfl
@[simp] theorem State.modParks_probes (s : State) (f : Parked → Parked) : (s.modParks f).probes = s.probes := rfl
@[simp] theorem State.modParks_granted (s : State) (f : Parked → Parked) : (s.modParks f).granted = s.granted := rfl
@[simp] theorem State.modParks_downStacks (s : State) (f : Parked → Parked) : (s.modParks f).downStacks = s.downStacks := rfl
@[simp] theorem State.modParks_downPorts (s : State) (f : Parked → Parked) : (s.modParks f).downPorts = s.downPorts := rfl
@[simp] theorem State.modParks_keyDraws (s : State) (f : Parked → Parked) : (s.modParks f).keyDraws = s.keyDraws := rfl

@[simp] theorem State.modGroup_agenda (s : State) (q slot : Nat) (f : Group → Group) : (s.modGroup q slot f).agenda = s.agenda := by unfold State.modGroup; split <;> rfl
@[simp] theorem State.modGroup_now (s : State) (q slot : Nat) (f : Group → Group) : (s.modGroup q slot f).now = s.now := by unfold State.modGroup; split <;> rfl
@[simp] theorem State.modGroup_freeIx (s : State) (q slot : Nat) (f : Group → Group) : (s.modGroup q slot f).freeIx = s.freeIx := by unfold State.modGroup; split <;> rfl
@[simp] theorem State.modGroup_nextId (s : State) (q slot : Nat) (f : Group → Group) : (s.modGroup q slot f).nextId = s.nextId := by unfold State.modGroup; split <;> rfl
@[simp] theorem State.modGroup_cur (s : State) (q slot : Nat) (f : Group → Group) : (s.modGroup q slot f).cur = s.cur := by unfold State.modGroup; split <;> rfl
@[simp] theorem State.modGroup_outbox (s : State) (q slot : Nat) (f : Group → Group) : (s.modGroup q slot f).outbox = s.outbox := by unfold State.modGroup; split <;> rfl
@[simp] theorem State.modGroup_powered (s : State) (q slot : Nat) (f : Group → Group) : (s.modGroup q slot f).powered = s.powered := by unfold State.modGroup; split <;> rfl
@[simp] theorem State.modGroup_bootFailed (s : State) (q slot : Nat) (f : Group → Group) : (s.modGroup q slot f).bootFailed = s.bootFailed := by unfold State.modGroup; split <;> rfl
@[simp] theorem State.modGroup_sites (s : State) (q slot : Nat) (f : Group → Group) : (s.modGroup q slot f).sites = s.sites := by unfold State.modGroup; split <;> rfl
@[simp] theorem State.modGroup_mem (s : State) (q slot : Nat) (f : Group → Group) : (s.modGroup q slot f).mem = s.mem := by unfold State.modGroup; split <;> rfl
@[simp] theorem State.modGroup_lines (s : State) (q slot : Nat) (f : Group → Group) : (s.modGroup q slot f).lines = s.lines := by unfold State.modGroup; split <;> rfl
@[simp] theorem State.modGroup_blocks (s : State) (q slot : Nat) (f : Group → Group) : (s.modGroup q slot f).blocks = s.blocks := by unfold State.modGroup; split <;> rfl
@[simp] theorem State.modGroup_extents (s : State) (q slot : Nat) (f : Group → Group) : (s.modGroup q slot f).extents = s.extents := by unfold State.modGroup; split <;> rfl
@[simp] theorem State.modGroup_phys (s : State) (q slot : Nat) (f : Group → Group) : (s.modGroup q slot f).phys = s.phys := by unfold State.modGroup; split <;> rfl
@[simp] theorem State.modGroup_basins (s : State) (q slot : Nat) (f : Group → Group) : (s.modGroup q slot f).basins = s.basins := by unfold State.modGroup; split <;> rfl
@[simp] theorem State.modGroup_engines (s : State) (q slot : Nat) (f : Group → Group) : (s.modGroup q slot f).engines = s.engines := by unfold State.modGroup; split <;> rfl
@[simp] theorem State.modGroup_reqs (s : State) (q slot : Nat) (f : Group → Group) : (s.modGroup q slot f).reqs = s.reqs := by unfold State.modGroup; split <;> rfl
@[simp] theorem State.modGroup_inbound (s : State) (q slot : Nat) (f : Group → Group) : (s.modGroup q slot f).inbound = s.inbound := by unfold State.modGroup; split <;> rfl
@[simp] theorem State.modGroup_hostReads (s : State) (q slot : Nat) (f : Group → Group) : (s.modGroup q slot f).hostReads = s.hostReads := by unfold State.modGroup; split <;> rfl
@[simp] theorem State.modGroup_peerIn (s : State) (q slot : Nat) (f : Group → Group) : (s.modGroup q slot f).peerIn = s.peerIn := by unfold State.modGroup; split <;> rfl
@[simp] theorem State.modGroup_images (s : State) (q slot : Nat) (f : Group → Group) : (s.modGroup q slot f).images = s.images := by unfold State.modGroup; split <;> rfl
@[simp] theorem State.modGroup_saved (s : State) (q slot : Nat) (f : Group → Group) : (s.modGroup q slot f).saved = s.saved := by unfold State.modGroup; split <;> rfl
@[simp] theorem State.modGroup_savedEng (s : State) (q slot : Nat) (f : Group → Group) : (s.modGroup q slot f).savedEng = s.savedEng := by unfold State.modGroup; split <;> rfl
@[simp] theorem State.modGroup_stackCaps (s : State) (q slot : Nat) (f : Group → Group) : (s.modGroup q slot f).stackCaps = s.stackCaps := by unfold State.modGroup; split <;> rfl
@[simp] theorem State.modGroup_refills (s : State) (q slot : Nat) (f : Group → Group) : (s.modGroup q slot f).refills = s.refills := by unfold State.modGroup; split <;> rfl
@[simp] theorem State.modGroup_upAt (s : State) (q slot : Nat) (f : Group → Group) : (s.modGroup q slot f).upAt = s.upAt := by unfold State.modGroup; split <;> rfl
@[simp] theorem State.modGroup_rings (s : State) (q slot : Nat) (f : Group → Group) : (s.modGroup q slot f).rings = s.rings := by unfold State.modGroup; split <;> rfl
@[simp] theorem State.modGroup_gaps (s : State) (q slot : Nat) (f : Group → Group) : (s.modGroup q slot f).gaps = s.gaps := by unfold State.modGroup; split <;> rfl
@[simp] theorem State.modGroup_gapSet (s : State) (q slot : Nat) (f : Group → Group) : (s.modGroup q slot f).gapSet = s.gapSet := by unfold State.modGroup; split <;> rfl
@[simp] theorem State.modGroup_tokensSet (s : State) (q slot : Nat) (f : Group → Group) : (s.modGroup q slot f).tokensSet = s.tokensSet := by unfold State.modGroup; split <;> rfl
@[simp] theorem State.modGroup_eccs (s : State) (q slot : Nat) (f : Group → Group) : (s.modGroup q slot f).eccs = s.eccs := by unfold State.modGroup; split <;> rfl
@[simp] theorem State.modGroup_tripped (s : State) (q slot : Nat) (f : Group → Group) : (s.modGroup q slot f).tripped = s.tripped := by unfold State.modGroup; split <;> rfl
@[simp] theorem State.modGroup_lastThrottle (s : State) (q slot : Nat) (f : Group → Group) : (s.modGroup q slot f).lastThrottle = s.lastThrottle := by unfold State.modGroup; split <;> rfl
@[simp] theorem State.modGroup_errHeld (s : State) (q slot : Nat) (f : Group → Group) : (s.modGroup q slot f).errHeld = s.errHeld := by unfold State.modGroup; split <;> rfl
@[simp] theorem State.modGroup_pf (s : State) (q slot : Nat) (f : Group → Group) : (s.modGroup q slot f).pf = s.pf := by unfold State.modGroup; split <;> rfl
@[simp] theorem State.modGroup_pfCalls (s : State) (q slot : Nat) (f : Group → Group) : (s.modGroup q slot f).pfCalls = s.pfCalls := by unfold State.modGroup; split <;> rfl
@[simp] theorem State.modGroup_field (s : State) (q slot : Nat) (f : Group → Group) : (s.modGroup q slot f).field = s.field := by unfold State.modGroup; split <;> rfl
@[simp] theorem State.modGroup_turn (s : State) (q slot : Nat) (f : Group → Group) : (s.modGroup q slot f).turn = s.turn := by unfold State.modGroup; split <;> rfl
@[simp] theorem State.modGroup_lastTurn (s : State) (q slot : Nat) (f : Group → Group) : (s.modGroup q slot f).lastTurn = s.lastTurn := by unfold State.modGroup; split <;> rfl
@[simp] theorem State.modGroup_probes (s : State) (q slot : Nat) (f : Group → Group) : (s.modGroup q slot f).probes = s.probes := by unfold State.modGroup; split <;> rfl
@[simp] theorem State.modGroup_granted (s : State) (q slot : Nat) (f : Group → Group) : (s.modGroup q slot f).granted = s.granted := by unfold State.modGroup; split <;> rfl
@[simp] theorem State.modGroup_downStacks (s : State) (q slot : Nat) (f : Group → Group) : (s.modGroup q slot f).downStacks = s.downStacks := by unfold State.modGroup; split <;> rfl
@[simp] theorem State.modGroup_downPorts (s : State) (q slot : Nat) (f : Group → Group) : (s.modGroup q slot f).downPorts = s.downPorts := by unfold State.modGroup; split <;> rfl
@[simp] theorem State.modGroup_keyDraws (s : State) (q slot : Nat) (f : Group → Group) : (s.modGroup q slot f).keyDraws = s.keyDraws := by unfold State.modGroup; split <;> rfl

/-! ### Updates of a group -/

@[simp] theorem Group.setV_basin (g : Group) (n : Nat) (x : Lanes) : (g.setV n x).basin = g.basin := rfl
@[simp] theorem Group.setV_launch (g : Group) (n : Nat) (x : Lanes) : (g.setV n x).launch = g.launch := rfl
@[simp] theorem Group.setV_gang (g : Group) (n : Nat) (x : Lanes) : (g.setV n x).gang = g.gang := rfl
@[simp] theorem Group.setV_crew (g : Group) (n : Nat) (x : Lanes) : (g.setV n x).crew = g.crew := rfl
@[simp] theorem Group.setV_grp (g : Group) (n : Nat) (x : Lanes) : (g.setV n x).grp = g.grp := rfl
@[simp] theorem Group.setV_gpc (g : Group) (n : Nat) (x : Lanes) : (g.setV n x).gpc = g.gpc := rfl
@[simp] theorem Group.setV_cpg (g : Group) (n : Nat) (x : Lanes) : (g.setV n x).cpg = g.cpg := rfl
@[simp] theorem Group.setV_gangs (g : Group) (n : Nat) (x : Lanes) : (g.setV n x).gangs = g.gangs := rfl
@[simp] theorem Group.setV_vgran (g : Group) (n : Nat) (x : Lanes) : (g.setV n x).vgran = g.vgran := rfl
@[simp] theorem Group.setV_hgran (g : Group) (n : Nat) (x : Lanes) : (g.setV n x).hgran = g.hgran := rfl
@[simp] theorem Group.setV_prio (g : Group) (n : Nat) (x : Lanes) : (g.setV n x).prio = g.prio := rfl
@[simp] theorem Group.setV_ceil (g : Group) (n : Nat) (x : Lanes) : (g.setV n x).ceil = g.ceil := rfl
@[simp] theorem Group.setV_code (g : Group) (n : Nat) (x : Lanes) : (g.setV n x).code = g.code := rfl
@[simp] theorem Group.setV_pc (g : Group) (n : Nat) (x : Lanes) : (g.setV n x).pc = g.pc := rfl
@[simp] theorem Group.setV_em (g : Group) (n : Nat) (x : Lanes) : (g.setV n x).em = g.em := rfl
@[simp] theorem Group.setV_part (g : Group) (n : Nat) (x : Lanes) : (g.setV n x).part = g.part := rfl
@[simp] theorem Group.setV_s (g : Group) (n : Nat) (x : Lanes) : (g.setV n x).s = g.s := rfl
@[simp] theorem Group.setV_p (g : Group) (n : Nat) (x : Lanes) : (g.setV n x).p = g.p := rfl
@[simp] theorem Group.setV_h (g : Group) (n : Nat) (x : Lanes) : (g.setV n x).h = g.h := rfl
@[simp] theorem Group.setV_t (g : Group) (n : Nat) (x : Lanes) : (g.setV n x).t = g.t := rfl
@[simp] theorem Group.setV_landrec (g : Group) (n : Nat) (x : Lanes) : (g.setV n x).landrec = g.landrec := rfl
@[simp] theorem Group.setV_status (g : Group) (n : Nat) (x : Lanes) : (g.setV n x).status = g.status := rfl
@[simp] theorem Group.setV_jetCount (g : Group) (n : Nat) (x : Lanes) : (g.setV n x).jetCount = g.jetCount := rfl
@[simp] theorem Group.setV_powerWait (g : Group) (n : Nat) (x : Lanes) : (g.setV n x).powerWait = g.powerWait := rfl
@[simp] theorem Group.setV_capturedHi (g : Group) (n : Nat) (x : Lanes) : (g.setV n x).capturedHi = g.capturedHi := rfl
@[simp] theorem Group.setV_stack (g : Group) (n : Nat) (x : Lanes) : (g.setV n x).stack = g.stack := rfl
@[simp] theorem Group.setV_fwd (g : Group) (n : Nat) (x : Lanes) : (g.setV n x).fwd = g.fwd := rfl
@[simp] theorem Group.setV_fwdGrant (g : Group) (n : Nat) (x : Lanes) : (g.setV n x).fwdGrant = g.fwdGrant := rfl
@[simp] theorem Group.setV_ret (g : Group) (n : Nat) (x : Lanes) : (g.setV n x).ret = g.ret := rfl
@[simp] theorem Group.setV_handler (g : Group) (n : Nat) (x : Lanes) : (g.setV n x).handler = g.handler := rfl
@[simp] theorem Group.setV_frame (g : Group) (n : Nat) (x : Lanes) : (g.setV n x).frame = g.frame := rfl
@[simp] theorem Group.setV_ofence (g : Group) (n : Nat) (x : Lanes) : (g.setV n x).ofence = g.ofence := rfl
@[simp] theorem Group.setV_loop (g : Group) (n : Nat) (x : Lanes) : (g.setV n x).loop = g.loop := rfl
@[simp] theorem Group.setV_loopM (g : Group) (n : Nat) (x : Lanes) : (g.setV n x).loopM = g.loopM := rfl
@[simp] theorem Group.setV_ageCount (g : Group) (n : Nat) (x : Lanes) : (g.setV n x).ageCount = g.ageCount := rfl
@[simp] theorem Group.setV_ageSteps (g : Group) (n : Nat) (x : Lanes) : (g.setV n x).ageSteps = g.ageSteps := rfl
@[simp] theorem Group.setV_waitSince (g : Group) (n : Nat) (x : Lanes) : (g.setV n x).waitSince = g.waitSince := rfl
@[simp] theorem Group.setV_yieldFor (g : Group) (n : Nat) (x : Lanes) : (g.setV n x).yieldFor = g.yieldFor := rfl
@[simp] theorem Group.setV_jet (g : Group) (n : Nat) (x : Lanes) : (g.setV n x).jet = g.jet := rfl
@[simp] theorem Group.setV_vflights (g : Group) (n : Nat) (x : Lanes) : (g.setV n x).vflights = g.vflights := rfl
@[simp] theorem Group.setV_score (g : Group) (n : Nat) (x : Lanes) : (g.setV n x).score = g.score := rfl
@[simp] theorem Group.setV_flights (g : Group) (n : Nat) (x : Lanes) : (g.setV n x).flights = g.flights := rfl
@[simp] theorem Group.setV_notices (g : Group) (n : Nat) (x : Lanes) : (g.setV n x).notices = g.notices := rfl
@[simp] theorem Group.setV_wait (g : Group) (n : Nat) (x : Lanes) : (g.setV n x).wait = g.wait := rfl
@[simp] theorem Group.setV_orders (g : Group) (n : Nat) (x : Lanes) : (g.setV n x).orders = g.orders := rfl
@[simp] theorem Group.setV_relReads (g : Group) (n : Nat) (x : Lanes) : (g.setV n x).relReads = g.relReads := rfl
@[simp] theorem Group.setV_staging (g : Group) (n : Nat) (x : Lanes) : (g.setV n x).staging = g.staging := rfl
@[simp] theorem Group.setV_mmDirty (g : Group) (n : Nat) (x : Lanes) : (g.setV n x).mmDirty = g.mmDirty := rfl
@[simp] theorem Group.setV_mmNamed (g : Group) (n : Nat) (x : Lanes) : (g.setV n x).mmNamed = g.mmNamed := rfl
@[simp] theorem Group.setV_mmSpoilt (g : Group) (n : Nat) (x : Lanes) : (g.setV n x).mmSpoilt = g.mmSpoilt := rfl
@[simp] theorem Group.setV_retired (g : Group) (n : Nat) (x : Lanes) : (g.setV n x).retired = g.retired := rfl
@[simp] theorem Group.setV_halted (g : Group) (n : Nat) (x : Lanes) : (g.setV n x).halted = g.halted := rfl
@[simp] theorem Group.setV_blockedSince (g : Group) (n : Nat) (x : Lanes) : (g.setV n x).blockedSince = g.blockedSince := rfl
@[simp] theorem Group.setV_v (g : Group) (n : Nat) (x : Lanes) : (g.setV n x).v = NMap.set g.v n x := rfl

@[simp] theorem Group.setS_basin (g : Group) (n : Nat) (x : Word) : (g.setS n x).basin = g.basin := rfl
@[simp] theorem Group.setS_launch (g : Group) (n : Nat) (x : Word) : (g.setS n x).launch = g.launch := rfl
@[simp] theorem Group.setS_gang (g : Group) (n : Nat) (x : Word) : (g.setS n x).gang = g.gang := rfl
@[simp] theorem Group.setS_crew (g : Group) (n : Nat) (x : Word) : (g.setS n x).crew = g.crew := rfl
@[simp] theorem Group.setS_grp (g : Group) (n : Nat) (x : Word) : (g.setS n x).grp = g.grp := rfl
@[simp] theorem Group.setS_gpc (g : Group) (n : Nat) (x : Word) : (g.setS n x).gpc = g.gpc := rfl
@[simp] theorem Group.setS_cpg (g : Group) (n : Nat) (x : Word) : (g.setS n x).cpg = g.cpg := rfl
@[simp] theorem Group.setS_gangs (g : Group) (n : Nat) (x : Word) : (g.setS n x).gangs = g.gangs := rfl
@[simp] theorem Group.setS_vgran (g : Group) (n : Nat) (x : Word) : (g.setS n x).vgran = g.vgran := rfl
@[simp] theorem Group.setS_hgran (g : Group) (n : Nat) (x : Word) : (g.setS n x).hgran = g.hgran := rfl
@[simp] theorem Group.setS_prio (g : Group) (n : Nat) (x : Word) : (g.setS n x).prio = g.prio := rfl
@[simp] theorem Group.setS_ceil (g : Group) (n : Nat) (x : Word) : (g.setS n x).ceil = g.ceil := rfl
@[simp] theorem Group.setS_code (g : Group) (n : Nat) (x : Word) : (g.setS n x).code = g.code := rfl
@[simp] theorem Group.setS_pc (g : Group) (n : Nat) (x : Word) : (g.setS n x).pc = g.pc := rfl
@[simp] theorem Group.setS_em (g : Group) (n : Nat) (x : Word) : (g.setS n x).em = g.em := rfl
@[simp] theorem Group.setS_part (g : Group) (n : Nat) (x : Word) : (g.setS n x).part = g.part := rfl
@[simp] theorem Group.setS_v (g : Group) (n : Nat) (x : Word) : (g.setS n x).v = g.v := rfl
@[simp] theorem Group.setS_p (g : Group) (n : Nat) (x : Word) : (g.setS n x).p = g.p := rfl
@[simp] theorem Group.setS_h (g : Group) (n : Nat) (x : Word) : (g.setS n x).h = g.h := rfl
@[simp] theorem Group.setS_t (g : Group) (n : Nat) (x : Word) : (g.setS n x).t = g.t := rfl
@[simp] theorem Group.setS_landrec (g : Group) (n : Nat) (x : Word) : (g.setS n x).landrec = g.landrec := rfl
@[simp] theorem Group.setS_status (g : Group) (n : Nat) (x : Word) : (g.setS n x).status = g.status := rfl
@[simp] theorem Group.setS_jetCount (g : Group) (n : Nat) (x : Word) : (g.setS n x).jetCount = g.jetCount := rfl
@[simp] theorem Group.setS_powerWait (g : Group) (n : Nat) (x : Word) : (g.setS n x).powerWait = g.powerWait := rfl
@[simp] theorem Group.setS_capturedHi (g : Group) (n : Nat) (x : Word) : (g.setS n x).capturedHi = g.capturedHi := rfl
@[simp] theorem Group.setS_stack (g : Group) (n : Nat) (x : Word) : (g.setS n x).stack = g.stack := rfl
@[simp] theorem Group.setS_fwd (g : Group) (n : Nat) (x : Word) : (g.setS n x).fwd = g.fwd := rfl
@[simp] theorem Group.setS_fwdGrant (g : Group) (n : Nat) (x : Word) : (g.setS n x).fwdGrant = g.fwdGrant := rfl
@[simp] theorem Group.setS_ret (g : Group) (n : Nat) (x : Word) : (g.setS n x).ret = g.ret := rfl
@[simp] theorem Group.setS_handler (g : Group) (n : Nat) (x : Word) : (g.setS n x).handler = g.handler := rfl
@[simp] theorem Group.setS_frame (g : Group) (n : Nat) (x : Word) : (g.setS n x).frame = g.frame := rfl
@[simp] theorem Group.setS_ofence (g : Group) (n : Nat) (x : Word) : (g.setS n x).ofence = g.ofence := rfl
@[simp] theorem Group.setS_loop (g : Group) (n : Nat) (x : Word) : (g.setS n x).loop = g.loop := rfl
@[simp] theorem Group.setS_loopM (g : Group) (n : Nat) (x : Word) : (g.setS n x).loopM = g.loopM := rfl
@[simp] theorem Group.setS_ageCount (g : Group) (n : Nat) (x : Word) : (g.setS n x).ageCount = g.ageCount := rfl
@[simp] theorem Group.setS_ageSteps (g : Group) (n : Nat) (x : Word) : (g.setS n x).ageSteps = g.ageSteps := rfl
@[simp] theorem Group.setS_waitSince (g : Group) (n : Nat) (x : Word) : (g.setS n x).waitSince = g.waitSince := rfl
@[simp] theorem Group.setS_yieldFor (g : Group) (n : Nat) (x : Word) : (g.setS n x).yieldFor = g.yieldFor := rfl
@[simp] theorem Group.setS_jet (g : Group) (n : Nat) (x : Word) : (g.setS n x).jet = g.jet := rfl
@[simp] theorem Group.setS_vflights (g : Group) (n : Nat) (x : Word) : (g.setS n x).vflights = g.vflights := rfl
@[simp] theorem Group.setS_score (g : Group) (n : Nat) (x : Word) : (g.setS n x).score = g.score := rfl
@[simp] theorem Group.setS_flights (g : Group) (n : Nat) (x : Word) : (g.setS n x).flights = g.flights := rfl
@[simp] theorem Group.setS_notices (g : Group) (n : Nat) (x : Word) : (g.setS n x).notices = g.notices := rfl
@[simp] theorem Group.setS_wait (g : Group) (n : Nat) (x : Word) : (g.setS n x).wait = g.wait := rfl
@[simp] theorem Group.setS_orders (g : Group) (n : Nat) (x : Word) : (g.setS n x).orders = g.orders := rfl
@[simp] theorem Group.setS_relReads (g : Group) (n : Nat) (x : Word) : (g.setS n x).relReads = g.relReads := rfl
@[simp] theorem Group.setS_staging (g : Group) (n : Nat) (x : Word) : (g.setS n x).staging = g.staging := rfl
@[simp] theorem Group.setS_mmDirty (g : Group) (n : Nat) (x : Word) : (g.setS n x).mmDirty = g.mmDirty := rfl
@[simp] theorem Group.setS_mmNamed (g : Group) (n : Nat) (x : Word) : (g.setS n x).mmNamed = g.mmNamed := rfl
@[simp] theorem Group.setS_mmSpoilt (g : Group) (n : Nat) (x : Word) : (g.setS n x).mmSpoilt = g.mmSpoilt := rfl
@[simp] theorem Group.setS_retired (g : Group) (n : Nat) (x : Word) : (g.setS n x).retired = g.retired := rfl
@[simp] theorem Group.setS_halted (g : Group) (n : Nat) (x : Word) : (g.setS n x).halted = g.halted := rfl
@[simp] theorem Group.setS_blockedSince (g : Group) (n : Nat) (x : Word) : (g.setS n x).blockedSince = g.blockedSince := rfl
@[simp] theorem Group.setS_s (g : Group) (n : Nat) (x : Word) : (g.setS n x).s = NMap.set g.s n x := rfl

@[simp] theorem Group.setP_basin (g : Group) (n : Nat) (x : Mask) : (g.setP n x).basin = g.basin := by unfold Group.setP; split <;> rfl
@[simp] theorem Group.setP_launch (g : Group) (n : Nat) (x : Mask) : (g.setP n x).launch = g.launch := by unfold Group.setP; split <;> rfl
@[simp] theorem Group.setP_gang (g : Group) (n : Nat) (x : Mask) : (g.setP n x).gang = g.gang := by unfold Group.setP; split <;> rfl
@[simp] theorem Group.setP_crew (g : Group) (n : Nat) (x : Mask) : (g.setP n x).crew = g.crew := by unfold Group.setP; split <;> rfl
@[simp] theorem Group.setP_grp (g : Group) (n : Nat) (x : Mask) : (g.setP n x).grp = g.grp := by unfold Group.setP; split <;> rfl
@[simp] theorem Group.setP_gpc (g : Group) (n : Nat) (x : Mask) : (g.setP n x).gpc = g.gpc := by unfold Group.setP; split <;> rfl
@[simp] theorem Group.setP_cpg (g : Group) (n : Nat) (x : Mask) : (g.setP n x).cpg = g.cpg := by unfold Group.setP; split <;> rfl
@[simp] theorem Group.setP_gangs (g : Group) (n : Nat) (x : Mask) : (g.setP n x).gangs = g.gangs := by unfold Group.setP; split <;> rfl
@[simp] theorem Group.setP_vgran (g : Group) (n : Nat) (x : Mask) : (g.setP n x).vgran = g.vgran := by unfold Group.setP; split <;> rfl
@[simp] theorem Group.setP_hgran (g : Group) (n : Nat) (x : Mask) : (g.setP n x).hgran = g.hgran := by unfold Group.setP; split <;> rfl
@[simp] theorem Group.setP_prio (g : Group) (n : Nat) (x : Mask) : (g.setP n x).prio = g.prio := by unfold Group.setP; split <;> rfl
@[simp] theorem Group.setP_ceil (g : Group) (n : Nat) (x : Mask) : (g.setP n x).ceil = g.ceil := by unfold Group.setP; split <;> rfl
@[simp] theorem Group.setP_code (g : Group) (n : Nat) (x : Mask) : (g.setP n x).code = g.code := by unfold Group.setP; split <;> rfl
@[simp] theorem Group.setP_pc (g : Group) (n : Nat) (x : Mask) : (g.setP n x).pc = g.pc := by unfold Group.setP; split <;> rfl
@[simp] theorem Group.setP_em (g : Group) (n : Nat) (x : Mask) : (g.setP n x).em = g.em := by unfold Group.setP; split <;> rfl
@[simp] theorem Group.setP_part (g : Group) (n : Nat) (x : Mask) : (g.setP n x).part = g.part := by unfold Group.setP; split <;> rfl
@[simp] theorem Group.setP_v (g : Group) (n : Nat) (x : Mask) : (g.setP n x).v = g.v := by unfold Group.setP; split <;> rfl
@[simp] theorem Group.setP_s (g : Group) (n : Nat) (x : Mask) : (g.setP n x).s = g.s := by unfold Group.setP; split <;> rfl
@[simp] theorem Group.setP_h (g : Group) (n : Nat) (x : Mask) : (g.setP n x).h = g.h := by unfold Group.setP; split <;> rfl
@[simp] theorem Group.setP_t (g : Group) (n : Nat) (x : Mask) : (g.setP n x).t = g.t := by unfold Group.setP; split <;> rfl
@[simp] theorem Group.setP_landrec (g : Group) (n : Nat) (x : Mask) : (g.setP n x).landrec = g.landrec := by unfold Group.setP; split <;> rfl
@[simp] theorem Group.setP_status (g : Group) (n : Nat) (x : Mask) : (g.setP n x).status = g.status := by unfold Group.setP; split <;> rfl
@[simp] theorem Group.setP_jetCount (g : Group) (n : Nat) (x : Mask) : (g.setP n x).jetCount = g.jetCount := by unfold Group.setP; split <;> rfl
@[simp] theorem Group.setP_powerWait (g : Group) (n : Nat) (x : Mask) : (g.setP n x).powerWait = g.powerWait := by unfold Group.setP; split <;> rfl
@[simp] theorem Group.setP_capturedHi (g : Group) (n : Nat) (x : Mask) : (g.setP n x).capturedHi = g.capturedHi := by unfold Group.setP; split <;> rfl
@[simp] theorem Group.setP_stack (g : Group) (n : Nat) (x : Mask) : (g.setP n x).stack = g.stack := by unfold Group.setP; split <;> rfl
@[simp] theorem Group.setP_fwd (g : Group) (n : Nat) (x : Mask) : (g.setP n x).fwd = g.fwd := by unfold Group.setP; split <;> rfl
@[simp] theorem Group.setP_fwdGrant (g : Group) (n : Nat) (x : Mask) : (g.setP n x).fwdGrant = g.fwdGrant := by unfold Group.setP; split <;> rfl
@[simp] theorem Group.setP_ret (g : Group) (n : Nat) (x : Mask) : (g.setP n x).ret = g.ret := by unfold Group.setP; split <;> rfl
@[simp] theorem Group.setP_handler (g : Group) (n : Nat) (x : Mask) : (g.setP n x).handler = g.handler := by unfold Group.setP; split <;> rfl
@[simp] theorem Group.setP_frame (g : Group) (n : Nat) (x : Mask) : (g.setP n x).frame = g.frame := by unfold Group.setP; split <;> rfl
@[simp] theorem Group.setP_ofence (g : Group) (n : Nat) (x : Mask) : (g.setP n x).ofence = g.ofence := by unfold Group.setP; split <;> rfl
@[simp] theorem Group.setP_loop (g : Group) (n : Nat) (x : Mask) : (g.setP n x).loop = g.loop := by unfold Group.setP; split <;> rfl
@[simp] theorem Group.setP_loopM (g : Group) (n : Nat) (x : Mask) : (g.setP n x).loopM = g.loopM := by unfold Group.setP; split <;> rfl
@[simp] theorem Group.setP_ageCount (g : Group) (n : Nat) (x : Mask) : (g.setP n x).ageCount = g.ageCount := by unfold Group.setP; split <;> rfl
@[simp] theorem Group.setP_ageSteps (g : Group) (n : Nat) (x : Mask) : (g.setP n x).ageSteps = g.ageSteps := by unfold Group.setP; split <;> rfl
@[simp] theorem Group.setP_waitSince (g : Group) (n : Nat) (x : Mask) : (g.setP n x).waitSince = g.waitSince := by unfold Group.setP; split <;> rfl
@[simp] theorem Group.setP_yieldFor (g : Group) (n : Nat) (x : Mask) : (g.setP n x).yieldFor = g.yieldFor := by unfold Group.setP; split <;> rfl
@[simp] theorem Group.setP_jet (g : Group) (n : Nat) (x : Mask) : (g.setP n x).jet = g.jet := by unfold Group.setP; split <;> rfl
@[simp] theorem Group.setP_vflights (g : Group) (n : Nat) (x : Mask) : (g.setP n x).vflights = g.vflights := by unfold Group.setP; split <;> rfl
@[simp] theorem Group.setP_score (g : Group) (n : Nat) (x : Mask) : (g.setP n x).score = g.score := by unfold Group.setP; split <;> rfl
@[simp] theorem Group.setP_flights (g : Group) (n : Nat) (x : Mask) : (g.setP n x).flights = g.flights := by unfold Group.setP; split <;> rfl
@[simp] theorem Group.setP_notices (g : Group) (n : Nat) (x : Mask) : (g.setP n x).notices = g.notices := by unfold Group.setP; split <;> rfl
@[simp] theorem Group.setP_wait (g : Group) (n : Nat) (x : Mask) : (g.setP n x).wait = g.wait := by unfold Group.setP; split <;> rfl
@[simp] theorem Group.setP_orders (g : Group) (n : Nat) (x : Mask) : (g.setP n x).orders = g.orders := by unfold Group.setP; split <;> rfl
@[simp] theorem Group.setP_relReads (g : Group) (n : Nat) (x : Mask) : (g.setP n x).relReads = g.relReads := by unfold Group.setP; split <;> rfl
@[simp] theorem Group.setP_staging (g : Group) (n : Nat) (x : Mask) : (g.setP n x).staging = g.staging := by unfold Group.setP; split <;> rfl
@[simp] theorem Group.setP_mmDirty (g : Group) (n : Nat) (x : Mask) : (g.setP n x).mmDirty = g.mmDirty := by unfold Group.setP; split <;> rfl
@[simp] theorem Group.setP_mmNamed (g : Group) (n : Nat) (x : Mask) : (g.setP n x).mmNamed = g.mmNamed := by unfold Group.setP; split <;> rfl
@[simp] theorem Group.setP_mmSpoilt (g : Group) (n : Nat) (x : Mask) : (g.setP n x).mmSpoilt = g.mmSpoilt := by unfold Group.setP; split <;> rfl
@[simp] theorem Group.setP_retired (g : Group) (n : Nat) (x : Mask) : (g.setP n x).retired = g.retired := by unfold Group.setP; split <;> rfl
@[simp] theorem Group.setP_halted (g : Group) (n : Nat) (x : Mask) : (g.setP n x).halted = g.halted := by unfold Group.setP; split <;> rfl
@[simp] theorem Group.setP_blockedSince (g : Group) (n : Nat) (x : Mask) : (g.setP n x).blockedSince = g.blockedSince := by unfold Group.setP; split <;> rfl

@[simp] theorem Group.setH_basin (g : Group) (n : Nat) (x : Heading) : (g.setH n x).basin = g.basin := rfl
@[simp] theorem Group.setH_launch (g : Group) (n : Nat) (x : Heading) : (g.setH n x).launch = g.launch := rfl
@[simp] theorem Group.setH_gang (g : Group) (n : Nat) (x : Heading) : (g.setH n x).gang = g.gang := rfl
@[simp] theorem Group.setH_crew (g : Group) (n : Nat) (x : Heading) : (g.setH n x).crew = g.crew := rfl
@[simp] theorem Group.setH_grp (g : Group) (n : Nat) (x : Heading) : (g.setH n x).grp = g.grp := rfl
@[simp] theorem Group.setH_gpc (g : Group) (n : Nat) (x : Heading) : (g.setH n x).gpc = g.gpc := rfl
@[simp] theorem Group.setH_cpg (g : Group) (n : Nat) (x : Heading) : (g.setH n x).cpg = g.cpg := rfl
@[simp] theorem Group.setH_gangs (g : Group) (n : Nat) (x : Heading) : (g.setH n x).gangs = g.gangs := rfl
@[simp] theorem Group.setH_vgran (g : Group) (n : Nat) (x : Heading) : (g.setH n x).vgran = g.vgran := rfl
@[simp] theorem Group.setH_hgran (g : Group) (n : Nat) (x : Heading) : (g.setH n x).hgran = g.hgran := rfl
@[simp] theorem Group.setH_prio (g : Group) (n : Nat) (x : Heading) : (g.setH n x).prio = g.prio := rfl
@[simp] theorem Group.setH_ceil (g : Group) (n : Nat) (x : Heading) : (g.setH n x).ceil = g.ceil := rfl
@[simp] theorem Group.setH_code (g : Group) (n : Nat) (x : Heading) : (g.setH n x).code = g.code := rfl
@[simp] theorem Group.setH_pc (g : Group) (n : Nat) (x : Heading) : (g.setH n x).pc = g.pc := rfl
@[simp] theorem Group.setH_em (g : Group) (n : Nat) (x : Heading) : (g.setH n x).em = g.em := rfl
@[simp] theorem Group.setH_part (g : Group) (n : Nat) (x : Heading) : (g.setH n x).part = g.part := rfl
@[simp] theorem Group.setH_v (g : Group) (n : Nat) (x : Heading) : (g.setH n x).v = g.v := rfl
@[simp] theorem Group.setH_s (g : Group) (n : Nat) (x : Heading) : (g.setH n x).s = g.s := rfl
@[simp] theorem Group.setH_p (g : Group) (n : Nat) (x : Heading) : (g.setH n x).p = g.p := rfl
@[simp] theorem Group.setH_t (g : Group) (n : Nat) (x : Heading) : (g.setH n x).t = g.t := rfl
@[simp] theorem Group.setH_landrec (g : Group) (n : Nat) (x : Heading) : (g.setH n x).landrec = g.landrec := rfl
@[simp] theorem Group.setH_status (g : Group) (n : Nat) (x : Heading) : (g.setH n x).status = g.status := rfl
@[simp] theorem Group.setH_jetCount (g : Group) (n : Nat) (x : Heading) : (g.setH n x).jetCount = g.jetCount := rfl
@[simp] theorem Group.setH_powerWait (g : Group) (n : Nat) (x : Heading) : (g.setH n x).powerWait = g.powerWait := rfl
@[simp] theorem Group.setH_capturedHi (g : Group) (n : Nat) (x : Heading) : (g.setH n x).capturedHi = g.capturedHi := rfl
@[simp] theorem Group.setH_stack (g : Group) (n : Nat) (x : Heading) : (g.setH n x).stack = g.stack := rfl
@[simp] theorem Group.setH_fwd (g : Group) (n : Nat) (x : Heading) : (g.setH n x).fwd = g.fwd := rfl
@[simp] theorem Group.setH_fwdGrant (g : Group) (n : Nat) (x : Heading) : (g.setH n x).fwdGrant = g.fwdGrant := rfl
@[simp] theorem Group.setH_ret (g : Group) (n : Nat) (x : Heading) : (g.setH n x).ret = g.ret := rfl
@[simp] theorem Group.setH_handler (g : Group) (n : Nat) (x : Heading) : (g.setH n x).handler = g.handler := rfl
@[simp] theorem Group.setH_frame (g : Group) (n : Nat) (x : Heading) : (g.setH n x).frame = g.frame := rfl
@[simp] theorem Group.setH_ofence (g : Group) (n : Nat) (x : Heading) : (g.setH n x).ofence = g.ofence := rfl
@[simp] theorem Group.setH_loop (g : Group) (n : Nat) (x : Heading) : (g.setH n x).loop = g.loop := rfl
@[simp] theorem Group.setH_loopM (g : Group) (n : Nat) (x : Heading) : (g.setH n x).loopM = g.loopM := rfl
@[simp] theorem Group.setH_ageCount (g : Group) (n : Nat) (x : Heading) : (g.setH n x).ageCount = g.ageCount := rfl
@[simp] theorem Group.setH_ageSteps (g : Group) (n : Nat) (x : Heading) : (g.setH n x).ageSteps = g.ageSteps := rfl
@[simp] theorem Group.setH_waitSince (g : Group) (n : Nat) (x : Heading) : (g.setH n x).waitSince = g.waitSince := rfl
@[simp] theorem Group.setH_yieldFor (g : Group) (n : Nat) (x : Heading) : (g.setH n x).yieldFor = g.yieldFor := rfl
@[simp] theorem Group.setH_jet (g : Group) (n : Nat) (x : Heading) : (g.setH n x).jet = g.jet := rfl
@[simp] theorem Group.setH_vflights (g : Group) (n : Nat) (x : Heading) : (g.setH n x).vflights = g.vflights := rfl
@[simp] theorem Group.setH_score (g : Group) (n : Nat) (x : Heading) : (g.setH n x).score = g.score := rfl
@[simp] theorem Group.setH_flights (g : Group) (n : Nat) (x : Heading) : (g.setH n x).flights = g.flights := rfl
@[simp] theorem Group.setH_notices (g : Group) (n : Nat) (x : Heading) : (g.setH n x).notices = g.notices := rfl
@[simp] theorem Group.setH_wait (g : Group) (n : Nat) (x : Heading) : (g.setH n x).wait = g.wait := rfl
@[simp] theorem Group.setH_orders (g : Group) (n : Nat) (x : Heading) : (g.setH n x).orders = g.orders := rfl
@[simp] theorem Group.setH_relReads (g : Group) (n : Nat) (x : Heading) : (g.setH n x).relReads = g.relReads := rfl
@[simp] theorem Group.setH_staging (g : Group) (n : Nat) (x : Heading) : (g.setH n x).staging = g.staging := rfl
@[simp] theorem Group.setH_mmDirty (g : Group) (n : Nat) (x : Heading) : (g.setH n x).mmDirty = g.mmDirty := rfl
@[simp] theorem Group.setH_mmNamed (g : Group) (n : Nat) (x : Heading) : (g.setH n x).mmNamed = g.mmNamed := rfl
@[simp] theorem Group.setH_mmSpoilt (g : Group) (n : Nat) (x : Heading) : (g.setH n x).mmSpoilt = g.mmSpoilt := rfl
@[simp] theorem Group.setH_retired (g : Group) (n : Nat) (x : Heading) : (g.setH n x).retired = g.retired := rfl
@[simp] theorem Group.setH_halted (g : Group) (n : Nat) (x : Heading) : (g.setH n x).halted = g.halted := rfl
@[simp] theorem Group.setH_blockedSince (g : Group) (n : Nat) (x : Heading) : (g.setH n x).blockedSince = g.blockedSince := rfl
@[simp] theorem Group.setH_h (g : Group) (n : Nat) (x : Heading) : (g.setH n x).h = NMap.set g.h n x := rfl

@[simp] theorem Group.setT_basin (g : Group) (n : Nat) (x : BitVec 256) : (g.setT n x).basin = g.basin := rfl
@[simp] theorem Group.setT_launch (g : Group) (n : Nat) (x : BitVec 256) : (g.setT n x).launch = g.launch := rfl
@[simp] theorem Group.setT_gang (g : Group) (n : Nat) (x : BitVec 256) : (g.setT n x).gang = g.gang := rfl
@[simp] theorem Group.setT_crew (g : Group) (n : Nat) (x : BitVec 256) : (g.setT n x).crew = g.crew := rfl
@[simp] theorem Group.setT_grp (g : Group) (n : Nat) (x : BitVec 256) : (g.setT n x).grp = g.grp := rfl
@[simp] theorem Group.setT_gpc (g : Group) (n : Nat) (x : BitVec 256) : (g.setT n x).gpc = g.gpc := rfl
@[simp] theorem Group.setT_cpg (g : Group) (n : Nat) (x : BitVec 256) : (g.setT n x).cpg = g.cpg := rfl
@[simp] theorem Group.setT_gangs (g : Group) (n : Nat) (x : BitVec 256) : (g.setT n x).gangs = g.gangs := rfl
@[simp] theorem Group.setT_vgran (g : Group) (n : Nat) (x : BitVec 256) : (g.setT n x).vgran = g.vgran := rfl
@[simp] theorem Group.setT_hgran (g : Group) (n : Nat) (x : BitVec 256) : (g.setT n x).hgran = g.hgran := rfl
@[simp] theorem Group.setT_prio (g : Group) (n : Nat) (x : BitVec 256) : (g.setT n x).prio = g.prio := rfl
@[simp] theorem Group.setT_ceil (g : Group) (n : Nat) (x : BitVec 256) : (g.setT n x).ceil = g.ceil := rfl
@[simp] theorem Group.setT_code (g : Group) (n : Nat) (x : BitVec 256) : (g.setT n x).code = g.code := rfl
@[simp] theorem Group.setT_pc (g : Group) (n : Nat) (x : BitVec 256) : (g.setT n x).pc = g.pc := rfl
@[simp] theorem Group.setT_em (g : Group) (n : Nat) (x : BitVec 256) : (g.setT n x).em = g.em := rfl
@[simp] theorem Group.setT_part (g : Group) (n : Nat) (x : BitVec 256) : (g.setT n x).part = g.part := rfl
@[simp] theorem Group.setT_v (g : Group) (n : Nat) (x : BitVec 256) : (g.setT n x).v = g.v := rfl
@[simp] theorem Group.setT_s (g : Group) (n : Nat) (x : BitVec 256) : (g.setT n x).s = g.s := rfl
@[simp] theorem Group.setT_p (g : Group) (n : Nat) (x : BitVec 256) : (g.setT n x).p = g.p := rfl
@[simp] theorem Group.setT_h (g : Group) (n : Nat) (x : BitVec 256) : (g.setT n x).h = g.h := rfl
@[simp] theorem Group.setT_landrec (g : Group) (n : Nat) (x : BitVec 256) : (g.setT n x).landrec = g.landrec := rfl
@[simp] theorem Group.setT_status (g : Group) (n : Nat) (x : BitVec 256) : (g.setT n x).status = g.status := rfl
@[simp] theorem Group.setT_jetCount (g : Group) (n : Nat) (x : BitVec 256) : (g.setT n x).jetCount = g.jetCount := rfl
@[simp] theorem Group.setT_powerWait (g : Group) (n : Nat) (x : BitVec 256) : (g.setT n x).powerWait = g.powerWait := rfl
@[simp] theorem Group.setT_capturedHi (g : Group) (n : Nat) (x : BitVec 256) : (g.setT n x).capturedHi = g.capturedHi := rfl
@[simp] theorem Group.setT_stack (g : Group) (n : Nat) (x : BitVec 256) : (g.setT n x).stack = g.stack := rfl
@[simp] theorem Group.setT_fwd (g : Group) (n : Nat) (x : BitVec 256) : (g.setT n x).fwd = g.fwd := rfl
@[simp] theorem Group.setT_fwdGrant (g : Group) (n : Nat) (x : BitVec 256) : (g.setT n x).fwdGrant = g.fwdGrant := rfl
@[simp] theorem Group.setT_ret (g : Group) (n : Nat) (x : BitVec 256) : (g.setT n x).ret = g.ret := rfl
@[simp] theorem Group.setT_handler (g : Group) (n : Nat) (x : BitVec 256) : (g.setT n x).handler = g.handler := rfl
@[simp] theorem Group.setT_frame (g : Group) (n : Nat) (x : BitVec 256) : (g.setT n x).frame = g.frame := rfl
@[simp] theorem Group.setT_ofence (g : Group) (n : Nat) (x : BitVec 256) : (g.setT n x).ofence = g.ofence := rfl
@[simp] theorem Group.setT_loop (g : Group) (n : Nat) (x : BitVec 256) : (g.setT n x).loop = g.loop := rfl
@[simp] theorem Group.setT_loopM (g : Group) (n : Nat) (x : BitVec 256) : (g.setT n x).loopM = g.loopM := rfl
@[simp] theorem Group.setT_ageCount (g : Group) (n : Nat) (x : BitVec 256) : (g.setT n x).ageCount = g.ageCount := rfl
@[simp] theorem Group.setT_ageSteps (g : Group) (n : Nat) (x : BitVec 256) : (g.setT n x).ageSteps = g.ageSteps := rfl
@[simp] theorem Group.setT_waitSince (g : Group) (n : Nat) (x : BitVec 256) : (g.setT n x).waitSince = g.waitSince := rfl
@[simp] theorem Group.setT_yieldFor (g : Group) (n : Nat) (x : BitVec 256) : (g.setT n x).yieldFor = g.yieldFor := rfl
@[simp] theorem Group.setT_jet (g : Group) (n : Nat) (x : BitVec 256) : (g.setT n x).jet = g.jet := rfl
@[simp] theorem Group.setT_vflights (g : Group) (n : Nat) (x : BitVec 256) : (g.setT n x).vflights = g.vflights := rfl
@[simp] theorem Group.setT_score (g : Group) (n : Nat) (x : BitVec 256) : (g.setT n x).score = g.score := rfl
@[simp] theorem Group.setT_flights (g : Group) (n : Nat) (x : BitVec 256) : (g.setT n x).flights = g.flights := rfl
@[simp] theorem Group.setT_notices (g : Group) (n : Nat) (x : BitVec 256) : (g.setT n x).notices = g.notices := rfl
@[simp] theorem Group.setT_wait (g : Group) (n : Nat) (x : BitVec 256) : (g.setT n x).wait = g.wait := rfl
@[simp] theorem Group.setT_orders (g : Group) (n : Nat) (x : BitVec 256) : (g.setT n x).orders = g.orders := rfl
@[simp] theorem Group.setT_relReads (g : Group) (n : Nat) (x : BitVec 256) : (g.setT n x).relReads = g.relReads := rfl
@[simp] theorem Group.setT_staging (g : Group) (n : Nat) (x : BitVec 256) : (g.setT n x).staging = g.staging := rfl
@[simp] theorem Group.setT_mmDirty (g : Group) (n : Nat) (x : BitVec 256) : (g.setT n x).mmDirty = g.mmDirty := rfl
@[simp] theorem Group.setT_mmNamed (g : Group) (n : Nat) (x : BitVec 256) : (g.setT n x).mmNamed = g.mmNamed := rfl
@[simp] theorem Group.setT_mmSpoilt (g : Group) (n : Nat) (x : BitVec 256) : (g.setT n x).mmSpoilt = g.mmSpoilt := rfl
@[simp] theorem Group.setT_retired (g : Group) (n : Nat) (x : BitVec 256) : (g.setT n x).retired = g.retired := rfl
@[simp] theorem Group.setT_halted (g : Group) (n : Nat) (x : BitVec 256) : (g.setT n x).halted = g.halted := rfl
@[simp] theorem Group.setT_blockedSince (g : Group) (n : Nat) (x : BitVec 256) : (g.setT n x).blockedSince = g.blockedSince := rfl
@[simp] theorem Group.setT_t (g : Group) (n : Nat) (x : BitVec 256) : (g.setT n x).t = NMap.set g.t n x := rfl

@[simp] theorem Group.raceReg_basin (g : Group) (first r : Nat) (m : Mask) : (g.raceReg first r m).basin = g.basin := rfl
@[simp] theorem Group.raceReg_launch (g : Group) (first r : Nat) (m : Mask) : (g.raceReg first r m).launch = g.launch := rfl
@[simp] theorem Group.raceReg_gang (g : Group) (first r : Nat) (m : Mask) : (g.raceReg first r m).gang = g.gang := rfl
@[simp] theorem Group.raceReg_crew (g : Group) (first r : Nat) (m : Mask) : (g.raceReg first r m).crew = g.crew := rfl
@[simp] theorem Group.raceReg_grp (g : Group) (first r : Nat) (m : Mask) : (g.raceReg first r m).grp = g.grp := rfl
@[simp] theorem Group.raceReg_gpc (g : Group) (first r : Nat) (m : Mask) : (g.raceReg first r m).gpc = g.gpc := rfl
@[simp] theorem Group.raceReg_cpg (g : Group) (first r : Nat) (m : Mask) : (g.raceReg first r m).cpg = g.cpg := rfl
@[simp] theorem Group.raceReg_gangs (g : Group) (first r : Nat) (m : Mask) : (g.raceReg first r m).gangs = g.gangs := rfl
@[simp] theorem Group.raceReg_vgran (g : Group) (first r : Nat) (m : Mask) : (g.raceReg first r m).vgran = g.vgran := rfl
@[simp] theorem Group.raceReg_hgran (g : Group) (first r : Nat) (m : Mask) : (g.raceReg first r m).hgran = g.hgran := rfl
@[simp] theorem Group.raceReg_prio (g : Group) (first r : Nat) (m : Mask) : (g.raceReg first r m).prio = g.prio := rfl
@[simp] theorem Group.raceReg_ceil (g : Group) (first r : Nat) (m : Mask) : (g.raceReg first r m).ceil = g.ceil := rfl
@[simp] theorem Group.raceReg_code (g : Group) (first r : Nat) (m : Mask) : (g.raceReg first r m).code = g.code := rfl
@[simp] theorem Group.raceReg_pc (g : Group) (first r : Nat) (m : Mask) : (g.raceReg first r m).pc = g.pc := rfl
@[simp] theorem Group.raceReg_em (g : Group) (first r : Nat) (m : Mask) : (g.raceReg first r m).em = g.em := rfl
@[simp] theorem Group.raceReg_part (g : Group) (first r : Nat) (m : Mask) : (g.raceReg first r m).part = g.part := rfl
@[simp] theorem Group.raceReg_v (g : Group) (first r : Nat) (m : Mask) : (g.raceReg first r m).v = g.v := rfl
@[simp] theorem Group.raceReg_s (g : Group) (first r : Nat) (m : Mask) : (g.raceReg first r m).s = g.s := rfl
@[simp] theorem Group.raceReg_p (g : Group) (first r : Nat) (m : Mask) : (g.raceReg first r m).p = g.p := rfl
@[simp] theorem Group.raceReg_h (g : Group) (first r : Nat) (m : Mask) : (g.raceReg first r m).h = g.h := rfl
@[simp] theorem Group.raceReg_t (g : Group) (first r : Nat) (m : Mask) : (g.raceReg first r m).t = g.t := rfl
@[simp] theorem Group.raceReg_landrec (g : Group) (first r : Nat) (m : Mask) : (g.raceReg first r m).landrec = g.landrec := rfl
@[simp] theorem Group.raceReg_status (g : Group) (first r : Nat) (m : Mask) : (g.raceReg first r m).status = g.status := rfl
@[simp] theorem Group.raceReg_jetCount (g : Group) (first r : Nat) (m : Mask) : (g.raceReg first r m).jetCount = g.jetCount := rfl
@[simp] theorem Group.raceReg_powerWait (g : Group) (first r : Nat) (m : Mask) : (g.raceReg first r m).powerWait = g.powerWait := rfl
@[simp] theorem Group.raceReg_capturedHi (g : Group) (first r : Nat) (m : Mask) : (g.raceReg first r m).capturedHi = g.capturedHi := rfl
@[simp] theorem Group.raceReg_stack (g : Group) (first r : Nat) (m : Mask) : (g.raceReg first r m).stack = g.stack := rfl
@[simp] theorem Group.raceReg_fwd (g : Group) (first r : Nat) (m : Mask) : (g.raceReg first r m).fwd = g.fwd := rfl
@[simp] theorem Group.raceReg_fwdGrant (g : Group) (first r : Nat) (m : Mask) : (g.raceReg first r m).fwdGrant = g.fwdGrant := rfl
@[simp] theorem Group.raceReg_ret (g : Group) (first r : Nat) (m : Mask) : (g.raceReg first r m).ret = g.ret := rfl
@[simp] theorem Group.raceReg_handler (g : Group) (first r : Nat) (m : Mask) : (g.raceReg first r m).handler = g.handler := rfl
@[simp] theorem Group.raceReg_frame (g : Group) (first r : Nat) (m : Mask) : (g.raceReg first r m).frame = g.frame := rfl
@[simp] theorem Group.raceReg_ofence (g : Group) (first r : Nat) (m : Mask) : (g.raceReg first r m).ofence = g.ofence := rfl
@[simp] theorem Group.raceReg_loop (g : Group) (first r : Nat) (m : Mask) : (g.raceReg first r m).loop = g.loop := rfl
@[simp] theorem Group.raceReg_loopM (g : Group) (first r : Nat) (m : Mask) : (g.raceReg first r m).loopM = g.loopM := rfl
@[simp] theorem Group.raceReg_ageCount (g : Group) (first r : Nat) (m : Mask) : (g.raceReg first r m).ageCount = g.ageCount := rfl
@[simp] theorem Group.raceReg_ageSteps (g : Group) (first r : Nat) (m : Mask) : (g.raceReg first r m).ageSteps = g.ageSteps := rfl
@[simp] theorem Group.raceReg_waitSince (g : Group) (first r : Nat) (m : Mask) : (g.raceReg first r m).waitSince = g.waitSince := rfl
@[simp] theorem Group.raceReg_yieldFor (g : Group) (first r : Nat) (m : Mask) : (g.raceReg first r m).yieldFor = g.yieldFor := rfl
@[simp] theorem Group.raceReg_jet (g : Group) (first r : Nat) (m : Mask) : (g.raceReg first r m).jet = g.jet := rfl
@[simp] theorem Group.raceReg_score (g : Group) (first r : Nat) (m : Mask) : (g.raceReg first r m).score = g.score := rfl
@[simp] theorem Group.raceReg_notices (g : Group) (first r : Nat) (m : Mask) : (g.raceReg first r m).notices = g.notices := rfl
@[simp] theorem Group.raceReg_wait (g : Group) (first r : Nat) (m : Mask) : (g.raceReg first r m).wait = g.wait := rfl
@[simp] theorem Group.raceReg_orders (g : Group) (first r : Nat) (m : Mask) : (g.raceReg first r m).orders = g.orders := rfl
@[simp] theorem Group.raceReg_relReads (g : Group) (first r : Nat) (m : Mask) : (g.raceReg first r m).relReads = g.relReads := rfl
@[simp] theorem Group.raceReg_staging (g : Group) (first r : Nat) (m : Mask) : (g.raceReg first r m).staging = g.staging := rfl
@[simp] theorem Group.raceReg_mmDirty (g : Group) (first r : Nat) (m : Mask) : (g.raceReg first r m).mmDirty = g.mmDirty := rfl
@[simp] theorem Group.raceReg_mmNamed (g : Group) (first r : Nat) (m : Mask) : (g.raceReg first r m).mmNamed = g.mmNamed := rfl
@[simp] theorem Group.raceReg_mmSpoilt (g : Group) (first r : Nat) (m : Mask) : (g.raceReg first r m).mmSpoilt = g.mmSpoilt := rfl
@[simp] theorem Group.raceReg_retired (g : Group) (first r : Nat) (m : Mask) : (g.raceReg first r m).retired = g.retired := rfl
@[simp] theorem Group.raceReg_halted (g : Group) (first r : Nat) (m : Mask) : (g.raceReg first r m).halted = g.halted := rfl
@[simp] theorem Group.raceReg_blockedSince (g : Group) (first r : Nat) (m : Mask) : (g.raceReg first r m).blockedSince = g.blockedSince := rfl

@[simp] theorem Group.pendV_basin (g : Group) (nw : Bool) (d : Nat) (m : Mask) (x : Lanes) (fl : Flags) : (g.pendV nw d m x fl).basin = g.basin := rfl
@[simp] theorem Group.pendV_launch (g : Group) (nw : Bool) (d : Nat) (m : Mask) (x : Lanes) (fl : Flags) : (g.pendV nw d m x fl).launch = g.launch := rfl
@[simp] theorem Group.pendV_gang (g : Group) (nw : Bool) (d : Nat) (m : Mask) (x : Lanes) (fl : Flags) : (g.pendV nw d m x fl).gang = g.gang := rfl
@[simp] theorem Group.pendV_crew (g : Group) (nw : Bool) (d : Nat) (m : Mask) (x : Lanes) (fl : Flags) : (g.pendV nw d m x fl).crew = g.crew := rfl
@[simp] theorem Group.pendV_grp (g : Group) (nw : Bool) (d : Nat) (m : Mask) (x : Lanes) (fl : Flags) : (g.pendV nw d m x fl).grp = g.grp := rfl
@[simp] theorem Group.pendV_gpc (g : Group) (nw : Bool) (d : Nat) (m : Mask) (x : Lanes) (fl : Flags) : (g.pendV nw d m x fl).gpc = g.gpc := rfl
@[simp] theorem Group.pendV_cpg (g : Group) (nw : Bool) (d : Nat) (m : Mask) (x : Lanes) (fl : Flags) : (g.pendV nw d m x fl).cpg = g.cpg := rfl
@[simp] theorem Group.pendV_gangs (g : Group) (nw : Bool) (d : Nat) (m : Mask) (x : Lanes) (fl : Flags) : (g.pendV nw d m x fl).gangs = g.gangs := rfl
@[simp] theorem Group.pendV_vgran (g : Group) (nw : Bool) (d : Nat) (m : Mask) (x : Lanes) (fl : Flags) : (g.pendV nw d m x fl).vgran = g.vgran := rfl
@[simp] theorem Group.pendV_hgran (g : Group) (nw : Bool) (d : Nat) (m : Mask) (x : Lanes) (fl : Flags) : (g.pendV nw d m x fl).hgran = g.hgran := rfl
@[simp] theorem Group.pendV_prio (g : Group) (nw : Bool) (d : Nat) (m : Mask) (x : Lanes) (fl : Flags) : (g.pendV nw d m x fl).prio = g.prio := rfl
@[simp] theorem Group.pendV_ceil (g : Group) (nw : Bool) (d : Nat) (m : Mask) (x : Lanes) (fl : Flags) : (g.pendV nw d m x fl).ceil = g.ceil := rfl
@[simp] theorem Group.pendV_code (g : Group) (nw : Bool) (d : Nat) (m : Mask) (x : Lanes) (fl : Flags) : (g.pendV nw d m x fl).code = g.code := rfl
@[simp] theorem Group.pendV_pc (g : Group) (nw : Bool) (d : Nat) (m : Mask) (x : Lanes) (fl : Flags) : (g.pendV nw d m x fl).pc = g.pc := rfl
@[simp] theorem Group.pendV_em (g : Group) (nw : Bool) (d : Nat) (m : Mask) (x : Lanes) (fl : Flags) : (g.pendV nw d m x fl).em = g.em := rfl
@[simp] theorem Group.pendV_part (g : Group) (nw : Bool) (d : Nat) (m : Mask) (x : Lanes) (fl : Flags) : (g.pendV nw d m x fl).part = g.part := rfl
@[simp] theorem Group.pendV_v (g : Group) (nw : Bool) (d : Nat) (m : Mask) (x : Lanes) (fl : Flags) : (g.pendV nw d m x fl).v = g.v := rfl
@[simp] theorem Group.pendV_s (g : Group) (nw : Bool) (d : Nat) (m : Mask) (x : Lanes) (fl : Flags) : (g.pendV nw d m x fl).s = g.s := rfl
@[simp] theorem Group.pendV_p (g : Group) (nw : Bool) (d : Nat) (m : Mask) (x : Lanes) (fl : Flags) : (g.pendV nw d m x fl).p = g.p := rfl
@[simp] theorem Group.pendV_h (g : Group) (nw : Bool) (d : Nat) (m : Mask) (x : Lanes) (fl : Flags) : (g.pendV nw d m x fl).h = g.h := rfl
@[simp] theorem Group.pendV_t (g : Group) (nw : Bool) (d : Nat) (m : Mask) (x : Lanes) (fl : Flags) : (g.pendV nw d m x fl).t = g.t := rfl
@[simp] theorem Group.pendV_landrec (g : Group) (nw : Bool) (d : Nat) (m : Mask) (x : Lanes) (fl : Flags) : (g.pendV nw d m x fl).landrec = g.landrec := rfl
@[simp] theorem Group.pendV_status (g : Group) (nw : Bool) (d : Nat) (m : Mask) (x : Lanes) (fl : Flags) : (g.pendV nw d m x fl).status = g.status := rfl
@[simp] theorem Group.pendV_jetCount (g : Group) (nw : Bool) (d : Nat) (m : Mask) (x : Lanes) (fl : Flags) : (g.pendV nw d m x fl).jetCount = g.jetCount := rfl
@[simp] theorem Group.pendV_powerWait (g : Group) (nw : Bool) (d : Nat) (m : Mask) (x : Lanes) (fl : Flags) : (g.pendV nw d m x fl).powerWait = g.powerWait := rfl
@[simp] theorem Group.pendV_capturedHi (g : Group) (nw : Bool) (d : Nat) (m : Mask) (x : Lanes) (fl : Flags) : (g.pendV nw d m x fl).capturedHi = g.capturedHi := rfl
@[simp] theorem Group.pendV_stack (g : Group) (nw : Bool) (d : Nat) (m : Mask) (x : Lanes) (fl : Flags) : (g.pendV nw d m x fl).stack = g.stack := rfl
@[simp] theorem Group.pendV_fwd (g : Group) (nw : Bool) (d : Nat) (m : Mask) (x : Lanes) (fl : Flags) : (g.pendV nw d m x fl).fwd = g.fwd := rfl
@[simp] theorem Group.pendV_fwdGrant (g : Group) (nw : Bool) (d : Nat) (m : Mask) (x : Lanes) (fl : Flags) : (g.pendV nw d m x fl).fwdGrant = g.fwdGrant := rfl
@[simp] theorem Group.pendV_ret (g : Group) (nw : Bool) (d : Nat) (m : Mask) (x : Lanes) (fl : Flags) : (g.pendV nw d m x fl).ret = g.ret := rfl
@[simp] theorem Group.pendV_handler (g : Group) (nw : Bool) (d : Nat) (m : Mask) (x : Lanes) (fl : Flags) : (g.pendV nw d m x fl).handler = g.handler := rfl
@[simp] theorem Group.pendV_frame (g : Group) (nw : Bool) (d : Nat) (m : Mask) (x : Lanes) (fl : Flags) : (g.pendV nw d m x fl).frame = g.frame := rfl
@[simp] theorem Group.pendV_ofence (g : Group) (nw : Bool) (d : Nat) (m : Mask) (x : Lanes) (fl : Flags) : (g.pendV nw d m x fl).ofence = g.ofence := rfl
@[simp] theorem Group.pendV_loop (g : Group) (nw : Bool) (d : Nat) (m : Mask) (x : Lanes) (fl : Flags) : (g.pendV nw d m x fl).loop = g.loop := rfl
@[simp] theorem Group.pendV_loopM (g : Group) (nw : Bool) (d : Nat) (m : Mask) (x : Lanes) (fl : Flags) : (g.pendV nw d m x fl).loopM = g.loopM := rfl
@[simp] theorem Group.pendV_ageCount (g : Group) (nw : Bool) (d : Nat) (m : Mask) (x : Lanes) (fl : Flags) : (g.pendV nw d m x fl).ageCount = g.ageCount := rfl
@[simp] theorem Group.pendV_ageSteps (g : Group) (nw : Bool) (d : Nat) (m : Mask) (x : Lanes) (fl : Flags) : (g.pendV nw d m x fl).ageSteps = g.ageSteps := rfl
@[simp] theorem Group.pendV_waitSince (g : Group) (nw : Bool) (d : Nat) (m : Mask) (x : Lanes) (fl : Flags) : (g.pendV nw d m x fl).waitSince = g.waitSince := rfl
@[simp] theorem Group.pendV_yieldFor (g : Group) (nw : Bool) (d : Nat) (m : Mask) (x : Lanes) (fl : Flags) : (g.pendV nw d m x fl).yieldFor = g.yieldFor := rfl
@[simp] theorem Group.pendV_vflights (g : Group) (nw : Bool) (d : Nat) (m : Mask) (x : Lanes) (fl : Flags) : (g.pendV nw d m x fl).vflights = g.vflights := rfl
@[simp] theorem Group.pendV_score (g : Group) (nw : Bool) (d : Nat) (m : Mask) (x : Lanes) (fl : Flags) : (g.pendV nw d m x fl).score = g.score := rfl
@[simp] theorem Group.pendV_flights (g : Group) (nw : Bool) (d : Nat) (m : Mask) (x : Lanes) (fl : Flags) : (g.pendV nw d m x fl).flights = g.flights := rfl
@[simp] theorem Group.pendV_notices (g : Group) (nw : Bool) (d : Nat) (m : Mask) (x : Lanes) (fl : Flags) : (g.pendV nw d m x fl).notices = g.notices := rfl
@[simp] theorem Group.pendV_wait (g : Group) (nw : Bool) (d : Nat) (m : Mask) (x : Lanes) (fl : Flags) : (g.pendV nw d m x fl).wait = g.wait := rfl
@[simp] theorem Group.pendV_orders (g : Group) (nw : Bool) (d : Nat) (m : Mask) (x : Lanes) (fl : Flags) : (g.pendV nw d m x fl).orders = g.orders := rfl
@[simp] theorem Group.pendV_relReads (g : Group) (nw : Bool) (d : Nat) (m : Mask) (x : Lanes) (fl : Flags) : (g.pendV nw d m x fl).relReads = g.relReads := rfl
@[simp] theorem Group.pendV_staging (g : Group) (nw : Bool) (d : Nat) (m : Mask) (x : Lanes) (fl : Flags) : (g.pendV nw d m x fl).staging = g.staging := rfl
@[simp] theorem Group.pendV_mmDirty (g : Group) (nw : Bool) (d : Nat) (m : Mask) (x : Lanes) (fl : Flags) : (g.pendV nw d m x fl).mmDirty = g.mmDirty := rfl
@[simp] theorem Group.pendV_mmNamed (g : Group) (nw : Bool) (d : Nat) (m : Mask) (x : Lanes) (fl : Flags) : (g.pendV nw d m x fl).mmNamed = g.mmNamed := rfl
@[simp] theorem Group.pendV_mmSpoilt (g : Group) (nw : Bool) (d : Nat) (m : Mask) (x : Lanes) (fl : Flags) : (g.pendV nw d m x fl).mmSpoilt = g.mmSpoilt := rfl
@[simp] theorem Group.pendV_retired (g : Group) (nw : Bool) (d : Nat) (m : Mask) (x : Lanes) (fl : Flags) : (g.pendV nw d m x fl).retired = g.retired := rfl
@[simp] theorem Group.pendV_halted (g : Group) (nw : Bool) (d : Nat) (m : Mask) (x : Lanes) (fl : Flags) : (g.pendV nw d m x fl).halted = g.halted := rfl
@[simp] theorem Group.pendV_blockedSince (g : Group) (nw : Bool) (d : Nat) (m : Mask) (x : Lanes) (fl : Flags) : (g.pendV nw d m x fl).blockedSince = g.blockedSince := rfl

@[simp] theorem Group.takeFq_basin (g : Group) (xs : List Sel) : (g.takeFq xs).basin = g.basin := by unfold Group.takeFq; split <;> rfl
@[simp] theorem Group.takeFq_launch (g : Group) (xs : List Sel) : (g.takeFq xs).launch = g.launch := by unfold Group.takeFq; split <;> rfl
@[simp] theorem Group.takeFq_gang (g : Group) (xs : List Sel) : (g.takeFq xs).gang = g.gang := by unfold Group.takeFq; split <;> rfl
@[simp] theorem Group.takeFq_crew (g : Group) (xs : List Sel) : (g.takeFq xs).crew = g.crew := by unfold Group.takeFq; split <;> rfl
@[simp] theorem Group.takeFq_grp (g : Group) (xs : List Sel) : (g.takeFq xs).grp = g.grp := by unfold Group.takeFq; split <;> rfl
@[simp] theorem Group.takeFq_gpc (g : Group) (xs : List Sel) : (g.takeFq xs).gpc = g.gpc := by unfold Group.takeFq; split <;> rfl
@[simp] theorem Group.takeFq_cpg (g : Group) (xs : List Sel) : (g.takeFq xs).cpg = g.cpg := by unfold Group.takeFq; split <;> rfl
@[simp] theorem Group.takeFq_gangs (g : Group) (xs : List Sel) : (g.takeFq xs).gangs = g.gangs := by unfold Group.takeFq; split <;> rfl
@[simp] theorem Group.takeFq_vgran (g : Group) (xs : List Sel) : (g.takeFq xs).vgran = g.vgran := by unfold Group.takeFq; split <;> rfl
@[simp] theorem Group.takeFq_hgran (g : Group) (xs : List Sel) : (g.takeFq xs).hgran = g.hgran := by unfold Group.takeFq; split <;> rfl
@[simp] theorem Group.takeFq_prio (g : Group) (xs : List Sel) : (g.takeFq xs).prio = g.prio := by unfold Group.takeFq; split <;> rfl
@[simp] theorem Group.takeFq_ceil (g : Group) (xs : List Sel) : (g.takeFq xs).ceil = g.ceil := by unfold Group.takeFq; split <;> rfl
@[simp] theorem Group.takeFq_code (g : Group) (xs : List Sel) : (g.takeFq xs).code = g.code := by unfold Group.takeFq; split <;> rfl
@[simp] theorem Group.takeFq_pc (g : Group) (xs : List Sel) : (g.takeFq xs).pc = g.pc := by unfold Group.takeFq; split <;> rfl
@[simp] theorem Group.takeFq_em (g : Group) (xs : List Sel) : (g.takeFq xs).em = g.em := by unfold Group.takeFq; split <;> rfl
@[simp] theorem Group.takeFq_part (g : Group) (xs : List Sel) : (g.takeFq xs).part = g.part := by unfold Group.takeFq; split <;> rfl
@[simp] theorem Group.takeFq_v (g : Group) (xs : List Sel) : (g.takeFq xs).v = g.v := by unfold Group.takeFq; split <;> rfl
@[simp] theorem Group.takeFq_s (g : Group) (xs : List Sel) : (g.takeFq xs).s = g.s := by unfold Group.takeFq; split <;> rfl
@[simp] theorem Group.takeFq_p (g : Group) (xs : List Sel) : (g.takeFq xs).p = g.p := by unfold Group.takeFq; split <;> rfl
@[simp] theorem Group.takeFq_h (g : Group) (xs : List Sel) : (g.takeFq xs).h = g.h := by unfold Group.takeFq; split <;> rfl
@[simp] theorem Group.takeFq_t (g : Group) (xs : List Sel) : (g.takeFq xs).t = g.t := by unfold Group.takeFq; split <;> rfl
@[simp] theorem Group.takeFq_landrec (g : Group) (xs : List Sel) : (g.takeFq xs).landrec = g.landrec := by unfold Group.takeFq; split <;> rfl
@[simp] theorem Group.takeFq_status (g : Group) (xs : List Sel) : (g.takeFq xs).status = g.status := by unfold Group.takeFq; split <;> rfl
@[simp] theorem Group.takeFq_jetCount (g : Group) (xs : List Sel) : (g.takeFq xs).jetCount = g.jetCount := by unfold Group.takeFq; split <;> rfl
@[simp] theorem Group.takeFq_powerWait (g : Group) (xs : List Sel) : (g.takeFq xs).powerWait = g.powerWait := by unfold Group.takeFq; split <;> rfl
@[simp] theorem Group.takeFq_capturedHi (g : Group) (xs : List Sel) : (g.takeFq xs).capturedHi = g.capturedHi := by unfold Group.takeFq; split <;> rfl
@[simp] theorem Group.takeFq_stack (g : Group) (xs : List Sel) : (g.takeFq xs).stack = g.stack := by unfold Group.takeFq; split <;> rfl
@[simp] theorem Group.takeFq_fwdGrant (g : Group) (xs : List Sel) : (g.takeFq xs).fwdGrant = g.fwdGrant := by unfold Group.takeFq; split <;> rfl
@[simp] theorem Group.takeFq_ret (g : Group) (xs : List Sel) : (g.takeFq xs).ret = g.ret := by unfold Group.takeFq; split <;> rfl
@[simp] theorem Group.takeFq_handler (g : Group) (xs : List Sel) : (g.takeFq xs).handler = g.handler := by unfold Group.takeFq; split <;> rfl
@[simp] theorem Group.takeFq_frame (g : Group) (xs : List Sel) : (g.takeFq xs).frame = g.frame := by unfold Group.takeFq; split <;> rfl
@[simp] theorem Group.takeFq_ofence (g : Group) (xs : List Sel) : (g.takeFq xs).ofence = g.ofence := by unfold Group.takeFq; split <;> rfl
@[simp] theorem Group.takeFq_loop (g : Group) (xs : List Sel) : (g.takeFq xs).loop = g.loop := by unfold Group.takeFq; split <;> rfl
@[simp] theorem Group.takeFq_loopM (g : Group) (xs : List Sel) : (g.takeFq xs).loopM = g.loopM := by unfold Group.takeFq; split <;> rfl
@[simp] theorem Group.takeFq_ageCount (g : Group) (xs : List Sel) : (g.takeFq xs).ageCount = g.ageCount := by unfold Group.takeFq; split <;> rfl
@[simp] theorem Group.takeFq_ageSteps (g : Group) (xs : List Sel) : (g.takeFq xs).ageSteps = g.ageSteps := by unfold Group.takeFq; split <;> rfl
@[simp] theorem Group.takeFq_waitSince (g : Group) (xs : List Sel) : (g.takeFq xs).waitSince = g.waitSince := by unfold Group.takeFq; split <;> rfl
@[simp] theorem Group.takeFq_yieldFor (g : Group) (xs : List Sel) : (g.takeFq xs).yieldFor = g.yieldFor := by unfold Group.takeFq; split <;> rfl
@[simp] theorem Group.takeFq_jet (g : Group) (xs : List Sel) : (g.takeFq xs).jet = g.jet := by unfold Group.takeFq; split <;> rfl
@[simp] theorem Group.takeFq_vflights (g : Group) (xs : List Sel) : (g.takeFq xs).vflights = g.vflights := by unfold Group.takeFq; split <;> rfl
@[simp] theorem Group.takeFq_score (g : Group) (xs : List Sel) : (g.takeFq xs).score = g.score := by unfold Group.takeFq; split <;> rfl
@[simp] theorem Group.takeFq_flights (g : Group) (xs : List Sel) : (g.takeFq xs).flights = g.flights := by unfold Group.takeFq; split <;> rfl
@[simp] theorem Group.takeFq_notices (g : Group) (xs : List Sel) : (g.takeFq xs).notices = g.notices := by unfold Group.takeFq; split <;> rfl
@[simp] theorem Group.takeFq_wait (g : Group) (xs : List Sel) : (g.takeFq xs).wait = g.wait := by unfold Group.takeFq; split <;> rfl
@[simp] theorem Group.takeFq_orders (g : Group) (xs : List Sel) : (g.takeFq xs).orders = g.orders := by unfold Group.takeFq; split <;> rfl
@[simp] theorem Group.takeFq_relReads (g : Group) (xs : List Sel) : (g.takeFq xs).relReads = g.relReads := by unfold Group.takeFq; split <;> rfl
@[simp] theorem Group.takeFq_staging (g : Group) (xs : List Sel) : (g.takeFq xs).staging = g.staging := by unfold Group.takeFq; split <;> rfl
@[simp] theorem Group.takeFq_mmDirty (g : Group) (xs : List Sel) : (g.takeFq xs).mmDirty = g.mmDirty := by unfold Group.takeFq; split <;> rfl
@[simp] theorem Group.takeFq_mmNamed (g : Group) (xs : List Sel) : (g.takeFq xs).mmNamed = g.mmNamed := by unfold Group.takeFq; split <;> rfl
@[simp] theorem Group.takeFq_mmSpoilt (g : Group) (xs : List Sel) : (g.takeFq xs).mmSpoilt = g.mmSpoilt := by unfold Group.takeFq; split <;> rfl
@[simp] theorem Group.takeFq_retired (g : Group) (xs : List Sel) : (g.takeFq xs).retired = g.retired := by unfold Group.takeFq; split <;> rfl
@[simp] theorem Group.takeFq_halted (g : Group) (xs : List Sel) : (g.takeFq xs).halted = g.halted := by unfold Group.takeFq; split <;> rfl
@[simp] theorem Group.takeFq_blockedSince (g : Group) (xs : List Sel) : (g.takeFq xs).blockedSince = g.blockedSince := by unfold Group.takeFq; split <;> rfl

@[simp] theorem Group.countJet_basin (g : Group) : g.countJet.basin = g.basin := rfl
@[simp] theorem Group.countJet_launch (g : Group) : g.countJet.launch = g.launch := rfl
@[simp] theorem Group.countJet_gang (g : Group) : g.countJet.gang = g.gang := rfl
@[simp] theorem Group.countJet_crew (g : Group) : g.countJet.crew = g.crew := rfl
@[simp] theorem Group.countJet_grp (g : Group) : g.countJet.grp = g.grp := rfl
@[simp] theorem Group.countJet_gpc (g : Group) : g.countJet.gpc = g.gpc := rfl
@[simp] theorem Group.countJet_cpg (g : Group) : g.countJet.cpg = g.cpg := rfl
@[simp] theorem Group.countJet_gangs (g : Group) : g.countJet.gangs = g.gangs := rfl
@[simp] theorem Group.countJet_vgran (g : Group) : g.countJet.vgran = g.vgran := rfl
@[simp] theorem Group.countJet_hgran (g : Group) : g.countJet.hgran = g.hgran := rfl
@[simp] theorem Group.countJet_prio (g : Group) : g.countJet.prio = g.prio := rfl
@[simp] theorem Group.countJet_ceil (g : Group) : g.countJet.ceil = g.ceil := rfl
@[simp] theorem Group.countJet_code (g : Group) : g.countJet.code = g.code := rfl
@[simp] theorem Group.countJet_pc (g : Group) : g.countJet.pc = g.pc := rfl
@[simp] theorem Group.countJet_em (g : Group) : g.countJet.em = g.em := rfl
@[simp] theorem Group.countJet_part (g : Group) : g.countJet.part = g.part := rfl
@[simp] theorem Group.countJet_v (g : Group) : g.countJet.v = g.v := rfl
@[simp] theorem Group.countJet_s (g : Group) : g.countJet.s = g.s := rfl
@[simp] theorem Group.countJet_p (g : Group) : g.countJet.p = g.p := rfl
@[simp] theorem Group.countJet_h (g : Group) : g.countJet.h = g.h := rfl
@[simp] theorem Group.countJet_t (g : Group) : g.countJet.t = g.t := rfl
@[simp] theorem Group.countJet_landrec (g : Group) : g.countJet.landrec = g.landrec := rfl
@[simp] theorem Group.countJet_status (g : Group) : g.countJet.status = g.status := rfl
@[simp] theorem Group.countJet_powerWait (g : Group) : g.countJet.powerWait = g.powerWait := rfl
@[simp] theorem Group.countJet_capturedHi (g : Group) : g.countJet.capturedHi = g.capturedHi := rfl
@[simp] theorem Group.countJet_stack (g : Group) : g.countJet.stack = g.stack := rfl
@[simp] theorem Group.countJet_fwd (g : Group) : g.countJet.fwd = g.fwd := rfl
@[simp] theorem Group.countJet_fwdGrant (g : Group) : g.countJet.fwdGrant = g.fwdGrant := rfl
@[simp] theorem Group.countJet_ret (g : Group) : g.countJet.ret = g.ret := rfl
@[simp] theorem Group.countJet_handler (g : Group) : g.countJet.handler = g.handler := rfl
@[simp] theorem Group.countJet_frame (g : Group) : g.countJet.frame = g.frame := rfl
@[simp] theorem Group.countJet_ofence (g : Group) : g.countJet.ofence = g.ofence := rfl
@[simp] theorem Group.countJet_loop (g : Group) : g.countJet.loop = g.loop := rfl
@[simp] theorem Group.countJet_loopM (g : Group) : g.countJet.loopM = g.loopM := rfl
@[simp] theorem Group.countJet_waitSince (g : Group) : g.countJet.waitSince = g.waitSince := rfl
@[simp] theorem Group.countJet_jet (g : Group) : g.countJet.jet = g.jet := rfl
@[simp] theorem Group.countJet_vflights (g : Group) : g.countJet.vflights = g.vflights := rfl
@[simp] theorem Group.countJet_score (g : Group) : g.countJet.score = g.score := rfl
@[simp] theorem Group.countJet_flights (g : Group) : g.countJet.flights = g.flights := rfl
@[simp] theorem Group.countJet_notices (g : Group) : g.countJet.notices = g.notices := rfl
@[simp] theorem Group.countJet_wait (g : Group) : g.countJet.wait = g.wait := rfl
@[simp] theorem Group.countJet_orders (g : Group) : g.countJet.orders = g.orders := rfl
@[simp] theorem Group.countJet_relReads (g : Group) : g.countJet.relReads = g.relReads := rfl
@[simp] theorem Group.countJet_staging (g : Group) : g.countJet.staging = g.staging := rfl
@[simp] theorem Group.countJet_mmDirty (g : Group) : g.countJet.mmDirty = g.mmDirty := rfl
@[simp] theorem Group.countJet_mmNamed (g : Group) : g.countJet.mmNamed = g.mmNamed := rfl
@[simp] theorem Group.countJet_mmSpoilt (g : Group) : g.countJet.mmSpoilt = g.mmSpoilt := rfl
@[simp] theorem Group.countJet_retired (g : Group) : g.countJet.retired = g.retired := rfl
@[simp] theorem Group.countJet_halted (g : Group) : g.countJet.halted = g.halted := rfl
@[simp] theorem Group.countJet_jetCount (g : Group) : g.countJet.jetCount = g.jetCount + 1#32 := rfl
@[simp] theorem Group.countJet_ageCount (g : Group) : g.countJet.ageCount = 0 := rfl
@[simp] theorem Group.countJet_ageSteps (g : Group) : g.countJet.ageSteps = 0 := rfl
@[simp] theorem Group.countJet_yieldFor (g : Group) : g.countJet.yieldFor = [] := rfl
@[simp] theorem Group.countJet_blockedSince (g : Group) : g.countJet.blockedSince = none := rfl

@[simp] theorem Group.advance_basin (g : Group) (l : Latch) (pc : Nat) : (g.advance l pc).basin = g.basin := rfl
@[simp] theorem Group.advance_launch (g : Group) (l : Latch) (pc : Nat) : (g.advance l pc).launch = g.launch := rfl
@[simp] theorem Group.advance_gang (g : Group) (l : Latch) (pc : Nat) : (g.advance l pc).gang = g.gang := rfl
@[simp] theorem Group.advance_crew (g : Group) (l : Latch) (pc : Nat) : (g.advance l pc).crew = g.crew := rfl
@[simp] theorem Group.advance_grp (g : Group) (l : Latch) (pc : Nat) : (g.advance l pc).grp = g.grp := rfl
@[simp] theorem Group.advance_gpc (g : Group) (l : Latch) (pc : Nat) : (g.advance l pc).gpc = g.gpc := rfl
@[simp] theorem Group.advance_cpg (g : Group) (l : Latch) (pc : Nat) : (g.advance l pc).cpg = g.cpg := rfl
@[simp] theorem Group.advance_gangs (g : Group) (l : Latch) (pc : Nat) : (g.advance l pc).gangs = g.gangs := rfl
@[simp] theorem Group.advance_vgran (g : Group) (l : Latch) (pc : Nat) : (g.advance l pc).vgran = g.vgran := rfl
@[simp] theorem Group.advance_hgran (g : Group) (l : Latch) (pc : Nat) : (g.advance l pc).hgran = g.hgran := rfl
@[simp] theorem Group.advance_prio (g : Group) (l : Latch) (pc : Nat) : (g.advance l pc).prio = g.prio := rfl
@[simp] theorem Group.advance_ceil (g : Group) (l : Latch) (pc : Nat) : (g.advance l pc).ceil = g.ceil := rfl
@[simp] theorem Group.advance_code (g : Group) (l : Latch) (pc : Nat) : (g.advance l pc).code = g.code := rfl
@[simp] theorem Group.advance_em (g : Group) (l : Latch) (pc : Nat) : (g.advance l pc).em = g.em := rfl
@[simp] theorem Group.advance_part (g : Group) (l : Latch) (pc : Nat) : (g.advance l pc).part = g.part := rfl
@[simp] theorem Group.advance_v (g : Group) (l : Latch) (pc : Nat) : (g.advance l pc).v = g.v := rfl
@[simp] theorem Group.advance_s (g : Group) (l : Latch) (pc : Nat) : (g.advance l pc).s = g.s := rfl
@[simp] theorem Group.advance_p (g : Group) (l : Latch) (pc : Nat) : (g.advance l pc).p = g.p := rfl
@[simp] theorem Group.advance_h (g : Group) (l : Latch) (pc : Nat) : (g.advance l pc).h = g.h := rfl
@[simp] theorem Group.advance_t (g : Group) (l : Latch) (pc : Nat) : (g.advance l pc).t = g.t := rfl
@[simp] theorem Group.advance_landrec (g : Group) (l : Latch) (pc : Nat) : (g.advance l pc).landrec = g.landrec := rfl
@[simp] theorem Group.advance_status (g : Group) (l : Latch) (pc : Nat) : (g.advance l pc).status = g.status := rfl
@[simp] theorem Group.advance_jetCount (g : Group) (l : Latch) (pc : Nat) : (g.advance l pc).jetCount = g.jetCount := rfl
@[simp] theorem Group.advance_powerWait (g : Group) (l : Latch) (pc : Nat) : (g.advance l pc).powerWait = g.powerWait := rfl
@[simp] theorem Group.advance_capturedHi (g : Group) (l : Latch) (pc : Nat) : (g.advance l pc).capturedHi = g.capturedHi := rfl
@[simp] theorem Group.advance_stack (g : Group) (l : Latch) (pc : Nat) : (g.advance l pc).stack = g.stack := rfl
@[simp] theorem Group.advance_fwd (g : Group) (l : Latch) (pc : Nat) : (g.advance l pc).fwd = g.fwd := rfl
@[simp] theorem Group.advance_fwdGrant (g : Group) (l : Latch) (pc : Nat) : (g.advance l pc).fwdGrant = g.fwdGrant := rfl
@[simp] theorem Group.advance_ret (g : Group) (l : Latch) (pc : Nat) : (g.advance l pc).ret = g.ret := rfl
@[simp] theorem Group.advance_handler (g : Group) (l : Latch) (pc : Nat) : (g.advance l pc).handler = g.handler := rfl
@[simp] theorem Group.advance_frame (g : Group) (l : Latch) (pc : Nat) : (g.advance l pc).frame = g.frame := rfl
@[simp] theorem Group.advance_ofence (g : Group) (l : Latch) (pc : Nat) : (g.advance l pc).ofence = g.ofence := rfl
@[simp] theorem Group.advance_loop (g : Group) (l : Latch) (pc : Nat) : (g.advance l pc).loop = g.loop := rfl
@[simp] theorem Group.advance_loopM (g : Group) (l : Latch) (pc : Nat) : (g.advance l pc).loopM = g.loopM := rfl
@[simp] theorem Group.advance_ageCount (g : Group) (l : Latch) (pc : Nat) : (g.advance l pc).ageCount = g.ageCount := rfl
@[simp] theorem Group.advance_ageSteps (g : Group) (l : Latch) (pc : Nat) : (g.advance l pc).ageSteps = g.ageSteps := rfl
@[simp] theorem Group.advance_waitSince (g : Group) (l : Latch) (pc : Nat) : (g.advance l pc).waitSince = g.waitSince := rfl
@[simp] theorem Group.advance_yieldFor (g : Group) (l : Latch) (pc : Nat) : (g.advance l pc).yieldFor = g.yieldFor := rfl
@[simp] theorem Group.advance_vflights (g : Group) (l : Latch) (pc : Nat) : (g.advance l pc).vflights = g.vflights := rfl
@[simp] theorem Group.advance_score (g : Group) (l : Latch) (pc : Nat) : (g.advance l pc).score = g.score := rfl
@[simp] theorem Group.advance_flights (g : Group) (l : Latch) (pc : Nat) : (g.advance l pc).flights = g.flights := rfl
@[simp] theorem Group.advance_notices (g : Group) (l : Latch) (pc : Nat) : (g.advance l pc).notices = g.notices := rfl
@[simp] theorem Group.advance_orders (g : Group) (l : Latch) (pc : Nat) : (g.advance l pc).orders = g.orders := rfl
@[simp] theorem Group.advance_relReads (g : Group) (l : Latch) (pc : Nat) : (g.advance l pc).relReads = g.relReads := rfl
@[simp] theorem Group.advance_staging (g : Group) (l : Latch) (pc : Nat) : (g.advance l pc).staging = g.staging := rfl
@[simp] theorem Group.advance_mmDirty (g : Group) (l : Latch) (pc : Nat) : (g.advance l pc).mmDirty = g.mmDirty := rfl
@[simp] theorem Group.advance_mmNamed (g : Group) (l : Latch) (pc : Nat) : (g.advance l pc).mmNamed = g.mmNamed := rfl
@[simp] theorem Group.advance_mmSpoilt (g : Group) (l : Latch) (pc : Nat) : (g.advance l pc).mmSpoilt = g.mmSpoilt := rfl
@[simp] theorem Group.advance_retired (g : Group) (l : Latch) (pc : Nat) : (g.advance l pc).retired = g.retired := rfl
@[simp] theorem Group.advance_halted (g : Group) (l : Latch) (pc : Nat) : (g.advance l pc).halted = g.halted := rfl
@[simp] theorem Group.advance_blockedSince (g : Group) (l : Latch) (pc : Nat) : (g.advance l pc).blockedSince = g.blockedSince := rfl
@[simp] theorem Group.advance_pc (g : Group) (l : Latch) (pc : Nat) : (g.advance l pc).pc = pc := rfl
@[simp] theorem Group.advance_wait (g : Group) (l : Latch) (pc : Nat) : (g.advance l pc).wait = .none := rfl

/-- What a landing result touches: vector registers and predicates alone. -/
theorem Group.landDest_eq (g : Group) (ix : Nat) (d : Dest) (x : Lanes) :
    ∃ v p, g.landDest ix d x = { g with v := v, p := p } := by
  unfold Group.landDest Group.setP
  split
  · exact ⟨_, g.p, rfl⟩
  · split
    · exact ⟨g.v, g.p, rfl⟩
    · exact ⟨g.v, _, rfl⟩

/-- What the results of a jet touch when they land. -/
theorem Group.landJet_eq (j : Jet) (g : Group) : ∃ v p, g.landJet j = { g with v := v, p := p } := by
  unfold Group.landJet
  induction j.late generalizing g with
  | nil => exact ⟨g.v, g.p, rfl⟩
  | cons e es ih =>
    obtain ⟨v, p, h⟩ : ∃ v p, Group.landLate j g e = { g with v := v, p := p } := Group.landDest_eq ..
    rw [List.foldl_cons, h]
    exact ih _

/-- What giving up a jet touches. -/
theorem Group.leaveJet_eq (g : Group) : ∃ v p, g.leaveJet = { g with v := v, p := p, jet := none } := by
  obtain ⟨v, p, h⟩ := Group.landJet_eq g.jetOr g
  exact ⟨v, p, by simp only [Group.leaveJet, h]⟩

@[simp] theorem Group.stand_basin (g : Group) (o : Group) (w : Wait) : (g.stand o w).basin = g.basin := by obtain ⟨_, _, h⟩ := g.leaveJet_eq; simp only [Group.stand, h]
@[simp] theorem Group.stand_launch (g : Group) (o : Group) (w : Wait) : (g.stand o w).launch = g.launch := by obtain ⟨_, _, h⟩ := g.leaveJet_eq; simp only [Group.stand, h]
@[simp] theorem Group.stand_gang (g : Group) (o : Group) (w : Wait) : (g.stand o w).gang = g.gang := by obtain ⟨_, _, h⟩ := g.leaveJet_eq; simp only [Group.stand, h]
@[simp] theorem Group.stand_crew (g : Group) (o : Group) (w : Wait) : (g.stand o w).crew = g.crew := by obtain ⟨_, _, h⟩ := g.leaveJet_eq; simp only [Group.stand, h]
@[simp] theorem Group.stand_grp (g : Group) (o : Group) (w : Wait) : (g.stand o w).grp = g.grp := by obtain ⟨_, _, h⟩ := g.leaveJet_eq; simp only [Group.stand, h]
@[simp] theorem Group.stand_gpc (g : Group) (o : Group) (w : Wait) : (g.stand o w).gpc = g.gpc := by obtain ⟨_, _, h⟩ := g.leaveJet_eq; simp only [Group.stand, h]
@[simp] theorem Group.stand_cpg (g : Group) (o : Group) (w : Wait) : (g.stand o w).cpg = g.cpg := by obtain ⟨_, _, h⟩ := g.leaveJet_eq; simp only [Group.stand, h]
@[simp] theorem Group.stand_gangs (g : Group) (o : Group) (w : Wait) : (g.stand o w).gangs = g.gangs := by obtain ⟨_, _, h⟩ := g.leaveJet_eq; simp only [Group.stand, h]
@[simp] theorem Group.stand_vgran (g : Group) (o : Group) (w : Wait) : (g.stand o w).vgran = g.vgran := by obtain ⟨_, _, h⟩ := g.leaveJet_eq; simp only [Group.stand, h]
@[simp] theorem Group.stand_hgran (g : Group) (o : Group) (w : Wait) : (g.stand o w).hgran = g.hgran := by obtain ⟨_, _, h⟩ := g.leaveJet_eq; simp only [Group.stand, h]
@[simp] theorem Group.stand_prio (g : Group) (o : Group) (w : Wait) : (g.stand o w).prio = g.prio := by obtain ⟨_, _, h⟩ := g.leaveJet_eq; simp only [Group.stand, h]
@[simp] theorem Group.stand_ceil (g : Group) (o : Group) (w : Wait) : (g.stand o w).ceil = g.ceil := by obtain ⟨_, _, h⟩ := g.leaveJet_eq; simp only [Group.stand, h]
@[simp] theorem Group.stand_code (g : Group) (o : Group) (w : Wait) : (g.stand o w).code = g.code := by obtain ⟨_, _, h⟩ := g.leaveJet_eq; simp only [Group.stand, h]
@[simp] theorem Group.stand_pc (g : Group) (o : Group) (w : Wait) : (g.stand o w).pc = g.pc := by obtain ⟨_, _, h⟩ := g.leaveJet_eq; simp only [Group.stand, h]
@[simp] theorem Group.stand_em (g : Group) (o : Group) (w : Wait) : (g.stand o w).em = g.em := by obtain ⟨_, _, h⟩ := g.leaveJet_eq; simp only [Group.stand, h]
@[simp] theorem Group.stand_part (g : Group) (o : Group) (w : Wait) : (g.stand o w).part = g.part := by obtain ⟨_, _, h⟩ := g.leaveJet_eq; simp only [Group.stand, h]
@[simp] theorem Group.stand_s (g : Group) (o : Group) (w : Wait) : (g.stand o w).s = g.s := by obtain ⟨_, _, h⟩ := g.leaveJet_eq; simp only [Group.stand, h]
@[simp] theorem Group.stand_h (g : Group) (o : Group) (w : Wait) : (g.stand o w).h = g.h := by obtain ⟨_, _, h⟩ := g.leaveJet_eq; simp only [Group.stand, h]
@[simp] theorem Group.stand_t (g : Group) (o : Group) (w : Wait) : (g.stand o w).t = g.t := by obtain ⟨_, _, h⟩ := g.leaveJet_eq; simp only [Group.stand, h]
@[simp] theorem Group.stand_landrec (g : Group) (o : Group) (w : Wait) : (g.stand o w).landrec = g.landrec := by obtain ⟨_, _, h⟩ := g.leaveJet_eq; simp only [Group.stand, h]
@[simp] theorem Group.stand_status (g : Group) (o : Group) (w : Wait) : (g.stand o w).status = g.status := by obtain ⟨_, _, h⟩ := g.leaveJet_eq; simp only [Group.stand, h]
@[simp] theorem Group.stand_powerWait (g : Group) (o : Group) (w : Wait) : (g.stand o w).powerWait = g.powerWait := by obtain ⟨_, _, h⟩ := g.leaveJet_eq; simp only [Group.stand, h]
@[simp] theorem Group.stand_capturedHi (g : Group) (o : Group) (w : Wait) : (g.stand o w).capturedHi = g.capturedHi := by obtain ⟨_, _, h⟩ := g.leaveJet_eq; simp only [Group.stand, h]
@[simp] theorem Group.stand_stack (g : Group) (o : Group) (w : Wait) : (g.stand o w).stack = g.stack := by obtain ⟨_, _, h⟩ := g.leaveJet_eq; simp only [Group.stand, h]
@[simp] theorem Group.stand_fwd (g : Group) (o : Group) (w : Wait) : (g.stand o w).fwd = g.fwd := by obtain ⟨_, _, h⟩ := g.leaveJet_eq; simp only [Group.stand, h]
@[simp] theorem Group.stand_fwdGrant (g : Group) (o : Group) (w : Wait) : (g.stand o w).fwdGrant = g.fwdGrant := by obtain ⟨_, _, h⟩ := g.leaveJet_eq; simp only [Group.stand, h]
@[simp] theorem Group.stand_ret (g : Group) (o : Group) (w : Wait) : (g.stand o w).ret = g.ret := by obtain ⟨_, _, h⟩ := g.leaveJet_eq; simp only [Group.stand, h]
@[simp] theorem Group.stand_handler (g : Group) (o : Group) (w : Wait) : (g.stand o w).handler = g.handler := by obtain ⟨_, _, h⟩ := g.leaveJet_eq; simp only [Group.stand, h]
@[simp] theorem Group.stand_frame (g : Group) (o : Group) (w : Wait) : (g.stand o w).frame = g.frame := by obtain ⟨_, _, h⟩ := g.leaveJet_eq; simp only [Group.stand, h]
@[simp] theorem Group.stand_ofence (g : Group) (o : Group) (w : Wait) : (g.stand o w).ofence = g.ofence := by obtain ⟨_, _, h⟩ := g.leaveJet_eq; simp only [Group.stand, h]
@[simp] theorem Group.stand_loop (g : Group) (o : Group) (w : Wait) : (g.stand o w).loop = g.loop := by obtain ⟨_, _, h⟩ := g.leaveJet_eq; simp only [Group.stand, h]
@[simp] theorem Group.stand_loopM (g : Group) (o : Group) (w : Wait) : (g.stand o w).loopM = g.loopM := by obtain ⟨_, _, h⟩ := g.leaveJet_eq; simp only [Group.stand, h]
@[simp] theorem Group.stand_waitSince (g : Group) (o : Group) (w : Wait) : (g.stand o w).waitSince = g.waitSince := by obtain ⟨_, _, h⟩ := g.leaveJet_eq; simp only [Group.stand, h]
@[simp] theorem Group.stand_vflights (g : Group) (o : Group) (w : Wait) : (g.stand o w).vflights = g.vflights := by obtain ⟨_, _, h⟩ := g.leaveJet_eq; simp only [Group.stand, h]
@[simp] theorem Group.stand_score (g : Group) (o : Group) (w : Wait) : (g.stand o w).score = g.score := by obtain ⟨_, _, h⟩ := g.leaveJet_eq; simp only [Group.stand, h]
@[simp] theorem Group.stand_flights (g : Group) (o : Group) (w : Wait) : (g.stand o w).flights = g.flights := by obtain ⟨_, _, h⟩ := g.leaveJet_eq; simp only [Group.stand, h]
@[simp] theorem Group.stand_notices (g : Group) (o : Group) (w : Wait) : (g.stand o w).notices = g.notices := by obtain ⟨_, _, h⟩ := g.leaveJet_eq; simp only [Group.stand, h]
@[simp] theorem Group.stand_orders (g : Group) (o : Group) (w : Wait) : (g.stand o w).orders = g.orders := by obtain ⟨_, _, h⟩ := g.leaveJet_eq; simp only [Group.stand, h]
@[simp] theorem Group.stand_relReads (g : Group) (o : Group) (w : Wait) : (g.stand o w).relReads = g.relReads := by obtain ⟨_, _, h⟩ := g.leaveJet_eq; simp only [Group.stand, h]
@[simp] theorem Group.stand_staging (g : Group) (o : Group) (w : Wait) : (g.stand o w).staging = g.staging := by obtain ⟨_, _, h⟩ := g.leaveJet_eq; simp only [Group.stand, h]
@[simp] theorem Group.stand_mmDirty (g : Group) (o : Group) (w : Wait) : (g.stand o w).mmDirty = g.mmDirty := by obtain ⟨_, _, h⟩ := g.leaveJet_eq; simp only [Group.stand, h]
@[simp] theorem Group.stand_mmNamed (g : Group) (o : Group) (w : Wait) : (g.stand o w).mmNamed = g.mmNamed := by obtain ⟨_, _, h⟩ := g.leaveJet_eq; simp only [Group.stand, h]
@[simp] theorem Group.stand_mmSpoilt (g : Group) (o : Group) (w : Wait) : (g.stand o w).mmSpoilt = g.mmSpoilt := by obtain ⟨_, _, h⟩ := g.leaveJet_eq; simp only [Group.stand, h]
@[simp] theorem Group.stand_retired (g : Group) (o : Group) (w : Wait) : (g.stand o w).retired = g.retired := by obtain ⟨_, _, h⟩ := g.leaveJet_eq; simp only [Group.stand, h]
@[simp] theorem Group.stand_halted (g : Group) (o : Group) (w : Wait) : (g.stand o w).halted = g.halted := by obtain ⟨_, _, h⟩ := g.leaveJet_eq; simp only [Group.stand, h]
@[simp] theorem Group.stand_wait (g : Group) (o : Group) (w : Wait) : (g.stand o w).wait = w := by obtain ⟨_, _, h⟩ := g.leaveJet_eq; simp only [Group.stand, h]
@[simp] theorem Group.stand_jet (g : Group) (o : Group) (w : Wait) : (g.stand o w).jet = none := by obtain ⟨_, _, h⟩ := g.leaveJet_eq; simp only [Group.stand, h]
@[simp] theorem Group.stand_jetCount (g : Group) (o : Group) (w : Wait) : (g.stand o w).jetCount = o.jetCount := by obtain ⟨_, _, h⟩ := g.leaveJet_eq; simp only [Group.stand, h]
@[simp] theorem Group.stand_ageCount (g : Group) (o : Group) (w : Wait) : (g.stand o w).ageCount = o.ageCount := by obtain ⟨_, _, h⟩ := g.leaveJet_eq; simp only [Group.stand, h]
@[simp] theorem Group.stand_ageSteps (g : Group) (o : Group) (w : Wait) : (g.stand o w).ageSteps = o.ageSteps := by obtain ⟨_, _, h⟩ := g.leaveJet_eq; simp only [Group.stand, h]
@[simp] theorem Group.stand_yieldFor (g : Group) (o : Group) (w : Wait) : (g.stand o w).yieldFor = o.yieldFor := by obtain ⟨_, _, h⟩ := g.leaveJet_eq; simp only [Group.stand, h]
@[simp] theorem Group.stand_blockedSince (g : Group) (o : Group) (w : Wait) : (g.stand o w).blockedSince = o.blockedSince := by obtain ⟨_, _, h⟩ := g.leaveJet_eq; simp only [Group.stand, h]

end Sys2Proof.Machine
end

