-- ==== Sys2Proof/Laws/Run.lean ====
section
/-! SUPPORT. What running one instruction can do: the outcome of `runInstr` for each answer of a body, and for a body
that changes the group only, the exact next state. -/

namespace Sys2Proof.Machine

/-- The structure of a jet does not stand in the way of an instruction that may issue. -/
theorem jetCheck_of_issues {s : State} {i : Instr} {g : Group} (h : Issues s i g) :
    jetCheck g.jetOr (isCatchUp i) (isTrail i) = none := by
  obtain ⟨-, h1, h2, h3⟩ := h
  have hp : ¬ g.jetOr.pos = 23 := by omega
  have h3' : (isCatchUp i && g.jetOr.pos != 0) = false := by
    cases hc : isCatchUp i with
    | false => rfl
    | true => simp [h3 hc]
  simp only [jetCheck]
  split
  · rename_i p code hpl
    have : ¬ p = g.jetOr.pos := fun e => h1 (by simp [hpl, e])
    simp [this, hp, h3']
  · simp [hp, h3']

section

variable {s : State} {i : Instr} {g : Group} (h : Issues s i g)
include h

/-- An instruction whose body answers an effect. -/
theorem runInstr_next {body : Body} {s2 : State} {l : Latch} {pc : Option Nat}
    (hb : body (s.setGroup s.cur.1 s.cur.2 g.opened) s.cur.1 s.cur.2 g.opened = .next s2 l pc) :
    runInstr s i body = .next (s2.modGroup s.cur.1 s.cur.2 (fun h => h.advance l (pc.getD (g.pc + instrLen i)))) := by
  simp only [runInstr, h.1, jetCheck_of_issues h, hb]

/-- An instruction whose body traps. -/
theorem runInstr_trap {body : Body} {t : Trap}
    (hb : body (s.setGroup s.cur.1 s.cur.2 g.opened) s.cur.1 s.cur.2 g.opened = .trap t) :
    runInstr s i body = .next ({ s.setGroup s.cur.1 s.cur.2 g.opened with freeIx := s.freeIx + 1 }.takeTrap s.cur.1 s.cur.2
      (instrWords i) (instrLen i) t) := by
  simp only [runInstr, h.1, jetCheck_of_issues h, hb]
  rfl

/-- An instruction whose body waits. -/
theorem runInstr_wait {body : Body} {s2 : State} {w : Wait}
    (hb : body (s.setGroup s.cur.1 s.cur.2 g.opened) s.cur.1 s.cur.2 g.opened = .wait s2 w) :
    runInstr s i body = .next ((s2.modGroup s.cur.1 s.cur.2 (fun h => h.stand g w)).freeIssue s.cur.1
      ((s2.group? s.cur.1 s.cur.2).any (fun h => h.tries w))) := by
  simp only [runInstr, h.1, jetCheck_of_issues h, hb]

/-- An instruction whose body gives the whole next state. -/
theorem runInstr_final {body : Body} {s2 : State}
    (hb : body (s.setGroup s.cur.1 s.cur.2 g.opened) s.cur.1 s.cur.2 g.opened = .final s2) :
    runInstr s i body = .next s2 := by
  simp only [runInstr, h.1, jetCheck_of_issues h, hb]

/-- An instruction that changes its group only: nothing else of the machine is touched. -/
theorem runInstr_group {f : Group → Except Trap (Group × Latch × Option Nat)} {g' : Group} {l : Latch} {pc : Option Nat}
    (hf : f g.opened = .ok (g', l, pc)) :
    runInstr s i (groupBody f) =
      .next (s.setGroup s.cur.1 s.cur.2 (g'.advance l (pc.getD (g.pc + instrLen i)))) := by
  rw [runInstr_next h (s2 := (s.setGroup s.cur.1 s.cur.2 g.opened).setGroup s.cur.1 s.cur.2 g') (l := l) (pc := pc)]
  · rw [State.setGroup_setGroup, State.modGroup_eq (State.group?_setGroup h.1), State.setGroup_setGroup]
  · simp only [groupBody, hf]

end

/-- Whatever the body answers, an instruction of a group that is there ends in a next state. -/
theorem runInstr_completes {s : State} {i : Instr} {body : Body} {g : Group} (h : s.group? s.cur.1 s.cur.2 = some g) :
    ∃ t, runInstr s i body = .next t := by
  simp only [runInstr, h]
  split
  · exact ⟨_, rfl⟩
  · split <;> exact ⟨_, rfl⟩

/-- Without a group there is a fault and nothing else. -/
theorem runInstr_noGroup {s : State} {i : Instr} {body : Body} (h : s.group? s.cur.1 s.cur.2 = none) :
    runInstr s i body = .fault .noGroup := by
  simp only [runInstr, h]

/-! ### The group with its jet open -/

@[simp] theorem Group.opened_jet (g : Group) : g.opened.jet = some g.jetOr := rfl

@[simp] theorem Group.opened_jetOr (g : Group) : g.opened.jetOr = g.jetOr := rfl

theorem Group.opened_fields (g : Group) :
    g.opened.pc = g.pc ∧ g.opened.em = g.em ∧ g.opened.part = g.part ∧ g.opened.v = g.v ∧ g.opened.s = g.s ∧ g.opened.p = g.p
      ∧ g.opened.h = g.h ∧ g.opened.t = g.t ∧ g.opened.status = g.status ∧ g.opened.stack = g.stack ∧ g.opened.fwd = g.fwd
      ∧ g.opened.ret = g.ret ∧ g.opened.handler = g.handler ∧ g.opened.frame = g.frame ∧ g.opened.vgran = g.vgran
      ∧ g.opened.hgran = g.hgran ∧ g.opened.basin = g.basin := by
  simp only [Group.opened]
  split <;> simp

/-- What remains of an effect on the opened group when the instruction has advanced. -/
theorem Group.opened_advance (g : Group) (l : Latch) (pc : Nat) : g.opened.advance l pc = issuedGroup g g l [] 0#5 pc := by
  simp only [Group.opened, Group.advance, issuedGroup]
  split <;> simp [*, Group.countJet, Group.jetOr]

end Sys2Proof.Machine
end

