-- ==== Sys2Proof/Laws/Bodies.lean ====
section
/-! SUPPORT. What the shared bodies of the one-shape instructions do, said once: the uniform body, the lane body and the
predicate body each leave exactly the state that `Runs` names. -/

namespace Sys2Proof.Machine

/-! ### Operands do not see that the jet is open -/

@[simp] theorem uAt_opened (g : Group) (x : USel) : uAt g.opened x = uAt g x := by
  cases x <;> simp [uAt, Group.getS, g.opened_fields.2.2.2.2.1]

@[simp] theorem Group.opened_getV (g : Group) (n : Nat) : g.opened.getV n = g.getV n := by
  simp [Group.getV, g.opened_fields.2.2.2.1]

@[simp] theorem Group.opened_lane (g : Group) (n l : Nat) : g.opened.lane n l = g.lane n l := by
  simp [Group.lane]

@[simp] theorem Group.opened_getP (g : Group) (n : Nat) : g.opened.getP n = g.getP n := by
  simp [Group.getP, g.opened_fields.2.2.2.2.2.1]

@[simp] theorem Group.opened_vOk (g : Group) (n : Nat) : g.opened.vOk n = g.vOk n := by
  simp [Group.vOk, Group.opened]
  split <;> rfl

@[simp] theorem selOk_opened (g : Group) (x : Sel) : selOk g.opened x = selOk g x := by
  have h := g.opened_fields
  cases x <;> simp [selOk, h]

@[simp] theorem selAt_opened (g : Group) (x : Sel) (l : Nat) : selAt g.opened x l = selAt g x l := by
  have h := g.opened_fields
  cases x <;> simp [selAt, h, Group.getS, Group.tileWidth]

@[simp] theorem emMask_opened (g : Group) : emMask g.opened = g.em := g.opened_fields.2.1

@[simp] theorem guardMask_opened (g : Group) (x : Guard) : guardMask g.opened x = guardMask g x := by
  simp [guardMask, g.opened_fields.2.1]

/-! ### The three bodies -/

/-- A pending write and flags put into the opened jet, then the advance. -/
theorem opened_pend_advance (g : Group) (nw : Bool) (sels : List Sel) (w : PendWrite) (fl : Flags) (l : Latch) (pc : Nat) :
    Group.advance { g.opened.takeFq sels with jet := some { (g.opened.takeFq sels).jetOr with
        pend := if nw then (g.opened.takeFq sels).jetOr.pend else (g.opened.takeFq sels).jetOr.pend ++ [w],
        flags := (g.opened.takeFq sels).jetOr.flags ||| fl } } l pc
      = issuedGroup g (g.takeFq sels) l (if nw then [] else [w]) fl pc := by
  simp only [Group.opened, Group.takeFq, Group.advance, issuedGroup, Group.countJet, Group.jetOr]
  by_cases hp : (g.jet.getD (Jet.fresh g.pc)).pos = 0 <;> cases nw <;> by_cases hq : Sel.fq ∈ sels <;> simp [hp, hq]

section

variable {s : State} {i : Instr} {g : Group} (h : Issues s i g)
include h

/-- The uniform body: one register and the advance. -/
theorem runInstr_uniBody (d : BitVec 6) (f : Group → Word) :
    runInstr s i (uniBody d f) = .next (s.setGroup s.cur.1 s.cur.2
      (issuedGroup g (g.setS d.toNat (f g.opened)) .none [] 0#5 (g.pc + instrLen i))) := by
  rw [uniBody, runInstr_group h rfl]
  congr 2
  simp only [Group.opened, Group.advance, issuedGroup, Group.setS]
  split <;> simp [*, Group.countJet, Group.jetOr, Option.getD]

/-- The lane body: the latch, the pending write unless `.nw`, the joined flags. -/
theorem runInstr_laneBody (nw : Bool) (d : Nat) (m : Group → Mask) (sels : List Sel)
    (f : Group → Nat → List Word → Word × Flags) (hd : g.vOk d = true) (hs : sels.all (selOk g) = true) :
    let r := fun l => f g.opened l (sels.map (fun x => selAt g x l))
    let out := lanesOf (fun l => if (m g.opened).getLsbD l then (r l).1 else g.lane d l)
    runInstr s i (laneBody nw d m sels f) = .next (s.setGroup s.cur.1 s.cur.2
      (issuedGroup g (g.takeFq sels) (.lane out) (if nw then [] else [.v d (m g.opened) out])
        (flJoin ((maskLanes (m g.opened)).map (fun l => (r l).2))) (g.pc + instrLen i))) := by
  intro r out
  have hs' : sels.all (selOk g.opened) = true := by simpa using hs
  rw [laneBody, runInstr_group h (g' := _) (l := .lane out) (pc := none)]
  rotate_left
  · simp only [Group.opened_vOk, hd, hs', Bool.and_self, if_true, selAt_opened, Group.opened_lane]
    rfl
  · exact congrArg (fun x => Host.Outcome.next (s.setGroup s.cur.1 s.cur.2 x))
      (opened_pend_advance g nw sels (.v d (m g.opened) out) _ (.lane out) _)

/-- The predicate body: bits of the lanes that take part, and the latch. -/
theorem runInstr_predBody (nw : Bool) (p : Nat) (m : Group → Mask) (sels : List Sel) (f : List Word → Bool × Flags)
    (hs : sels.all (selOk g) = true) :
    let r := fun l => f (sels.map (fun x => selAt g x l))
    let bits := maskOf (fun l => (m g.opened).getLsbD l && (r l).1)
    let out := lanesOf (fun l => if (m g.opened).getLsbD l then boolWord (r l).1 else boolWord ((g.getP p).getLsbD l))
    runInstr s i (predBody nw p m sels f) = .next (s.setGroup s.cur.1 s.cur.2
      (issuedGroup g (g.takeFq sels) (.lane out) (if nw then [] else [.p p (m g.opened) bits])
        (flJoin ((maskLanes (m g.opened)).map (fun l => (r l).2))) (g.pc + instrLen i))) := by
  intro r bits out
  have hs' : sels.all (selOk g.opened) = true := by simpa using hs
  rw [predBody, runInstr_group h (g' := _) (l := .lane out) (pc := none)]
  rotate_left
  · simp only [hs', if_true, selAt_opened, Group.opened_getP]
    rfl
  · exact congrArg (fun x => Host.Outcome.next (s.setGroup s.cur.1 s.cur.2 x))
      (opened_pend_advance g nw sels (.p p (m g.opened) bits) _ (.lane out) _)

end

end Sys2Proof.Machine
end

