-- ==== Sys2Proof/Laws/Memory.lean ====
section
/-! SUPPORT. Laws of memory: a read after a write, and that every operation that changes memory keeps its canonical
form. -/

namespace Sys2Proof.Machine

/-! ### One byte -/

theorem memSet_read (m : NMap Byte) (k j : Nat) (b : Byte) :
    NMap.getD (memSet m k b) j memDefault = if k = j then b else NMap.getD m j memDefault := by
  simp only [memSet]
  split
  · subst_vars
    simp only [NMap.getD, NMap.get?_erase]
    split <;> rfl
  · exact NMap.getD_set ..

theorem State.readByte_writeByte (s : State) (k j : Nat) (b : Byte) :
    (s.writeByte k b).readByte j = if k = j then b else s.readByte j :=
  memSet_read ..

/-- The canonical form, taken apart. -/
theorem Memory.wf_iff (m : NMap Byte) :
    Memory.wf m = true ↔ NMap.sorted m = true ∧ ∀ e ∈ m, e.2 ≠ memDefault := by
  simp [Memory.wf]

theorem memSet_wf {m : NMap Byte} (h : Memory.wf m = true) (k : Nat) (b : Byte) : Memory.wf (memSet m k b) = true := by
  rw [Memory.wf_iff] at h ⊢
  simp only [memSet]
  split
  · exact ⟨NMap.sorted_filter _ _ h.1, fun e he => h.2 e (List.mem_filter.1 he).1⟩
  · refine ⟨NMap.sorted_set _ _ _ h.1, fun e he => ?_⟩
    rcases NMap.mem_set _ _ _ _ he with rfl | he
    · assumption
    · exact h.2 e he

/-- Forgetting a set of bytes keeps the form. -/
theorem Memory.wf_filter {m : NMap Byte} (h : Memory.wf m = true) (p : Nat × Byte → Bool) : Memory.wf (m.filter p) = true := by
  rw [Memory.wf_iff] at h ⊢
  exact ⟨NMap.sorted_filter _ _ h.1, fun e he => h.2 e (List.mem_filter.1 he).1⟩

/-- A run of byte writes keeps the form. -/
theorem Memory.wf_foldl {β : Type} (l : List β) (k : β → Nat) (v : β → Byte) {m : NMap Byte} (h : Memory.wf m = true) :
    Memory.wf (l.foldl (fun m e => memSet m (k e) (v e)) m) = true := by
  induction l generalizing m with
  | nil => exact h
  | cons e t ih => exact ih (memSet_wf h _ _)

/-! ### Every operation on memory -/

theorem State.writeByte_wf {s : State} (h : Memory.wf s.mem = true) (k : Nat) (b : Byte) :
    Memory.wf (s.writeByte k b).mem = true := memSet_wf h k b

theorem State.writeBytes_wf {s : State} (h : Memory.wf s.mem = true) (k : Nat) (bs : List Byte) :
    Memory.wf (s.writeBytes k bs).mem = true := Memory.wf_foldl bs.zipIdx (fun e => k + e.2) (fun e => e.1) h

theorem State.putBytes_wf {s : State} (h : Memory.wf s.mem = true) (b obj : Nat) (bytes : NMap Byte) :
    Memory.wf (s.putBytes b obj bytes).mem = true := Memory.wf_foldl bytes (fun e => memKey b obj e.1) (fun e => e.2) h

theorem State.scrubExt_wf {s : State} (h : Memory.wf s.mem = true) (k : Nat) : Memory.wf (s.scrubExt k).mem = true :=
  Memory.wf_filter h _

theorem State.forget_wf {s : State} (h : Memory.wf s.mem = true) (b : Nat) : Memory.wf (s.forget b).mem = true :=
  Memory.wf_filter h _

/-- The states of blocks are no bytes of memory. -/
theorem State.storeBlocks_mem (s : State) (b obj n : Nat) : (s.storeBlocks b obj n).mem = s.mem := by
  have key : ∀ (l : List Nat) (k : State → Nat → Nat) (x : State → Nat → Block) (s : State),
      (l.foldl (fun s i => s.setBlock (k s i) (x s i)) s).mem = s.mem := by
    intro l k x
    induction l with
    | nil => exact fun _ => rfl
    | cons a t ih => exact fun s => ih _
  exact key _ (fun _ i => blockKey b obj (16 * i)) (fun s i => { s.block (blockKey b obj (16 * i)) with
    comp := blockState (s.readBytes (memKey b obj (2048 * i)) 2048) }) s

theorem State.configBytes_wf {s : State} (h : Memory.wf s.mem = true) (b : Nat) : Memory.wf (s.configBytes b).mem = true := by
  have key : ∀ (l : List Nat) (f g : State → Nat → _) (s : State), Memory.wf s.mem = true →
      Memory.wf (l.foldl (fun s k => s.writeBytes (f s k) (g s k)) s).mem = true := by
    intro l f g
    induction l with
    | nil => exact fun _ h => h
    | cons a t ih => exact fun s h => ih _ (State.writeBytes_wf h _ _)
  rw [State.configBytes, State.storeBlocks_mem]
  exact key _ (fun _ k => memKey b 16383 (0x100 + 8 * k)) (fun s k => natBytes 8 (s.bucketWord b k)) _
    (State.writeBytes_wf h _ _)

theorem State.loadImage_wf {s : State} (h : Memory.wf s.mem = true) (im : Image) : Memory.wf (s.loadImage im).mem = true :=
  State.configBytes_wf (Memory.wf_foldl im.mem (fun e => im.target * 2 ^ 54 + e.1) (fun e => e.2) h) _

theorem State.reset_wf : Memory.wf State.reset.mem = true := rfl

end Sys2Proof.Machine
end

