-- ==== Sys2Proof/Machine/SaveArea.lean ====
section
/-! DEFINITION. The bytes of a halted group's save area and of a time-sliced basin's context area (R52, R53, R207, R214, R255), and of replay packets (R258), computed
from what State holds: the contents have one home, and this is the second view of them. -/

namespace Sys2Proof.Machine

/-- A stretch of an area: its offset and its bytes, lowest first. -/
abbrev Stretch := Nat × List Byte

/-- A word at an offset (R52: little-endian). -/
def atWord (ofs : Nat) (x : Nat) : Stretch := (ofs, natBytes 4 x)

/-- Words one after the other. -/
def atWords (ofs : Nat) (xs : List Nat) : Stretch := (ofs, xs.flatMap (natBytes 4))

/-- A vector register, lane L at + 4L (R52). -/
def laneBytes (x : Lanes) : List Byte := (List.range 32).flatMap (fun l => natBytes 4 (Lanes.at x l).toNat)

/-- A heading's components, component 8L + j at 16L + 2j, and its norm entries, entry t at 2t (R207). -/
def Heading.dirBytes (h : Heading) : List Byte := (List.range 256).flatMap (fun c => natBytes 2 (h.dir.getD c 0#16).toNat)
def Heading.normBytes (h : Heading) : List Byte := (List.range 16).flatMap (fun t => natBytes 2 (h.norm.getD t 0#16).toNat)

/-- The trap frame, from its first offset (R53): the rejoin words of an empty stack hold zeros. -/
def Frame.stretches (f : Frame) (base : Nat) : List Stretch :=
  (List.range 8).map (fun i => (base + 128 * i, laneBytes (NMap.getD f.v (120 + i) Lanes.zero)))
    ++ [atWords (base + 0x400) ((List.range 8).map (fun i => (NMap.getD f.s (56 + i) 0#32).toNat)),
        atWords (base + 0x420) ((List.range 7).map (fun i => (NMap.getD f.p i 0#32).toNat)),
        atWord (base + 0x440) f.em.toNat, atWord (base + 0x444) f.part.toNat]
    ++ (match f.top with
      | some e => [atWords (base + 0x448) [e.mask.toNat, e.pending.toNat + 256 * f.depth, e.addr]]
      | none => [])

/-- The save area of a group (R52): what no stretch covers is reserved and 0. Rejoin entry 0 is the oldest (log 77). -/
def Group.saveArea (g : Group) : List Stretch :=
  let h0 := 0x980 + (g.vgran + 1) * 1024
  [atWords 0 [g.pc, g.em.toNat, g.part.toNat], (0xC, natBytes 16 g.landrec.toNat), atWord 0x1C g.status.toNat,
   atWords 0x20 ([Path.ld, .st, .cst, .smp, .dsc, .cpy].map g.counter), atWords 0x38 [g.jetCount.toNat, g.powerWait.toNat],
   atWords 0x40 [g.ageCount, g.ageSteps],
   atWord 0x48 (g.handler.toNat + 256 * g.stack.length + 65536 * g.ofence.toNat),
   atWord 0x4C (match g.loop with
     | some lp => 2 ^ 31 + lp.m % 2 ^ 18
     | none => g.loopM % 2 ^ 18),
   atWords 0x100 ((List.range 64).map (fun i => (g.getS i).toNat)), atWords 0x200 ((List.range 7).map (fun i => (g.getP i).toNat))]
    ++ (g.stack.reverse.zipIdx).map (fun e => atWords (0x220 + 16 * e.2) [e.1.mask.toNat, e.1.pending.toNat, e.1.addr])
    ++ (List.range 8).map (fun i => (0x320 + 32 * i, natBytes 32 (g.getT i).toNat))
    ++ [atWords 0x420 (g.fwd.map (fun w => w.toNat)), atWords 0x470 (g.ret.map (fun w => w.toNat)),
        atWord 0x490 (g.fwd.length % 32 + 256 * (g.ret.length % 16))]
    ++ (match g.frame with
      | some f => f.stretches 0x500
      | none => [])
    ++ (List.range (8 * (g.vgran + 1))).map (fun n => (0x980 + 128 * n, laneBytes (g.getV n)))
    ++ (List.range (4 * g.hgran)).map (fun n => (h0 + 512 * n, (g.getH n).dirBytes))
    ++ (List.range (4 * g.hgran)).map (fun n => (h0 + 2048 * g.hgran + 32 * n, (g.getH n).normBytes))
    ++ (if g.handler && g.vgran != 15 then (List.range 8).map (fun i => (0x7000 + 128 * i, laneBytes (g.getV (120 + i)))) else [])

/-! ### Replay packets (R258) -/

/-- The destination register of a request, and the version destination of `LDV`. -/
def ReqKind.dst (k : ReqKind) : Nat :=
  match k with
  | .load _ _ d _ _ _ _ => d
  | .smpl d _ _ _ => d
  | .ldv _ d _ _ => d
  | .atom _ _ d _ => d.getD 0
  | .casv _ d _ _ => d
  | .descent w => w.dst
  | .valset w => w.d
  | .store .. | .merge .. | .copyWrite .. | .signal .. | .dep .. | .promote .. | .fetch | .probe .. => 0

def ReqKind.vdst (k : ReqKind) : Nat :=
  match k with
  | .ldv _ _ v _ => v
  | _ => 0

/-- The first 64 bytes of a packet; SEQ is the request's number, which rises in the order of issue. KIND and SIZE are those of its lowest
lane's access. -/
def Req.packetHead (r : Req) (id : Nat) : List Byte :=
  let acc := (r.v122At false ((maskLanes r.mask).headD 0)).toNat
  let dsc := match r.kind with
    | .descent w => w.words.length % 32 * 2 ^ 82 + w.vals.length % 64 * 2 ^ 87 + w.vecs.length % 8 * 2 ^ 93 + w.pc % 2 ^ 32 * 2 ^ 96
    | _ => 0
  let bofs := r.laneOfs.foldl (fun n e => n + e.2 % 128 * 2 ^ (192 + 7 * e.1)) 0
  natBytes 64 (dsc + id % 2 ^ 32 * 2 ^ 128 + r.scope % 8 * 2 ^ 162 + r.ord % 8 * 2 ^ 165 + r.landing % 8 * 2 ^ 168
    + r.kind.vdst % 128 * 2 ^ 171 + r.kind.dst % 128 * 2 ^ 178 + acc / 16 % 8 * 2 ^ 185 + acc % 16 * 2 ^ 188 + bofs
    + r.mask.toNat * 2 ^ 416 + (mkCap r.dev r.obj (128 * r.line)).toNat * 2 ^ 448)

/-- The 704 bytes behind the packet of a descent group: captured vector registers, captured values, instruction words. The model makes
one request for each lane, so that the other lanes of the register slots hold 0 (log 77). -/
def Descent.parts (w : Descent) : List Byte :=
  let words (n : Nat) (xs : List Word) : List Byte := (List.range n).flatMap (fun i => natBytes 4 (xs.getD i 0#32).toNat)
  (List.range 4).flatMap (fun i => laneBytes (lanesOf (fun l => if l = w.lane then w.vecs.getD i 0#32 else 0#32)))
    ++ words 32 w.vals ++ words 16 w.words

/-- A replay packet. -/
def Req.packet (r : Req) (id : Nat) : List Byte :=
  r.packetHead id ++ (match r.kind with
    | .descent w => w.parts
    | _ => [])

/-- The byte at an offset of a save area of 32 KiB: the device writes 0 where no stretch lies (R4, R255). -/
def areaByte (xs : List Stretch) (ofs : Nat) : Option Byte :=
  if ofs < 0x8000 then some ((xs.findSome? (fun x => if x.1 ≤ ofs then x.2[ofs - x.1]? else none)).getD 0#8) else none

/-- The scratchpad of a quadrant's region: each crew's bytes where the crew lies. -/
def Quad.scratchByte (x : Quad) (ofs : Nat) : Option Byte :=
  (x.crews.find? (fun c => decide (1024 * c.scrBase ≤ ofs) && decide (ofs < 1024 * (c.scrBase + c.scr)))).map (fun c =>
    NMap.getD c.sp (ofs - 1024 * c.scrBase) 0#8)

/-- The byte of a saved context at an offset of its slot's area (R255): the save areas and the scratchpad image of core c from
1 MiB × c, its replay packets one after the other, and the accumulator banks. The barrier state and the engine's stretch, whose bytes
the spec does not lay out, have no byte form here (log 77). -/
def State.contextByte (s : State) (b qs ofs : Nat) : Option Byte :=
  if ofs < 0x400000 then
    let o := ofs % 0x100000
    (s.saved.find? (fun e => e.1 == b && slotOf e.2.quad == qs && e.2.quad / 4 % 4 == ofs / 0x100000)).bind (fun e =>
      if o < 0x80000 then (NMap.get? e.2.image.groups (o / 0x8000)).bind (fun g => areaByte g.saveArea (o % 0x8000))
      else if o < 0xE0000 then e.2.image.scratchByte (o - 0x80000)
      else if 0xE1000 ≤ o ∧ o < 0xF1000 then (e.2.replay.flatMap (fun p => p.2.packet p.1))[o - 0xE1000]?
      else if 0xF1000 ≤ o then some 0#8 else none)
  else if ofs < 0x440000 then
    (s.savedEng.find? (fun e => e.1 == b && e.2.qs == qs)).map (fun e =>
      (natBytes 4 (NMap.getD e.2.image.acc ((ofs - 0x400000) / 4) 0#32).toNat).getD (ofs % 4) 0#8)
  else if 0x450000 ≤ ofs ∧ ofs < 0x480000 then
    (s.savedEng.find? (fun e => e.1 == b && e.2.qs == qs)).map (fun _ => 0#8)
  else none

end Sys2Proof.Machine
end

