-- ==== Sys2Proof/Tests/Slice0.lean ====
section
/-! SUPPORT. Tests of the model on small states: words written out from the spec's encodings, terms without an
encoding, and for each obligation a state and operands that meet its hypotheses. -/

namespace Sys2Proof.Tests

open Machine

/-! ### Words of the encoding chapter and of the entries (R57 to R75 and each entry) -/

/-- The words decode to the instruction. -/
abbrev Reads (w0 w1 : Word) (i : Instr) : Prop := decode w0 w1 = .ok i

/-- Lane single words: the printed words of R55 to R63, R284, R306, R316, R334, R368, R370, R380 and R330, and the same
layout (R58) with the opcodes of R76 for the others. -/
theorem test_decode_lane_single_integer :
    Reads 0x01010200#32 0#32 (.movLane false 1#7 (.v 2#7)) ∧
    Reads 0x02050280#32 0#32 (.iaddLane false 5#7 (.v 2#7) (.latch 0#3)) ∧
    Reads 0x0301898B#32 0#32 (.isubLane false 1#7 .laneid .tileid) ∧
    Reads 0x048102A3#32 0#32 (.imulLane true 1#7 (.v 2#7) (.imm 19#5)) ∧
    Reads 0x05030102#32 0#32 (.imulhiS32 false 3#7 (.v 1#7) (.v 2#7)) ∧
    Reads 0x06030102#32 0#32 (.imulhiN32 false 3#7 (.v 1#7) (.v 2#7)) ∧
    Reads 0x07030102#32 0#32 (.iminS32Lane false 3#7 (.v 1#7) (.v 2#7)) ∧
    Reads 0x08040488#32 0#32 (.iminN32 false 4#7 (.v 4#7) .fq) ∧
    Reads 0x09030102#32 0#32 (.imaxS32Lane false 3#7 (.v 1#7) (.v 2#7)) ∧
    Reads 0x0A030102#32 0#32 (.imaxN32 false 3#7 (.v 1#7) (.v 2#7)) := by decide

theorem test_decode_lane_single_logic :
    Reads 0x0B0D0DCA#32 0#32 (.andLane false 13#7 (.v 13#7) (.s 10#6)) ∧
    Reads 0x0C030102#32 0#32 (.orLane false 3#7 (.v 1#7) (.v 2#7)) ∧
    Reads 0x0D038BC9#32 0#32 (.xorLane false 3#7 .tileid (.s 9#6)) ∧
    Reads 0x0E038A00#32 0#32 (.notLane false 3#7 .zero) ∧
    Reads 0x0F0189A2#32 0#32 (.shlLane false 1#7 .laneid (.imm 18#5)) ∧
    Reads 0x100404C3#32 0#32 (.shrN32Lane false 4#7 (.v 4#7) (.s 3#6)) ∧
    Reads 0x11030102#32 0#32 (.shrS32Lane false 3#7 (.v 1#7) (.v 2#7)) ∧
    Reads 0x12030200#32 0#32 (.popc false 3#7 (.v 2#7)) ∧
    Reads 0x13038700#32 0#32 (.clz false 3#7 (.latch 7#3)) := by decide

theorem test_decode_lane_single_other :
    Reads 0x14030102#32 0#32 (.fadd false 3#7 (.v 1#7) (.v 2#7)) ∧
    Reads 0x15830102#32 0#32 (.fsub true 3#7 (.v 1#7) (.v 2#7)) ∧
    Reads 0x160788B1#32 0#32 (.fmul false 7#7 .fq (.fconst 1#4)) ∧
    Reads 0x17040480#32 0#32 (.fmin false 4#7 (.v 4#7) (.latch 0#3)) ∧
    Reads 0x180404B0#32 0#32 (.fmax false 4#7 (.v 4#7) (.fconst 0#4)) ∧
    Reads 0x19000400#32 0#32 (.qret (.v 4#7)) ∧
    Reads 0x1A000013#32 0#32 (.dsc true 3#4) ∧
    Reads 0x1B030900#32 0#32 (.hmov false 3#4 9#8) := by decide

/-- Lane words with the default extension word (R64), printed in R288, R309 to R320, R337, R338, R286, R365, R371,
R375, R378 and R400. -/
theorem test_decode_lane_extension :
    Reads 0x400909A3#32 0x7A510000#32 (.imad false Guard.none 9#7 (.v 9#7) (.imm 19#5) (.imm 21#5) .satS) ∧
    Reads 0x41050101#32 0x7B600000#32 (.ffma false Guard.none 5#7 (.v 1#7) (.v 1#7) (.fconst 6#4)) ∧
    Reads 0x4201CAA0#32 0x70020000#32 (.isetpLane false Guard.none 1#3 (.s 10#6) (.imm 16#5) .ltS) ∧
    Reads 0x43020405#32 0x70020000#32 (.fsetp false Guard.none 2#3 (.v 4#7) (.v 5#7) .lt) ∧
    Reads 0x44050102#32 0x700B0000#32 (.selLane false Guard.none 5#7 (.v 1#7) (.v 2#7) true 3#3) ∧
    Reads 0x450402A4#32 0x7A810000#32 (.bfe false Guard.none 4#7 (.v 2#7) (.imm 20#5) (.imm 24#5) true) ∧
    Reads 0x46050102#32 0x70000108#32 (.bfi false Guard.none 5#7 (.v 1#7) (.v 2#7) (.const 8#6 4#6)) ∧
    Reads 0x46050102#32 0x70610000#32 (.bfi false Guard.none 5#7 (.v 1#7) (.v 2#7) (.reg (.v 6#7))) ∧
    Reads 0x47060106#32 0x70041040#32 (.fcvt false Guard.none 6#7 (.v 1#7) (.v 6#7) true .rn 2#3 0#3 .e4m3 .f32) ∧
    Reads 0x48040200#32 0x70030000#32 (.frnd false Guard.none 4#7 (.v 2#7) .rm) ∧
    Reads 0x49090400#32 0x70010000#32 (.fsfu Guard.none 9#7 (.v 4#7) .rsqrt) ∧
    Reads 0x4A0C0000#32 0x00002080#32 (.moviLane false 12#7 0x2080#32) := by decide

theorem test_decode_lane_packed_and_crossing :
    Reads 0x4B030102#32 0x700A0000#32 (.padd false Guard.none 3#7 (.v 1#7) (.v 2#7) true .e4m3x4) ∧
    Reads 0x4C030102#32 0x70030000#32 (.pmul false Guard.none 3#7 (.v 1#7) (.v 2#7) false .e5m2x4) ∧
    Reads 0x4D070102#32 0x70300000#32 (.pfma false Guard.none 7#7 (.v 1#7) (.v 2#7) (.v 3#7) false .bf16x2) ∧
    Reads 0x4E030102#32 0x70010000#32 (.pmax false Guard.none 3#7 (.v 1#7) (.v 2#7) .f16x2) ∧
    Reads 0x4F030102#32 0x70040000#32 (.pmin false Guard.none 3#7 (.v 1#7) (.v 2#7) .e2m1x8) ∧
    Reads 0x500605A1#32 0x70030000#32 (.shfl Guard.none 6#7 (.v 5#7) (.imm 17#5) .bfly) ∧
    Reads 0x51060000#32 0x7002000A#32 (.vote Guard.none 6#7 .all true 2#3) ∧
    Reads 0x52050400#32 0x70020002#32 (.red Guard.none 5#7 (.v 4#7) .max .f32) := by decide

/-- Memory forms: the printed words of R69 to R71, R122, R161, R169, R171, R173, R344, R345, R383, R387 and R389. -/
theorem test_decode_lane_memory :
    Reads 0x530A0208#32 0x20000000#32 (.ld { neg := false, p := 2#3 } 10#7 (.v 2#7) (.v 8#7) .b8 .plain .normal 0#16) ∧
    Reads 0x5308048A#32 0x74480040#32 (.ld Guard.none 8#7 (.v 4#7) .zero .b32 (.acq .crew) .normal 0x40#16) ∧
    Reads 0x5408048A#32 0x74980040#32 (.st Guard.none 8#7 (.v 4#7) .zero .b32 (.rel .dev) .normal 0x40#16) ∧
    Reads 0x54050204#32 0x15000000#32 (.st { neg := false, p := 1#3 } 5#7 (.v 2#7) (.v 4#7) .b32 .post .normal 0#16) ∧
    Reads 0x55090480#32 0x70000100#32 (.ldc Guard.none 9#7 (.v 4#7) (.latch 0#3) .b8 .normal 0x100#16) ∧
    Reads 0x56100402#32 0x70310000#32 (.smpl Guard.none 16#7 (.v 4#7) (.v 2#7) (.v 3#7) true) ∧
    Reads 0x5703C28A#32 0x74000010#32 (.lds Guard.none 3#7 (.s 2#6) .zero .b32 .plain 16#16) ∧
    Reads 0x5808058A#32 0x78000000#32 (.sts Guard.none 8#7 (.v 5#7) .zero .b128 .plain 0#16) ∧
    Reads 0x5803C28A#32 0x74880008#32 (.sts Guard.none 3#7 (.s 2#6) .zero .b32 (.ordered true) 8#16) := by decide

theorem test_decode_lane_atomic :
    Reads 0x59090204#32 0x70500102#32 (.atom Guard.none 9#7 (.v 2#7) (.v 4#7) (.v 5#7) .add .plain .s32 true false 2#7) ∧
    Reads 0x5906028A#32 0x20560000#32
      (.atom { neg := false, p := 2#3 } 6#7 (.v 2#7) .zero (.v 5#7) .xchg .plain .s32 false false 0#7) ∧
    Reads 0x5A09C204#32 0x7C72CA7F#32
      (.atoms Guard.none 9#7 (.s 2#6) (.v 4#7) (.s 7#6) .max (.acqrel .crew) .n32 false false 127#7) ∧
    Reads 0x5B080409#32 0x76000040#32 (.dep Guard.none 8#7 (.v 4#7) (.v 9#7) .max .f32 0x40#16) ∧
    Reads 0x5C080206#32 0x24009000#32
      (.ldv { neg := false, p := 2#3 } 8#7 9#7 (.v 2#7) (.v 6#7) .b32 .plain 0#12) ∧
    Reads 0x5D08028A#32 0x40D00240#32
      (.casv { neg := false, p := 4#3 } 8#7 9#7 (.v 2#7) .zero (.v 13#7) false .plain 0#6) ∧
    Reads 0x5E0B0206#32 0x1090A2C0#32
      (.valset { neg := false, p := 1#3 } 11#7 (.v 2#7) (.v 6#7) (.v 9#7) (.v 10#7) false true 3#3) ∧
    Reads 0x5E0B0206#32 0x109000C0#32
      (.valset { neg := false, p := 1#3 } 11#7 (.v 2#7) (.v 6#7) (.v 9#7) (.v 0#7) false false 3#3) ∧
    Reads 0x5F000000#32 0x90000005#32 (.bra { neg := true, p := 1#3 } 5#16) := by decide

/-- Headings, loops and engines: the printed words of R195, R211, R217, R279, R327 to R332 and R351. -/
theorem test_decode_lane_engines :
    Reads 0x60010800#32 0x70000000#32 (.hcvt false Guard.none 1#4 (.v 8#7)) ∧
    Reads 0x61100400#32 0x70000000#32 (.hexp false Guard.none 16#7 4#8) ∧
    Reads 0x62060102#32 0x70000000#32 (.hdot false Guard.none 6#7 1#8 2#8) ∧
    Reads 0x63030102#32 0x70010000#32 (.hadd false Guard.none 3#4 1#8 2#8 true) ∧
    Reads 0x640401B2#32 0x70010000#32 (.hscl false Guard.none 4#4 1#8 (.fconst 2#4) true) ∧
    Reads 0x65070400#32 0x70000000#32 (.hnrm false Guard.none 7#7 4#8) ∧
    Reads 0x66030809#32 0x00004000#32 (.owfoot 3#7 [.v 8#7, .v 9#7]) ∧
    Reads 0x6700C8C9#32 0x7C414800#32 (.mma Guard.none (.s 8#6) (.s 9#6) (.s 4#6) .e4m3 .b32 .b32 false false false) ∧
    Reads 0x68080203#32 0x70020008#32 (.accld Guard.none 8#7 (.v 2#7) (.v 3#7) .x4 8#7) ∧
    Reads 0x69028A01#32 0x7000007F#32 (.accst Guard.none 2#7 .zero (.v 1#7) .x1 127#7) ∧
    Reads 0x6A030405#32 0x70010000#32 (.tcopy Guard.none 3#3 (.gather (.v 4#7) (.v 5#7))) ∧
    Reads 0x6A030000#32 0x70000000#32 (.tcopy Guard.none 3#3 .strided) := by decide

/-- Uniform single words (R73), printed in R49, R95, R284, R334, R357, R359, R370, R374, R376, R377, R380, R394 and the
entries whose whole word is given. -/
theorem test_decode_uniform_single :
    Reads 0x80000000#32 0#32 .nop ∧
    Reads 0x81014500#32 0#32 (.movUniform 1#6 (.imm 5#7)) ∧
    Reads 0x82030145#32 0#32 (.iaddUniform 3#6 (.s 1#6) (.imm 5#7)) ∧
    Reads 0x830404BF#32 0#32 (.isubUniform 4#6 (.s 4#6) (.imm 0x7F#7)) ∧
    Reads 0x84030102#32 0#32 (.imulUniform 3#6 (.s 1#6) (.s 2#6)) ∧
    Reads 0x8503034F#32 0#32 (.andUniform 3#6 (.s 3#6) (.imm 15#7)) ∧
    Reads 0x86030102#32 0#32 (.orUniform 3#6 (.s 1#6) (.s 2#6)) ∧
    Reads 0x87030102#32 0#32 (.xorUniform 3#6 (.s 1#6) (.s 2#6)) ∧
    Reads 0x88030102#32 0#32 (.shlUniform 3#6 (.s 1#6) (.s 2#6)) ∧
    Reads 0x89030102#32 0#32 (.shrN32Uniform 3#6 (.s 1#6) (.s 2#6)) ∧
    Reads 0x8A0A0A5F#32 0#32 (.shrS32Uniform 10#6 (.s 10#6) (.imm 31#7)) ∧
    Reads 0x8B030102#32 0#32 (.iminS32Uniform 3#6 (.s 1#6) (.s 2#6)) ∧
    Reads 0x8C060680#32 0#32 (.imaxS32Uniform 6#6 (.s 6#6) (.imm 0x40#7)) ∧
    Reads 0x8D000400#32 0#32 (.qsend (.s 4#6)) ∧
    Reads 0x8E060000#32 0#32 (.qtake 6#6) ∧
    Reads 0x8F045900#32 0#32 (.movs 4#6 .crew) := by decide

theorem test_decode_uniform_single_control :
    Reads 0x90000000#32 0#32 .join ∧
    Reads 0x91003E00#32 0#32 (.ret 62#8) ∧
    Reads 0x92000000#32 0#32 .exit ∧
    Reads 0x93000080#32 0#32 (.trail none) ∧
    Reads 0x930A0809#32 0#32 (.trail (some (8#7, 9#7, 10#7))) ∧
    Reads 0x9306E402#32 0#32 (.trail (some (100#7, 2#7, 70#7))) ∧
    Reads 0x93000000#32 0#32 (.trail (some (0#7, 0#7, 0#7))) ∧
    Reads 0x94000000#32 0#32 .ofence ∧
    Reads 0x95004300#32 0#32 (.pfence 3#4) ∧
    Reads 0x96000000#32 0#32 .yield ∧
    Reads 0x97000000#32 0#32 .bpt ∧
    Reads 0x98000000#32 0#32 .trapret ∧
    Reads 0x99000700#32 0#32 (.setem (.s 7#6)) ∧
    Reads 0x9900BF00#32 0#32 (.setem (.imm 0x7F#7)) ∧
    Reads 0x9A004800#32 0#32 (.setpart (.imm 8#7)) ∧
    Reads 0x9B000000#32 0#32 .mmwait ∧
    Reads 0x9C000000#32 0#32 .ownext := by decide

/-- Uniform words with an extension word (R74), printed in R75, R100, R130, R152, R157 and the entries. -/
theorem test_decode_uniform_extension :
    Reads 0xC0090000#32 0xFFFFFFFF#32 (.moviUniform 9#6 0xFFFFFFFF#32) ∧
    Reads 0xC1030140#32 0x00000002#32 (.isetpUniform 3#6 (.s 1#6) (.imm 0#7) .ltS) ∧
    Reads 0xC2050102#32 0x00000003#32 (.selUniform 5#6 (.s 1#6) (.s 2#6) (.s 3#6)) ∧
    Reads 0xC3000B00#32 0x30FFFFD4#32 (.jmp (.test .lt (.s 11#6)) 0xFFFFD4#24) ∧
    Reads 0xC43E0000#32 0x00000028#32 (.call 62#6 .always 0x28#24) ∧
    Reads 0xC43E0500#32 0x20000028#32 (.call 62#6 (.test .nz (.s 5#6)) 0x28#24) ∧
    Reads 0xC5000000#32 0x00000006#32 (.mark 6#24) ∧
    Reads 0xC6000000#32 0x23000000#32 (.fence (.rel .dev)) ∧
    Reads 0xC6000000#32 0x52000000#32 (.fence (.acqRemote false)) ∧
    Reads 0xC7004400#32 0x00000101#32 (.bar true 1#5 (.imm 4#7)) ∧
    Reads 0xC7000300#32 0x00000011#32 (.bar false 17#5 (.s 3#6)) ∧
    Reads 0xC8050200#32 0x00010010#32 (.gate (.sync 5#6) (.s 2#6) 16#16) ∧
    Reads 0xC8050200#32 0x00000010#32 (.gate (.arrive 5#6) (.s 2#6) 16#16) ∧
    Reads 0xC8000203#32 0x00020000#32 (.gate (.wait (.s 3#6)) (.s 2#6) 0#16) ∧
    Reads 0xC800027F#32 0x0003FFF8#32 (.gate (.expect (.imm 63#7)) (.s 2#6) 0xFFF8#16) ∧
    Reads 0xC9000400#32 0x00000004#32 (.waitc .dsc (.s 4#6)) := by decide

theorem test_decode_uniform_extension_memory :
    Reads 0xCA0A0240#32 0x60000008#32 (.ldu 10#6 2#8 (.imm 0#7) true .plain 8#20) ∧
    Reads 0xCB080240#32 0x40000020#32 (.stu 8#6 2#8 (.imm 0#7) false .plain 0x20#20) ∧
    Reads 0xCC045000#32 0#32 (.acqb 4#6 (.imm 16#7)) ∧
    Reads 0xCD000450#32 0#32 (.relb (.s 4#6) (.imm 16#7)) ∧
    Reads 0xCE0C0400#32 0#32 (.launch 12#6 4#8) ∧
    Reads 0xCF000441#32 0x00000001#32 (.signal true 4#8 (.imm 1#7)) ∧
    Reads 0xD008040A#32 0x00000020#32 (.coll 8#6 4#8 (.s 10#6) .add .f32) ∧
    Reads 0xD1000000#32 0x0000002A#32 (.trap 0x2A#16) ∧
    Reads 0xD2140200#32 0x00000001#32 (.fwcall 20#6 2#8 1#8) ∧
    Reads 0xD3004000#32 0x00000010#32 (.mtsr .status (.imm 0#7)) ∧
    Reads 0xD43C3A00#32 0#32 (.extmap 60#6 58#8 0#32) ∧
    Reads 0xD5080460#32 0#32 (.owbegin 8#6 4#8 (.imm 32#7) .g4) ∧
    Reads 0xD6030000#32 0#32 (.tstore 3#3) ∧
    Reads 0xD706040A#32 0x80000003#32 (.copy 6#6 4#8 (.s 10#6) (some 3#15)) ∧
    Reads 0xD8020600#32 0x00000040#32 (.tld 2#3 6#8 0x40#32) := by decide

/-- The words decode to no instruction. -/
abbrev Refused (w0 w1 : Word) : Prop := (decode w0 w1).toOption = none

/-- Words of R78 that are no instructions: the zero word, a reserved opcode of each table, a reserved lane selector, a
reserved uniform selector, a uniform DST of 64, bit 23 of a uniform word, a predicate DST above 7, N = 1 on a class V
instruction, an M value without a meaning, a reserved SIZE, an ordering outside R71, a reserved COND, SELB of NOT, and
NONE with a register name in TRAIL. -/
theorem test_decode_refuses_first :
    Refused 0x00000000#32 0#32 ∧
    Refused 0x1C000000#32 0#32 ∧
    Refused 0x6B000000#32 0x70000000#32 ∧
    Refused 0x9D000000#32 0#32 ∧
    Refused 0xD9000000#32 0#32 ∧
    Refused 0x02058C80#32 0#32 ∧
    Refused 0x820301C0#32 0#32 ∧
    Refused 0x82430145#32 0#32 ∧
    Refused 0x82830145#32 0#32 := by decide

theorem test_decode_refuses_second :
    Refused 0x42090406#32 0x70020000#32 ∧
    Refused 0x508605A1#32 0x70030000#32 ∧
    Refused 0x400909A3#32 0x7A530000#32 ∧
    Refused 0x530A0208#32 0x7A000000#32 ∧
    Refused 0x530A0208#32 0x74800000#32 ∧
    Refused 0xC3000700#32 0x70FFFFF4#32 ∧
    Refused 0x0E030102#32 0#32 ∧
    Refused 0x93000081#32 0#32 := by decide

/-- The length of a word is given by its X bit (R57). -/
theorem test_word_length : wordLen 0x80000000#32 = 4 ∧ wordLen 0xC0090000#32 = 8 := by decide

/-- Terms without an encoding, one for each check of `WellFormed`. -/
theorem test_ill_formed_lane :
    ∀ i ∈ ([.dsc false 1#4, .dsc true 9#4,
      .fcvt false Guard.none 1#7 (.v 2#7) (.v 0#7) false .rn 0#3 0#3 .s32 .n32,
      .fcvt false Guard.none 1#7 (.v 2#7) (.v 0#7) true .rn 0#3 0#3 .f16 .f32,
      .fcvt false Guard.none 1#7 (.v 2#7) (.v 0#7) false .rn 0#3 1#3 .f16 .f32,
      .fcvt false Guard.none 1#7 (.v 2#7) (.v 0#7) false .rn 4#3 0#3 .e4m3 .f32,
      .fcvt false Guard.none 1#7 (.v 2#7) (.v 3#7) false .rn 0#3 0#3 .s32 .f32,
      .padd false Guard.none 1#7 (.v 2#7) (.v 3#7) true .bf16x2, .pmul false Guard.none 1#7 (.v 2#7) (.v 3#7) true .e2m1x8,
      .pfma false Guard.none 1#7 (.v 2#7) (.v 3#7) (.v 4#7) true .f16x2,
      .red Guard.none 1#7 (.v 2#7) .xor .f32] : List Instr), WellFormed i = false := by decide

theorem test_ill_formed_memory :
    ∀ i ∈ ([.atom Guard.none 1#7 (.v 2#7) (.v 4#7) (.v 5#7) .add .plain .s32 false true 0#7,
      .atom Guard.none 0#7 (.v 2#7) (.v 4#7) (.v 5#7) .cas .plain .s32 false true 0#7,
      .atom Guard.none 1#7 (.v 2#7) (.v 4#7) (.v 5#7) .and .plain .f32 false false 0#7,
      .atom Guard.none 1#7 (.v 2#7) (.v 4#7) (.v 5#7) .xchg .plain .s32 true false 0#7,
      .atom Guard.none 1#7 (.v 2#7) (.v 4#7) (.v 5#7) .add .plain .f32 true false 0#7,
      .atoms Guard.none 1#7 (.v 2#7) (.v 4#7) (.v 5#7) .add (.acq .dev) .s32 false false 0#7,
      .ldv Guard.none 1#7 2#7 (.v 4#7) (.v 6#7) .b16 .plain 0#12, .ldv Guard.none 1#7 2#7 (.v 4#7) (.v 6#7) .b32 (.acqRemote true) 0#12,
      .valset Guard.none 1#7 (.v 2#7) (.v 4#7) (.v 5#7) (.v 6#7) false false 0#3,
      .valset Guard.none 1#7 (.v 2#7) (.v 4#7) (.v 5#7) (.v 0#7) true false 0#3,
      .owfoot 1#7 [.zero, .zero, .zero, .zero, .zero],
      .mma Guard.none (.s 0#6) (.s 1#6) (.s 2#6) .s8 .b16 .none false false false,
      .mma Guard.none (.s 0#6) (.s 1#6) (.s 2#6) .f16 .none .none true false false,
      .mma Guard.none (.s 0#6) (.s 1#6) (.s 2#6) .f16 .none .none false true false] : List Instr), WellFormed i = false := by decide

theorem test_ill_formed_uniform :
    ∀ i ∈ ([.pfence 0#4, .bar true 24#5 (.imm 4#7), .ldu 1#6 2#8 (.imm 0#7) true .plain 0#20,
      .ldu 2#6 2#8 (.imm 0#7) false (.acqRemote false) 0#20, .stu 1#6 2#8 (.imm 0#7) true .plain 0#20,
      .stu 2#6 2#8 (.imm 0#7) false .post 0#20, .coll 0#6 2#8 (.imm 8#7) .or .f32] : List Instr), WellFormed i = false := by decide

/-! ### Small states -/

/-- One group on quadrant 0, slot 0, at the first instruction of a jet, in a basin with its code object. -/
def lab : State := State.reset.loaded []

/-- Its group. -/
def labG : Group := { Group.start 0 0#32 loadRec 0 0 0 0 with jet := some (Jet.fresh 0) }

/-- The same state with the group changed. -/
def labAt (g : Group) : State := lab.setGroup 0 0 g

/-- The group at the last position that is not a `TRAIL`'s, with a latch and a queue entry to read. -/
def labLast : Group := { labG with fwd := [7#32], jet := some { Jet.fresh 0 with pos := 22, latches := [.lane Lanes.zero] } }

/-- The basin of the state changed. -/
def onBasin (s : State) (f : Basin → Basin) : State := s.modBasin 0 f

/-- Code words at offset 0 of the group's code object. -/
def coded (ws : List Word) (g : Group) : State :=
  (State.reset.loaded (ws.flatMap (fun w => natBytes 4 w.toNat))).setGroup 0 0 g

/-! ### Witnesses: a state and operands that meet the hypotheses of each obligation -/

theorem witness_lab : lab.group? 0 0 = some labG ∧ lab.cur = (0, 0) := by decide

theorem witness_LaneIntegerArithmeticRuns :
    labLast.vOk 127 = true ∧ selOk labLast .fq = true ∧ selOk labLast (.latch 0#3) = true ∧
    ∀ i ∈ ([.iaddLane false 127#7 .fq (.latch 0#3), .isubLane true 127#7 .fq (.latch 0#3), .imulLane false 127#7 .fq (.latch 0#3),
      .imulhiS32 false 127#7 .fq (.latch 0#3), .imulhiN32 false 127#7 .fq (.latch 0#3), .iminS32Lane false 127#7 .fq (.latch 0#3),
      .iminN32 false 127#7 .fq (.latch 0#3), .imaxS32Lane false 127#7 .fq (.latch 0#3), .imaxN32 false 127#7 .fq (.latch 0#3)] : List Instr),
      Issues (labAt labLast) i labLast := by decide

theorem witness_LaneLogicAndShiftsRun :
    labLast.vOk 0 = true ∧ selOk labLast .zero = true ∧ selOk labLast (.v 127#7) = true ∧
    ∀ i ∈ ([.andLane false 0#7 .zero (.v 127#7), .orLane false 0#7 .zero (.v 127#7), .xorLane false 0#7 .zero (.v 127#7),
      .shlLane false 0#7 .zero (.v 127#7), .shrN32Lane false 0#7 .zero (.v 127#7), .shrS32Lane false 0#7 .zero (.v 127#7),
      .notLane false 0#7 .zero, .movLane false 0#7 .zero, .popc false 0#7 .zero, .clz false 0#7 .zero, .moviLane false 0#7 0#32] : List Instr),
      Issues (labAt labLast) i labLast := by decide

theorem witness_BitFieldExtractFollowsItsFormula :
    Issues (labAt labLast) (.bfe false { neg := true, p := 7#3 } 1#7 .laneid (.imm 31#5) (.s 63#6) true) labLast ∧
    labLast.vOk 1 = true ∧ selOk labLast .laneid = true ∧ selOk labLast (.imm 31#5) = true ∧ selOk labLast (.s 63#6) = true := by decide

theorem witness_BitFieldInsertFollowsItsFormula :
    labLast.vOk 1 = true ∧ selOk labLast .tileid = true ∧ selOk labLast (.fconst 15#4) = true ∧ selOk labLast (.v 0#7) = true ∧
    Issues (labAt labLast) (.bfi false Guard.none 1#7 .tileid (.fconst 15#4) (.const 63#6 63#6)) labLast ∧
    Issues (labAt labLast) (.bfi false Guard.none 1#7 .tileid (.fconst 15#4) (.reg (.v 0#7))) labLast := by decide

theorem witness_MultiplyAddAndSelectRun :
    labLast.vOk 127 = true ∧ selOk labLast .fq = true ∧ selOk labLast (.v 1#7) = true ∧ selOk labLast (.s 0#6) = true ∧
    ∀ i ∈ ([.imad false Guard.none 127#7 .fq (.v 1#7) (.s 0#6) .wrap, .imad false Guard.none 127#7 .fq (.v 1#7) (.s 0#6) .satS,
      .imad false Guard.none 127#7 .fq (.v 1#7) (.s 0#6) .satN, .selLane false Guard.none 127#7 .fq (.v 1#7) true 7#3] : List Instr),
      Issues (labAt labLast) i labLast := by decide

theorem witness_ComparisonsWritePredicates :
    selOk labLast .fq = true ∧ selOk labLast (.latch 0#3) = true ∧
    Issues (labAt labLast) (.isetpLane false Guard.none 7#3 .fq (.latch 0#3) .geN) labLast ∧
    Issues (labAt labLast) (.fsetp false Guard.none 6#3 .fq (.latch 0#3) .geu) labLast := by decide

theorem witness_UniformIntegerRuns :
    ∀ i ∈ ([.iaddUniform 63#6 (.s 0#6) (.imm 64#7), .isubUniform 63#6 (.s 0#6) (.imm 64#7), .imulUniform 63#6 (.s 0#6) (.imm 64#7),
      .andUniform 63#6 (.s 0#6) (.imm 64#7), .orUniform 63#6 (.s 0#6) (.imm 64#7), .xorUniform 63#6 (.s 0#6) (.imm 64#7),
      .shlUniform 63#6 (.s 0#6) (.imm 64#7), .shrN32Uniform 63#6 (.s 0#6) (.imm 64#7), .shrS32Uniform 63#6 (.s 0#6) (.imm 64#7),
      .iminS32Uniform 63#6 (.s 0#6) (.imm 64#7), .imaxS32Uniform 63#6 (.s 0#6) (.imm 64#7), .movUniform 63#6 (.s 0#6),
      .moviUniform 63#6 0#32, .isetpUniform 63#6 (.s 0#6) (.imm 64#7) .eq, .selUniform 63#6 (.s 0#6) (.imm 64#7) (.s 1#6)] : List Instr),
      Issues (labAt labLast) i labLast := by decide

theorem witness_FloatLaneInstructionsRun :
    labLast.vOk 127 = true ∧ selOk labLast .fq = true ∧ selOk labLast (.v 1#7) = true ∧ selOk labLast (.fconst 2#4) = true ∧
    ∀ i ∈ ([.fadd false 127#7 .fq (.v 1#7), .fsub false 127#7 .fq (.v 1#7), .fmul false 127#7 .fq (.v 1#7), .fmin false 127#7 .fq (.v 1#7),
      .fmax false 127#7 .fq (.v 1#7), .ffma false Guard.none 127#7 .fq (.v 1#7) (.fconst 2#4), .frnd false Guard.none 127#7 .fq .rm] : List Instr),
      Issues (labAt labLast) i labLast := by decide

/-- The NaN clauses of the same statement: 0x7F800001 and 0xFFFFFFFF are NaNs, infinity is none. -/
theorem witness_FloatLaneInstructionsRun_nan :
    (0x7F800001#32).toNat / 2 ^ 23 % 256 = 255 ∧ (0x7F800001#32).toNat % 2 ^ 23 ≠ 0 ∧
    (0xFFFFFFFF#32).toNat / 2 ^ 23 % 256 = 255 ∧ (0xFFFFFFFF#32).toNat % 2 ^ 23 ≠ 0 ∧
    ¬ ((0x7F800000#32).toNat / 2 ^ 23 % 256 = 255 ∧ (0x7F800000#32).toNat % 2 ^ 23 ≠ 0) := by decide

theorem witness_ConversionsAndPackedOperationsRun :
    labLast.vOk 5 = true ∧ selOk labLast .fq = true ∧ selOk labLast (.v 1#7) = true ∧ selOk labLast .zero = true ∧
    CvtFmt.e2m1.width < 32 ∧ CvtFmt.f32.width = 32 ∧
    ∀ i ∈ ([.fcvt false Guard.none 5#7 .fq (.v 1#7) false .rz 7#3 0#3 .e2m1 .f32, .fcvt false Guard.none 5#7 .fq (.v 0#7) false .rz 0#3 1#3 .f32 .f16,
      .padd false Guard.none 5#7 .fq (.v 1#7) true .e4m3x4, .pmul false Guard.none 5#7 .fq (.v 1#7) false .bf16x2,
      .pfma false Guard.none 5#7 .fq (.v 1#7) .zero false .f16x2, .pmax false Guard.none 5#7 .fq (.v 1#7) .e2m1x8,
      .pmin false Guard.none 5#7 .fq (.v 1#7) .e5m2x4] : List Instr), Issues (labAt labLast) i labLast := by decide

/-- The clauses on sub-elements and on the bits that a narrow result keeps, at the last sub-element. -/
theorem witness_ConversionsAndPackedOperationsRun_parts :
    (0xF2345678#32).toNat / 2 ^ ((packFF .e2m1x8).width * 7) % 2 ^ (packFF .e2m1x8).width =
      (0xFABCDEF0#32).toNat / 2 ^ ((packFF .e2m1x8).width * 7) % 2 ^ (packFF .e2m1x8).width ∧
    CvtFmt.e2m1.width < 32 ∧ 7 < 32 / CvtFmt.e2m1.width ∧ ¬ (CvtFmt.e2m1.width * 7 ≤ 27 ∧ 27 < CvtFmt.e2m1.width * 8) := by decide

/-- Finite operands: the greatest finite value and the least subnormal. -/
theorem witness_FloatSumsAndProductsRoundToNearest :
    (0x7F7FFFFF#32).toNat / 2 ^ 23 % 256 ≠ 255 ∧ (0x80000001#32).toNat / 2 ^ 23 % 256 ≠ 255 ∧
    (faddW 0x7F7FFFFF#32 0x80000001#32).1.toNat / 2 ^ 23 % 256 ≠ 255 := by decide +kernel

theorem witness_ControlFlowInstructionsRun_jumps :
    let g := { labLast with pc := 12 }
    ((0 : Nat) : Int) = (g.pc : Int) + 4 * (0xFFFFFD#24).toInt ∧ Issues (labAt g) .nop g ∧
    Issues (labAt g) (.jmp (.test .lt (.imm 0x7F#7)) 0xFFFFFD#24) g ∧ Issues (labAt g) (.call 63#6 .always 0xFFFFFD#24) g ∧
    Issues (labAt g) (.ret 0x3F#8) g ∧ (0x3F#8).toNat < 0x40 ∧ Issues (labAt g) (.ret 0x40#8) g ∧ 0x40 ≤ (0x40#8).toNat := by decide

/-- A rejoin stack of n entries. -/
def stackOf (n : Nat) : List Rejoin := (List.range n).map (fun k => { pending := k % 2 == 1, mask := BitVec.ofNat 32 k, addr := 4 * k })

theorem witness_ControlFlowInstructionsRun_mark :
    let a := { labG with pc := 8, stack := stackOf 15 }
    let b := { labG with pc := 8, stack := stackOf 16 }
    ((0 : Nat) : Int) = (a.pc : Int) + 4 * (0xFFFFFE#24).toInt ∧ Issues (labAt a) (.mark 0xFFFFFE#24) a ∧ a.stack.length < 16 ∧
    Issues (labAt b) (.mark 0xFFFFFE#24) b ∧ b.stack.length = 16 := by decide

/-- In a handler entered at depth 1: at depth 2 a pop is allowed, at depth 1 it is not; outside, depth 0 is the floor. -/
theorem witness_ControlFlowInstructionsRun_join :
    let floor := fun (g : Group) => if g.handler then (g.frame.map (fun x => x.depth)).getD 0 else 0
    let h := { labLast with handler := true, frame := some ({ labG with stack := stackOf 1 }.saveFrame 0), stack := stackOf 2 }
    let k := { h with stack := stackOf 1 }
    Issues (labAt h) .join h ∧ h.stack = { pending := false, mask := 0#32, addr := 0 } :: [{ pending := true, mask := 1#32, addr := 4 }] ∧ floor h < h.stack.length ∧
    Issues (labAt k) .join k ∧ k.stack.length ≤ floor k ∧ Issues (labAt labLast) .join labLast ∧ labLast.stack.length ≤ floor labLast := by decide

/-- A branch over one word: without a `TRAIL` after it, and with one, for T empty, full, and split at depths 15 and 16. -/
theorem witness_ControlFlowInstructionsRun_branch :
    let ws : List Word := [0x5F000000#32, 0x70000001#32, 0x93000080#32]
    let no : Guard := { neg := true, p := 7#3 }
    let some_ : Guard := { neg := false, p := 0#3 }
    let g := { labG with stack := stackOf 15, p := [(0, 0x80000000#32)] }
    let h := { g with stack := stackOf 16 }
    let s := coded ws g
    let t := coded ws h
    ((4 : Nat) : Int) = (g.pc : Int) + 4 * (1#16).toInt ∧ Issues (labAt g) (.bra Guard.none 1#16) g ∧ (labAt g).trailAt g (g.pc + 8) = false ∧
    Issues s (.bra no 1#16) g ∧ s.trailAt g (g.pc + 8) = true ∧ guardMask g no = 0#32 ∧
    Issues s (.bra Guard.none 1#16) g ∧ guardMask g Guard.none ≠ 0#32 ∧ g.em &&& ~~~(guardMask g Guard.none) = 0#32 ∧
    Issues s (.bra some_ 1#16) g ∧ guardMask g some_ ≠ 0#32 ∧ g.em &&& ~~~(guardMask g some_) ≠ 0#32 ∧ g.stack.length < 16 ∧
    Issues t (.bra some_ 1#16) h ∧ t.trailAt h (h.pc + 8) = true ∧ h.em &&& ~~~(guardMask h some_) ≠ 0#32 ∧ h.stack.length = 16 := by decide

theorem witness_TrailEndsTheJet :
    let l : Late := { ix := 0, id := 0, dest := Dest.new 7 1#32, x := Lanes.zero }
    let j := { Jet.fresh 0 with pos := 23, pend := [.v 7 1#32 Lanes.zero, .p 6 2#32 3#32], late := [l] }
    let g := { labLast with jet := some j }
    (labAt g).group? (labAt g).cur.1 (labAt g).cur.2 = some g ∧ g.jetOr.plan.map Prod.fst ≠ some g.jetOr.pos := by decide

theorem witness_MaskPartitionAndSpecialsRun :
    Issues (labAt labG) (.setem (.imm 0x7F#7)) labG ∧ (uAt labG (.imm 32#7)).toNat = 2 ^ 5 ∧ Issues (labAt labG) (.setpart (.imm 32#7)) labG ∧
    Issues (labAt labG) (.setpart (.imm 1#7)) labG ∧ Issues (labAt labG) (.movs 63#6 .cycLo) labG ∧
    ∀ r ∈ [SReg.status, .powerWait, .jetCount, .em], Issues (labAt labG) (.mtsr r (.imm 0x7F#7)) labG := by decide

theorem witness_MaskPartitionAndSpecialsRun_other : ∀ k, 1 ≤ k → k ≤ 5 → (uAt labG (.imm 1#7)).toNat ≠ 2 ^ k := by
  intro k h1 h5
  interval_cases k <;> decide

theorem witness_QueuesAndProbeTokensRun :
    let g := { labLast with ret := [1#32, 2#32], em := 0x80000000#32 }
    let z := { g with em := 0#32, fwd := [] }
    Issues (labAt g) (.qsend (.s 0#6)) g ∧ Issues (labAt g) (.qtake 63#6) g ∧ g.ret = 1#32 :: [2#32] ∧
    Issues (labAt labLast) (.qtake 63#6) labLast ∧ labLast.ret = [] ∧ Issues (labAt g) (.qret .fq) g ∧ selOk g .fq = true ∧
    g.em.getLsbD 31 = true ∧ (∀ k, k < 31 → g.em.getLsbD k = false) ∧ Issues (labAt z) (.qret .zero) z ∧ selOk z .zero = true ∧
    z.em = 0#32 ∧ Issues (labAt z) (.qret .fq) z ∧ selOk z .fq = false := by decide

/-- A group whose next jet, `QSEND` and `TRAIL`, has found a full queue for 256 cycles; with its token out or not. -/
def blockedPush (tokens : List ProbeToken) : State :=
  let g := { labG with fwd := List.replicate 16 0#32, jet := none, blockedSince := some 0 }
  { (coded [0x8D000000#32, 0x93000080#32] g).modQuad 0 (fun x => { x with issuing := none, cycle := 256 }) with probes := tokens }

theorem witness_QueuesAndProbeTokensRun_token :
    let k : ProbeToken := { origin := .forward 0 0, at_ := .forward 0 0 }
    let s := blockedPush []
    let t := blockedPush [k]
    s.probes.any (fun t => t.origin == .forward 0 0) = false ∧ s.reserveTaken (.forward 0 0) = false ∧ s.pushBlocked (.forward 0 0) = true ∧
    t.probes[0]? = some k ∧ k.origin = .forward 0 0 ∧ ({ t with probes := t.probes.eraseIdx 0 } : State).fwdBlocked 0 0 = true ∧
    ({ lab with probes := [k] } : State).probes[0]? = some k ∧ ({ lab with probes := [] } : State).fwdBlocked 0 0 = false ∧
    (blockedPush [{ k with origin := .descent 0 }]).probes[0]? = some { k with origin := .descent 0 } ∧ s.pushBlocked (.descent 0) = false := by decide

theorem witness_TrapsEnterTheHandlerOrEndTheLaunch :
    let s := onBasin (labAt labG) (fun b => { b with handler := some (mkCap devHere 1 64) })
    let h := { labG with handler := true }
    labG.handler = false ∧ (s.basin labG.basin).handler = some (mkCap devHere 1 64) ∧ Issues s (.trap 0xFFFF#16) labG ∧ Issues s .bpt labG ∧
    labG.vgran = 15 ∧ Issues (labAt labG) (.trap 0#16) labG ∧ ((labAt labG).basin labG.basin).handler = none ∧
    Issues (labAt h) (.trap 0#16) h ∧ h.handler = true := by decide

/-- An order of earlier accesses that is not met. -/
def anOrder : Order := { id := 0, waits := [0], wide := false, hosts := false, promote := false, inv := false }

theorem witness_TrapReturnRestoresTheFrame :
    let e := { labG with stack := stackOf 1 }
    let g := { labG with handler := true, frame := some { e.saveFrame 5 with orders := [anOrder], relReads := [3] }, stack := stackOf 3 }
    Issues (labAt g) .trapret g ∧ g.handler = true ∧ g.frame = some { e.saveFrame 5 with orders := [anOrder], relReads := [3] } ∧ e.stack.length ≤ g.stack.length ∧ e.vgran = 15 ∧
    Issues (labAt labG) .trapret labG ∧ labG.handler = false := by decide

theorem witness_FencesOrderAndComplete :
    let g := { labG with wait := .stage 1 }
    let o := { labG with orders := [anOrder] }
    Issues (labAt labG) (.fence (.acqRemote true)) labG ∧ labG.wait = .none ∧ labG.orders = [] ∧ Issues (labAt g) (.fence (.acqrel .sys)) g ∧ g.wait = .stage 1 ∧ g.orders = [] ∧
    Issues (labAt o) (.fence (.rel .grp)) o ∧ o.wait = .none ∧ o.orders ≠ [] := by decide

/-- With one load in flight: a threshold of 1 is met, one of 0 is not; PFENCE of the other paths goes on. -/
theorem witness_WaitsAndEngineFencesComplete_counters :
    let g := { labG with flights := [{ id := 0, path := .ld, ops := 1, dests := [] }] }
    Issues (labAt g) (.waitc .ld (.imm 1#7)) g ∧ g.counter .ld ≤ (uAt g (.imm 1#7)).toNat ∧
    Issues (labAt g) (.waitc .ld (.imm 0#7)) g ∧ ¬ g.counter .ld ≤ (uAt g (.imm 0#7)).toNat ∧
    Issues (labAt g) (.pfence 14#4) g ∧ g.counter .cst = 0 ∧ g.counter .smp = 0 ∧ g.counter .cpy = 0 ∧ (14#4).getLsbD 0 = false ∧
    Issues (labAt g) (.pfence 1#4) g ∧ (1#4).getLsbD 0 = true ∧ g.counter .ld ≠ 0 := by decide

/-- A copy of the group that is not done. -/
def aCopy (k : CopyKind) : CopyJob :=
  { id := 0, owner := labG.owner 0 0, kind := k, t := 0, mask := Mask.all, flight := 0, suspended := false, done := 0, writes := [],
    after := [], asks := [], got := [], kept := [], parked := none, bad := none, gated := false, byHandler := false, sent := 0, freed := [] }

/-- An MMA of the group on banks 8 to 15. -/
def anMma : MmaReq :=
  { q := 0, slot := 0, a := 0, b := 0, k := 8, fmt := .bf16, blka := .none, blkb := .none, mxa := false, mxb := false, clr := true,
    prio := 0, ceil := 0, age := 0, waited := 0, dirty := [] }

/-- A request in a bank queue. -/
def aBankReq (op : BankOp) (flight : Option Nat) : BankReq := { id := 0, hold := [], slot := 0, word := 0, op := op, flight := flight }

/-- A reservation table that has been full for 256 cycles, with a token of it out. -/
theorem witness_QueuesAndProbeTokensRun_other :
    let k : ProbeToken := { origin := .reservation 0, at_ := .reservation 0 }
    let s := { (labAt { labG with staging := some { anMma with waited := 256 } }).modEngine 0 (fun x => { x with table := List.replicate 16 anMma }) with probes := [k] }
    s.probes[0]? = some k ∧ (∀ q slot, k.origin ≠ .forward q slot) ∧ { s with probes := s.probes.eraseIdx 0 }.pushBlocked k.origin = true := by
  refine ⟨by decide, ?_, by decide⟩
  simp

theorem witness_WaitsAndEngineFencesComplete_engines :
    let busy := (labAt labG).modQuad 0 (fun x => { x with banks := [(0, [aBankReq (.write []) none])] })
    let copying := (labAt labG).modEngine 0 (fun x => { x with copies := [aCopy (.tcopy none)] })
    let m := { labG with staging := some anMma }
    let p := { labG with mmSpoilt := [127] }
    Issues (labAt labG) .ofence labG ∧ (labAt labG).applied 0 0 = true ∧ (labAt labG).tcopiesDone 0 0 labG = true ∧
    Issues busy .ofence labG ∧ busy.applied 0 0 = false ∧
    Issues copying .ofence labG ∧ copying.applied 0 0 = true ∧ copying.tcopiesDone 0 0 labG = false ∧
    Issues (labAt labG) .mmwait labG ∧ (labAt labG).mmas 0 0 labG = [] ∧ labG.mmSpoilt = [] ∧
    Issues (labAt p) .mmwait p ∧ (labAt p).mmas 0 0 p = [] ∧ p.mmSpoilt ≠ [] ∧ 126 ∉ p.mmSpoilt ∧
    Issues (labAt m) .mmwait m ∧ (labAt m).mmas 0 0 m ≠ [] := by decide

theorem witness_GroupsEndAndYield :
    let s := (labAt labG).modEngine 0 (fun x => { x with holder := [(5, (0, 0)), (9, (0, 0)), (127, (4, 0))] })
    Issues (labAt labG) .exit labG ∧ (labAt labG).banksOf 0 0 = [] ∧ Issues s .exit labG ∧ s.banksOf 0 0 = 5 :: [9] ∧
    Issues (labAt labG) .yield labG := by decide

theorem witness_JetStartTakesTheHighestPriority :
    let g := { labG with jet := none }
    let s := (coded [0x80000000#32, 0x93000080#32] g).modQuad 0 (fun x => { x with issuing := none })
    let a := { labG with ageCount := 4096, ceil := 1 }
    (match s.quad? 0 with
      | some x => decide (x.issuing = none ∧ x.gapLeft = 0 ∧ x.issued = none ∧ x.noticeDue = false ∧ s.starters 0 x ≠ [])
      | none => false) = true ∧
    (labAt a).group? 0 0 = some a ∧ 4096 * (a.ageSteps + 1) ≤ a.ageCount ∧ a.prio + a.ageSteps < a.ceil := by decide

/-- A notice. -/
def aNotice : Notice :=
  { code := 0x09, s58 := 0#32, s59 := 1#32, em := 1#32, v120 := Lanes.zero, v121 := Lanes.zero, v122 := Lanes.zero, byHandler := true, job := none }

theorem witness_NoticesAreTakenAtTheBoundary :
    let g := { labG with jet := none, notices := [aNotice] }
    let h := { g with handler := true }
    let s := onBasin (labAt g) (fun b => { b with handler := some (mkCap devHere 1 64) })
    s.group? 0 0 = some g ∧ g.jet = none ∧ g.retired = false ∧ g.wait.done = false ∧ g.handler = false ∧ g.notices = aNotice :: [] ∧
    (s.basin g.basin).handler = some (mkCap devHere 1 64) ∧
    (labAt h).group? 0 0 = some h ∧ h.jet = none ∧ h.retired = false ∧ h.wait.done = false ∧ h.handler = true ∧
    h.notices.find? (fun n => n.byHandler) = some aNotice := by decide

theorem witness_VoteWritesTheWordOfItsTile :
    Issues (labAt labLast) (.vote Guard.none 127#7 .ballot true 7#3) labLast ∧ labLast.vOk 127 = true ∧
    (guardMask labLast Guard.none).getLsbD 31 = true := by decide

theorem witness_LaneExchangesFly :
    let g := { labLast with v := [(0, lanesOf (fun l => if l = 31 then 0x7FC00001#32 else BitVec.ofNat 32 l))] }
    labLast.vOk 127 = true ∧ selOk g (.v 0#7) = true ∧ selOk g (.imm 31#5) = true ∧
    Issues (labAt g) (.shfl Guard.none 127#7 (.v 0#7) (.imm 31#5) .down) g ∧ Issues (labAt g) (.red Guard.none 127#7 (.v 0#7) .max .s32) g ∧
    Issues (labAt g) (.fsfu Guard.none 127#7 (.v 0#7) .tanh) g ∧ (guardMask g Guard.none).getLsbD 31 = true ∧
    (selAt g (.v 0#7) 31).toNat / 2 ^ 23 % 256 = 255 ∧ (selAt g (.v 0#7) 31).toNat % 2 ^ 23 ≠ 0 := by decide

theorem witness_VariableResultsArriveByLane :
    let f : VFlight := { id := 0, dests := [(Dest.new 6 1#32, Lanes.zero), (Dest.new 7 1#32, Lanes.zero)], flags := 0#5, waiting := 0 }
    let g := { labG with vflights := [f] }
    let h := { g with jet := none }
    (labAt g).group? 0 0 = some g ∧ g.vflights[0]? = some f ∧ f.waiting = 0 ∧ g.jet = some (Jet.fresh 0) ∧
    (labAt h).group? 0 0 = some h ∧ h.vflights[0]? = some f ∧ h.jet = none ∧ (f.dests.map (fun e => e.1.reg)).Nodup := by decide

theorem witness_HeadingNormReadsExactly :
    Issues (labAt labLast) (.hnrm false Guard.none 127#7 15#8) labLast ∧ labLast.vOk 127 = true ∧ (15#8).toNat < 16 ∧
    labLast.hOk 15 = true ∧ shapeCheck labLast (guardMask labLast Guard.none) [15] = none := by decide

theorem witness_HeadingInstructionsRun :
    let g := labLast
    g.hOk 15 = true ∧ g.hOk 0 = true ∧ shapeCheck g g.em [0] = none ∧ shapeCheck g (guardMask g Guard.none) [] = none ∧
    shapeCheck g (guardMask g Guard.none) [0, 15] = none ∧ shapeCheck g (guardMask g Guard.none) [0] = none ∧
    (120#7).toNat % 8 = 0 ∧ g.vOk 120 = true ∧ g.vOk (120 + 7) = true ∧ hsclSel (.fconst 2#4) = true ∧
    ∀ i ∈ ([.hmov false 15#4 0#8, .hcvt false Guard.none 15#4 (.v 120#7), .hadd false Guard.none 15#4 0#8 15#8 true,
      .hscl false Guard.none 15#4 0#8 (.fconst 2#4) true, .hdot false Guard.none 120#7 0#8 15#8, .hexp false Guard.none 120#7 0#8] : List Instr),
      Issues (labAt g) i g := by decide

/-- Its crew. -/
def labC : Crew :=
  { launch := 0#32, gang := 0, crew := 0, prio := 0, firstSlot := 0, size := 1, scr := 64, scrBase := 0, regBase := 0,
    regBytes := loadRec.shape.regBytes, sp := [], bars := [] }

/-- Every lane at the last aligned address of the scratchpad of 64 KiB. -/
theorem witness_ScratchpadAccessesEnterTheirBanks :
    let g := { labLast with s := [(2, 65520#32)] }
    let m := guardMask g Guard.none
    let a := fun l => ((selAt g (.s 2#6) l).toNat + (selAt g .zero l).toNat + (BitVec.ofInt 32 (0#16).toInt).toNat) % 2 ^ 32
    let w := fun l => ((selAt g (.s 2#6) l).toNat + (selAt g .zero l).toNat + 4 * (2#7).toNat) % 2 ^ 32
    (labAt g).crew? 0 g = some labC ∧ selOk g (.s 2#6) = true ∧ selOk g .zero = true ∧
    Issues (labAt g) (.lds Guard.none 124#7 (.s 2#6) .zero .b128 (.ordered true) 0#16) g ∧
    Issues (labAt g) (.sts Guard.none 124#7 (.s 2#6) .zero .b128 (.ordered false) 0#16) g ∧
    Issues (labAt g) (.atoms Guard.none 126#7 (.s 2#6) .zero (.v 4#7) .cas (.acqrel .crew) .s64 false false 2#7) g ∧
    g.dataOk 124 16 = true ∧ g.inLoop = false ∧ g.dataOk 126 (atomBytes .s64) = true ∧ (pairSel g (.v 4#7)).isSome = true ∧
    (∀ l, l < 32 → m.getLsbD l = true → a l + 16 ≤ labC.scr * 1024 ∧ a l % 16 = 0) ∧
    (∀ l, l < 32 → m.getLsbD l = true → w l + 8 ≤ labC.scr * 1024 ∧ w l % 8 = 0) := by decide

/-- One byte further, lane 0 reaches beyond it; at 65,528 it is misaligned for 16 bytes. -/
theorem witness_ScratchpadBoundsTrap :
    let g := { labLast with s := [(2, 65536#32)] }
    let a := ((selAt g (.s 2#6) 0).toNat + (selAt g .zero 0).toNat + (BitVec.ofInt 32 (0#16).toInt).toNat) % 2 ^ 32
    (labAt g).crew? 0 g = some labC ∧ selOk g (.s 2#6) = true ∧ selOk g .zero = true ∧ g.dataOk 1 (sizeBytes .b8) = true ∧
    (guardMask g Guard.none).getLsbD 0 = true ∧ (labC.scr * 1024 < a + sizeBytes .b8 ∨ a % sizeBytes .b8 ≠ 0) ∧
    Issues (labAt g) (.lds Guard.none 1#7 (.s 2#6) .zero .b8 .plain 0#16) g ∧
    Issues (labAt g) (.sts Guard.none 1#7 (.s 2#6) .zero .b8 .plain 0#16) g := by decide

/-- A quadrant with one request in a bank. -/
theorem witness_BankServicePerformsOneRequest :
    let f : VFlight := { id := 4, dests := [(Dest.new 6 1#32, Lanes.zero)], flags := 0#5, waiting := 1 }
    let g := { labG with vflights := [f] }
    let e : Elem := { lane := 0, ofs := 0, data := 1#64, cmp := 0#64, ver := 0#32 }
    ∀ r ∈ [aBankReq (.write [(0, 1#8), (7, 2#8)]) none, aBankReq (.read [(0, 0, 4, 6)]) (some 4), aBankReq (.atom .add .n32 none [e]) none],
      let s := (labAt g).modQuad 0 (fun x => { x with banks := [(15, [r])] })
      r.hold = [] ∧ (match s.quad? 0 with
        | some x => decide (x.bank 15 = r :: [] ∧ NMap.get? x.groups r.slot = some g ∧ x.crewOf? g = some labC)
        | none => false) = true := by decide

/-! ### Witnesses of memory accesses -/

/-- An object of 64 KiB that may be read and written, not executed. -/
def dataObj : ObjDesc := { sizeM1 := 65535, rd := true, wr := true, ex := false, const := false, repl := false, ft := false, list := 0 }

/-- Object 2 of basin 0. -/
def withData (s : State) : State := onBasin s (fun b => { b with objs := NMap.set b.objs 2 dataObj })

def capD (ofs : Nat) : DWord := mkCap devHere 2 ofs

/-- An absent object, offsets 1 below 0 and 1 past the end, an odd offset, each missing right, and a passing access at the
end of the object. -/
theorem witness_AccessChecksFollowTheirOrder :
    let b := (withData lab).basin 0
    let d : Desc := { size := 65536, have_ := { rd := true, wr := true, ex := false } }
    (findDesc b (mkCap devHere 3 0)).toOption = none ∧ (findDesc b (mkCap 5 2 0)).toOption = none ∧ findDesc b (capD 0) = .ok d ∧
    ((-1 : Int) < 0 ∨ (d.size : Int) < (-1 : Int) + (4 : Nat)) ∧ ((65533 : Int) < 0 ∨ (d.size : Int) < 65533 + (4 : Nat)) ∧
    ¬ ((65530 : Int) < 0 ∨ (d.size : Int) < 65530 + (4 : Nat)) ∧ (65530 : Int) % (4 : Nat) ≠ 0 ∧
    ¬ ((65532 : Int) < 0 ∨ (d.size : Int) < 65532 + (4 : Nat)) ∧ (65532 : Int) % (4 : Nat) = 0 ∧ Rights.x.ex = true ∧ d.have_.ex = false ∧
    ¬ ((Rights.rw.rd = true ∧ d.have_.rd = false) ∨ (Rights.rw.wr = true ∧ d.have_.wr = false) ∨ (Rights.rw.ex = true ∧ d.have_.ex = false)) := by
  decide

/-- Eight lanes, the capability of the data object in s2:s3, an index of 65,276 in s6. -/
def labData : Group := { (labLast.setSPair 2 (capD 0)).setS 6 65276#32 with em := 0xFF#32 }

/-- The lanes pass R229 at the index plus a constant. -/
def passes (g : Group) (cap : DWord) (idx : Sel) (k : Int) (n : Nat) (need : Rights) : Bool :=
  (maskLanes (guardMask g Guard.none)).all (fun l =>
    decide (checkAccess ((withData (labAt g)).basin 0) cap ((capOfs cap : Int) + (selAt g idx l).toInt + k) n n need = .ok ()))

/-- `passes` is the hypothesis on every lane that takes part. -/
theorem passes_lanes (g : Group) (cap : DWord) (idx : Sel) (k : Int) (n : Nat) (need : Rights) (h : passes g cap idx k n need = true) :
    ∀ l, l < 32 → (guardMask g Guard.none).getLsbD l = true →
      checkAccess ((withData (labAt g)).basin 0) cap ((capOfs cap : Int) + (selAt g idx l).toInt + k) n n need = .ok () := by
  intro l hl hm
  have hx : l ∈ maskLanes (guardMask g Guard.none) := by simp [maskLanes, hl, hm]
  simpa using (List.all_eq_true.mp h) l hx

/-- Outside a loop the check of R219 keeps every byte. -/
theorem loopCheck_out (s : State) (q slot : Nat) (g : Group) (ws : List LaneWrite) (size kind : Nat) (h : g.loop = none) :
    s.loopCheck q slot g ws size kind = .ok (fun _ _ => true) := by
  simp [State.loopCheck, h]

/-- Loads, at the last address of each size. -/
theorem witness_LaneAccessesIssueTheirRequests_reads :
    let g := labData
    let s := withData (labAt g)
    pairSel g (.s 2#6) = some (.s 2) ∧ pairAt g (.s 2) 0 = capD 0 ∧ selOk g (.s 6#6) = true ∧ selOk g .fq = true ∧ g.dataOk 124 16 = true ∧
    Issues s (.ld Guard.none 124#7 (.s 2#6) (.s 6#6) .b128 (.acqRemote true) .keep 244#16) g ∧ passes g (capD 0) (.s 6#6) 244 16 Rights.r = true ∧
    Issues s (.ldc Guard.none 127#7 (.s 2#6) (.s 6#6) .b8 .stream 259#16) g ∧ g.dataOk 127 1 = true ∧ passes g (capD 0) (.s 6#6) 259 1 Rights.r = true ∧
    Issues s (.smpl Guard.none 124#7 (.s 2#6) (.s 6#6) .fq true) g ∧
    (∀ l, l < 32 → (guardMask g Guard.none).getLsbD l = true → checkAccess (s.basin 0) (capD 0) (capOfs (capD 0)) 64 64 Rights.r = .ok ()) ∧
    Issues s (.ldv Guard.none 120#7 124#7 (.s 2#6) (.s 6#6) .b128 (.acq .sys) 244#12) g ∧ g.dataOk 120 16 = true ∧ g.vOk 124 = true ∧
    ¬ ((120#7).toNat ≤ (124#7).toNat ∧ (124#7).toNat < (120#7).toNat + regCount 16) := by decide

/-- Writes, and a set of eight lanes on this device. -/
theorem witness_LaneAccessesIssueTheirRequests_writes :
    let g := labData
    let s := withData (labAt g)
    g.inLoop = false ∧ g.loop = none ∧ g.dataOk 126 8 = true ∧ g.vOk 125 = true ∧ ¬ ((126#7).toNat ≤ (125#7).toNat ∧ (125#7).toNat < (126#7).toNat + regCount 8) ∧
    (pairSel g (.v 4#7)).isSome = true ∧
    Issues s (.casv Guard.none 126#7 125#7 (.s 2#6) (.s 6#6) (.v 4#7) true (.acqrel .dev) 63#6) g ∧ passes g (capD 0) (.s 6#6) 252 8 Rights.rw = true ∧
    Issues s (.atom Guard.none 126#7 (.s 2#6) (.s 6#6) (.v 4#7) .cas (.rel .sys) .s64 false false 63#7) g ∧ g.dataOk 126 (atomBytes .s64) = true ∧
    Issues s (.atom Guard.none 0#7 (.s 2#6) (.s 6#6) .fq .add .plain .f32 false true 64#7) g ∧ passes g (capD 0) (.s 6#6) 256 4 Rights.w = true ∧
    Issues s (.dep Guard.none 127#7 (.s 2#6) (.s 6#6) .min .n32 256#16) g ∧ g.vOk 127 = true ∧
    Issues s (.valset Guard.none 127#7 (.s 2#6) (.s 6#6) .fq .laneid false true 7#3) g ∧ selOk g .laneid = true ∧
    (maskLanes (guardMask g Guard.none)).length ≤ 8 ∧ passes g (capD 0) (.s 6#6) 0 4 Rights.rw = true := by decide

theorem witness_StoresIssueTheirBytes :
    let g := labData
    let s := withData (labAt g)
    Issues s (.st Guard.none 124#7 (.s 2#6) (.s 6#6) .b128 .post .normal 244#16) g ∧ pairSel g (.s 2#6) = some (.s 2) ∧ selOk g (.s 6#6) = true ∧
    g.dataOk 124 (sizeBytes .b128) = true ∧ g.inLoop = false ∧ g.loop = none ∧ passes g (capD 0) (.s 6#6) 244 16 Rights.w = true ∧ s.reqs = [] ∧
    (guardMask g Guard.none).getLsbD 7 = true ∧ 15 < sizeBytes .b128 ∧
    (∀ l, l < 32 → (guardMask g Guard.none).getLsbD l = true → l ≤ 7) := by decide

theorem witness_UniformAccessesWaitAndComplete :
    let g := labG.setSPair 2 (capD 65528)
    let a := { g with wait := .answer [1#32, 2#32] }
    let h := { g with wait := .stage 1 }
    let r := { g with wait := .request 7 }
    let z : USel := .imm 0#7
    capPair g 2#8 = some (capD 65528) ∧ Issues (withData (labAt g)) (.ldu 62#6 2#8 z true (.acq .gang) 0#20) g ∧ g.wait = .none ∧ g.orders = [] ∧
    checkAccess ((withData (labAt g)).basin 0) (capD 65528) ((capOfs (capD 65528) : Int) + (uAt g z).toInt + (0#20).toInt) 8 8 Rights.r = .ok () ∧
    capPair a 2#8 = some (capD 65528) ∧ Issues (withData (labAt a)) (.ldu 62#6 2#8 z true .plain 0#20) a ∧
    Issues (withData (labAt g)) (.stu 62#6 2#8 z true .plain 0#20) g ∧ g.inLoop = false ∧
    checkAccess ((withData (labAt g)).basin 0) (capD 65528) ((capOfs (capD 65528) : Int) + (uAt g z).toInt + (0#20).toInt) 8 8 Rights.w = .ok () ∧
    Issues (withData (labAt h)) (.signal true 2#8 z) h ∧
    checkAccess ((withData (labAt h)).basin 0) (capD 65528) (capOfs (capD 65528)) 4 4 Rights.rw = .ok () ∧
    Issues (withData (labAt r)) (.signal true 2#8 z) r ∧ (withData (labAt r)).req? 7 = none ∧
    Issues (withData (labAt g)) (.ldu 62#6 0x3F#8 z false .plain 0#20) g ∧ Issues (withData (labAt g)) (.ldu 62#6 0x40#8 z false .plain 0#20) g := by
  decide

/-- The other clauses: an older order, a release to come and one that is over, an open loop. -/
theorem witness_UniformAccessesWaitAndComplete_orders :
    let g := labG.setSPair 2 (capD 65528)
    let h := { g with wait := .stage 1 }
    let o := { g with orders := [anOrder] }
    let l := { g with loop := some { m := 0, b := 0 } }
    let z : USel := .imm 0#7
    Issues (withData (labAt o)) (.ldu 62#6 2#8 z true .plain 0#20) o ∧ o.orders ≠ [] ∧ o.wait = .none ∧
    Issues (withData (labAt g)) (.stu 62#6 2#8 z true (.rel .sys) 0#20) g ∧ g.wait = .none ∧
    Issues (withData (labAt h)) (.stu 62#6 2#8 z true (.rel .sys) 0#20) h ∧ h.wait = .stage 1 ∧ h.orders = [] ∧
    Issues (withData (labAt g)) (.signal true 2#8 z) g ∧
    Issues (withData (labAt l)) (.stu 62#6 2#8 z true .plain 0#20) l ∧ Issues (withData (labAt l)) (.signal true 2#8 z) l ∧ l.inLoop = true ∧
    capPair l 2#8 = some (capD 65528) := by decide

/-- The premises of DSC that name its members, on a state whose code holds the group: LD v9, IMAD, and with `.w` an ST. -/
def descentOk (ws : List Word) (w : Bool) (k : Nat) : Bool :=
  let g := labG.setSPair 2 (capD 65532)
  let s := withData (coded ws g)
  decide (Issues s (.dsc w (BitVec.ofNat 4 k)) g) && (match s.dscScan g k 1 (22 - g.jetOr.pos) (g.pc + 4) with
    | .error _ => false
    | .ok sc => match sc.mem with
      | [] => false
      | m :: rest => sc.bad.isNone && (dscReasons w k sc.mem).isNone && sc.mem.all (memberOperand g false) &&
          (match dscLd m.ins with
            | none => false
            | some ld => !ld.wide && decide (pairSel g ld.cap = some (.s 2)) && (List.range 32).all (fun l =>
                let a := (capOfs (capD 65532) : Int) + (selAt g ld.idx l).toInt + ld.ofs
                decide (checkAccess (s.basin 0) (capD 65532) a 4 1 (if w then Rights.rw else Rights.r) = .ok () ∧ a % (4 : Nat) = 0))) &&
          (match (rest.getLast?).bind (fun x => dscSt false x.ins) with
            | none => !w
            | some y => w && decide (pairSel g y.cap = some (.s 2)) && (List.range 32).all (fun l =>
                let a := (capOfs (capD 65532) : Int) + (selAt g y.idx l).toInt + y.ofs
                decide (checkAccess (s.basin 0) (capD 65532) a 4 1 Rights.w = .ok () ∧ a % (4 : Nat) = 0 ∧ a / 128 = 511))))

theorem witness_DescentGroupsDepart :
    labG.inLoop = false ∧ (labG.setSPair 2 (capD 65532)).loop = none ∧
    descentOk [0x1A000002#32, 0x5309C28A#32, 0x74000000#32, 0x400909A3#32, 0x7A500000#32, 0x93000080#32] false 2 = true ∧
    descentOk [0x1A000013#32, 0x5309C28A#32, 0x74000000#32, 0x400909A3#32, 0x7A500000#32, 0x5409C28A#32, 0x74000000#32, 0x93000080#32] true 3
      = true := by decide

/-! ### Witnesses of barriers, gates and engines -/

/-- A crew of 16 groups; the group with a barrier in a state of its own. -/
def withBarrier (g : Group) (id : Nat) (b : Barrier) : State := (labAt g).setBarrier 0 g id b

/-- Fourteen or fifteen of sixteen arrivals are counted. -/
def arrived (n : Nat) : Barrier := { Barrier.init with exp := 16, arr := n, arrived := (List.range n).map (fun k => k + 1), waiting := [1] }

def labB : Group := { labG with gpc := 15, wait := .stage 0 }

theorem witness_BarrierArrivalsCount_first :
    let s := labAt labB
    Issues s (.bar true 15#5 (.imm 16#7)) labB ∧ s.applied 0 0 = true ∧ 1 ≤ (uAt labB (.imm 16#7)).toNat ∧
    (uAt labB (.imm 16#7)).toNat ≤ labB.instSize 15 ∧ (s.barrier 0 labB 15).exp = 0 ∧ (s.barrier 0 labB 15).held = [] ∧
    labB.member 15 ∉ (s.barrier 0 labB 15).arrived ∧ (s.crew? 0 labB).isSome = true ∧ (s.barrier 0 labB 15).arr + 1 ≠ 16 := by decide

theorem witness_BarrierArrivalsCount_later :
    ∀ n ∈ [14, 15], let s := withBarrier labB 15 (arrived n)
      Issues s (.bar true 15#5 (.imm 16#7)) labB ∧ s.applied 0 0 = true ∧ s.barrier 0 labB 15 = arrived n ∧ labB.member 15 ∉ (arrived n).arrived ∧
      ((arrived n).arr + 1 = 16 ↔ n = 15) := by decide

/-- The group has arrived in this phase already. -/
theorem witness_BarrierArrivalsCount_held :
    let b := { arrived 14 with arrived := [0, 1] }
    let s := withBarrier labB 15 b
    Issues s (.bar true 15#5 (.imm 16#7)) labB ∧ labB.wait = .stage 0 ∧ s.applied 0 0 = true ∧ s.barrier 0 labB 15 = b ∧ b.exp = 16 ∧
    labB.instSize 15 = 16 ∧ labB.member 15 ∈ b.arrived ∧ (s.crew? 0 labB).isSome = true := by decide

theorem witness_BarrierArrivalsCount_released :
    let r := { labB with wait := .bar true }
    Issues (labAt r) (.bar true 15#5 (.imm 16#7)) r ∧ r.wait = .bar true := by decide

theorem witness_BarrierArrivalsCount_traps :
    let n := { labB with wait := .none }
    Issues (labAt n) (.bar false 15#5 (.imm 0#7)) n ∧ Issues (labAt n) (.bar false 15#5 (.imm 17#7)) n ∧ n.instSize 15 < (uAt n (.imm 17#7)).toNat ∧
    Issues (withBarrier n 15 (arrived 14)) (.bar false 15#5 (.imm 15#7)) n ∧ ((withBarrier n 15 (arrived 14)).barrier 0 n 15).exp ≠ 0 ∧
    (uAt n (.imm 15#7)).toNat ≠ ((withBarrier n 15 (arrived 14)).barrier 0 n 15).exp := by decide

/-- A gang barrier, its gang known to the distributor slice. -/
theorem witness_BarrierArrivalsCount_gang :
    let g := { labG with cpg := 7, wait := .stage 0 }
    let s := onBasin (labAt g) (fun b => { b with gangs := [{ launch := 0#32, gang := 0, bars := [], retired := [] }] })
    Issues s (.bar false 23#5 (.imm 8#7)) g ∧ (uAt g (.imm 8#7)).toNat ≤ g.instSize 23 ∧ ((s.basin g.basin).gang? g.launch g.gang).isSome = true ∧
    (s.barrier 0 g 23).exp = 0 ∧ (s.barrier 0 g 23).held = [] ∧ g.member 23 ∉ (s.barrier 0 g 23).arrived := by decide

/-- A gate with PENA = n, EXPA = 1, PENB = 0 and phase 0 at scratchpad byte 8. -/
def withGate (g : Group) (n : Byte) : State :=
  (labAt g).modQuad 0 (fun x => x.modCrew g (fun c => { c with sp := [(12, n), (14, 1#8)] }))

/-- The gate is in the scratchpad, whose crew is idle. -/
def gateOk (s : State) : Bool :=
  s.crewIdle 0 labG && (match s.crew? 0 labG with
    | some c => c.spOk (uAt labG (.imm 4#7) + BitVec.ofInt 32 (4#16).toInt).toNat 8 && gatePH (c.num 8 8) == false
        && gateEXPA (c.num 8 8) == 1 && gatePENB (c.num 8 8) == 0
    | none => false)

theorem witness_GateOperationsComplete_arrivals :
    let g := { labG with wait := .stage 1 }
    gateOk (withGate g 1#8) = true ∧ gateOk (withGate g 2#8) = true ∧ g.orders = [] ∧ (withGate g 1#8).applied 0 0 = true ∧
    Issues (withGate g 1#8) (.gate (.arrive 63#6) (.imm 4#7) 4#16) g ∧ Issues (withGate g 2#8) (.gate (.sync 0#6) (.imm 4#7) 4#16) g ∧
    Issues (withGate g 1#8) (.gate (.sync 0#6) (.imm 4#7) 4#16) g := by decide

theorem witness_GateOperationsComplete_waits :
    let s := withGate labG 1#8
    gateOk s = true ∧ labG.wait = .none ∧ Issues s (.gate (.expect (.imm 63#7)) (.imm 4#7) 4#16) labG ∧
    Issues s (.gate (.wait (.imm 1#7)) (.imm 4#7) 4#16) labG ∧ (uAt labG (.imm 1#7)).toNat ≤ 1 ∧
    Issues s (.gate (.wait (.imm 0#7)) (.imm 4#7) 4#16) labG ∧
    Issues s (.gate (.wait (.imm 2#7)) (.imm 4#7) 4#16) labG ∧ 1 < (uAt labG (.imm 2#7)).toNat ∧
    Issues s (.gate (.arrive 0#6) (.imm 1#7) 4#16) labG ∧ (uAt labG (.imm 1#7) + BitVec.ofInt 32 (4#16).toInt).toNat % 8 ≠ 0 := by decide

theorem witness_GateOperationsComplete_released :
    let r := { labG with wait := .gate 8 false false }
    gateOk (withGate r 1#8) = true ∧ Issues (withGate r 1#8) (.gate (.sync 0#6) (.imm 4#7) 4#16) r ∧ r.wait = .gate 8 false false := by decide

/-- Banks of the engine slot held by the group. -/
def withBanks (g : Group) (l : List Nat) : State := (labAt g).modEngine 0 (fun x => { x with holder := l.map (fun k => (k, (0, 0))) })

/-- The last eight banks, the last places of two tiles. -/
def labM : Group := { ((labG.setS 8 57344#32).setS 9 55296#32).setS 4 120#32 with ofence := true }

def topBanks : List Nat := [120, 121, 122, 123, 124, 125, 126, 127]

def anMmaOf : Instr := .mma Guard.none (.s 8#6) (.s 9#6) (.s 4#6) .e4m3 .none .b32 false false true

theorem witness_MatrixInstructionsRun_mma :
    let s := withBanks labM topBanks
    Issues s anMmaOf labM ∧ guardMask labM Guard.none = Mask.all ∧ labM.ofence = true ∧ s.crew? 0 labM = some labC ∧
    labC.tileOk (labM.getS 8).toNat .none = true ∧ labC.tileOk (labM.getS 9).toNat .b32 = true ∧ (labM.getS 4).toNat % 8 = 0 ∧
    (∀ e, e < 8 → NMap.get? (s.engine 0).holder ((labM.getS 4).toNat + e) = some (0, 0)) ∧ labM.staging = none ∧
    Issues (withBanks { labM with staging := some anMma } topBanks) anMmaOf { labM with staging := some anMma } := by decide

theorem witness_MatrixInstructionsRun_traps :
    let p := { labM with em := 0x7FFFFFFF#32 }
    let z := { labM with ofence := false }
    Issues (labAt p) anMmaOf p ∧ guardMask p Guard.none ≠ Mask.all ∧ Issues (labAt z) anMmaOf z ∧ guardMask z Guard.none = Mask.all ∧
    z.ofence = false := by decide

/-- The last four words of bank 127. -/
theorem witness_MatrixInstructionsRun_words :
    let a := labLast.setS 5 508#32
    let s := withBanks a topBanks
    Issues s (.accld Guard.none 124#7 .zero (.s 5#6) .x4 127#7) a ∧ Issues s (.accst Guard.none 124#7 .zero (.s 5#6) .x4 127#7) a ∧
    a.dataOk 124 16 = true ∧ selOk a .zero = true ∧ selOk a (.s 5#6) = true ∧ 127 ∉ a.mmNamed ∧
    (∀ l, l < 32 → (guardMask a Guard.none).getLsbD l = true → (selAt a .zero l + (127#7).setWidth 32).toNat ≤ 127 ∧
      NMap.get? (s.engine 0).holder (selAt a .zero l + (127#7).setWidth 32).toNat = some (0, 0) ∧
      (selAt a (.s 5#6) l).toNat % 4 = 0 ∧ (selAt a (.s 5#6) l).toNat + 4 ≤ 512) := by decide

theorem witness_BanksAreGrantedAndGivenBack_acqb :
    let a := { labG with wait := .answer [8#32] }
    let g := labG.setS 5 128#32
    Issues (labAt g) (.acqb 63#6 (.imm 0#7)) g ∧ (uAt g (.imm 0#7)).toNat = 0 ∧ Issues (labAt g) (.acqb 63#6 (.imm 0x7F#7)) g ∧
    128 < (uAt g (.imm 0x7F#7)).toNat ∧ Issues (labAt g) (.acqb 63#6 (.s 5#6)) g ∧ (uAt g (.s 5#6)).toNat = 128 ∧ g.wait = .none ∧
    Issues (labAt a) (.acqb 63#6 (.imm 8#7)) a ∧ a.wait = .answer [8#32] := by decide

/-- Bank 7 is held: a run of eight is free from bank 8 on. -/
theorem witness_BanksAreGrantedAndGivenBack_grant :
    let w := { labG with wait := .acqb }
    let q := (withBanks w [7]).modEngine 0 (fun x => { x with acqq := [(0, 0, 8)] })
    (q.engine 0).acqq = (0, 0, 8) :: [] ∧ q.slotStops 0 = false ∧ (∀ e, e < 8 → NMap.get? (q.engine 0).holder (8 + e) = none) ∧
    (∀ u, u < 8 → u % 8 = 0 → ∃ e, e < 8 ∧ NMap.get? (q.engine 0).holder (u + e) ≠ none) ∧ q.group? 0 0 = some w ∧ w.halted = false := by decide

theorem witness_BanksAreGrantedAndGivenBack_relb :
    let m := { labG with staging := some anMma }
    let s := withBanks m [7, 16]
    Issues s (.relb (.imm 7#7) (.imm 1#7)) m ∧ m.wait = .none ∧ NMap.get? (s.engine 0).holder 7 = some (0, 0) ∧ (∀ r ∈ s.mmas 0 0 m, 7 + 1 ≤ r.k ∨ r.k + 8 ≤ 7) ∧
    s.group? 0 0 = some m ∧ m.staging = some anMma ∧ m.halted = false ∧ s.slotStops 0 = false ∧ (s.engine 0).table.length < 16 := by decide

theorem witness_MatrixPassesRun_grant :
    let s := { (labAt labG).modEngine 0 (fun x => { x with table := [anMma] }) with rings := [(0, (0, 8))], now := 4064, sites := [0] }
    (s.engine 0).pass = none ∧ s.slotStops 0 = false ∧ s.hasToken 0 = true ∧ s.now ≤ (NMap.getD s.rings 0 (0, 8)).1 * 4096 + 4064 ∧
    (∃ r ∈ (s.engine 0).table, (s.engine 0).eligible r = true ∧ s.crewStops r.q r.slot = false) := by decide

theorem witness_MatrixPassesRun_end :
    let e := { (labAt labG).modEngine 0 (fun x => { x with pass := some (anMma, 32) }) with now := 32 }
    let t := { labAt labG with powered := true, now := 4096 }
    (e.engine 0).pass = some (anMma, 32) ∧ 32 ≤ e.now ∧ t.powered = true ∧ (NMap.getD t.rings 3 (0, 8)).1 < t.now / 4096 := by decide

/-! ### Witnesses of copies, loops, launches and the handler's instructions -/

/-- The data object's first extent is mapped. -/
def mapped (s : State) : State := (withData s).setExtent (extKey 0 2 0) { Extent.init with v := true }

/-- A descriptor of n rows of bf16 at the data object, CURSOR at k. -/
def aTile (fmt n k : Nat) : BitVec 256 :=
  (capD 0).setWidth 256 <<< 192 ||| BitVec.ofNat 256 (k * 2 ^ 79 + n * 2 ^ 72 + fmt * 2 ^ 68 + 2 ^ 63)

def labT (n k : Nat) : Group := { (labG.setSPair 2 (capD 65504)).setSPair 4 (capD 0) with t := [(7, aTile 1 n k)] }

theorem witness_CopiesArePosted_tld :
    let g := labT 64 0
    let a := { g with wait := .answer [1#32] }
    let s := withData (labAt g)
    Issues s (.tld 7#3 2#8 0#32) g ∧ g.wait = .none ∧ g.orders = [] ∧ capPair g 2#8 = some (capD 65504) ∧ s.copyFree 0 0 g 7 = true ∧
    checkAccess (s.basin g.basin) (capD 65504) ((capOfs (capD 65504) : Int) + (0#32).toInt) 32 32 Rights.r = .ok () ∧
    Issues (labAt a) (.tld 7#3 2#8 0#32) a ∧ a.wait = .answer [1#32] ∧ capPair a 2#8 = some (capD 65504) := by decide

/-- In an open loop, and with an earlier copy of the group on the descriptor. -/
theorem witness_CopiesArePosted_stops :
    let g := labT 64 63
    let l := { g with loop := some { m := 0, b := 0 } }
    let s := (labAt g).modEngine 0 (fun x => { x with copies := [{ aCopy .tstore with t := 7 }] })
    Issues (labAt l) (.tcopy Guard.none 7#3 .strided) l ∧ Issues (labAt l) (.tstore 7#3) l ∧ Issues (labAt l) (.copy 4#6 2#8 (.imm 4#7) none) l ∧ (uAt l (.imm 4#7)).toNat % 4 = 0 ∧
    capPair l 2#8 = some (capD 65504) ∧ capPair l ((4#6).setWidth 8) = some (capD 0) ∧ l.inLoop = true ∧
    Issues s (.tcopy Guard.none 7#3 .strided) g ∧ g.inLoop = false ∧ s.copyFree 0 0 g 7 = false := by decide

/-- The last row is still to copy, or the descriptor is not valid. -/
theorem witness_CopiesArePosted_tiles :
    let g := labT 64 63
    let z := { g with t := [] }
    let d := tileOf (g.getT 7)
    let s := labAt g
    Issues s (.tcopy Guard.none 7#3 .strided) g ∧ Issues s (.tcopy Guard.none 7#3 (.gather (.v 127#7) .laneid)) g ∧ selOk g (.v 127#7) = true ∧
    g.inLoop = false ∧ s.copyFree 0 0 g 7 = true ∧ d.ok = true ∧ d.spBad (s.crew? 0 g) = none ∧ guardMask g Guard.none ≠ 0#32 ∧ d.cursor ≠ d.rows ∧
    Issues s (.tstore 7#3) g ∧ g.orders = [] ∧ d.fmt ≠ 7 ∧ s.applied 0 0 = true ∧
    Issues (labAt z) (.tcopy Guard.none 7#3 .strided) z ∧ (tileOf (z.getT 7)).ok = false := by decide

theorem witness_CopiesArePosted_copy :
    let g := (labT 64 0).setS 6 32#32
    let s := withData (labAt g)
    Issues s (.copy 4#6 2#8 (.s 6#6) (some 8191#15)) g ∧ g.inLoop = false ∧ capPair g 2#8 = some (capD 65504) ∧ capPair g ((4#6).setWidth 8) = some (capD 0) ∧
    (uAt g (.s 6#6)).toNat % 4 = 0 ∧ g.orders = [] ∧ checkAccess (s.basin g.basin) (capD 65504) (capOfs (capD 65504)) 32 4 Rights.r = .ok () ∧
    checkAccess (s.basin g.basin) (capD 0) (capOfs (capD 0)) 32 4 Rights.w = .ok () ∧ s.crew? 0 g = some labC ∧ labC.spOk (8 * (8191#15).toNat) 8 = true ∧
    (uAt g (.s 6#6)).toNat ≠ 0 ∧ Issues s (.copy 4#6 2#8 (.imm 2#7) none) g ∧ (uAt g (.imm 2#7)).toNat % 4 ≠ 0 := by decide

/-- A copy of the group in its quarter, on a mapped object. -/
def copying (k : CopyKind) (done n cur : Nat) : State :=
  let g := labT n cur
  (mapped (labAt g)).modEngine 0 (fun x => { x with copies := [{ aCopy k with t := 7, done := done, sent := done }] })

/-- The copy may go on; for a tile copy, its row passes its check, is mapped and at hand. -/
def rowReady (k : CopyKind) (done n cur : Nat) (write : Bool) : Bool :=
  let g := labT n cur
  let s := copying k done n cur
  let t := tileOf (g.getT 7)
  let row := (t.pieces none t.cursor).map (fun p => (p.1.toNat, p.2.1))
  match (s.engine 0).copies[0]? with
  | none => false
  | some c =>
      let u := s.leavePark c
      decide (s.ownerGroup? c.owner = some g) && !c.suspended && !s.copyStops 0 c && c.after.isEmpty && c.writes.isEmpty &&
      !s.copyParked c && !s.copyQueued 0 c && c.parked.isNone && c.bad.isNone && !s.gatePending c &&
      (decide (t.rows ≤ t.cursor) || (rowTaken none c.mask t.cursor && (t.rowCheck (s.basin 0) none (if write then Rights.w else Rights.r) t.cursor).isNone)) &&
      !u.copyBehind c ((pieceLines row).map (lineKey 0 2)) && row.all (fun p => decide (u.pieceMeets c.id 0 devHere 2 p.1 p.2 (dieOf 0) true ≠ .absent)) &&
      (match u.copySource c 0 devHere 2 row with
        | .ok _ => true
        | _ => false) && (s.crew? 0 g).isSome

theorem witness_CopyRowsAndLinesAdvance_rows :
    let t := tileOf ((labT 64 63).getT 7)
    rowReady (.tcopy none) 0 64 63 false = true ∧ rowReady .tstore 0 64 63 true = true ∧ rowReady .tstore 1 64 63 true = true ∧
    rowReady (.tcopy none) 0 64 64 false = true ∧
    t.cursor < t.rows ∧ t.rows ≤ 64 ∧ t.ok = true ∧ t.fmt ≠ 7 ∧ t.gen = false ∧ capDev t.mcap = devHere := by decide

/-- Whether the source of a copy of its group is at hand, and whether it is to be asked for. -/
def sourceOk (s : State) (c : CopyJob) (dev obj : Nat) (ps : List (Nat × Nat)) : Bool :=
  match (s.leavePark c).copySource c 0 dev obj ps with
  | .ok _ => true
  | _ => false

def sourceAsks (s : State) (c : CopyJob) (dev obj : Nat) (ps : List (Nat × Nat)) : Bool :=
  match (s.leavePark c).copySource c 0 dev obj ps with
  | .ask ls => !ls.isEmpty
  | _ => false

/-- A lane that takes no part; a row that fails its check; a row of a peer to be asked for, and one that has come. -/
theorem witness_CopyRowsAndLinesAdvance_rows_other :
    let s := copying (.tcopy none) 0 64 63
    let c := aCopy (.tcopy none)
    let t := tileOf ((labT 64 63).getT 7)
    rowTaken (some (Lanes.zero, Lanes.zero)) 0x7FFFFFFF#32 31 = false ∧ (t.rowCheck (lab.basin 0) none Rights.r t.cursor).isSome = true ∧
    sourceAsks s c 5 2 [(0, 128)] = true ∧ sourceOk s { c with got := [(0, 1#8)] } 5 2 [(0, 128)] = true ∧
    ({ c with bad := some (2, 1, 0) }.bad = some (2, 1, 0)) ∧ (labT 64 63).retired = false := by decide

/-- A copy of 132 bytes to the object's middle: its last line is to come, or it is done, with its gate still to reach or not. -/
theorem witness_CopyRowsAndLinesAdvance_lines :
    let k : CopyKind := .copy (capD 32768) (capD 0) 132 none
    let s := copying k 128 64 0
    let c := { aCopy k with t := 7, done := 128, sent := 128 }
    let w := copying (.copy (capD 32768) (capD 0) 132 (some 8)) 132 64 0
    (s.engine 0).copies[0]? = some c ∧ (128 : Nat) < 132 ∧ min (128 - (32768 + 128) % 128) (132 - 128) = 4 ∧
    sourceOk s c devHere 2 [(0 + 128, 4)] = true ∧ sourceAsks s c 5 2 [(0 + 128, 4)] = true ∧
    (s.leavePark c).copyBehind c ((pieceLines [(32768 + 128, 4)]).map (lineKey 0 2)) = false ∧
    (s.leavePark c).pieceMeets c.id 0 devHere 2 (32768 + 128) 4 (dieOf 0) true ≠ .absent ∧
    s.copyStops 0 c = false ∧ s.copyParked c = false ∧ s.gatePending c = false ∧
    ((copying k 132 64 0).engine 0).copies[0]? = some { aCopy k with t := 7, done := 132, sent := 132 } ∧
    (match (w.engine 0).copies[0]? with
      | some c => !c.gated && !w.gatePending c && c.bad.isNone && c.writes.isEmpty
      | none => false) = true := by decide

/-- An overwriting loop of one cell: a region of 4 bytes, the record at 64, the length of the last iteration in s8:s9. -/
def labL : Group := ((labG.setSPair 2 (capD 0)).setS 8 33#32).setS 9 64#32

theorem witness_OverwritingLoopsRun_begin :
    let s := withData (coded [0xD5080244#32, 0x00000000#32, 0x66030809#32, 0x00004000#32, 0x93000080#32] labL)
    s.crew? 0 labL = some labC ∧ labL.orders = [] ∧ s.crewIdle 0 labL = true ∧ Issues s (.owbegin 8#6 2#8 (.imm 4#7) .g4) labL ∧
    capPair labL 2#8 = some (capD 0) ∧ (8#6).toNat % 2 = 0 ∧ labL.em = Mask.all ∧ labL.loop = none ∧ labL.stack.length < 32 ∧
    (uAt labL (.imm 4#7)).toNat ≠ 0 ∧ (uAt labL (.imm 4#7)).toNat % (4 * 2 ^ granCode .g4) = 0 ∧ capOfs (capD 0) % (4 * 2 ^ granCode .g4) = 0 ∧
    checkAccess (s.basin 0) (capD 0) (capOfs (capD 0)) 4 1 Rights.w = .ok () ∧ 4 / (4 * 2 ^ granCode .g4) ≤ 262144 ∧ (labL.getS 9).toNat % 8 = 0 ∧
    (labL.getS 9).toNat + walkerSize 1 ≤ labC.scr * 1024 ∧ (match s.fetchWord labL (labL.pc + 8) with
      | .ok f => !(W1.ofWord f).s && (W1.ofWord f).x && (W1.ofWord f).op.toNat == 0x26
      | .error _ => false) = true := by decide

/-- Inside the loop: the record says length 8, 33 iterations, batch 0 or 1, depth n. -/
def inLoopAt (g : Group) (k : Byte) (ws : List Word) : State :=
  (coded ws g).modQuad 0 (fun x => x.modCrew g (fun c => { c with sp := [(72, 8#8), (76, 33#8), (80, k), (85, 0#8), (88, 1#8)] }))

def loopG : Group := { labG with loop := some { m := 64, b := 0 } }

theorem witness_OverwritingLoopsRun_foot :
    let s := inLoopAt loopG 1#8 [0x66030809#32, 0x00004000#32, 0x93000080#32]
    Issues s (.owfoot 3#7 [.v 8#7, .v 9#7]) loopG ∧ loopG.vOk 3 = true ∧ (∀ y ∈ [Sel.v 8#7, .v 9#7], selOk loopG y = true) ∧
    s.trailAt loopG (loopG.pc + 8) = true ∧ loopG.loop = some { m := 64, b := 0 } ∧ loopG.pc = 0 ∧ loopG.stack.length < rejoinMax ∧
    (match s.crew? 0 loopG with
      | some x => (x.walker 64).iter 0 == 0 && (x.walker 64).iter 1 == -1 && (List.range 32).all (fun l =>
          (x.walker 64).iter l == -(l : Int) && decide ((selAt loopG (.v 8#7) l).toNat < (x.walker 64).len) && decide ((selAt loopG (.v 9#7) l).toNat < (x.walker 64).len))
      | none => false) = true ∧ loopG.orders = [] ∧ s.crewIdle 0 loopG = true := by decide

theorem witness_OverwritingLoopsRun_next :
    let e : Rejoin := { pending := false, mask := Mask.all, addr := 0 }
    let g := { loopG with stack := [e] }
    (∀ k ∈ [0#8, 1#8], let s := inLoopAt g k []
      Issues s .ownext g ∧ g.loop = some { m := 64, b := 0 } ∧ g.stack = e :: [] ∧ (match s.crew? 0 g with
        | some x => decide (g.stack.length = (x.walker 64).depth + 1 ∧ (32 * (((x.walker 64).k + 1) % 2 ^ 32) < (x.walker 64).n ↔ k = 0#8))
        | none => false) = true) ∧
    Issues (labAt labG) .ownext labG ∧ labG.loop = none ∧ (coded [0x66030809#32, 0x00004000#32, 0x93000080#32] labG).trailAt labG (labG.pc + 8) = true ∧
    Issues (coded [0x66030809#32, 0x00004000#32, 0x93000080#32] labG) (.owfoot 3#7 [.v 8#7, .v 9#7]) labG := by decide

/-- A loop over the first two words of the data object, lane 0 owning its cell: the write of lane 0 passes R219. -/
def writing (g : Group) : State :=
  (withData (labAt g)).modQuad 0 (fun x => x.modCrew g (fun c => { c with
    sp := (natBytes 8 (capD 0).toNat).zipIdx.map (fun e => (64 + e.2, e.1)) ++ [(72, 8#8), (76, 33#8), (608, 1#8)] }))

theorem witness_WritesInALoopPass :
    let g := { loopG.setSPair 2 (capD 0) with em := 1#32 }
    let s := writing g
    let ok := fun (n size kind : Nat) => match s.loopCheck 0 0 g ((laneAccs g 1#32 (.s 2) .zero 0).map (fun a => a.write n)) size kind with
      | .ok keep => keep 0 3
      | .error _ => false
    g.inLoop = true ∧ s.crewIdle 0 g = true ∧ Issues s (.st Guard.none 8#7 (.s 2#6) .zero .b32 .plain .normal 0#16) g ∧
    ok 4 2 2 = true ∧ ok 4 2 3 = true ∧ ok 4 2 4 = true ∧ ok 4 2 5 = true ∧ ok 4 2 7 = true ∧ ok 4 2 8 = true := by decide

/-- LAUNCH after its release, the ring with room (TAIL 65,535, HEAD 65,534) or full (k = 4). -/
def launching (tail head : Nat) (g : Group) : State :=
  onBasin (mapped (labAt g)) (fun b => { b with win := { b.win with tail := tail, head := head, lqbase := capD 32768 } })

theorem witness_LaunchAndCollectivesRun_launch :
    let g := { labG.setSPair 4 (capD 65472) with wait := .stage 1 }
    let s := launching 65535 65534 g
    let f := launching 14 65534 g
    let w := (s.basin 0).win
    capPair g 4#8 = some (capD 65472) ∧ Issues s (.launch 63#6 4#8) g ∧ g.inLoop = false ∧ g.wait = .stage 1 ∧
    checkAccess (s.basin 0) (capD 65472) (capOfs (capD 65472)) 64 64 Rights.r = .ok () ∧ (w.tail + 2 ^ 16 - w.head) % 2 ^ 16 ≠ 2 ^ w.lqk ∧
    s.sliceMay 0 (w.entry w.tail) 64 Rights.w = true ∧ Issues f (.launch 63#6 4#8) g ∧
    w.full = false ∧ (f.basin 0).win.full = true ∧
    Issues (launching 65535 65534 { g with wait := .answer [] }) (.launch 63#6 4#8) { g with wait := .answer [] } ∧
    Issues (launching 14 65534 { g with wait := .answer [] }) (.launch 63#6 4#8) { g with wait := .answer [] } ∧
    ((f.basin 0).win.tail + 2 ^ 16 - (f.basin 0).win.head) % 2 ^ 16 = 2 ^ (f.basin 0).win.lqk := by decide

/-- In an open loop. -/
theorem witness_LaunchAndCollectivesRun_loop :
    let l := { labG.setSPair 4 (capD 0) with loop := some { m := 0, b := 0 } }
    Issues (labAt l) (.launch 63#6 4#8) l ∧ Issues (labAt l) (.coll 4#6 4#8 (.imm 8#7) .add .f32) l ∧ capPair l 4#8 = some (capD 0) ∧
    capPair l ((4#6).setWidth 8) = some (capD 0) ∧ l.inLoop = true := by decide

theorem witness_LaunchAndCollectivesRun_launch_lines :
    let g := { labG.setSPair 4 (capD 65472) with wait := .stage 1 }
    let s := launching 65535 65534 g
    s.custMeets 0 (capD 65472) 64 false = .ok ∧ s.custMeets 0 ((s.basin 0).win.entry 65535) 64 true = .ok := by decide

/-- A slot of two members at the object's start, this device rank 1; the source at its end. -/
def collecting (g : Group) : State :=
  (mapped (labAt g)).writeBytes (memKey 0 2 8) (natBytes 8 (2 + 2 ^ 32) ++ List.replicate 48 0#8 ++ natBytes 4 0xFFFFFFFF)

def labColl : Group := { (labG.setSPair 4 (capD 0)).setSPair 6 (capD 65528) with wait := .stage 0 }

theorem witness_LaunchAndCollectivesRun_coll :
    let g := labColl
    let s := collecting g
    let a := { g with wait := .answer [] }
    capPair g 4#8 = some (capD 0) ∧ Issues s (.coll 6#6 4#8 (.imm 8#7) .add .f32) g ∧ g.inLoop = false ∧ capPair g ((6#6).setWidth 8) = some (capD 65528) ∧
    checkAccess (s.basin 0) (capD 0) (capOfs (capD 0)) 0x40 1 Rights.rw = .ok () ∧ s.collCheck 0 (capD 0) (capD 65528) 8 = .ok () ∧
    (s.basin 0).mayTrack (capD 0) = true ∧ Issues (labAt a) (.coll 6#6 4#8 (.imm 8#7) .add .f32) a ∧ a.wait = .answer [] := by decide +kernel

theorem witness_LaunchAndCollectivesRun_coll_lines :
    let s := collecting labColl
    s.custMeets 0 (capD 0) 0x840 false = .ok ∧ s.custMeets 0 (capD 65528) 8 false = .ok ∧
    s.custMeets 0 (capPlus (capD 0) (slotArea (s.slotRank 0 (capD 0)) ((s.slotNum 0 (capD 0) 0 8 + 1) % 2))) 8 true = .ok := by decide +kernel

/-- A group that waits for both ranks, which have arrived; at the watchdog's end. -/
theorem witness_LaunchAndCollectivesRun_combine :
    let h := { labColl with wait := .coll 0 (capD 0) 8 .add .n32 }
    let s := { onBasin (collecting h) (fun b => { b with colls := [{ slot := capD 0, parity := 1, ranks := [0, 1] }], watchdog := 0 }) with now := 2 ^ 20 }
    s.group? 0 0 = some h ∧ h.wait = .coll 0 (capD 0) 8 .add .n32 ∧ s.slotMembers 0 (capD 0) = 2 ∧ (s.slotNum 0 (capD 0) 0 8 + 1) % 2 = 1 ∧
    (∀ r, r < 2 → r ∈ (s.basin 0).arrivals (capD 0) 1) ∧ 0 + (s.basin 0).watchdog < s.custCycle ∧ h.retired = false := by decide +kernel

theorem witness_LaunchAndCollectivesRun_combine_lines :
    (collecting labColl).custMeets 0 (capD 0) (slotResult 2 + 4096) true = .ok := by decide +kernel

theorem witness_HandlerInstructionsAreGuarded :
    let g := { labG.setSPair 2 (capD 65472) with handler := true }
    let n := { g with handler := false }
    let w := { g with wait := .stage 0 }
    let o := { g with wait := .until .orders }
    let t := { g with wait := .status 0#32 }
    let s := withData (labAt g)
    capPair g 2#8 = some (capD 65472) ∧ Issues (labAt n) (.extmap 63#6 2#8 63#32) n ∧ n.handler = false ∧ Issues (labAt n) (.fwcall 0#6 2#8 1#8) n ∧
    Issues s (.extmap 63#6 2#8 63#32) g ∧ g.handler = true ∧
    checkAccess (s.basin g.basin) (capD 65472) ((capOfs (capD 65472) : Int) + (63#32).toInt) 1 1 Rights.none = .ok () ∧
    Issues (withData (labAt w)) (.fwcall 0#6 2#8 1#8) w ∧ w.wait = .stage 0 ∧ knownFn 1 = true ∧ knownFn 0 = false ∧
    Issues s (.fwcall 0#6 2#8 1#8) g ∧ g.wait = .none ∧ g.orders = [] ∧ Issues (withData (labAt o)) (.fwcall 0#6 2#8 1#8) o ∧
    checkAccess (s.basin g.basin) (capD 65472) (capOfs (capD 65472)) 64 64 Rights.rw = .ok () ∧
    Issues (labAt t) (.fwcall 0#6 2#8 1#8) t ∧ t.wait = .status 0#32 := by decide

/-- A first-touch object whose extent is not mapped, with a channel group whose pool is not empty or none, and one that is mapped. -/
theorem witness_HandlerInstructionsAreGuarded_extents :
    let d := { dataObj with ft := true }
    let s := onBasin (labAt labG) (fun b => { b with objs := NMap.set b.objs 2 d })
    let p := onBasin s (fun b => { b with groups := [0], slices := [0] })
    NMap.get? (s.basin 0).objs 2 = some d ∧ d.ft = true ∧ (s.extent (extKey 0 2 0)).v = false ∧ s.pickExt 0 (s.extDie 0 2 0) = none ∧
    p.pickExt 0 (p.extDie 0 2 0) = some (0, 0) ∧
    ((mapped (labAt labG)).extent (extKey 0 2 0)).v = true ∧ dataObj.ft = false := by decide +kernel
/-! ### Witnesses of requests at their home -/

/-- A request of the group on line 511 of the data object, sent, with number 5 below the next one. -/
def aReq (k : ReqKind) : Req := { Req.new (labG.owner 0 0) k devHere 2 511 1#32 [] false with st := .sent }

def sending (r : Req) : State := { mapped (labAt labG) with reqs := [(5, r)], nextId := 6 }

/-- The request is there, nothing goes before it, and its line is at hand. -/
def atHome (r : Req) (write full : Bool) : Bool :=
  let s := sending r
  decide (s.req? 5 = some r ∧ 5 < s.nextId ∧ r.st = .sent ∧ r.dev = devHere ∧ r.after = []) &&
    decide (s.homeMeets 5 0 r.obj r.line (s.homeDie 0 r.obj r.line (dieOf r.owner.q)) write full true = .ok) &&
    (s.fillLine 0 r.obj r.line (s.homeDie 0 r.obj r.line (dieOf r.owner.q))).isSome

/-- The last 32-bit element of the object. -/
def anElem : Elem := { lane := 31, ofs := 65532, data := 1#64, cmp := 0#64, ver := 0#32 }

theorem witness_WritesPerformAtTheirHome_store :
    let bs : NMap Byte := [(65408, 1#8), (65535, 2#8)]
    let r := aReq (.store true bs)
    atHome r true (bs.length == 128) = true ∧ r.kind.storeBytes = some bs ∧ NMap.sorted bs = true := by decide

theorem witness_WritesPerformAtTheirHome_atomics :
    atHome (aReq (.atom .cas .s32 (some 3) [anElem])) true false = true ∧ atHome (aReq (.atom .add .n32 none [anElem])) true false = true ∧
    atHome (aReq (.signal true 5#32 65532)) true false = true ∧ atHome (aReq (.casv false 3 4 [anElem])) true false = true ∧
    atHome (aReq (.casv false 3 4 [{ anElem with ver := 1#32 }])) true false = true ∧
    ((sending (aReq (.casv false 3 4 [anElem]))).line (lineKey 0 2 511)).version = anElem.ver ∧
    (sending (aReq (.casv false 3 4 [anElem]))).objNum 0 2 65532 4 = 0 := by decide

theorem witness_WritesPerformAtTheirHome_deposit :
    let r := aReq (.dep .add .s32 [anElem])
    atHome r true false = true ∧ (match (sending r).landing 5 r true with
      | .at_ _ _ => true
      | _ => false) = true := by decide

/-- A set of one line, pinned at a version: its expected version matches or does not. -/
def aSet (ver : Word) (pins : List (Nat × Word)) (first : Option Nat) : Valset :=
  { d := 3, elems := [{ anElem with ofs := 2 * 2 ^ 40 + 65532, cmp := 1#64, ver := ver }], wide := false, write := true, vp := 6, em := 0x80000000#32,
    lines := [lineKey 0 2 511], pins := pins, firstPin := first, verdict := none, done := [], quiet := [] }

theorem witness_WritesPerformAtTheirHome_valset :
    let w := aSet 0#32 [(lineKey 0 2 511, 0#32)] (some 0)
    let r := aReq (.valset w)
    let o := aSet 7#32 [(lineKey 0 2 511, 0#32)] (some 0)
    let u := { o with verdict := some false }
    let mine := w.lines.filter (fun j => !w.done.contains j && (sending r).sliceFor 0 (keyObj j) (keyLine j) (dieOf r.owner.q) == 0)
    (sending r).req? 5 = some r ∧ 5 < (sending r).nextId ∧ r.st = .sent ∧ r.dev = devHere ∧ w.pins.length = w.lines.length ∧ w.write = true ∧
    w.holds 0 = true ∧ o.holds 0 = false ∧ u.verdict ≠ none ∧ (sending r).valsetLeft r w ≠ [] ∧ mine = [lineKey 0 2 511] ∧ mine.Nodup ∧
    (∀ j ∈ mine, j = lineKey 0 (keyObj j) (keyLine j)) ∧
    (∀ e ∈ w.elems, e.ofs / 2 ^ 40 < 2 ^ 14 ∧ e.ofs % 2 ^ 40 / 128 < 2 ^ 33 ∧ lineKey 0 (e.ofs / 2 ^ 40) (e.ofs % 2 ^ 40 / 128) ∈ mine) := by decide

/-- Reads on their way; a sampler read whose header is at hand; one that a peer answers. -/
theorem witness_ReadsAndAnswersComplete_reads :
    let l := aReq (.load .ld 4 3 [(31, 65532)] .normal false true)
    let v := aReq (.ldv 4 3 4 [(31, 65532)])
    let e : Nat × Nat × Word × Word := (31, 65472, 0#32, 0#32)
    let t := aReq (.smpl 4 false 0#32 [e])
    atHome l false false = true ∧ atHome v false false = true ∧
    t.st = .sent ∧ t.dev = devHere ∧ (∀ a ∈ (sending t).smplReads t false e, (sending t).smplMeets 5 t a = .ok) ∧
    ((sending t).smplFill t ((sending t).needs t)).isSome = true ∧
    { l with dev := 5 }.dev ≠ devHere ∧ (sending { l with dev := 5 }).portUp { l with dev := 5 } = true := by decide

/-- The group between two jets, with a flight. -/
def labF (k : Path) (dests : List Dest) : Group := { labG with jet := none, flights := [{ id := 4, path := k, ops := 1, dests := dests }] }

/-- Performed requests of it: each kind is answered, without an error or with one. -/
theorem witness_ReadsAndAnswersComplete_answer :
    ∀ k ∈ [ReqKind.load .ld 4 3 [(31, 65532)] .normal false true, .ldv 4 3 4 [(31, 65532)], .smpl 4 false 0#32 [], .atom .add .s32 (some 3) [anElem],
        .casv false 3 4 [anElem], .valset (aSet 0#32 [] none), .store true [(65535, 1#8)], .atom .add .n32 none [anElem], .signal true 5#32 65532,
        .dep .add .s32 [anElem]],
      ∀ err ∈ [none, some 1],
      let r := { aReq k with st := .performed, flight := [4], err := err }
      let g := labF .ld [Dest.new 3 0x80000000#32, Dest.new 4 0x80000000#32]
      let s := (sending r).setGroup 0 0 g
      s.req? 5 = some r ∧ 5 < s.nextId ∧ r.st = .performed ∧ r.err = err ∧ s.ownerGroup? r.owner = some g ∧ g.jet = none ∧ g.retired = false ∧
      (∀ f ∈ g.flights, ∀ e ∈ f.dests, e.raced = 0#32) ∧ (aSet 0#32 [] none).vp < 7 := by decide

/-- A lane of a descent group, with an `ST` or without. -/
def aDescent (st : Option Nat) : Descent := { lane := 31, dst := 3, wide := false, ofs := 65532, stOfs := st, ops := [], pc := 0, vecs := [], vals := [], words := [] }

theorem witness_ReadsAndAnswersComplete_descent :
    ∀ st ∈ [none, some 65528], let r := aReq (.descent (aDescent st))
      atHome r st.isSome false = true ∧ ((aDescent st).stOfs.isSome = true ∨ (sending r).l1Serves r = false) ∧
      (match (sending r).landing 5 r st.isSome with
        | .at_ _ _ => true
        | _ => false) = true := by decide

/-- A read group that the group's L1 copy serves. -/
theorem witness_ReadsAndAnswersComplete_cached :
    let r := aReq (.descent (aDescent none))
    let c : CacheLine := { bytes := List.replicate 128 0#8, version := 0#32, cls := 1, used := 0, sampler := false }
    let s := (sending r).modQuad 0 (fun x => { x with l1 := [(r.key, c)] })
    s.req? 5 = some r ∧ s.l1Serves r = true ∧ (s.quad? 0).bind (fun x => NMap.get? x.l1 r.key) = some c := by decide

/-- An entry whose 64 cycles are over. -/
theorem witness_FabricStepsComplete_combining :
    let e : WcEntry := { owner := labG.owner 0 0, obj := 2, line := 511, bytes := [(65535, 1#8)], since := 0, ticket := 3, leaving := false, flight := [], byHandler := false, accs := [] }
    let s := { (labAt labG).modQuad 0 (fun x => { x with wc := [e] }) with now := 64 }
    (match s.quad? 0 with
      | some x => decide (x.wc[0]? = some e ∧ e.since + 64 ≤ s.now ∧ e.owner.q = 0 ∧ (s.outbound 0).length + x.wc.length ≤ outboundMax)
      | none => false) = true := by decide

theorem witness_FabricStepsComplete_valset :
    let k := lineKey 0 2 511
    let w := aSet 0#32 [] none
    let o := { aSet 0#32 [] (some 0) with lines := [k, k + 1] }
    let s := sending (aReq (.valset w))
    let t := { sending (aReq (.valset o)) with now := 16384 }
    atHome (aReq (.valset w)) true false = true ∧ (aReq (.valset w)).err = none ∧ w.lines[w.pins.length]? = some k ∧ w.verdict = none ∧ w.late s.now = false ∧
    s.valsetReplicated w = false ∧ k = lineKey 0 (keyObj k) (keyLine k) ∧ (w.write && (Valset.lineBytes 0 w k).length == 128) = false ∧
    s.req? 5 = some (aReq (.valset w)) ∧ t.req? 5 = some (aReq (.valset o)) ∧ o.verdict = none ∧ o.pins.length ≠ o.lines.length ∧ o.late t.now = true := by
  decide

/-- A replicated extent with a write waiting; an absent extent of an object; parked requests on a mapped one. -/
theorem witness_FabricStepsComplete_extents :
    let r := aReq (.store true [(65535, 1#8)])
    let s := (sending r).setExtent (extKey 0 2 0) { Extent.init with v := true, reps := [(0, 0, 0), (1, 64, 0)] }
    let p := (sending { r with st := .parked }).setExtent (extKey 0 2 0) { Extent.init with v := true, parked := [5] }
    let a := (sending r).setExtent (extKey 0 2 0) { Extent.init with fp := false }
    let c := (sending (aReq (.copyWrite [(65535, 1#8)]))).setExtent (extKey 0 2 0) Extent.init
    let m := aReq (.smpl 4 false 0#32 [(31, 65472, 0#32, 0#32)])
    let z := (sending m).setExtent (extKey 0 2 0) Extent.init
    (s.extent (extKey 0 2 0)).reps ≠ [] ∧ s.collapser 0 2 0 = some 5 ∧
    (∀ e ∈ (s.extent (extKey 0 2 0)).reps, (0 : Nat) ≤ e.1 ∧ (e.1 = 0 → e = (0, 0, 0))) ∧
    (p.extent (extKey 0 2 0)).v = true ∧ (p.extent (extKey 0 2 0)).parked ≠ [] ∧ p.req? 5 = some { r with st := .parked } ∧
    a.req? 5 = some r ∧ r.st = .sent ∧ (a.needs r).find? (fun e => a.lineAbsent 0 e.1 e.2) = some (2, 511) ∧ r.kind.isCopy = false ∧
    (a.extent (extKey 0 2 0)).fp = false ∧ a.ownerGroup? r.owner = some labG ∧ labG.retired = false ∧
    (c.needs (aReq (.copyWrite [(65535, 1#8)]))).find? (fun e => c.lineAbsent 0 e.1 e.2) = some (2, 511) ∧ (ReqKind.copyWrite []).isCopy = true ∧
    (z.needs m).find? (fun e => z.lineAbsent 0 e.1 e.2) = some (2, 511) := by decide

/-- A copy parked on a mapped extent. -/
theorem witness_FabricStepsComplete_copies :
    let s := (mapped (labAt labG)).modEngine 0 (fun x => { x with copies := [{ aCopy .tstore with parked := some (extKey 0 2 0, 2) }] })
    (s.extent (extKey 0 2 0)).v = true ∧ s.copiesAt (extKey 0 2 0) ≠ [] ∧ (∀ c ∈ (s.engine (slotOf 0)).copies, slotOf c.owner.q = slotOf 0) := by decide

/-- A block clean in a home slice, and dirty; and one in the memory-side cache, newer than HBM's or not. -/
theorem witness_FabricStepsComplete_blocks :
    let s := (sending (aReq (.promote 1))).setLine (lineKey 0 2 0) { Line.init with res := 1#4 }
    let d := s.setLine (lineKey 0 2 0) { Line.init with res := 1#4, dirty := true }
    let m := ({ (mapped (labAt labG)) with stackCaps := [(0, (64, 64))] }.modBasin 0 (fun b => { b with groups := [0], shares := [(0, 8)] })).setBlock (2 * 2 ^ 29)
      { comp := 0#2, msc := 1#4, newer := true }
    (s.extent (extKey 0 2 0)).v = true ∧ (∀ i, i < 16 → (s.line (2 * 2 ^ 33 + i)).pin = none ∧ (s.line (2 * 2 ^ 33 + i)).pend = [] ∧
      (s.line (2 * 2 ^ 33 + i)).dirty = false) ∧ (s.line (2 * 2 ^ 33 + 0)).res ≠ 0#4 ∧
    (d.line (2 * 2 ^ 33 + 0)).dirty = true ∧ (d.block (2 * 2 ^ 29)).comp = 3#2 ∧ (d.block (2 * 2 ^ 29)).msc = 0#4 ∧
    (m.extent (extKey 0 2 0)).v = true ∧ (∀ i, i < 16 → (m.line (2 * 2 ^ 33 + i)).res = 0#4) ∧ (m.block (2 * 2 ^ 29)).msc ≠ 0#4 ∧
    (m.activate 0 ((m.extent (extKey 0 2 0)).chan / 32)).isSome = true ∧ (aReq (.promote 1)).st = .sent ∧
    m.mscRoom (2 * 2 ^ 29) 0 { comp := 0#2, msc := 1#4, newer := true } = true := by decide +kernel

theorem witness_FabricStepsComplete_time :
    let x := { Basin.free with phase := .started, groups := [0], shares := [(0, 1)] }
    let s := { labAt labG with powered := true, now := 16, basins := [(0, x)] }
    let r := { aReq (.load .ld 4 3 [(31, 65532)] .normal false true) with dev := 5, sentAt := 0 }
    let t := { sending r with now := 2 ^ 22 }
    s.powered = true ∧ NMap.getD s.refills 0 0 < (s.now - s.upAt) / 16 ∧ NMap.get? s.basins 0 = some x ∧ x.phase = .started ∧ x.stackGroups 0 ≠ 0 ∧
    t.req? 5 = some r ∧ 5 < t.nextId ∧ r.st = .sent ∧ r.dev ≠ devHere ∧ r.sentAt + 2 ^ 22 ≤ t.now := by decide

/-! ### Witnesses of the host, the launches, the peers, the module and the custodian's calls -/

/-- Launch records of one gang of one crew of one group, the boundaries not those of the group that runs. -/
def recordWith (top : Word) (casc donesig : DWord) (doneval : Word) : BitVec 512 :=
  top ++ 0x00281A0C#32 ++ 0#32 ++ 1#32 ++ doneval ++ 0#32 ++ casc ++ donesig ++ 0#128 ++ loadCap

def aRecord : BitVec 512 := recordWith 0x100#32 0#64 0#64 0#32

/-- The same record with a reserved bit set. -/
def badRecord : BitVec 512 := recordWith 0x10100#32 0#64 0#64 0#32

def aLaunch (r : BitVec 512) : Launch :=
  { num := 1#32, record := r, age := 0, eligible := true, placed := 0, retired := 0, killed := false, complete := false, cascade := false,
    parked := none, refused := false }

/-- A device that is up: the basin holds a slot, a slice and a channel group, its data object is mapped, no group issues. -/
def board : State :=
  let s := mapped (labAt { labG with jet := none })
  { s with powered := true, sites := [0], now := 10 ^ 9, quads := s.quads.map (fun (e : Nat × Quad) => (e.1, { e.2 with issuing := none })) }.modBasin 0
    (fun b => { b with slots := [0], slices := [0], groups := [0], accepting := true,
                       win := { b.win with lqbase := capD 0, wins := [(7, capD 0)] } })

theorem witness_HostAccessesComplete_windows :
    board.hasWindow 1 = true ∧ board.hasWindow 0 = true ∧ board.hasWindow 16 = false ∧ (board.winOf 0).busy = false ∧
    ((board.modWin 0 (fun w => { w with busy := true })).winOf 0).busy = true ∧ knownFn 0x48 = true ∧ knownFn 0x0C = false ∧
    board.bootFailed = false ∧ (board.basin 0).phase = .started ∧ (board.basin 0).win.tail = 0 ∧
    { board with agenda := [.control 1 0x140 2] }.agenda = .control 1 0x140 2 :: [] ∧ { board with agenda := [.control 1 0x140 2] }.hasWindow 1 = true := by decide

theorem witness_HostAccessesComplete_memory :
    let c := board.aperture 0 7
    let h : HostWrite := { id := 9, basin := 0, obj := 2, ofs := 65535, bytes := [1#8], park := none }
    let s := { board with inbound := [h] }
    capDev c = devHere ∧ checkAccess (board.basin 0) c ((capOfs c + 65408 : Nat) : Int) 128 1 Rights.w = .ok () ∧
    checkAccess (board.basin 0) c ((capOfs c + 65535 : Nat) : Int) 1 1 Rights.r = .ok () ∧ board.inbound = [] ∧
    board.custMeets 0 (mkCap devHere (capObj c) 65535) 1 false = .ok ∧ lineParts 65535 1 = [(0, 65535, 1)] ∧
    s.inbound[0]? = some h ∧ h.obj < 2 ^ 14 ∧ h.ofs + h.bytes.length ≤ 2 ^ 40 ∧ s.hereMeets h.id 0 2 h.ofs h.bytes.length true (fun _ => 0) = .ok ∧
    (h.ofs + h.bytes.length - 1) / 128 = h.ofs / 128 ∧ h.park = none ∧ board.hostReads = [] := by decide

/-- A window over an object of a peer. -/
def peerWindow : State :=
  let d : ImportDesc := { dev := 5, onum := 9, rd := true, wr := true, sizeM1 := 127 }
  board.modBasin 0 (fun b => { b with imports := [d], peers := [(5, (0, 0))], credits := 4, win := { b.win with wins := [(7, mkCap 5 9 0)] } })

theorem witness_HostAccessesComplete_peer :
    let c := peerWindow.aperture 0 7
    capDev c = 5 ∧ checkAccess (peerWindow.basin 0) c ((capOfs c + 124 : Nat) : Int) 4 1 Rights.w = .ok () ∧
    (∀ l ∈ pieceLines [(124, 4)], peerPort 9 l ∉ peerWindow.downPorts ∧ (peerWindow.basin 0).hasCredit (peerPort 9 l) = true) := by decide

/-- With ports that are up and credits, a peer's line does not wait. -/
theorem peerMeets_credit (s : State) (b obj : Nat) (ls : List Nat) (h : ∀ l ∈ ls, (s.basin b).hasCredit (peerPort obj l) = true) :
    s.peerMeets b obj ls ≠ .wait := by
  have hc : ls.all (fun l => (s.basin b).hasCredit (peerPort obj l)) = true := List.all_eq_true.mpr h
  unfold State.peerMeets
  rw [hc]
  split
  · simp
  · cases Config.freeBit s.freeIx <;> simp

theorem witness_HostAccessesComplete_errors :
    let e : ErrRec := { queue := 0, stamp := 0, count := 1, cause := 8, basin := 0, src := 0, addr := 0#64, info := 0#32, ext := 0xFFFFFF, first := 0 }
    { board with errHeld := [e] }.errHeld[0]? = some e ∧ e.first + 2 ^ 20 ≤ { board with errHeld := [e] }.custCycle := by decide

/-- A ring with one record in it: well formed, or with no gang. -/
def ringed (r : BitVec 512) : State :=
  (board.writeBytes (memKey 0 2 0) (natBytes 64 r.toNat)).modBasin 0 (fun b => { b with win := { b.win with tail := 1 } })

/-- The record can be read, and is well formed or not. -/
def readsRecord (s : State) (c : DWord) (r : BitVec 512) (ok : Bool) : Bool :=
  match s.readRecord 0 c with
  | some (s1, .ok v) => decide (v = r) && s1.recordOk 0 (lrecOf v) == ok
  | _ => false

theorem witness_LaunchStepsComplete_accept :
    let x := (ringed aRecord).basin 0
    let c := x.win.entry x.win.head
    x.phase = .started ∧ x.accepting = true ∧ x.win.head ≠ x.win.tail ∧ x.launches.length < 32 ∧ x.tailWaits = [] ∧
    readsRecord (ringed aRecord) c aRecord true = true ∧ readsRecord (ringed badRecord) c badRecord false = true := by decide +kernel

/-- A launch in the basin. -/
def launched (l : Launch) (s : State) : State := s.modBasin 0 (fun b => { b with launches := [l] })

theorem witness_LaunchStepsComplete_place :
    let held := { aLaunch aRecord with eligible := false }
    let s := launched held board
    let p := (launched (aLaunch aRecord) board).setQuad 4 { Quad.init with basin := some 0 }
    s.launch? 0 1#32 = some held ∧ s.waitHolds 0 held.fields = true ∧
    p.mayPlace 0 = true ∧ p.headLaunch 0 = some (aLaunch aRecord) ∧
    (p.placeGang 0 1#32 (aLaunch aRecord).fields 0).isSome = true := by decide

/-- A second quadrant that holds a crew whose group is in its handler and so must stay; the new gang fits on neither
quadrant, and does once the first quadrant is empty. -/
def crowded (h : Bool) : State :=
  let r := { loadRec with scr := 0, vgran := 0, hgran := 0 }
  let y := ({ Quad.init with basin := some 0 }).placeCrew 0 0#32 r 0 0 (0, 0, 0)
  let y := { y with groups := y.groups.map (fun (e : Nat × Group) => (e.1, { e.2 with handler := true })) }
  ((launched (aLaunch aRecord) board).setQuad 4 y).setGroup 0 0 { labG with jet := none, halted := h }

/-- The crew that moves. -/
def moved (h : Bool) : Nat × Crew := ((crowded h).movable 0).headD (0, ⟨0#32, 0, 0, 0, 0, 0, 0, 0, 0, 0, [], []⟩)

/-- With one crew that may move and one place that serves, the plan is that one. -/
theorem plan_of_one (s : State) (b : Nat) (l : Launch) (x : Nat × Crew) (w : List ((Nat × Crew) × Nat)) (hc : s.movable b = [x])
    (hw : s.moveWays b l [x] = [w]) : s.migrationPlan b l = some w := by
  simp [State.migrationPlan, hc, choose, hw, List.range_succ, Nat.mod_one]

theorem witness_LaunchStepsComplete_migration_plan : ∀ h, (crowded h).migrationPlan 0 (aLaunch aRecord) = some [(moved h, 4)] := by
  intro h
  cases h
  · exact plan_of_one _ _ _ (moved false) _ (by decide) (by decide)
  · exact plan_of_one _ _ _ (moved true) _ (by decide) (by decide)

theorem witness_LaunchStepsComplete_migration (h : Bool) :
    (crowded h).mayPlace 0 = true ∧ (crowded h).headLaunch 0 = some (aLaunch aRecord) ∧
    (crowded h).placeGang 0 1#32 (aLaunch aRecord).fields 0 = none := by revert h; decide

theorem witness_LaunchStepsComplete_migration_steps :
    (crowded false).haltCrews 0 [moved false] ≠ crowded false ∧ (crowded true).haltCrews 0 [moved true] = crowded true ∧
    ((crowded true).moveCrew (moved true).1 (moved true).2 4).isSome = true ∧ (moved true).1 = 0 ∧
    (match (crowded true).quad? 0 with
      | some y => (y.crewGroups (moved true).2).all (fun p => (crowded true).groupQuiet 0 p.1 p.2 && decide ((moved true).2.firstSlot ≤ p.1 ∧
          p.1 < (moved true).2.firstSlot + (moved true).2.size ∧ NMap.get? y.groups p.1 = some p.2))
      | none => false) = true := by decide

theorem witness_LaunchStepsComplete_end :
    let s := board.setGroup 0 0 { labG with jet := none, retired := true }
    let done := recordWith 0x102#32 0#64 (capD 65532) 7#32
    let cas := recordWith 0x104#32 (capD 0) 0#64 0#32
    let fin (r : BitVec 512) : Launch := { aLaunch r with placed := 1, retired := 1 }
    let t := launched (fin done) board
    (match s.quad? 0 with
      | some y => decide (y.bankIds 0 = [])
      | none => false) = true ∧
    (∀ p, p ≠ Path.st → ({ labG with jet := none, retired := true }).counter p = 0) ∧
    t.launch? 0 1#32 = some (fin done) ∧ (fin done).placed = (fin done).fields.gangs ∧ (fin done).retired = (fin done).groups ∧
    t.drained 0 1#32 = true ∧ (fin done).fields.den = true ∧ t.sliceMay 0 (fin done).fields.donesig 4 Rights.w = true ∧
    t.custMeets 0 (fin done).fields.donesig 4 true = .ok ∧ capDev (fin done).fields.donesig = devHere ∧
    (fin aRecord).fields.den = false ∧ (fin cas).fields.cen = true ∧
    (launched { fin done with refused := true } board).launch? 0 1#32 = some { fin done with refused := true } ∧
    (board.setExtent (extKey 0 2 0) Extent.init).custMeets 0 (fin done).fields.donesig 4 true = .absent ∧
    readsRecord (launched { fin cas with complete := true } (ringed aRecord)) (fin cas).fields.casc aRecord true = true := by
  refine ⟨by decide, ?_, by decide, by decide, by decide, by decide, by decide, by decide, by decide, by decide, by decide, by decide, by decide,
    by decide, by decide +kernel⟩
  intro p _
  cases p <;> decide

/-- A request of a peer on the last byte of the exported data object. -/
def asked (a : PeerAsk) (rd wr : Bool) : State :=
  { board with peerIn := [{ id := 1, basin := 0, obj := 2, ask := a, park := none }] }.modBasin 0
    (fun b => { b with exports := [{ obj := 2, peer := 3, rd := rd, wr := wr }] })

/-- The request is the first, its port is up, its access passes, and its lines are at hand. -/
def peerReady (a : PeerAsk) : Bool :=
  let s := asked a true true
  let r : PeerReq := { id := 1, basin := 0, obj := 2, ask := a, park := none }
  let p := a.span
  decide (s.peerIn[0]? = some r) && (s.basin 0).exported r && decide (p.1 + p.2 ≤ 2 ^ 40) &&
    decide (checkAccess (s.basin 0) (mkCap devHere 2 p.1) p.1 p.2 1 Rights.none = .ok ()) &&
    decide (s.hereMeets r.id 0 2 p.1 p.2 (!a.isRead) (portDie 2) = .ok) && r.lines.all (fun k => !s.downPorts.contains (peerPort (keyObj k) (keyLine k)))

theorem witness_PeersAndErrorsComplete_requests :
    let r (a : PeerAsk) : PeerReq := { id := 1, basin := 0, obj := 2, ask := a, park := none }
    ((asked (.store 65535 [1#8]) true false).basin 0).exported (r (.store 65535 [1#8])) = false ∧
    peerReady (.read 65535 1) = true ∧ peerReady (.store 65535 [1#8]) = true ∧ peerReady (.signal true 1#32 65532) = true ∧
    peerReady (.atom .add .s32 [anElem]) = true ∧ peerReady (.coll 0 1 1 [1#8, 2#8, 3#8, 4#8]) = true ∧
    ((asked (.read 65535 1) true false).basin 0).mayTrack (mkCap devHere 2 0) = true ∧
    ((asked (.read 65535 1) true true).basin 0).phase = .started ∧ NMap.has ((asked (.read 65535 1) true true).basin 0).objs 2 = true := by decide

theorem witness_PeersAndErrorsComplete_errors :
    let k := lineKey 0 2 511
    let d : ImportDesc := { dev := 3, onum := 9, rd := true, wr := false, sizeM1 := 0 }
    let s := board.modBasin 0 (fun b => { b with imports := [d] })
    let res (dirty : Bool) := board.setLine k { Line.init with res := 1#4, dirty := dirty }
    let r := { board with eccs := [(5, Config.retireThreshold + 1)], phys := [(5, .mapped 0 2 0)] }
    d ∈ (s.basin 0).imports ∧ board.powered = true ∧ (board.linePhys k).isSome = true ∧ board.group? 0 0 = some { labG with jet := none } ∧
    ((res false).linePhys k).isSome = true ∧ ((res false).line k).res ≠ 0#4 ∧ ((res false).line k).dirty = false ∧ ((res true).line k).dirty = true ∧
    NMap.get? r.phys 5 = some (.mapped 0 2 0) ∧ (r.pickExt 0 (5 / 65536 / 64)).isSome = true ∧
    (r.modBasin 0 (fun b => { b with groups := [] })).pickExt 0 (5 / 65536 / 64) = none := by decide

theorem witness_PeersAndErrorsComplete_threshold :
    Config.retireThreshold < NMap.getD { board with eccs := [(5, Config.retireThreshold + 1)] }.eccs 5 0 := by
  simp [NMap.getD, NMap.get?]

theorem witness_PeersAndErrorsComplete_arrival :
    let sv : Saved := { quad := 3, image := { Quad.init with groups := [(5, labG)] }, replay := [] }
    let im : Image := { target := 1, ids := 0, slots := 1, basin := Basin.free, mem := [], lines := [], blocks := [], extents := [], quads := [sv], engines := [] }
    let s := { board with images := [im] }.modBasin 1 (fun b => { b with phase := .created, slots := [1] })
    s.images[0]? = some im ∧ s.takes im = true ∧ ((s.arrive 0 im).imageRoom im).isSome = true ∧ (s.basin im.target).sliced = false := by decide

/-- Two time-sliced basins with work. -/
def sliced2 : State :=
  (launched (aLaunch aRecord) board).modBasin 0 (fun b => { b with slots := [], sliced := true }) |>.modBasin 1
    (fun b => { b with phase := .started, sliced := true, launches := [aLaunch aRecord] })

theorem witness_SwitchesAndModuleStepsComplete_turns :
    sliced2.tripped = false ∧ sliced2.turn = none ∧ { sliced2 with lastTurn := 0 }.nextTurn 0 = some 1 ∧ sliced2.nextTurn sliced2.lastTurn ≠ none ∧
    { sliced2 with turn := some (0, 0) }.nextTurn 0 = some 1 ∧ 0 + (sliced2.basin 0).quantum ≤ sliced2.custCycle ∧
    ((sliced2.modBasin 1 (fun b => { b with launches := [] })).nextTurn 0) = none ∧
    (∀ e ∈ sliced2.quads, e.2.halted = false) := by decide

/-- The quadrant told to stop; and its saved state. -/
def stopped : State := board.stopQuads 0

theorem witness_SwitchesAndModuleStepsComplete_halt :
    (match stopped.quad? 0 with
      | some x => decide (x.basin = some 0 ∧ x.halted = true ∧ stopped.isSaved 0 0 = false ∧ stopped.quadQuiet 0 x = true ∧ x.groups ≠ [])
      | none => false) = true ∧ (∀ e ∈ stopped.quads, slotOf e.1 = slotOf 0 → e.1 = 0) := by decide

theorem witness_SwitchesAndModuleStepsComplete_restore :
    let sv : Saved := { quad := 0, image := (board.quads.head?.map (fun e => e.2)).getD Quad.init, replay := [] }
    let en : SavedEng := { qs := 0, image := SlotEng.init }
    let s := { stopped with saved := [(0, sv)], savedEng := [(0, en)] }
    s.saved.find? (fun e => e.1 == 0 && e.2.quad == 0) = some (0, sv) ∧ sv.image.groups ≠ [] ∧ s.turnOf 0 = some 0 ∧
    (s.basin 0).moving = false ∧ s.tripped = false ∧ (s.quad? 0).isSome = true ∧
    (s.basin 0).sliced = false ∧ s.savedEng.find? (fun e => e.1 == 0 && e.2.qs == 0) = some (0, en) ∧
    stopped.saved.find? (fun e => e.1 == 0 && e.2.quad == 0) = none := by decide

theorem witness_SwitchesAndModuleStepsComplete_module :
    State.reset.powered = false ∧ State.reset.bootFailed = false ∧ board.powered = true ∧ board.lastThrottle = none ∧
    (2 ^ 22 : Nat) ≤ { board with lastThrottle := some 0 }.custCycle ∧ { board with tripped := true }.tripped = true ∧ board.tripped = false := by decide

/-- A call block: fields at their offsets, in ascending order. -/
def blockOf (fields : List (Nat × Nat × Nat)) : NMap Byte :=
  fields.flatMap (fun f => (natBytes f.2.1 f.2.2).zipIdx.map (fun e => (f.1 + e.2, e.1)))

def aCall (fn : Nat) : Call := { fn := fn, fromGroup := none, block := 0#64, held := none }

/-- The bytes of a mailbox. -/
def boxOf (s : State) (caller : Nat) : List Byte := (List.range 64).map (fun i => NMap.getD (s.winOf caller).mbox i 0#8)

/-- The basin's mailbox holds a call; object 3 is a first-touch object, and the code object may be executed. -/
def calling (fn : Nat) (fields : List (Nat × Nat × Nat)) : State :=
  board.modBasin 0 (fun b => { b with calls := [aCall fn], win := { b.win with mbox := blockOf fields, busy := true },
                                      objs := NMap.set b.objs 3 { dataObj with ft := true }, peers := [(1022, (5, 0))] })

theorem witness_ObjectCallsEndWithTheirStatus_create :
    let bs := boxOf (calling 1 [(0, 8, 16382), (8, 8, 2 ^ 40), (0x10, 8, 0x62)]) 0
    let cs := boxOf (calling 1 [(0, 8, 2), (8, 8, 1), (0x10, 8, 0x40)]) 0
    (calling 1 []).callsOf 0 = [aCall 1] ∧ blk bs 0 8 = 16382 ∧ blk bs 0x18 8 = 0 ∧ blk bs 8 8 = 2 ^ 40 ∧
    (descOf (blk bs 8 8) (blk bs 0x10 8)).allowed = true ∧ (descOf (blk bs 8 8) (blk bs 0x10 8)).ft = true ∧
    NMap.has ((calling 1 []).basin 0).objs 16382 = false ∧ NMap.has ((calling 1 []).basin 0).objs (blk cs 0 8) = true ∧
    (descOf (blk cs 8 8) (blk cs 0x10 8)).allowed = true := by decide

/-- With an image: the last word of the data object. -/
theorem witness_ObjectCallsEndWithTheirStatus_image :
    let s := calling 1 [(0, 8, 5), (8, 8, 4), (0x10, 8, 1), (0x18, 8, (capD 65532).toNat)]
    let bs := boxOf s 0
    blk bs 0 8 = 5 ∧ blk bs 8 8 = 4 ∧ blkCap bs 0x18 = capD 65532 ∧ (descOf 4 (blk bs 0x10 8)).allowed = true ∧ (descOf 4 (blk bs 0x10 8)).ft = false ∧
    checkAccess (s.basin 0) (capD 65532) (capOfs (capD 65532)) 4 1 Rights.r = .ok () ∧ NMap.has (s.basin 0).objs 5 = false ∧
    s.custMeets 0 (capD 65532) 4 false = .ok := by decide

/-- An object in use by a write of the group. -/
theorem witness_ObjectCallsEndWithTheirStatus_destroying :
    let s := { calling 2 [(0, 8, 2)] with reqs := [(5, aReq (.store true [(65535, 1#8)]))], nextId := 6 }
    blk (boxOf s 0) 0 8 = 2 ∧ NMap.has (s.basin 0).objs 2 = true ∧ ((s.holdBlock 0 (boxOf s 0)).beginDestroy 0 2).objBusy 0 2 = true := by decide

/-- A request parked on an absent extent of object 3. -/
theorem witness_ObjectCallsEndWithTheirStatus_refuse :
    let s := { calling 5 [(0, 8, (mkCap devHere 3 0).toNat)] with reqs := [(5, { aReq (.store true [(5, 1#8)]) with obj := 3, line := 0, st := .parked })], nextId := 6 }.setExtent
      (extKey 0 3 0) { Extent.init with fp := true, parked := [5] }
    blkCap (boxOf s 0) 0 = mkCap devHere 3 0 ∧ (s.extent (extKey 0 3 0)).v = false ∧ 5 ∈ (s.extent (extKey 0 3 0)).parked ∧ (s.req? 5).isSome = true := by
  decide

theorem witness_ObjectCallsEndWithTheirStatus_destroy :
    let s := calling 2 [(0, 8, 3)]
    blk (boxOf s 0) 0 8 = 3 ∧ NMap.has (s.basin 0).objs 3 = true ∧ s.objBusy 0 3 = false ∧ NMap.has (s.basin 0).objs 16382 = false := by decide

theorem witness_ObjectCallsEndWithTheirStatus_extents :
    let cap := mkCap devHere 3 65535
    let s := calling 3 [(0, 8, cap.toNat)]
    let t := s.setExtent (extKey 0 3 0) { Extent.init with v := true }
    blkCap (boxOf s 0) 0 = cap ∧ capDev cap = devHere ∧ NMap.get? (s.basin 0).objs (capObj cap) = some { dataObj with ft := true } ∧
    (s.extent (extKey 0 3 (65535 / 65536))).v = false ∧ (s.mapExt 0 3 0).isSome = true ∧ (t.extent (extKey 0 3 0)).v = true ∧
    t.extBusy (extKey 0 3 0) = false := by decide

theorem witness_ObjectCallsEndWithTheirStatus_rights :
    let s := calling 6 [(0, 8, 16383), (8, 8, 1022), (0x10, 8, 3)]
    let t := calling 7 [(0, 8, 1022), (8, 8, 16383)]
    let h := calling 8 [(0, 8, (mkCap devHere 1 65532).toNat)]
    let a := calling 0xB [(0x10, 8, (capD 65280).toNat)]
    blk (boxOf s 0) 0 8 ≤ 16383 ∧ blk (boxOf s 0) 8 8 = 1022 ∧ NMap.has (s.basin 0).peers 1022 = true ∧
    ((s.addObj 0 16383 dataObj).basin 0).objs ≠ [] ∧ blk (boxOf t 0) 0 8 = 1022 ∧ blk (boxOf t 0) 8 8 = 16383 ∧
    (t.basin 0).imports = [] ∧ (∃ d, NMap.get? (h.basin 0).objs (capObj (blkCap (boxOf h 0) 0)) = some d ∧ d.ex = true ∧
      capOfs (blkCap (boxOf h 0) 0) ≤ d.sizeM1) ∧ capOfs (blkCap (boxOf h 0) 0) % 4 = 0 ∧
    checkAccess (a.basin 0) (blkCap (boxOf a 0) 0x10) (capOfs (blkCap (boxOf a 0) 0x10)) 256 256 Rights.w = .ok () ∧
    a.custMeets 0 (blkCap (boxOf a 0) 0x10) 256 true = .ok := by
  refine ⟨by decide, by decide, by decide, by decide, by decide, by decide, by decide, ?_, by decide, by decide, by decide⟩
  exact ⟨{ sizeM1 := 65535, rd := true, wr := false, ex := true, const := false, repl := false, ft := false, list := 0 }, by decide⟩

/-- A group's call: its block is at hand. -/
theorem witness_ObjectCallsEndWithTheirStatus_group :
    let g := { labG with jet := none, wait := .call }
    let o := labG.owner 0 0
    let s := (board.setGroup 0 0 g).modBasin 0 (fun b => { b with calls := [{ fn := 0xA, fromGroup := some o, block := capD 65472, held := none }] })
    s.custMeets o.basin (capD 65472) 64 true = .ok ∧ s.ownerGroup? o = some g ∧ g.wait = .call := by decide

/-- Physical function 0's mailbox holds a call. -/
def hyper (fn : Nat) (fields : List (Nat × Nat × Nat)) (f : Basin → Basin) : State :=
  { board with pfCalls := [aCall fn], pf := { board.pf with mbox := blockOf fields, busy := true } }.modBasin 15 f

theorem witness_HypervisorCallsEndWithTheirStatus_create :
    let s := hyper 0x40 [(0, 4, 15), (4, 4, 1), (8, 8, 2 ^ 63), (0x10, 8, 2 ^ 63)] id
    let bs := boxOf s 16
    s.pfCalls = [aCall 0x40] ∧ blk bs 0 4 = 15 ∧ (s.basin 15).phase = .free ∧ (blk bs 4 4) % 4 = 1 ∧ (blk bs 4 4).testBit 8 = false ∧
    s.downStacks = [] ∧ maskSet 64 (blk bs 8 8) = [63] ∧ maskSet 64 (blk bs 0x10 8) = [63] ∧ (∀ e ∈ s.basins, 63 ∉ e.2.slices ∧ 63 ∉ e.2.groups) ∧
    63 / 8 ∉ s.downStacks ∧ s.lentGroup 63 = false := by decide

theorem witness_HypervisorCallsEndWithTheirStatus_start :
    let f (b : Basin) : Basin := { b with phase := .created }
    let g (b : Basin) : Basin := { b with phase := .created, slots := [1] }
    let s := hyper 0x41 [(0, 4, 15), (8, 8, 2)] f
    let t := hyper 0x42 [(0, 4, 15), (0x10, 4, 32)] g
    blk (boxOf s 16) 8 8 = 2 ∧ 1 ∈ s.sharedSlots ∧ (s.basin 15).phase = .created ∧ (s.basin 15).sliced = false ∧
    (∀ e ∈ s.basins, ¬ (e.2.phase = .started ∧ e.2.sliced = true)) ∧
    blk (boxOf t 16) 0x10 4 = 32 ∧ (t.basin 15).slots ≠ [] ∧
    t.basins.foldl (fun n e => if e.2.phase = .started then n + e.2.credits else n) (blk (boxOf t 16) 0x10 4) ≤ 32 := by decide

/-- A time-sliced basin with the longest quantum. -/
theorem witness_HypervisorCallsEndWithTheirStatus_sliced :
    let t := hyper 0x42 [(0, 4, 15), (4, 4, 500000000), (0x10, 4, 1)] (fun b => { b with phase := .created, sliced := true })
    blk (boxOf t 16) 4 4 = 500000000 ∧ blk (boxOf t 16) 0x10 4 = 1 ∧ (t.basin 15).phase = .created ∧ (t.basin 15).sliced = true ∧
    t.sharedSlots ≠ [] ∧ t.basins.foldl (fun n e => if e.2.phase = .started then n + e.2.credits else n) 1 ≤ 32 := by decide

/-- A basin that is moving with nothing left to save. -/
theorem witness_HypervisorCallsEndWithTheirStatus_moving :
    let s := hyper 0x45 [(0, 4, 15), (4, 4, 1022), (8, 4, 15)] (fun b => { b with phase := .started, moving := true })
    (s.basin 15).moving = true ∧ s.allSaved 15 = true ∧ (s.basin 15).calls = [] ∧ blk (boxOf s 16) 0 4 = 15 := by decide

theorem witness_HypervisorCallsEndWithTheirStatus_end :
    let f (b : Basin) : Basin := { b with phase := .started, peers := [(1022, (5, 0))] }
    let s := hyper 0x43 [(0, 4, 15)] f
    let r := hyper 0x44 [(0, 4, 15)] (fun b => { b with phase := .revoked })
    let m := hyper 0x45 [(0, 4, 15), (4, 4, 1022), (8, 4, 15)] f
    let p := hyper 0x47 [(0, 4, 15), (4, 4, 1022), (8, 4, 1023), (0xC, 4, 15)] (fun b => { b with phase := .created })
    let k := hyper 0x48 [(0, 4, 7), (4, 4, 65528), (8, 4, 8)] id
    (s.basin 15).phase = .started ∧ (r.basin 15).phase = .revoked ∧ (m.basin 15).moving = false ∧ blk (boxOf m 16) 4 4 = 1022 ∧
    blk (boxOf m 16) 8 4 = 15 ∧ (m.basin 15).exports = [] ∧ NMap.has (m.basin 15).peers 1022 = true ∧
    blk (boxOf p 16) 8 4 = 1023 ∧ blk (boxOf p 16) 0xC 4 = 15 ∧ NMap.has (p.basin 15).peers 1022 = false ∧
    blk (boxOf k 16) 0 4 = 7 ∧ budgetOk (blk (boxOf k 16) 4 4) = true ∧ budgetOk (blk (boxOf k 16) 8 4) = true ∧
    (∀ e ∈ k.basins, e.2.phase = .started → k.custMeets e.1 (mkCap devHere 16383 (0x100 + 8 * 7)) 8 true ≠ .wait) := by decide

theorem witness_HypervisorCallsEndWithTheirStatus_group :
    let g := { labG with jet := none, wait := .call }
    let o := labG.owner 0 0
    let s := (board.setGroup 0 0 g).modBasin 0 (fun b => { b with calls := [{ fn := 0x43, fromGroup := some o, block := capD 0, held := none }] })
    (s.basin 0).control = false ∧ s.custMeets o.basin (capD 0) 64 true = .ok ∧ s.ownerGroup? o = some g := by decide

/-- An `IADD`, and a word that is no instruction, at the pc of the issuing group; a move that names an instruction. -/
theorem witness_StepRunsTheDecodedInstruction :
    let at_ (w : Word) : State := { coded [w] labG with agenda := [.issue 0] }
    let t (w : Word) : State := match (at_ w).quad? 0 with
      | some x => { { at_ w with agenda := [] }.setQuad 0 { x with issued := some 0 } with cur := (0, 0) }
      | none => at_ w
    (match (at_ 0#32).quad? 0 with
      | some x => decide (x.issuing = some 0 ∧ x.issued = none ∧ NMap.get? x.groups 0 = some labG)
      | none => false) = true ∧
    (t 0x02050280#32).fetch labG = .ok (0x02050280#32, 0#32) ∧ labG.jetOr.dscLeft = 0 ∧
    decode 0x02050280#32 0#32 = .ok (.iaddLane false 5#7 (.v 2#7) (.latch 0#3)) ∧
    (t 0#32).fetch labG = .ok (0#32, 0#32) ∧ (match decode 0#32 0#32 with
      | .error _ => true
      | .ok _ => false) = true ∧ labG.jetOr.plan = none ∧ labG.jetOr.pos < 23 ∧ isTrailWord (W1.ofWord 0#32) = false ∧
    (encode (.iaddLane false 5#7 (.v 2#7) (.latch 0#3))).isSome = true := by decide

/-- A pc beyond the code object: no word can be fetched. -/
theorem witness_StepRunsTheDecodedInstruction_fetch :
    let g := { labG with pc := 65536 }
    let s : State := { labAt g with agenda := [.issue 0] }
    (match s.quad? 0 with
      | some x =>
        let t : State := { { s with agenda := [] }.setQuad 0 { x with issued := some 0 } with cur := (0, 0) }
        decide (x.issuing = some 0 ∧ x.issued = none ∧ NMap.get? x.groups 0 = some g) && (match t.fetch g, t.fetchWord g g.pc with
          | .error e, .error _ => e.code == 0x06
          | _, _ => false)
      | none => false) = true := by decide

theorem witness_MemoryStaysInOrder :
    let s : State := { coded [0x02050280#32] labG with agenda := [.issue 0] }
    Memory.wf s.mem = true ∧ (match step s with
      | .next _ => true
      | _ => false) = true := by decide

theorem witness_DecodingInvertsEncoding :
    let i : Instr := .imad false { neg := true, p := 7#3 } 127#7 (.v 127#7) (.imm 31#5) (.latch 7#3) .satN
    WellFormed i = true ∧ (encode i).isSome = true ∧ (encode (.iaddLane true 0#7 .zero (.v 0#7))).isSome = true := by decide

/-! ### Values that the spec prints -/

/-- Lane 31 of the result latch of one instruction, with `v1`, `v2` and `v3` holding the given words in every lane. -/
def ran (a b c : Word) (i : Instr) : Option Word :=
  let g := ((labG.setV 1 (lanesOf (fun _ => a))).setV 2 (lanesOf (fun _ => b))).setV 3 (lanesOf (fun _ => c))
  match exec i (labAt g) with
  | .next t => (t.group? 0 0).bind (fun h => match h.jetOr.latches with
      | [.lane x] => some (Lanes.at x 31)
      | _ => none)
  | _ => none

/-- R334: a = 0x80000000 and b = 2. -/
theorem test_integer_family :
    ran 0x80000000#32 2#32 0#32 (.imulLane false 0#7 (.v 1#7) (.v 2#7)) = some 0#32 ∧
    ran 0x80000000#32 2#32 0#32 (.imulhiS32 false 0#7 (.v 1#7) (.v 2#7)) = some 0xFFFFFFFF#32 ∧
    ran 0x80000000#32 2#32 0#32 (.imulhiN32 false 0#7 (.v 1#7) (.v 2#7)) = some 1#32 ∧
    ran 0x80000000#32 2#32 0#32 (.iminS32Lane false 0#7 (.v 1#7) (.v 2#7)) = some 0x80000000#32 ∧
    ran 0x80000000#32 2#32 0#32 (.iminN32 false 0#7 (.v 1#7) (.v 2#7)) = some 2#32 := by decide

/-- The examples of R287, R289, R368 and the entry of SHL and SHR. -/
theorem test_bits :
    ran 0xABCD#32 4#32 8#32 (.bfe false Guard.none 0#7 (.v 1#7) (.v 2#7) (.v 3#7) false) = some 0xBC#32 ∧
    ran 0xABCD#32 4#32 8#32 (.bfe false Guard.none 0#7 (.v 1#7) (.v 2#7) (.v 3#7) true) = some 0xFFFFFFBC#32 ∧
    ran 0xA#32 0x12345678#32 0#32 (.bfi false Guard.none 0#7 (.v 1#7) (.v 2#7) (.const 8#6 4#6)) = some 0x12345A78#32 ∧
    ran 0xF0F00001#32 0#32 0#32 (.popc false 0#7 (.v 1#7)) = some 9#32 ∧
    ran 0x80000000#32 31#32 0#32 (.shrS32Lane false 0#7 (.v 1#7) (.v 2#7)) = some 0xFFFFFFFF#32 := by decide

/-- The `IMAD` of R335's entry, wrapping and saturating. -/
theorem test_multiply_add :
    ran 0x7FFFFFFF#32 3#32 5#32 (.imad false Guard.none 0#7 (.v 1#7) (.v 2#7) (.v 3#7) .wrap) = some 0x80000002#32 ∧
    ran 0x7FFFFFFF#32 3#32 5#32 (.imad false Guard.none 0#7 (.v 1#7) (.v 2#7) (.v 3#7) .satS) = some 0x7FFFFFFF#32 ∧
    ran 0xFFFFFFF9#32 3#32 5#32 (.imad false Guard.none 0#7 (.v 1#7) (.v 2#7) (.v 3#7) .satS) = some 0xFFFFFFF0#32 := by decide

/-- `FFMA` is fused, `FMUL` and `FADD` are not: the example of the entry of FFMA. -/
theorem test_fused :
    ran 0x3F800800#32 0xBF800000#32 0#32 (.ffma false Guard.none 0#7 (.v 1#7) (.v 1#7) (.v 2#7)) = some 0x3A000400#32 ∧
    ran 0x3F800800#32 0#32 0#32 (.fmul false 0#7 (.v 1#7) (.v 1#7)) = some 0x3F801000#32 ∧
    ran 0x3F801000#32 0xBF800000#32 0#32 (.fadd false 0#7 (.v 1#7) (.v 2#7)) = some 0x3A000000#32 := by decide

/-- The table of R311. -/
theorem test_conversions :
    fcvtW true .rn 2 0 .e4m3 .f32 0x43FA0000#32 0x11223344#32 = (0x117E3344#32, 0b01010#5) ∧
    fcvtW false .rn 2 0 .e4m3 .f32 0x43FA0000#32 0x11223344#32 = (0x117F3344#32, 0b01011#5) ∧
    fcvtW false .rm 0 0 .s32 .f32 0xC0200000#32 0#32 = (0xFFFFFFFD#32, 0b00010#5) ∧
    fcvtW false .rn 0 0 .s32 .f32 0xC0200000#32 0#32 = (0xFFFFFFFE#32, 0b00010#5) ∧
    fcvtW false .rn 0 1 .f32 .bf16 0x3FC00000#32 0#32 = (0x3FC00000#32, 0#5) ∧
    fcvtW false .rz 0 0 .n8 .f32 0x43960000#32 0xAABBCCDD#32 = (0xAABBCCFF#32, 0b10000#5) := by decide

/-- Rounded and clamped: 300.5 and -0.25 to n8 raise NV and NX (R184). -/
theorem test_conversion_clamps :
    fcvtW false .rn 0 0 .n8 .f32 0x43964000#32 0#32 = (0xFF#32, 0b10010#5) ∧
    fcvtW false .rm 0 0 .n8 .f32 0xBE800000#32 0xFF#32 = (0#32, 0b10010#5) := by decide

/-- The example of R186: no sub-element reaches its neighbours. -/
theorem test_packed :
    paddW false .e4m3x4 0xFA7F3878#32 0xFA381878#32 = (0xFF7F387F#32, 0b01011#5) ∧
    paddW true .e4m3x4 0xFA7F3878#32 0xFA381878#32 = (0xFE7F387E#32, 0b01011#5) := by decide

/-- Logical byte 0x25 of row 11 lies at base + 0x595 (R190). -/
theorem test_tile_byte : tileByte 0 11 0x25 = 0x595 := by decide

/-- `VOTE` in ballot mode over a tile of width 8: the example of R401. -/
theorem test_ballot :
    let g := { labG with part := 3#32, em := 0xFF00#32, p := [(1, 0x1200#32)] }
    (match exec (.vote Guard.none 0#7 .ballot false 1#3) (labAt g) with
      | .next t => (t.group? 0 0).map (fun h => h.vflights.flatMap (fun f => f.dests.map (fun d => (Lanes.at d.2 8, Lanes.at d.2 15))))
      | _ => none) = some [(0x12#32, 0x12#32)] := by decide

/-- The latches of R45's example: `IMUL.nw` writes `b1` and no register. -/
theorem test_latch :
    (match exec (.imulLane true 9#7 (.v 1#7) (.v 2#7)) (labAt ((labG.setV 1 (lanesOf (fun _ => 6#32))).setV 2 (lanesOf (fun _ => 7#32)))) with
      | .next t => (t.group? 0 0).map (fun h => (h.lane 9 0, h.jetOr.latches == [.lane (lanesOf (fun _ => 42#32))]))
      | _ => none) = some (0#32, true) := by decide


/-! ### The save area (R52, R53, R207) -/

/-- A group in its handler, with a value in each kind of register. -/
def savedGroup : Group :=
  { ((labG.setS 3 0x11223344#32).setV 5 (lanesOf (fun l => BitVec.ofNat 32 (l * 256)))) with
    pc := 0x1234, handler := true, stack := [{ pending := true, mask := 7#32, addr := 8 }, { pending := false, mask := 9#32, addr := 4 }],
    fwd := [1#32, 2#32], ret := [3#32], h := [(2, { Heading.zero with norm := Heading.zero.norm.set 1 0x0102#16 })],
    frame := some (labG.saveFrame 0) }

/-- The bytes at the offsets of the tables of R52 and R53: pc, depth and handler flag, s3, the rejoin entries, the queue counts, v5
in lane 7, norm entry 1 of h2 after four directions, and em in the trap frame. -/
theorem test_save_area :
    [0x000, 0x001, 0x048, 0x049, 0x10D, 0x220, 0x224, 0x230, 0x234, 0x490, 0x491, 0x980 + 128 * 5 + 4 * 7 + 1,
      0x980 + 16 * 1024 + 2048 * 4 + 32 * 2 + 2, 0x980 + 16 * 1024 + 2048 * 4 + 32 * 2 + 3, 0x500 + 0x440].map (areaByte savedGroup.saveArea) =
      [some 0x34#8, some 0x12#8, some 1#8, some 2#8, some 0x33#8, some 9#8, some 0#8, some 7#8, some 1#8, some 2#8, some 1#8, some 7#8,
       some 2#8, some 1#8, some 0xFF#8] := by decide +kernel

/-- A reserved offset holds 0 (R4). -/
theorem test_save_area_reserved : areaByte savedGroup.saveArea 0x050 = some 0#8 := by decide +kernel

/-- A replay packet's fields by R258's table: SEQ, SCOPE and ORD, LAND, DST, SIZE and KIND, BOFS of lane 3, MASK, LINE. -/
theorem test_replay_packet :
    let r := { Req.new (labG.owner 0 0) (.load .ld 4 9 [(3, 0x204)] .normal false true) devHere 5 4 8#32 [] false with ord := 1, scope := 3 }
    (r.packet 6).length = 64 ∧ [16, 20, 21, 22, 23, 26, 52, 57].map (fun i => (r.packet 6)[i]?) =
      [some 6#8, some 0x2C#8, some 7#8, some 0x24#8, some 0x14#8, some 0x80#8, some 8#8, some 2#8] := by decide +kernel

/-! ### Witnesses of clauses on the values of results, on the jet, the fences and the requests -/

/-- Finite operands whose exact sum and product are far from the limit. -/
theorem witness_FloatSumsAndProductsRoundToNearest_finite :
    FloatFinite fF32 (0x3F800000#32).toNat ∧ FloatFinite fF32 (0x80000001#32).toNat ∧ FloatFinite fF32 (faddW 0x3F800000#32 0x80000001#32).1.toNat ∧
    |floatVal fF32 (0x3F800000#32).toNat + floatVal fF32 (0x80000001#32).toNat| < 2 ^ 128 - 2 ^ 103 := by
  refine ⟨by unfold FloatFinite; decide, by unfold FloatFinite; decide, by unfold FloatFinite; decide +kernel, ?_⟩
  norm_num [floatVal, fF32, abs_lt]

theorem witness_FloatLaneInstructionsRun_values :
    let x := 0x3F800000#32
    ¬ (x.toNat / 2 ^ 23 % 256 = 255 ∧ x.toNat % 2 ^ 23 ≠ 0) ∧ FloatFinite fF32 x.toNat ∧ FloatFinite fF32 (ffmaW x x x).1.toNat ∧
    |floatVal fF32 x.toNat * floatVal fF32 x.toNat + floatVal fF32 x.toNat| < 2 ^ 128 - 2 ^ 103 := by
  refine ⟨by decide, by unfold FloatFinite; decide, by unfold FloatFinite; decide +kernel, ?_⟩
  norm_num [floatVal, fF32, abs_lt]

theorem witness_ConversionsAndPackedOperationsRun_values :
    FloatFinite (packFF .e4m3x4) 0x7E ∧ (3 : Nat) < 32 / (packFF .e4m3x4).width ∧ FloatFinite (cvtFF .f16) 0x7BFF ∧ CvtFmt.f16.isFloat = true ∧
    CvtFmt.s8.isFloat = false ∧ (3 : Nat) < 32 / CvtFmt.s8.width := by
  refine ⟨by unfold FloatFinite; decide, by decide, by unfold FloatFinite; decide, by decide, by decide, by decide⟩

theorem witness_TrapsEnterTheHandlerOrEndTheLaunch_bpt :
    let h := { labG with handler := true }
    Issues (labAt h) .bpt h ∧ h.handler = true ∧ Issues (labAt labG) .bpt labG ∧ ((labAt labG).basin labG.basin).handler = none := by decide

/-- Latches that hold a heading, and one that holds none; the cases of HCVT, HADD and HSCL. -/
theorem witness_HeadingInstructionsRun_cases :
    let g := { labLast with jet := some { Jet.fresh 0 with pos := 22, latches := [.heading Heading.zero, .lane Lanes.zero] } }
    let n := labLast.setV 120 (lanesOf (fun l => if l = 0 then 0x7FC00000#32 else if l = 8 then 0x7F800000#32 else 0#32))
    let hs := ((labLast.setH 0 { Heading.zero with norm := List.replicate 16 0x7FFF#16 }).setH 1 { Heading.zero with norm := List.replicate 16 0x0100#16 }).setH 2
      { Heading.zero with norm := List.replicate 16 0x8000#16 }
    g.jetOr.latches.getD (0x80 - 0x80) .none = .heading Heading.zero ∧ Issues (labAt g) (.hdot false Guard.none 120#7 0x80#8 0x80#8) g ∧
    shapeCheck g (guardMask g Guard.none) [] = none ∧ (∀ h, g.jetOr.latches.getD (0x81 - 0x80) .none ≠ .heading h) ∧
    ¬ (0x81#8).toNat < 16 ∧ Issues (labAt g) (.hdot false Guard.none 120#7 0x81#8 0x80#8) g ∧
    0x7F800000 < (n.lane 120 0).toNat % 2 ^ 31 ∧ (n.lane 120 8).toNat % 2 ^ 31 = 0x7F800000 ∧ (n.lane 121 16).toNat % 2 ^ 31 < 0x7F800000 ∧
    (hs.getH 0).norm.getD 0 0#16 = 0x7FFF#16 ∧ (hs.getH 2).norm.getD 0 0#16 = 0x8000#16 ∧ shapeCheck hs (guardMask hs Guard.none) [0, 1, 2] = none ∧
    ((hs.getH 1).norm.getD 0 0#16).toInt % 256 = 0 ∧ (selAt hs (.fconst 2#4) 0).toNat % 2 ^ 31 < 0x7F800000 := by
  refine ⟨rfl, by decide +kernel, by decide +kernel, fun h => ?_, by decide, by decide +kernel, by decide +kernel, by decide +kernel, by decide +kernel,
    by decide +kernel, by decide +kernel, by decide +kernel, by decide +kernel, by decide +kernel⟩
  change Latch.lane Lanes.zero ≠ Latch.heading h
  simp

/-- An ordered STS and an ordered ATOMS without a lane in an open loop. -/
theorem witness_ScratchpadAccessesEnterTheirBanks_noLane :
    let g := { labLast with s := [(2, 65520#32)], em := 0#32, loop := some { m := 64, b := 0 } }
    g.inLoop = true ∧ guardMask g Guard.none = 0#32 ∧ (labAt g).crew? 0 g = some labC ∧ g.dataOk 124 16 = true ∧
    Issues (labAt g) (.sts Guard.none 124#7 (.s 2#6) .zero .b128 (.ordered true) 0#16) g ∧
    Issues (labAt g) (.atoms Guard.none 126#7 (.s 2#6) .zero (.v 4#7) .cas (.acqrel .crew) .s64 false false 2#7) g := by decide

/-- A SIGNAL that waits for its acknowledgement, and one that has it. -/
theorem witness_UniformAccessesWaitAndComplete_signal :
    let g := labG.setSPair 2 (capD 65528)
    ∀ w ∈ [Wait.request 7, .answer []], Issues (withData (labAt { g with wait := w })) (.signal true 2#8 (.imm 0#7)) { g with wait := w } ∧
      capPair { g with wait := w } 2#8 = some (capD 65528) ∧ { g with wait := w }.inLoop = false := by decide

/-- A group released from a gate goes on whatever its operands hold by then. -/
theorem witness_GateOperationsComplete_released_operand :
    let r := { labG with wait := .gate 8 false true }
    Issues (withGate r 1#8) (.gate (.wait (.imm 2#7)) (.imm 4#7) 4#16) r ∧ r.wait = .gate 8 false true ∧ 1 < (uAt r (.imm 2#7)).toNat := by decide

/-- A pass over rows of zeros, none of them written in the window. -/
theorem witness_MatrixPassesRun_sums :
    let s := { (labAt labG).modEngine 0 (fun x => { x with pass := some ({ anMma with fmt := .bf16 }, 32) }) with now := 32 }
    s.group? 0 0 = some labG ∧ s.crew? 0 labG = some labC ∧ rowDirty anMma.dirty anMma.a (blkSize anMma.blka) 63 = false ∧
    mmaFmts .bf16 = some (fBf16, fBf16) ∧ (∀ i, i < 1024 / fBf16.width → labC.elem anMma.a 63 fBf16.width i = 0) ∧ FloatFinite fBf16 0 := by
  refine ⟨by decide, by decide, by decide, by decide, by decide +kernel, by unfold FloatFinite; decide⟩

/-- No copy of the group on a descriptor but its own. -/
theorem witness_CopiesArePosted_idle : (labAt (labT 64 63)).copyIdle 0 0 (labT 64 63) 7 = true := by decide

/-- A ring whose entry lies in an absent extent; a bad length of COLL with a slot that is refused. -/
theorem witness_LaunchAndCollectivesRun_refused :
    let g := { labG.setSPair 4 (capD 65472) with wait := .answer [] }
    let s := (launching 65535 65534 g).setExtent (extKey 0 2 0) Extent.init
    let c := { (labG.setSPair 4 (capD 65536)).setSPair 6 (capD 65528) with wait := .none }
    let t := mapped (labAt c)
    (s.basin 0).win.full = false ∧ s.sliceMay 0 ((s.basin 0).win.entry 65535) 64 Rights.w = true ∧
    s.custMeets 0 ((s.basin 0).win.entry 65535) 64 true = .absent ∧ Issues s (.launch 63#6 4#8) g ∧ capPair g 4#8 = some (capD 65472) ∧
    Issues t (.coll 6#6 4#8 (.imm 3#7) .add .f32) c ∧ collLenBad (uAt c (.imm 3#7)).toNat = true ∧ capPair c 4#8 = some (capD 65536) ∧
    (capPair c ((6#6).setWidth 8)).isSome = true ∧ c.inLoop = false ∧ c.wait = .none ∧
    checkAccess (t.basin 0) (capD 65536) (capOfs (capD 65536)) 0x40 1 Rights.rw ≠ .ok () := by decide

/-- A sampler read at a peer, its headers still to come; an acknowledged SIGNAL whose group waits for it. -/
theorem witness_ReadsAndAnswersComplete_waiting :
    let e : Nat × Nat × Word × Word := (31, 65472, 0#32, 0#32)
    let t := { aReq (.smpl 4 false 0#32 [e]) with dev := 5 }
    let r := { aReq (.signal true 5#32 65532) with st := .performed }
    let g := { labG with jet := none, wait := .request 5 }
    t.st = .sent ∧ t.data = [] ∧ (sending t).portUp t = true ∧ { t with data := [(65472, 0#8)] }.data ≠ [] ∧
    ((sending r).setGroup 0 0 g).req? 5 = some r ∧ ((sending r).setGroup 0 0 g).ownerGroup? r.owner = some g ∧ g.wait = .request 5 ∧ r.err = none ∧
    (∀ f ∈ g.flights, ∀ e ∈ f.dests, e.raced = 0#32) := by decide

/-- What goes before a request has parked; a read of a retired group; a probe and a copy in a park list. -/
theorem witness_FabricStepsComplete_parked :
    let k := extKey 0 2 0
    let r := aReq (.load .ld 4 3 [(31, 65532)] .normal false true)
    let g := { labG with jet := none, retired := true }
    let s := ((sending r).setExtent k Extent.init).setGroup 0 0 g
    let b := { (sending { r with after := [4] }) with reqs := [(4, { aReq (.store true [(65535, 1#8)]) with st := .parked }), (5, { r with after := [4] })] }
    let p := ((sending { aReq (.probe 2 65532) with st := .parked }).setExtent k { Extent.init with v := true, parked := [5, 4] }).modEngine 0
      (fun x => { x with copies := [{ aCopy .tstore with id := 4, parked := some (k, 2) }] })
    s.req? 5 = some r ∧ s.mayPark (r.standAt (2, 511)) k = true ∧ s.copyLower 5 r = [] ∧ (s.needs r).find? (fun e => s.lineAbsent 0 e.1 e.2) = some (2, 511) ∧ r.kind.writeClass = false ∧
    r.kind.isCopy = false ∧ s.ownerGroup? r.owner = some g ∧ (b.setExtent k { Extent.init with parked := [4] }).mayPark { r with after := [4] } k = true ∧
    (p.extent k).v = true ∧ (p.extent k).parked = [5, 4] ∧ (ReqKind.probe 2 65532).isProbe = true ∧ p.req? 4 = none ∧ 4 < p.nextId ∧
    (p.engine (slotOf 0)).copies.map (fun c => c.id) = [4] := by decide

/-- A held launch whose signal lies at a peer behind a port that is down. -/
theorem witness_LaunchStepsComplete_signal :
    let l := { aLaunch (0x101#32 ++ 0x00281A0C#32 ++ 0#32 ++ 1#32 ++ 0#32 ++ 0#32 ++ 0#64 ++ 0#64 ++ mkCap 5 9 0 ++ 0#64 ++ loadCap) with eligible := false }
    let s := { launched l board with downPorts := List.range 36 }
    s.launch? 0 1#32 = some l ∧ l.fields.wen = true ∧ capDev l.fields.waitsig ≠ devHere ∧ s.waitHolds 0 l.fields = false ∧
    s.custMeets 0 l.fields.waitsig 4 false = .bad 3 := by decide

/-- A line without a home copy whose block stands clean in the memory-side cache. -/
theorem witness_PeersAndErrorsComplete_clean :
    let k := lineKey 0 2 511
    let bk := blockKey (keyBasin k) (keyObj k) (keyLine k)
    let s := board.setBlock bk { comp := 0#2, msc := 1#4, newer := false }
    (s.linePhys k).isSome = true ∧ (s.line k).res = 0#4 ∧ (s.block bk).msc ≠ 0#4 ∧ (s.block bk).newer = false := by decide

/-- A call whose block has been read already. -/
theorem witness_ObjectCallsEndWithTheirStatus_held :
    let c := { aCall 2 with held := some (natBytes 64 3) }
    let s := (calling 2 []).setCalls 0 [c]
    s.callsOf 0 = [c] ∧ c.held ≠ none ∧ blk (c.held.getD []) 0 8 = 3 ∧ NMap.has (s.basin 0).objs 3 = true := by decide
/-! ### Witnesses of the bounds over the reals, of the ready set, and of what a monitor has let go -/

/-- Operands at clause borders: the least positive subnormal for the domains, -1 outside them, 2^-149 and 1/2. -/
theorem witness_SpecialFunctionsMeetTheirBounds :
    FloatFinite fF32 (0x00000001#32).toNat ∧ 0 < floatVal fF32 (0x00000001#32).toNat ∧ FloatFinite fF32 (0xBF800000#32).toNat ∧
    floatVal fF32 (0xBF800000#32).toNat < 0 ∧ floatVal fF32 (0x3F000000#32).toNat = 0 + 1 / 2 ∧ floatVal fF32 (0xBF800000#32).toNat = -1 ∧
    FloatFinite fF32 (sfuW .rcp 0x40400000#32).1.toNat ∧ ¬ FloatFinite fF32 (sfuW .rcp 0x00000001#32).1.toNat := by
  refine ⟨by unfold FloatFinite; decide, ?_, by unfold FloatFinite; decide, ?_, ?_, ?_, by unfold FloatFinite; decide +kernel,
    by unfold FloatFinite; decide +kernel⟩ <;> norm_num [floatVal, fF32]

/-- Tiles of 8 components whose norms differ by an odd multiple of 128, the vector longer than the lesser weight. -/
theorem witness_RootWeightsRoundClosely :
    let a : TileVec := { dir := [16384, 0, 0, 0, 0, 0, 0, 0], norm := 128#16 }
    let b : TileVec := { dir := [0, 16384, 0, 0, 0, 0, 0, 0], norm := 0#16 }
    a.dir.length = b.dir.length ∧ 8 ≤ a.dir.length ∧ a.dir.length ≤ 256 ∧ (∀ x ∈ a.dir ++ b.dir, |x| ≤ 2 ^ 15) ∧
    (∀ n ∈ [a.norm, b.norm], n ≠ 0x8000#16 ∧ n ≠ 0x7FFF#16) ∧ (a.norm.toInt - b.norm.toInt) % 256 = 128 ∧
    128#16 ≠ 0x8000#16 ∧ 128#16 ≠ 0x7FFF#16 ∧ (-32768 : Int) ≠ 0 ∧ |(-32768 : Int)| ≤ 2 ^ 15 := by
  intro a b
  have hb : ∀ x ∈ ([16384, 0, 0, 0, 0, 0, 0, 0] ++ [0, 16384, 0, 0, 0, 0, 0, 0] : List Int), -32768 ≤ x ∧ x ≤ 32768 := by decide +kernel
  have hn : ((128#16).toInt - (0#16).toInt) % 256 = 128 := by decide
  exact ⟨rfl, by simp [a], by simp [a], fun x hx => (abs_le.mpr (hb x hx)).trans (by norm_num), by simp [a, b], hn, by decide, by decide, by decide,
    by norm_num⟩

/-- The length of that vector is at least its greatest component, which is at least 1. -/
theorem witness_RootWeightsRoundClosely_length :
    let y : Nat → ℝ := fun k => (2 : ℝ) ^ (((128 - 0 : Int) : ℝ) / 256) * (([16384, 0, 0, 0, 0, 0, 0, 0].getD k 0 : Int) : ℝ) +
      (if false = true then -1 else 1) * (2 : ℝ) ^ (((0 - 0 : Int) : ℝ) / 256) * (([0, 16384, 0, 0, 0, 0, 0, 0].getD k 0 : Int) : ℝ)
    1 ≤ Real.sqrt ((List.range 8).map (fun k => y k ^ 2)).sum := by
  intro y
  refine Real.one_le_sqrt.mpr ?_
  have h1 : y 1 = 16384 := by simp [y]
  have hs : ((List.range 8).map (fun k => y k ^ 2)).sum = y 0 ^ 2 + y 1 ^ 2 + y 2 ^ 2 + y 3 ^ 2 + y 4 ^ 2 + y 5 ^ 2 + y 6 ^ 2 + y 7 ^ 2 := by
    simp [List.range_succ, add_assoc]
  rw [hs, h1]
  have := sq_nonneg (y 0); have := sq_nonneg (y 2); have := sq_nonneg (y 3); have := sq_nonneg (y 4)
  have := sq_nonneg (y 5); have := sq_nonneg (y 6); have := sq_nonneg (y 7)
  linarith

/-- A YIELD beside a second group that is ready and one that waits at a barrier. -/
theorem witness_GroupsEndAndYield_ready :
    let r := { labG with jet := none }
    let s := ((coded [0x96000000#32, 0x93000080#32] labG).setGroup 0 3 { r with gangs := 7 }).setGroup 0 5 { r with wait := .acqb }
    Issues s .yield labG ∧ (match s.quad? 0 with
      | some x => s.isReady 0 x 3 && !s.isReady 0 x 5
      | none => false) = true := by decide

/-- A COPY with a line still to be written while the next goes out, to an object of this device. -/
theorem witness_CopyRowsAndLinesAdvance_outstanding :
    let k : CopyKind := .copy (capD 32768) (capD 0) 260 none
    let c := { aCopy k with t := 7, sent := 128, writes := [3] }
    let s := (mapped (labAt (labT 64 0))).modEngine 0 (fun x => { x with copies := [c] })
    (s.engine 0).copies[0]? = some c ∧ c.sent < 260 ∧ min (128 - (32768 + 128) % 128) (260 - 128) = 128 ∧ capDev (capD 32768) = devHere ∧ c.writes ≠ [] ∧
    (match (s.leavePark c).copySource c 0 devHere 2 ((128, 128) :: copyAhead c (capD 32768) (capD 0) 260 128) with
      | .ok _ => true
      | _ => false) = true ∧
    (s.leavePark c).copyBehind c ((pieceLines [(32768 + 128, 128)]).map (lineKey 0 2)) = false ∧
    (s.leavePark c).pieceMeets c.id 0 devHere 2 (32768 + 128) 128 (dieOf 0) true ≠ .absent ∧
    s.copyStops 0 c = false ∧ s.copyParked c = false := by decide

/-- A line of a COPY whose lower lines are over. -/
theorem witness_WritesPerformAtTheirHome_copyLine :
    let r := aReq (.copyWrite [(65535, 1#8)])
    r.kind.isCopy = true ∧ (sending r).copyMayWrite 5 r = true ∧ atHome r true false = true := by decide

/-- A host write and a peer's request that a monitor has let go, and one of a peer at an absent extent. -/
theorem witness_HostAccessesComplete_released :
    let p : Parked := { id := 9, keys := [], freed := true, after := [] }
    let h : HostWrite := { id := 9, basin := 0, obj := 2, ofs := 65535, bytes := [1#8], park := some p }
    let s := { board with inbound := [h] }
    s.inbound[0]? = some h ∧ p.freed = true ∧ p.after = [] ∧ s.hereMeets h.id 0 2 h.ofs h.bytes.length true (fun _ => 0) = .ok := by decide

theorem witness_PeersAndErrorsComplete_parked :
    let a : PeerAsk := .read 65535 1
    let p : Parked := { id := 9, keys := [], freed := true, after := [] }
    let s := asked a true true
    let u := s.setExtent (extKey 0 2 0) Extent.init
    p.freed = true ∧ p.after = [] ∧ (s.basin 0).phase = .started ∧ s.hereMeets p.id 0 2 65535 1 false (portDie 2) = .ok ∧
    (u.basin 0).exported { id := 1, basin := 0, obj := 2, ask := a, park := none } = true ∧ NMap.has (u.basin 0).objs 2 = true ∧
    u.hereMeets u.nextId 0 2 65535 1 false (portDie 2) = .absent := by decide

/-- An object of two clean replicas whose copy in one of them fails, none in a cache. -/
theorem witness_PeersAndErrorsComplete_spare :
    let k := lineKey 0 2 511
    let s := board.setExtent (k / 512) { board.extent (k / 512) with reps := [(0, 0, 0), (1, 64, 0)] }
    (s.line k).res = 0#4 ∧ (s.block (blockKey (keyBasin k) (keyObj k) (keyLine k))).msc = 0#4 ∧ 2 ≤ (s.extent (k / 512)).reps.length := by decide

/-- A bad length of COLL with a slot at a peer, and with the header of a slot here at hand. -/
theorem witness_LaunchAndCollectivesRun_badLength :
    let c := { (labG.setSPair 4 (capD 0)).setSPair 6 (capD 65528) with wait := .none }
    let t := mapped (labAt c)
    Issues t (.coll 6#6 4#8 (.imm 3#7) .add .f32) c ∧ collLenBad (uAt c (.imm 3#7)).toNat = true ∧ capPair c 4#8 = some (capD 0) ∧
    t.custMeets 0 (capD 0) 0x40 false = .ok ∧ capDev (mkCap 5 9 0) ≠ devHere := by decide

/-- A call of a group whose block has been read, its reply's line not waiting. -/
theorem witness_ObjectCallsEndWithTheirStatus_reply :
    capDev (capD 65472) = devHere ∧ board.custMeets 0 (capD 65472) 64 true ≠ .wait := by decide
end Sys2Proof.Tests
end

section
/-! The state after reset: what a number that nothing lists reads as, and the obligation about `State.reset`. -/

namespace Sys2Proof.Machine

/-! ### Reads of a number that nothing lists -/

theorem NMap.getD_of_get?_none {α : Type} {m : NMap α} {i : Nat} (d : α) (h : NMap.get? m i = none) :
    NMap.getD m i d = d := by
  rw [NMap.getD, h, Option.getD_none]

/-- Mapped memory is scrubbed, so that a byte that nothing has written reads 0 (R232). -/
theorem State.readByte_of_unlisted {s : State} {k : Nat} (h : NMap.get? s.mem k = none) : s.readByte k = 0#8 :=
  NMap.getD_of_get?_none memDefault h

theorem State.extent_of_unlisted {s : State} {k : Nat} (h : NMap.get? s.extents k = none) : s.extent k = Extent.init :=
  NMap.getD_of_get?_none Extent.init h

theorem State.basin_of_unlisted {s : State} {b : Nat} (h : NMap.get? s.basins b = none) : s.basin b = Basin.free :=
  NMap.getD_of_get?_none Basin.free h

/-- A quadrant that is not there holds no group. -/
theorem State.group?_of_quad?_none {s : State} {q : Nat} (slot : Nat) (h : s.quad? q = none) : s.group? q slot = none := by
  rw [State.group?, h]

/-! ### Reset -/

/-- No key of memory is listed after reset, and likewise for the extents, basins and quadrants below. -/
@[simp] theorem State.reset_readByte (k : Nat) : State.reset.readByte k = 0#8 := State.readByte_of_unlisted (NMap.get?_nil k)

@[simp] theorem State.reset_extent (k : Nat) : State.reset.extent k = Extent.init := State.extent_of_unlisted (NMap.get?_nil k)

@[simp] theorem State.reset_basin (b : Nat) : State.reset.basin b = Basin.free := State.basin_of_unlisted (NMap.get?_nil b)

@[simp] theorem State.reset_quad? (q : Nat) : State.reset.quad? q = none := NMap.get?_nil q

@[simp] theorem State.reset_group? (q slot : Nat) : State.reset.group? q slot = none :=
  State.group?_of_quad?_none slot (State.reset_quad? q)

/-- Settles O56: what a map holds after reset is its default at every key; the other fields stand in `State.reset`. -/
theorem resetLeavesADeviceThatIsOff : Obligations.ResetLeavesADeviceThatIsOff := by
  have extents_unmapped : ∀ k, (State.reset.extent k).v = false := fun k => by rw [State.reset_extent, Extent.init]
  have basins_free : ∀ b, (State.reset.basin b).phase = .free := fun b => by rw [State.reset_basin, Basin.free]
  exact ⟨rfl, rfl, State.reset_wf, State.reset_readByte, extents_unmapped, basins_free, State.reset_quad?,
    State.reset_group?, rfl, rfl, rfl, rfl, rfl, rfl⟩

end Sys2Proof.Machine
end

section
/-! The next move of the agenda: an issue runs what the words at the group's pc decode to, and the obligation about `step`. -/

namespace Sys2Proof.Machine

/-! ### The issue of a quadrant -/

theorem State.group?_setQuad (s : State) (q slot : Nat) (x : Quad) : (s.setQuad q x).group? q slot = NMap.get? x.groups slot := by
  simp [State.group?, State.quad?]

/-- The state in which the issuing group of a quadrant runs its next instruction: the move is taken, the quadrant marked, the group current. -/
def State.issueState (s : State) (rest : List Move) (q slot : Nat) (x : Quad) : State :=
  { { s with agenda := rest }.setQuad q { x with issued := some slot } with cur := (q, slot) }

theorem State.group?_issueState (s : State) (rest : List Move) (q slot : Nat) (x : Quad) :
    (s.issueState rest q slot x).group? q slot = NMap.get? x.groups slot :=
  State.group?_setQuad { s with agenda := rest } q slot { x with issued := some slot }

theorem step_of_agenda {s : State} {m : Move} {rest : List Move} (h : s.agenda = m :: rest) :
    step s = State.perform { s with agenda := rest } m := by
  rw [step, h]

theorem step_of_issue {s : State} {q slot : Nat} {rest : List Move} {x : Quad} (ha : s.agenda = .issue q :: rest)
    (hx : s.quad? q = some x) (hi : x.issuing = some slot) (hn : x.issued = none) :
    step s = (s.issueState rest q slot x).runNext := by
  have hx' : State.quad? { s with agenda := rest } q = some x := hx
  rw [step_of_agenda ha, State.perform]
  simp [State.issueNow, hx', hi, hn, State.issueState]

/-! ### The next instruction of the current group: one equation for each answer of the fetch and of the decoder -/

section
variable {t : State} {q slot : Nat} {g : Group} (hcur : t.cur = (q, slot)) (hg : t.group? q slot = some g)
include hcur hg

theorem runNext_of_decode {w : Word × Word} {i : Instr} (hf : t.fetch g = .ok w) (hd : g.jetOr.dscLeft = 0)
    (hi : decode w.1 w.2 = .ok i) : t.runNext = exec i t := by
  simp [State.runNext, hcur, hg, hf, hd, hi]

theorem runNext_of_not_decode {w : Word × Word} {e : DecErr} (hf : t.fetch g = .ok w) (hd : g.jetOr.dscLeft = 0)
    (he : decode w.1 w.2 = .error e) : t.runNext = .next (t.wordTrap q slot g w true (Trap.plain 0x01)) := by
  simp [State.runNext, hcur, hg, hf, hd, he]

theorem runNext_of_fetch_error {w0 : Word} {tr : Trap} (hf : t.fetch g = .error tr)
    (hw : t.fetchWord g g.pc = .ok w0 ∨ w0 = 0#32 ∧ ∃ e, t.fetchWord g g.pc = .error e) :
    t.runNext = .next ((t.fetchError g tr).wordTrap q slot g (w0, 0#32) false tr) := by
  obtain hw | ⟨rfl, e, hw⟩ := hw
  · simp [State.runNext, hcur, hg, hf, hw]
  · simp [State.runNext, hcur, hg, hf, hw]

end

/-- The structure of a jet is in order before its 24th instruction, without a queue violation found by its preparation, and with no
catch-up instruction past its first place (R43). -/
theorem jetCheck_eq_none {j : Jet} {catchUp trail : Bool} (hp : j.plan = none) (hpos : j.pos < 23)
    (hc : catchUp = true → j.pos = 0) : jetCheck j catchUp trail = none := by
  have h23 : j.pos ≠ 23 := Nat.ne_of_lt hpos
  have first : (catchUp && j.pos != 0) = false := by cases catchUp <;> simp_all
  simp [jetCheck, hp, h23, first]

theorem wordTrap_of_jetCheck {t : State} {q slot : Nat} {g : Group} {w : Word × Word} {tr : Trap}
    (h : jetCheck g.jetOr (overrunFirstWord (W1.ofWord w.1)) (isTrailWord (W1.ofWord w.1)) = none) :
    t.wordTrap q slot g w true tr = (t.setGroup q slot g.opened).takeTrap q slot w (wordLen w.1) tr := by
  simp [State.wordTrap, h]

/-- Settles O57: the issue of a quadrant is `runNext` on the state that the statement names, and `runNext` has one equation
for each answer of the fetch and of the decoder. -/
theorem stepRunsTheDecodedInstruction : Obligations.StepRunsTheDecodedInstruction := by
  refine ⟨?decodes, ?illegal, ?fetchTrap, ?encoded⟩
  case decodes =>
    intro s q slot rest x g w0 w1 i ha hx hi hn hg t hf hd hdec
    have hgroup := (s.group?_issueState rest q slot x).trans hg
    exact (step_of_issue ha hx hi hn).trans (runNext_of_decode rfl hgroup hf hd hdec)
  case illegal =>
    intro s q slot rest x g w0 w1 e ha hx hi hn hg t hf hd hdec hp hpos hc _
    have hgroup := (s.group?_issueState rest q slot x).trans hg
    have inOrder := jetCheck_eq_none (trail := isTrailWord (W1.ofWord w0)) hp hpos hc
    exact (step_of_issue ha hx hi hn).trans ((runNext_of_not_decode rfl hgroup hf hd hdec).trans
      (congrArg _ (wordTrap_of_jetCheck inOrder)))
  case fetchTrap =>
    intro s q slot rest x g w0 tr ha hx hi hn hg t hf hw
    have hgroup := (s.group?_issueState rest q slot x).trans hg
    exact (step_of_issue ha hx hi hn).trans (runNext_of_fetch_error rfl hgroup hf hw)
  case encoded =>
    intro s i rest ha henc
    obtain ⟨w, hw⟩ := Option.isSome_iff_exists.1 henc
    exact ⟨.notIssuing, by rw [step_of_agenda ha, State.perform, hw]⟩

end Sys2Proof.Machine
end

section
/-! The start of a jet: what the fetch of its code may change, the choice among the groups that may start, and the obligation about
`JET_START` and `AGEING_STEP`. -/

namespace Sys2Proof.Machine

/-! ### The fills of a fetch -/

/-- Two states that differ at most in what the home lines, the memory-side cache and the tokens of the basins show. -/
def SameButFills (s t : State) : Prop := { t with lines := s.lines, blocks := s.blocks, basins := s.basins } = s

theorem SameButFills.refl (s : State) : SameButFills s s := rfl

theorem SameButFills.trans {s t u : State} (h : SameButFills s t) (h' : SameButFills t u) : SameButFills s u := by
  unfold SameButFills at *
  rw [← h]
  conv_rhs => rw [← h']

theorem SameButFills.quads_eq {s t : State} (h : SameButFills s t) : t.quads = s.quads := by
  have := congrArg State.quads h
  exact this

theorem SameButFills.cur_eq {s t : State} (h : SameButFills s t) : t.cur = s.cur := by
  have := congrArg State.cur h
  exact this

/-- What a state that differs in its fills, in its quadrants and in the current group keeps. -/
theorem SameButFills.with_quads_cur {s t : State} (h : SameButFills s t) :
    { t with quads := s.quads, cur := s.cur, lines := s.lines, blocks := s.blocks, basins := s.basins } = s := by
  rw [← h.quads_eq, ← h.cur_eq]
  exact h

theorem State.activate_sameButFills {s t : State} {b stack : Nat} (h : s.activate b stack = some t) : SameButFills s t := by
  simp only [State.activate] at h
  split at h
  · cases h; rfl
  · split at h
    · cases h; rfl
    · cases h

theorem State.fillLine_sameButFills {s t : State} {b obj line die : Nat} (h : s.fillLine b obj line die = some t) :
    SameButFills s t := by
  simp only [State.fillLine] at h
  split at h
  · cases h; exact .refl s
  split at h
  · cases h
  obtain ⟨u, hu, rfl⟩ := Option.map_eq_some_iff.1 h
  suffices SameButFills s u from this.trans rfl
  split at hu
  · split at hu
    · obtain ⟨v, hv, rfl⟩ := Option.map_eq_some_iff.1 hu
      exact (State.activate_sameButFills hv).trans rfl
    · cases hu
  · cases hu; exact .refl s

/-- Steps that may wait, taken one after another, stay within the fills when each of them does. -/
theorem foldl_bind_sameButFills {f : State → Nat → Option State} (hf : ∀ {s t l}, f s l = some t → SameButFills s t)
    (ls : List Nat) {acc : Option State} {t : State} (h : ls.foldl (fun acc l => acc.bind (fun s => f s l)) acc = some t) :
    ∃ s, acc = some s ∧ SameButFills s t := by
  induction ls generalizing acc with
  | nil => exact ⟨t, h, .refl t⟩
  | cons l ls ih =>
    obtain ⟨u, hu, hut⟩ := ih h
    obtain ⟨s, rfl, hs⟩ := Option.bind_eq_some_iff.1 hu
    exact ⟨s, rfl, (hf hs).trans hut⟩

theorem State.codeFill_sameButFills {s t : State} {q : Nat} {g : Group} {lines : List Nat}
    (h : s.codeFill q g lines = some t) : SameButFills s t := by
  obtain ⟨_, hs, ht⟩ := foldl_bind_sameButFills (fun {s u l} hl => by
    split at hl
    · cases hl; exact .refl s
    · exact State.fillLine_sameButFills hl) lines h
  cases hs; exact ht

/-- The state in which a jet starts, whether or not its code had to be fetched. -/
theorem State.codeFill_getD_sameButFills (s : State) (q : Nat) (g : Group) (lines : List Nat) :
    SameButFills s ((s.codeFill q g lines).getD s) := by
  cases h : s.codeFill q g lines with
  | none => exact .refl s
  | some t => exact State.codeFill_sameButFills h

/-! ### The choice of a jet -/

/-- The effective priority of a group that may start (R36). -/
def startPrio (e : Nat × Group × Prep) : Nat := e.2.1.prio + e.2.1.ageSteps

/-- Of two groups the one that goes first has no lower effective priority than the other. -/
theorem startPrio_le_of_choice (c : Nat) (a o : Nat × Group × Prep) :
    startPrio a ≤ startPrio (if startsBefore c a o then a else o) ∧ startPrio o ≤ startPrio (if startsBefore c a o then a else o) := by
  split
  next h => simp [startsBefore, ← startPrio.eq_def] at h; omega
  next h => simp [startsBefore, ← startPrio.eq_def] at h; omega

theorem chooseStart_cons_cons (c : Nat) (o a : Nat × Group × Prep) (l : List (Nat × Group × Prep)) :
    chooseStart c (o :: a :: l) = chooseStart c ((if startsBefore c a o then a else o) :: l) := by
  simp only [chooseStart, List.foldl_cons, ← apply_ite some]

theorem chooseStart_cons (c : Nat) (l : List (Nat × Group × Prep)) (o : Nat × Group × Prep) :
    ∃ r ∈ o :: l, chooseStart c (o :: l) = some r ∧ ∀ e ∈ o :: l, startPrio e ≤ startPrio r := by
  induction l generalizing o with
  | nil => exact ⟨o, by simp, rfl, by simp⟩
  | cons a l ih =>
    obtain ⟨r, hr, hc, hmax⟩ := ih (if startsBefore c a o then a else o)
    have hle := startPrio_le_of_choice c a o
    have hfirst := hmax _ List.mem_cons_self
    refine ⟨r, ?_, (chooseStart_cons_cons c o a l).trans hc, ?_⟩
    · rcases List.mem_cons.1 hr with rfl | hr
      · split <;> simp
      · simp [hr]
    · intro e he
      rcases List.mem_cons.1 he with rfl | he
      · omega
      rcases List.mem_cons.1 he with rfl | he
      · omega
      · exact hmax e (List.mem_cons_of_mem _ he)

/-- Where some group may start, one of highest effective priority is chosen (R36). -/
theorem chooseStart_highest (c : Nat) {l : List (Nat × Group × Prep)} (h : l ≠ []) :
    ∃ r ∈ l, chooseStart c l = some r ∧ ∀ e ∈ l, startPrio e ≤ startPrio r := by
  cases l with
  | nil => exact absurd rfl h
  | cons o l => exact chooseStart_cons c l o

/-! ### The start -/

theorem NMap.get?_mapVal {α β : Type} (f : α → β) (m : NMap α) (i : Nat) :
    NMap.get? (m.map fun e => (e.1, f e.2)) i = (NMap.get? m i).map f := by
  induction m with
  | nil => rfl
  | cons e m ih =>
    obtain ⟨k, v⟩ := e
    simp only [List.map_cons, NMap.get?, ih]
    split <;> rfl

/-- A group with nobody waiting for a slot by a `YIELD` any more (R404). -/
def Group.forgetYield (slot : Nat) (g : Group) : Group := { g with yieldFor := g.yieldFor.filter (· != slot) }

/-- The quadrant when a jet of one of its groups has started. -/
def Quad.started (x : Quad) (slot : Nat) (g : Group) : Quad :=
  { x.setGroup slot g with issuing := some slot, groups := (x.setGroup slot g).groups.map fun e => (e.1, e.2.forgetYield slot) }

theorem Quad.started_get? (x : Quad) (slot : Nat) (g : Group) (o : Nat) :
    NMap.get? (x.started slot g).groups o = (if slot = o then some g else NMap.get? x.groups o).map (Group.forgetYield slot) := by
  simp only [Quad.started, NMap.get?_mapVal, Quad.setGroup, NMap.get?_set]

theorem execJetStart_eq {s : State} {q : Nat} {x : Quad} (hx : s.quad? q = some x) (hi : x.issuing = none) (hgap : x.gapLeft = 0)
    (hn : x.issued = none) (hdue : x.noticeDue = false) {slot : Nat} {g : Group} {p : Prep}
    (hc : chooseStart x.cycle (s.starters q x) = some (slot, g, p)) {u : State} (hu : (s.codeFill q g p.code).getD s = u) :
    execJetStart q s = .next { u.setQuad q (x.started slot (g.openJet p u.nextId)) with cur := (q, slot) } := by
  simp [execJetStart, hx, hi, hgap, hn, hdue, hc, hu, Quad.started, Group.forgetYield]

theorem jetStart_completes {s : State} {q : Nat} {x : Quad} (hx : s.quad? q = some x) (hi : x.issuing = none) (hgap : x.gapLeft = 0)
    (hn : x.issued = none) (hdue : x.noticeDue = false) (hs : s.starters q x ≠ []) :
    ∃ r ∈ s.starters q x, (∀ e ∈ s.starters q x, startPrio e ≤ startPrio r) ∧ ∃ u, SameButFills s u ∧
      exec (.jetStart q) s = .next { u.setQuad q (x.started r.1 (r.2.1.openJet r.2.2 u.nextId)) with cur := (q, r.1) } := by
  obtain ⟨⟨slot, g, p⟩, hr, hc, hmax⟩ := chooseStart_highest x.cycle hs
  exact ⟨(slot, g, p), hr, hmax, _, s.codeFill_getD_sameButFills q g p.code,
    exec_jetStart.trans (execJetStart_eq hx hi hgap hn hdue hc rfl)⟩

theorem ageingStep_completes {s : State} {q slot : Nat} {g : Group} (hg : s.group? q slot = some g)
    (hcount : 4096 * (g.ageSteps + 1) ≤ g.ageCount) (hceil : g.prio + g.ageSteps < g.ceil) :
    exec (.ageingStep q slot) s = .next (s.setGroup q slot { g with ageSteps := g.ageSteps + 1 }) := by
  have counted : ¬ g.ageCount / 4096 ≤ g.ageSteps := by omega
  simp [exec_ageingStep, execAgeingStep, hg, counted, hceil]

/-- Settles O20: the group that `chooseStart` picks starts in a state that differs from the first in the fills of its code alone. -/
theorem jetStartTakesTheHighestPriority : Obligations.JetStartTakesTheHighestPriority := by
  refine ⟨?_, fun s q slot g => ageingStep_completes⟩
  intro s q x hx hi hgap hn hdue hs
  obtain ⟨⟨slot, g, p⟩, hr, hmax, u, hu, hrun⟩ := jetStart_completes hx hi hgap hn hdue hs
  have hgroup : ∀ o, State.group? { u.setQuad q (x.started slot (g.openJet p u.nextId)) with cur := (q, slot) } q o =
      NMap.get? (x.started slot (g.openJet p u.nextId)).groups o := fun o => State.group?_setQuad u q o _
  refine ⟨_, slot, g, (g.openJet p u.nextId).forgetYield slot, _, hrun, rfl, ⟨p, hr⟩, ?_, ?_, rfl, rfl, rfl, rfl, rfl, rfl, rfl, rfl,
    rfl, rfl, hmax, ?_, ?_, ?_⟩
  · simp [State.quad?, Quad.started]
  · rw [hgroup, Quad.started_get?, if_pos rfl]; rfl
  · intro o k hk
    rw [hgroup, Quad.started_get?] at hk
    obtain ⟨k, -, rfl⟩ := Option.map_eq_some_iff.1 hk
    simp [Group.forgetYield]
  · exact hu.with_quads_cur
  · intro q' hq'
    simp only [State.quad?, State.setQuad_quads, hu.quads_eq, NMap.get?_set_of_ne _ _ hq'.symm]

end Sys2Proof.Machine
end

section
/-! A state in which the placement of a gang overwrites a group of another basin, which refutes the obligation about the launches. -/

namespace Sys2Proof.Machine

/-! ### A quadrant number that is listed twice -/

/-- A launch record: one gang of one crew of one group, which needs 1,024 register bytes. -/
def oneGroupRecord : BitVec 512 := 0x100#32 ++ 0x00010101#32 ++ 0#32 ++ 1#32 ++ (0#128 ++ 0#256)

/-- The launch of that record, its gang still to be placed. -/
def oneGroupLaunch : Launch :=
  { num := 0#32, record := oneGroupRecord, age := 0, eligible := true, placed := 0, retired := 0, killed := false, complete := false,
    cascade := false, parked := none, refused := false }

/-- A quadrant of basin 1 with one group, whose argument pointer is 7. -/
def residentQuad : Quad :=
  { Quad.init with basin := some 1 }.placeCrew 1 0#32 { oneGroupLaunch.fields with args := 7#64 } 0 0 (0, 0, 0)

/-- A state that lists quadrant 0 twice: first in the hands of basin 1, with a group, then empty, in the hands of basin 0, of which a gang is
to be placed. A read of quadrant 0 sees the first. -/
def doublyListed : State :=
  { State.reset with
    quads := [(0, residentQuad), (0, { Quad.init with basin := some 0 })],
    basins := [(0, { Basin.free with phase := .started, launches := [oneGroupLaunch] })] }

/-- `s0` of the group that a placement leaves in slot 0 of quadrant 0. -/
def placedS0 (s : State) : Option Word :=
  match exec (.gangPlacement 0) s with
  | .next t => (t.group? 0 0).map (fun h => h.getS 0)
  | _ => none

theorem doublyListed_fits :
    doublyListed.mayPlace 0 = true ∧ doublyListed.headLaunch 0 = some oneGroupLaunch ∧
      (doublyListed.placeGang 0 oneGroupLaunch.num oneGroupLaunch.fields oneGroupLaunch.placed).isSome = true := by decide

theorem doublyListed_resident : (doublyListed.group? 0 0).map (fun g => g.getS 0) = some 7#32 := by decide

/-- The crew fits where the second listing is free and is written where the first one is read, over the group of basin 1. -/
theorem doublyListed_overwritten : placedS0 doublyListed = some 0#32 := by decide

/-- Refutes O51, in the clause of GANG_PLACEMENT that no group that was there changes a register: the statement ranges over states whose
list of quadrants names a number twice. There the slice finds room in one listing of quadrant 0 and places the crew into the other, so that
`s0` of a group of another basin goes from 7 to 0. -/
theorem not_launchStepsComplete : ¬ Obligations.LaunchStepsComplete := by
  intro h
  obtain ⟨-, -, -, place, -⟩ := h doublyListed 0
  obtain ⟨hmay, hhead, hfits⟩ := doublyListed_fits
  obtain ⟨t, hrun, -, -, kept, -⟩ := place oneGroupLaunch hmay hhead hfits
  obtain ⟨g, hg, hs0⟩ := Option.map_eq_some_iff.1 doublyListed_resident
  obtain ⟨g', hg', -, hs, -⟩ := kept 0 0 g hg
  have overwritten := doublyListed_overwritten
  rw [placedS0, hrun] at overwritten
  have : g.getS 0 = 0#32 := by simpa [hg', Group.getS, hs] using overwritten
  exact absurd (hs0.symm.trans this) (by decide)

end Sys2Proof.Machine
end

section
/-! The queues between the uniform side and the lanes, their probe tokens, and the obligation about both. -/

namespace Sys2Proof.Machine

/-! ### The queue instructions -/

/-- What remains of new queues and uniform registers on the opened group when the instruction has advanced. -/
theorem Group.opened_queues_advance (g : Group) (s : NMap Word) (fwd ret : List Word) (l : Latch) (pc : Nat) :
    Group.advance { g.opened with s := s, fwd := fwd, ret := ret } l pc
      = issuedGroup g { g with s := s, fwd := fwd, ret := ret } l [] 0#5 pc := by
  simp only [Group.opened, Group.advance, issuedGroup]
  split <;> simp [*, Group.countJet, Group.jetOr]

/-- The forward queue is all that consuming its head may change. -/
theorem Group.takeFq_eq (g : Group) (xs : List Sel) : g.takeFq xs = { g with fwd := (g.takeFq xs).fwd } := by
  unfold Group.takeFq
  split <;> rfl

theorem Group.opened_takeFq_fwd (g : Group) (xs : List Sel) : (g.opened.takeFq xs).fwd = (g.takeFq xs).fwd := by
  have hfwd : g.opened.fwd = g.fwd := by simp only [g.opened_fields]
  unfold Group.takeFq
  split
  · exact congrArg (List.drop 1) hfwd
  · exact hfwd

/-- An instruction of the queues: its new uniform registers and queues, and the advance. -/
theorem runs_of_queues {s : State} {i : Instr} {g : Group} (h : Issues s i g)
    {f : Group → Except Trap (Group × Latch × Option Nat)} (hexec : exec i s = runInstr s i (groupBody f))
    {u : NMap Word} {fwd ret : List Word} (hf : f g.opened = .ok ({ g.opened with s := u, fwd := fwd, ret := ret }, .none, none)) :
    Runs s i g { g with s := u, fwd := fwd, ret := ret } .none [] 0#5 (g.pc + instrLen i) := by
  rw [Runs, hexec, runInstr_group h hf, Group.opened_queues_advance]
  rfl

/-- An instruction of its group whose body traps raises that trap. -/
theorem raises_of_groupBody {s : State} {i : Instr} {g : Group} (h : Issues s i g)
    {f : Group → Except Trap (Group × Latch × Option Nat)} (hexec : exec i s = runInstr s i (groupBody f)) {t : Trap}
    (hf : f g.opened = .error t) : Raises s i g t := by
  rw [Raises, hexec]
  exact runInstr_trap h (by rw [groupBody, hf])

theorem instrLen_qret (x : Sel) : instrLen (.qret x) = 4 := by
  cases x <;> rfl

/-! ### The lowest lane of a mask -/

/-- The first lane that `maskLanes` lists is the lowest one of the mask. -/
theorem maskLanes_head? {m : Mask} {l : Nat} (hl : l < 32) (hm : m.getLsbD l = true) (hlow : ∀ k, k < l → m.getLsbD k = false) :
    (maskLanes m).head? = some l := by
  rw [maskLanes, List.head?_filter, List.find?_range_eq_some]
  exact ⟨hm, List.mem_range.2 hl, fun k hk => by simp [hlow k hk]⟩

theorem maskLanes_zero : maskLanes 0#32 = [] := by
  simp [maskLanes]

section
variable {s : State} {g : Group} {x : Sel} (h : Issues s (.qret x) g) (hx : selOk g x = true)
include h hx

/-- `QRET` appends what its selector delivers in the first lane of em, and 0 without one (R370). -/
theorem qret_runs :
    Runs s (.qret x) g { g.takeFq [x] with ret := g.ret ++ [((maskLanes g.em).head?.map (selAt g x)).getD 0#32] } .none [] 0#5
      (g.pc + 4) := by
  obtain ⟨-, em, -, -, hs, -, -, -, -, -, -, ret, -⟩ := g.opened_fields
  rw [Group.takeFq_eq, ← instrLen_qret x]
  refine runs_of_queues h exec_qret ?_
  rw [Group.takeFq_eq]
  cases hl : maskLanes g.em <;> simp [hx, hl, em, hs, ret, Group.opened_takeFq_fwd]

end

/-! ### The probe tokens -/

/-- A token of another queue than a forward one whose push is blocked: whether it comes back is open (R50, log 76). -/
theorem probeToken_of_blocked {s : State} {ix : Nat} {k : ProbeToken} (hk : s.probes[ix]? = some k)
    (hq : ∀ q slot, k.origin ≠ .forward q slot) (hb : { s with probes := s.probes.eraseIdx ix }.pushBlocked k.origin = true) :
    exec (.probeToken ix) s = .next (if Config.freeBit s.freeIx then
      ({ s with probes := s.probes.eraseIdx ix, freeIx := s.freeIx + 1 }.grantReserve k.origin).settle
      else { s with probes := s.probes.eraseIdx ix, freeIx := s.freeIx + 1 }) := by
  rw [exec_probeToken, execProbeToken, hk]
  cases ho : k.origin with
  | forward q slot => exact absurd ho (hq q slot)
  | _ => simp [← ho, hb]

/-- A token of another queue than a forward one whose push is no longer blocked is removed. -/
theorem probeToken_of_unblocked {s : State} {ix : Nat} {k : ProbeToken} (hk : s.probes[ix]? = some k)
    (hq : ∀ q slot, k.origin ≠ .forward q slot) (hb : { s with probes := s.probes.eraseIdx ix }.pushBlocked k.origin = false) :
    exec (.probeToken ix) s = .next { s with probes := s.probes.eraseIdx ix } := by
  rw [exec_probeToken, execProbeToken, hk]
  cases ho : k.origin with
  | forward q slot => exact absurd ho (hq q slot)
  | _ => simp [hb]

/-- The token of a forward queue grants the reserve entry exactly while the group's own push holds its jet back (R48, R50). -/
theorem probeToken_of_forward {s : State} {ix : Nat} {k : ProbeToken} (hk : s.probes[ix]? = some k) {q slot : Nat}
    (ho : k.origin = .forward q slot) :
    exec (.probeToken ix) s = .next (if { s with probes := s.probes.eraseIdx ix }.fwdBlocked q slot then
      { s with probes := s.probes.eraseIdx ix }.modGroup q slot (fun g => { g with fwdGrant := true })
      else { s with probes := s.probes.eraseIdx ix }) := by
  simp only [exec_probeToken, execProbeToken, hk, ho, State.grantReserve]

/-- A push that is blocked, with no token out and its reserve entry free, sends a token. -/
theorem probeTokenTimeout_completes {s : State} {u : QueueRef} (hout : s.probes.any (fun t => t.origin == u) = false)
    (hfree : s.reserveTaken u = false) (hb : s.pushBlocked u = true) :
    exec (.probeTokenTimeout u) s = .next { s with probes := s.probes ++ [{ origin := u, at_ := u }] } := by
  rw [exec_probeTokenTimeout, execProbeTokenTimeout]
  simp [hout, hfree, hb]

/-- Settles O14: each queue instruction is one update of the queues, and each token takes the branch that its queue's push decides. -/
theorem queuesAndProbeTokensRun : Obligations.QueuesAndProbeTokensRun := by
  refine ⟨fun s g a d x => ⟨?send, ?take, ?takeEmpty, ?ret, ?retNoLane, ?retOperand⟩,
    fun s => ⟨fun u hout hfree hb => ⟨_, rfl, probeTokenTimeout_completes hout hfree hb⟩, ?token⟩⟩
  case send =>
    intro h
    refine runs_of_queues h exec_qsend ?_
    simp [g.opened_fields]
  case take =>
    intro w rest h hret
    refine runs_of_queues h exec_qtake ?_
    simp [g.opened_fields, hret, Group.setS]
  case takeEmpty =>
    intro h hret
    exact raises_of_groupBody h exec_qtake (by simp [g.opened_fields, hret])
  case ret =>
    intro l h hx hl hm hlow
    have run := qret_runs h hx
    rwa [maskLanes_head? hl hm hlow] at run
  case retNoLane =>
    intro h hx hem
    have run := qret_runs h hx
    rwa [hem, maskLanes_zero] at run
  case retOperand =>
    intro h hx
    exact raises_of_groupBody h exec_qret (by simp [hx])
  case token =>
    intro ix k hk s1
    refine ⟨?_, ?_, probeToken_of_unblocked hk, fun hq hb => ⟨_, probeToken_of_blocked hk hq hb⟩⟩
    · intro q slot ho hb
      rw [probeToken_of_forward hk ho, if_pos hb]
    · intro q slot ho hb
      rw [probeToken_of_forward hk ho, if_neg (Bool.eq_false_iff.1 hb)]

end Sys2Proof.Machine
end

section
/-! The arrival of a class V result, lane by lane, and the obligation about it. -/

namespace Sys2Proof.Machine

/-! ### Results that land between two jets -/

/-- Numbered results landing one after another in their registers. -/
def Group.landRun (g : Group) (ix : Nat) (es : List ((Dest × Lanes) × Nat)) : Group :=
  es.foldl (fun h e => h.landDest (ix + 32 * e.2) e.1.1 e.1.2) g

theorem Group.landAll_of_no_jet {g : Group} (h : g.jet = none) (ix id : Nat) (rs : List (Dest × Lanes)) :
    g.landAll ix id rs = g.landRun ix rs.zipIdx := by
  rw [Group.landAll, h, Group.landRun]

theorem Group.landDest_of_lt {d : Dest} (h : d.reg < 128) (g : Group) (ix : Nat) (x : Lanes) :
    g.landDest ix d x = g.setV d.reg (landLanes ix d x (g.getV d.reg)) := if_pos h

/-- Results for vector registers touch nothing else of the group. -/
theorem Group.landRun_eq (ix : Nat) {es : List ((Dest × Lanes) × Nat)} (h : ∀ e ∈ es, e.1.1.reg < 128) (g : Group) :
    g.landRun ix es = { g with v := (g.landRun ix es).v } := by
  induction es generalizing g with
  | nil => rfl
  | cons e es ih =>
    have he : e.1.1.reg < 128 := h e List.mem_cons_self
    have run : g.landRun ix (e :: es) = (g.setV e.1.1.reg (landLanes (ix + 32 * e.2) e.1.1 e.1.2 (g.getV e.1.1.reg))).landRun ix es := by
      rw [Group.landRun, List.foldl_cons, Group.landDest_of_lt he]; rfl
    rw [run]
    exact ih (fun e he => h e (List.mem_cons_of_mem _ he)) _

/-- A vector register that no result names keeps its value. -/
theorem Group.getV_landRun_of_notMem (ix r : Nat) {es : List ((Dest × Lanes) × Nat)} (h : ∀ e ∈ es, e.1.1.reg < 128)
    (hr : r ∉ es.map (fun e => e.1.1.reg)) (g : Group) : (g.landRun ix es).getV r = g.getV r := by
  induction es generalizing g with
  | nil => rfl
  | cons e es ih =>
    obtain ⟨hne, hr⟩ := not_or.1 (List.mem_cons.not.1 hr)
    calc (g.landRun ix (e :: es)).getV r
        = (g.landDest (ix + 32 * e.2) e.1.1 e.1.2).getV r := ih (fun e he => h e (List.mem_cons_of_mem _ he)) hr _
      _ = g.getV r := by
        rw [Group.landDest_of_lt (h e List.mem_cons_self), Group.getV_setV, if_neg (Ne.symm hne)]

/-- Where each result names its own vector register, each lands on the value from before all of them. -/
theorem Group.getV_landRun_of_mem (ix : Nat) {es : List ((Dest × Lanes) × Nat)} (h : ∀ e ∈ es, e.1.1.reg < 128)
    (hn : (es.map (fun e => e.1.1.reg)).Nodup) {e : (Dest × Lanes) × Nat} (he : e ∈ es) (g : Group) :
    (g.landRun ix es).getV e.1.1.reg = landLanes (ix + 32 * e.2) e.1.1 e.1.2 (g.getV e.1.1.reg) := by
  induction es generalizing g with
  | nil => simp at he
  | cons a es ih =>
    obtain ⟨ha, hn⟩ := List.nodup_cons.1 hn
    have hes : ∀ e ∈ es, e.1.1.reg < 128 := fun e he => h e (List.mem_cons_of_mem _ he)
    have land : ∀ r, (g.landDest (ix + 32 * a.2) a.1.1 a.1.2).getV r =
        if a.1.1.reg = r then landLanes (ix + 32 * a.2) a.1.1 a.1.2 (g.getV a.1.1.reg) else g.getV r := fun r => by
      rw [Group.landDest_of_lt (h a List.mem_cons_self), Group.getV_setV]
    have run : g.landRun ix (a :: es) = (g.landDest (ix + 32 * a.2) a.1.1 a.1.2).landRun ix es := rfl
    rcases List.mem_cons.1 he with rfl | he
    · rw [run, Group.getV_landRun_of_notMem ix _ hes ha, land, if_pos rfl]
    · have hne : a.1.1.reg ≠ e.1.1.reg := fun heq => ha (by simpa only [heq] using List.mem_map_of_mem (f := fun e => e.1.1.reg) he)
      rw [run, ih hes hn he, land, if_neg hne]

/-- A lane of a register on which a result lands (R46). -/
theorem Lanes.at_landLanes (ix : Nat) (d : Dest) (x old : Lanes) {l : Nat} (hl : l < 32) :
    Lanes.at (landLanes ix d x old) l = if d.mask.getLsbD l then
      (if d.raced.getLsbD l && !Config.freeBit (ix + l) then Lanes.at old l else Lanes.at x l) else Lanes.at old l := by
  rw [landLanes, Lanes.at_lanesOf, if_pos hl]

/-- The arrival between two jets, register by register: a result lands in its own, with some number for its free choices, and every
other register stays. -/
theorem Group.getV_landAll {g : Group} (hj : g.jet = none) (ix id : Nat) {rs : List (Dest × Lanes)} (hlt : ∀ e ∈ rs, e.1.reg < 128) :
    (g.landAll ix id rs = { g with v := (g.landAll ix id rs).v }) ∧
    ((rs.map (fun e => e.1.reg)).Nodup → ∀ e ∈ rs, ∃ n,
      (g.landAll ix id rs).getV e.1.reg = landLanes n e.1 e.2 (g.getV e.1.reg)) ∧
    ∀ r, r ∉ rs.map (fun e => e.1.reg) → (g.landAll ix id rs).getV r = g.getV r := by
  have regs : rs.zipIdx.map (fun e => e.1.1.reg) = rs.map (fun e => e.1.reg) := by
    conv_rhs => rw [← List.zipIdx_map_fst 0 rs, List.map_map]
    rfl
  have hlt' : ∀ e ∈ rs.zipIdx, e.1.1.reg < 128 := fun e he => hlt _ (List.fst_mem_of_mem_zipIdx he)
  rw [Group.landAll_of_no_jet hj]
  refine ⟨Group.landRun_eq ix hlt' g, fun hn e he => ?_, fun r hr => Group.getV_landRun_of_notMem ix r hlt' (regs ▸ hr) g⟩
  obtain ⟨a, ha, rfl⟩ := List.mem_map.1 ((List.zipIdx_map_fst 0 rs).symm ▸ he)
  exact ⟨_, Group.getV_landRun_of_mem ix hlt' (regs ▸ hn) ha g⟩

/-! ### The arrival -/

/-- While a jet is open, results wait in it. -/
theorem Group.landAll_of_jet {g : Group} {j : Jet} (hj : g.jet = some j) (ix id : Nat) (rs : List (Dest × Lanes)) :
    ∃ ls, g.landAll ix id rs = { g with jet := some { j with late := j.late ++ ls } } ∧
      ls.map (fun e => (e.id, e.dest, e.x)) = rs.map (fun e => (id, e.1, e.2)) := by
  refine ⟨_, by rw [Group.landAll, hj], ?_⟩
  conv_rhs => rw [← List.zipIdx_map_fst 0 rs]
  simp only [List.map_map]
  rfl

/-- What results that reach the group touch: registers, and the jet that holds them back. -/
theorem Group.landAll_eq (g : Group) (ix id : Nat) (rs : List (Dest × Lanes)) :
    ∃ v p j, g.landAll ix id rs = { g with v := v, p := p, jet := j } := by
  cases hj : g.jet with
  | some j =>
    obtain ⟨ls, h, -⟩ := Group.landAll_of_jet hj ix id rs
    exact ⟨g.v, g.p, _, h⟩
  | none =>
    rw [Group.landAll_of_no_jet hj]
    induction rs.zipIdx generalizing g with
    | nil => exact ⟨g.v, g.p, g.jet, rfl⟩
    | cons e es ih =>
      obtain ⟨v, p, h⟩ := Group.landDest_eq g (ix + 32 * e.2) e.1.1 e.1.2
      rw [Group.landRun, List.foldl_cons, h]
      exact ih { g with v := v, p := p } hj

theorem execClassVResult_eq {s : State} {q slot ix : Nat} {g : Group} {f : VFlight} (hg : s.group? q slot = some g)
    (hf : g.vflights[ix]? = some f) (hw : f.waiting = 0) :
    exec (.classVResult q slot ix) s =
      .next { s.setGroup q slot (g.arriveV s.freeIx f) with freeIx := s.freeIx + 32 * f.dests.length } := by
  rw [exec_classVResult, execClassVResult, hg]
  simp [hf, hw]

/-- What an arrival does whether or not a jet is open: the flags, the results in flight and the scoreboard. -/
theorem Group.arriveV_rest (g : Group) (ix : Nat) (f : VFlight) :
    (g.arriveV ix f).status = g.status ||| f.flags ∧
    (∀ e, e ∈ (g.arriveV ix f).vflights ↔ e ∈ g.vflights ∧ e.id ≠ f.id) ∧
    (∀ e, e ∈ (g.arriveV ix f).score ↔ e ∈ g.score ∧ e.flight ≠ some f.id) := by
  obtain ⟨v, p, j, h⟩ := g.landAll_eq ix f.id f.dests
  simp [Group.arriveV, h]

/-- An arrival between two jets writes registers beside that. -/
theorem Group.arriveV_of_no_jet {g : Group} (hj : g.jet = none) (ix : Nat) {f : VFlight} (hlt : ∀ e ∈ f.dests, e.1.reg < 128) :
    { g.arriveV ix f with v := g.v, status := g.status, vflights := g.vflights, score := g.score } = g := by
  have h := (Group.getV_landAll hj ix f.id hlt).1
  simp only [Group.arriveV]
  rw [h]

/-- An arrival while a jet is open puts the results into the jet, in order (R44, R46). -/
theorem Group.arriveV_of_jet {g : Group} {j : Jet} (hj : g.jet = some j) (ix : Nat) (f : VFlight) :
    ∃ ls, { g.arriveV ix f with jet := g.jet, status := g.status, vflights := g.vflights, score := g.score } = g ∧
      (g.arriveV ix f).jet = some { j with late := j.late ++ ls } ∧
      ls.map (fun e => (e.id, e.dest, e.x)) = f.dests.map (fun e => (f.id, e.1, e.2)) := by
  obtain ⟨ls, h, hls⟩ := Group.landAll_of_jet hj ix f.id f.dests
  exact ⟨ls, by simp only [Group.arriveV, h], by simp only [Group.arriveV, h], hls⟩

/-- Settles O25: the registers take the results as `landLanes` says, in which only a raced lane is open. -/
theorem variableResultsArriveByLane : Obligations.VariableResultsArriveByLane := by
  intro s q slot ix g f hg hf hw rest
  refine ⟨g.arriveV s.freeIx f, execClassVResult_eq hg hf hw, g.arriveV_rest s.freeIx f, ?_, fun j hj => Group.arriveV_of_jet hj _ _⟩
  intro hj hn hlt
  obtain ⟨-, lands, stays⟩ := Group.getV_landAll hj s.freeIx f.id hlt
  refine ⟨Group.arriveV_of_no_jet hj _ hlt, fun e he l hl => ?_, stays⟩
  obtain ⟨n, hland⟩ := lands hn e he
  have hlane : (g.arriveV s.freeIx f).lane e.1.reg l = Lanes.at (landLanes n e.1 e.2 (g.getV e.1.reg)) l :=
    congrArg (fun x => Lanes.at x l) hland
  rw [hlane, Lanes.at_landLanes _ _ _ _ hl]
  refine ⟨fun hm hr => by simp [hm, hr], fun hm => ?_, fun hm => by simp [hm, Group.lane]⟩
  rw [if_pos hm]
  split
  · exact .inr rfl
  · exact .inl rfl

end Sys2Proof.Machine
end

section
/-! Trap entry: the end of the jet, the handler's registers and frame, what is put aside, and the software traps that take it. -/

namespace Sys2Proof.Machine

/-! ### Maps that keep their keys -/

theorem NMap.get?_map_of_key {α β : Type} {f : Nat × α → Nat × β} (hf : ∀ e, (f e).1 = e.1) (m : NMap α) (i : Nat) :
    NMap.get? (m.map f) i = (NMap.get? m i).map (fun x => (f (i, x)).2) := by
  induction m with
  | nil => rfl
  | cons e m ih =>
    obtain ⟨k, v⟩ := e
    have head : f (k, v) = (k, (f (k, v)).2) := Prod.ext (hf (k, v)) rfl
    rw [List.map_cons, head]
    simp only [NMap.get?, ih]
    split
    · next h => rw [h]; rfl
    · rfl

/-- A list of values by a key that tells them apart holds each of them. -/
theorem NMap.get?_map_of_mem {α : Type} {k : Nat → Nat} (hk : Function.Injective k) (x : Nat → α) {l : List Nat} {i : Nat}
    (hi : i ∈ l) : NMap.get? (l.map (fun j => (k j, x j))) (k i) = some (x i) := by
  induction l with
  | nil => simp at hi
  | cons j l ih =>
    simp only [List.map_cons, NMap.get?]
    split
    · next h => rw [hk h]
    · next h => exact ih ((List.mem_cons.1 hi).resolve_left (fun e => h (by rw [e])))

/-! ### The end of a jet -/

/-- What a write that lands touches beside registers: the marks of the results still to come (R46). -/
theorem Group.land_eq (first : Nat) (g : Group) (w : PendWrite) :
    ∃ v p h vf fl, g.land first w = { g with v := v, p := p, h := h, vflights := vf, flights := fl } := by
  cases w with
  | v r m x => exact ⟨_, _, _, _, _, rfl⟩
  | h r m w x => exact ⟨_, _, _, _, _, rfl⟩
  | p r m x =>
    simp only [Group.land, Group.setP]
    split <;> exact ⟨_, _, _, _, _, rfl⟩

theorem Group.foldl_land_eq (first : Nat) (ws : List PendWrite) (g : Group) :
    ∃ v p h vf fl, ws.foldl (Group.land first) g = { g with v := v, p := p, h := h, vflights := vf, flights := fl } := by
  induction ws generalizing g with
  | nil => exact ⟨_, _, _, _, _, rfl⟩
  | cons w ws ih =>
    obtain ⟨v, p, h, vf, fl, hw⟩ := Group.land_eq first g w
    rw [List.foldl_cons, hw]
    exact ih _

/-- What the end of a jet touches (R44, R185). -/
theorem Group.endJet_eq (g : Group) :
    ∃ v p h vf fl sc, g.endJet =
      { g with v := v, p := p, h := h, vflights := vf, flights := fl, score := sc, status := g.status ||| g.jetOr.flags, jet := none } := by
  obtain ⟨v, p, h, vf, fl, hl⟩ := Group.foldl_land_eq g.jetOr.first g.jetOr.pend g
  obtain ⟨v', p', hj⟩ := Group.landJet_eq g.jetOr { g with v := v, p := p, h := h, vflights := vf, flights := fl }
  exact ⟨v', p', h, vf, fl, g.score.filter (fun e => e.flight.isSome), by simp only [Group.endJet, hl, hj]⟩

theorem Group.endJet_fields (g : Group) :
    g.endJet.s = g.s ∧ g.endJet.em = g.em ∧ g.endJet.part = g.part ∧ g.endJet.stack = g.stack ∧
    g.endJet.status = g.status ||| g.jetOr.flags ∧ g.endJet.vgran = g.vgran ∧ g.endJet.handler = g.handler ∧
    g.endJet.basin = g.basin ∧ g.endJet.launch = g.launch ∧ g.endJet.owner = g.owner := by
  obtain ⟨v, p, h, vf, fl, sc, hend⟩ := g.endJet_eq
  rw [hend]
  exact ⟨rfl, rfl, rfl, rfl, rfl, rfl, rfl, rfl, rfl, rfl⟩

theorem Group.opened_basin (g : Group) : g.opened.basin = g.basin := by
  simp only [Group.opened]
  split <;> rfl

theorem Group.opened_launch (g : Group) : g.opened.launch = g.launch := by
  simp only [Group.opened]
  split <;> rfl

theorem Group.opened_handler (g : Group) : g.opened.handler = g.handler := by
  simp only [Group.opened]
  split <;> rfl

/-! ### The handler's registers and the frame (R53) -/

theorem range_five : List.range 5 = [0, 1, 2, 3, 4] := rfl

section
variable (g : Group) (n : Notice) (s57 entry since : Nat)

/-- What trap entry touches: the cause registers, `v120` to `v127`, and where the group goes on. -/
theorem Group.enterHandler_eq : g.enterHandler n s57 entry since =
    { g with
      v := (g.enterHandler n s57 entry since).v,
      s := ((((g.setS 56 (BitVec.ofNat 32 n.code)).setS 57 (BitVec.ofNat 32 s57)).setS 58 n.s58).setS 59 n.s59).s,
      em := n.em, handler := true, frame := some (g.saveFrame since), pc := entry, jet := none, wait := .none,
      orders := (g.enterHandler n s57 entry since).orders } := by
  simp only [Group.enterHandler, range_five, List.foldl_cons, List.foldl_nil, Group.setV, Group.setS]

theorem Group.enterHandler_fields :
    (g.enterHandler n s57 entry since).em = n.em ∧ (g.enterHandler n s57 entry since).part = g.part ∧
    (g.enterHandler n s57 entry since).handler = true ∧ (g.enterHandler n s57 entry since).pc = entry ∧
    (g.enterHandler n s57 entry since).jet = none ∧ (g.enterHandler n s57 entry since).stack = g.stack ∧
    (g.enterHandler n s57 entry since).status = g.status ∧ (g.enterHandler n s57 entry since).owner = g.owner ∧
    (g.enterHandler n s57 entry since).frame = some (g.saveFrame since) := by
  rw [g.enterHandler_eq n s57 entry since]
  exact ⟨rfl, rfl, rfl, rfl, rfl, rfl, rfl, rfl, rfl⟩

theorem Group.getS_enterHandler (r : Nat) : (g.enterHandler n s57 entry since).getS r =
    if 59 = r then n.s59 else if 58 = r then n.s58 else if 57 = r then BitVec.ofNat 32 s57
      else if 56 = r then BitVec.ofNat 32 n.code else g.getS r := by
  have regs : (g.enterHandler n s57 entry since).getS r =
      ((((g.setS 56 (BitVec.ofNat 32 n.code)).setS 57 (BitVec.ofNat 32 s57)).setS 58 n.s58).setS 59 n.s59).getS r := by
    rw [g.enterHandler_eq n s57 entry since]; rfl
  simp only [regs, Group.getS_setS]

/-- `v120` to `v127` of a trap that no lane has caused hold 0. -/
theorem Group.getV_enterHandler (h0 : n.v120 = Lanes.zero) (h1 : n.v121 = Lanes.zero) (h2 : n.v122 = Lanes.zero) {r : Nat}
    (hr : 120 ≤ r) (hr' : r < 128) : (g.enterHandler n s57 entry since).getV r = Lanes.zero := by
  interval_cases r <;> simp [Group.enterHandler, h0, h1, h2, range_five, Group.getV_setV]

end

theorem Group.saveFrame_s (g : Group) (since : Nat) {r : Nat} (hr : 56 ≤ r) (hr' : r < 64) :
    NMap.get? (g.saveFrame since).s r = some (g.getS r) := by
  obtain ⟨i, rfl⟩ := Nat.exists_eq_add_of_le hr
  exact NMap.get?_map_of_mem (k := fun i => 56 + i) (add_right_injective 56) (fun i => g.getS (56 + i)) (List.mem_range.2 (by omega))

theorem Group.saveFrame_p (g : Group) (since : Nat) {r : Nat} (hr : r < 7) :
    NMap.get? (g.saveFrame since).p r = some (g.getP r) :=
  NMap.get?_map_of_mem (k := fun i => i) Function.injective_id g.getP (List.mem_range.2 hr)

theorem Group.saveFrame_v (g : Group) (since : Nat) (hg : g.vgran = 15) {r : Nat} (hr : 120 ≤ r) (hr' : r < 128) :
    NMap.get? (g.saveFrame since).v r = some (g.getV r) := by
  obtain ⟨i, rfl⟩ := Nat.exists_eq_add_of_le hr
  rw [Group.saveFrame, if_pos hg]
  exact NMap.get?_map_of_mem (k := fun i => 120 + i) (add_right_injective 120) (fun i => g.getV (120 + i)) (List.mem_range.2 (by omega))

/-! ### What stands behind something that stands still (R239) -/

section
variable (s : State) (o : Owner) (since : Nat) (ids : List Nat)

theorem State.group?_handlerWithout (q slot : Nat) : (s.handlerWithout o since ids).group? q slot = s.group? q slot := by
  have quads := NMap.get?_map_of_key (m := s.quads) (i := q) (f := fun e => if e.1 = o.q then (e.1, { e.2 with
    banks := e.2.banks.map (fun (b : Nat × List BankReq) => (b.1, bankAfter b.2 (fun r =>
      if r.slot = o.slot ∧ since ≤ r.id then r.without ids else r))) }) else e) (fun e => by dsimp only; split <;> rfl)
  simp only [State.group?, State.quad?, State.handlerWithout, quads]
  cases NMap.get? s.quads q with
  | none => rfl
  | some x => by_cases h : q = o.q <;> simp [h]

/-- A request from before the handler waits for what it waited for. -/
theorem State.req?_handlerWithout {id : Nat} (h : id < since) : (s.handlerWithout o since ids).req? id = s.req? id := by
  have old : ∀ r : Req, ¬ (r.owner = o ∧ since ≤ id) := fun r => by omega
  simp only [State.req?, State.handlerWithout]
  rw [NMap.get?_map_of_key (fun e => by split <;> rfl)]
  simp [old]

/-- A copy with fewer numbers in what it follows, where it is the handler's. -/
theorem State.engine_handlerWithout (qs : Nat) :
    ((s.handlerWithout o since ids).engine qs).acc = (s.engine qs).acc ∧
    ((s.handlerWithout o since ids).engine qs).holder = (s.engine qs).holder ∧
    ∀ y : CopyJob, y.id < since → (y ∈ ((s.handlerWithout o since ids).engine qs).copies ↔ y ∈ (s.engine qs).copies) := by
  simp only [State.engine, State.handlerWithout, NMap.getD]
  rw [NMap.get?_map_of_key (fun e => by rfl)]
  cases NMap.get? s.engines qs with
  | none => exact ⟨rfl, rfl, fun y _ => Iff.rfl⟩
  | some x =>
    refine ⟨rfl, rfl, fun y hy => ?_⟩
    simp only [Option.map_some, Option.getD_some, List.mem_map]
    constructor
    · rintro ⟨c, hc, rfl⟩
      split at hy
      next h => exact absurd h.2 (Nat.not_le.2 hy)
      next h => rwa [if_neg h]
    · intro hm
      exact ⟨y, hm, if_neg (fun h => absurd h.2 (Nat.not_le.2 hy))⟩

end

theorem State.shelve_eq {s : State} {o : Owner} {g : Group} {f : Frame} (hg : s.ownerGroup? o = some g) (hf : g.frame = some f) :
    ∃ still ids, s.shelve o = (s.setGroup o.q o.slot (g.shelve f still)).handlerWithout o f.since ids := by
  let still := s.standsStill o f.since s.nextId
  exact ⟨still, (g.lateOrders f.since still).map (fun w => w.id) ++ g.relReads.filter still, by simp only [State.shelve, hg, hf, still]⟩

/-! ### Taking a trap (R54) -/

theorem State.group?_modQuad_of_groups (s : State) (q : Nat) {f : Quad → Quad} (hf : ∀ x, (f x).groups = x.groups) (q' slot : Nat) :
    (s.modQuad q f).group? q' slot = s.group? q' slot := by
  simp only [State.group?, State.quad?, State.modQuad_quads, NMap.modify]
  cases hx : NMap.get? s.quads q with
  | none => rfl
  | some x =>
    by_cases h : q = q'
    · subst h
      simp [hx, hf]
    · simp [NMap.get?_set_of_ne _ _ h]

/-- The state in which a trap finds its group: where the jet of the slot was issuing, its quadrant has ended it. -/
def State.cutIssue (s : State) (q slot : Nat) : State :=
  if (s.quad? q).any (fun x => x.issuing == some slot) then s.endIssue q else s

theorem State.group?_cutIssue (s : State) (q slot q' slot' : Nat) : (s.cutIssue q slot).group? q' slot' = s.group? q' slot' := by
  unfold State.cutIssue
  split
  · exact s.group?_modQuad_of_groups q (f := fun x => { x with issuing := none, gapLeft := s.jetGap q }) (fun _ => rfl) q' slot'
  · rfl

theorem State.cutIssue_nextId (s : State) (q slot : Nat) : (s.cutIssue q slot).nextId = s.nextId := by
  unfold State.cutIssue
  split <;> rfl

theorem State.basin_cutIssue (s : State) (q slot b : Nat) : (s.cutIssue q slot).basin b = s.basin b := by
  unfold State.cutIssue
  split <;> rfl

/-- The group that a trap is taken in: its jet is over, and where that jet was issuing, its waiting begins. -/
def State.cutGroup (s : State) (q slot : Nat) (g : Group) : Group :=
  { g.endJet with waitSince := if (s.quad? q).any (fun x => x.issuing == some slot) then (s.quadOf q).cycle else g.waitSince }

/-- The state in which a trap is taken. -/
def State.cutState (s : State) (q slot : Nat) (g : Group) : State := (s.cutIssue q slot).setGroup q slot (s.cutGroup q slot g)

theorem State.basin_cutState (s : State) (q slot b : Nat) (g : Group) : (s.cutState q slot g).basin b = s.basin b :=
  s.basin_cutIssue q slot b

theorem State.cutGroup_fields (s : State) (q slot : Nat) (g : Group) :
    (s.cutGroup q slot g).handler = g.handler ∧ (s.cutGroup q slot g).basin = g.basin ∧ (s.cutGroup q slot g).launch = g.launch ∧
    (s.cutGroup q slot g).owner = g.owner := by
  obtain ⟨-, -, -, -, -, -, handler, basin, launch, owner⟩ := g.endJet_fields
  exact ⟨handler, basin, launch, owner⟩

section
variable {s : State} {q slot : Nat} {g : Group} (hg : s.group? q slot = some g) (n : Notice) (s57 : Nat)
include hg

/-- A trap after the end of its jet: the handler, or the end of the launch. -/
theorem State.takeNotice_eq : s.takeNotice q slot n s57 =
    if g.handler then (s.cutState q slot g).killLaunch g.basin g.launch 0x80 n.code
    else ((s.basin g.basin).handler).elim ((s.cutState q slot g).killLaunch g.basin g.launch 0x81 n.code) fun cap =>
      ((s.cutState q slot g).setGroup q slot ((s.cutGroup q slot g).enterHandler n s57 (capOfs cap) s.nextId)).shelve (g.owner q slot) := by
  obtain ⟨handler, basin, launch, owner⟩ := s.cutGroup_fields q slot g
  have nextId : (s.cutState q slot g).nextId = s.nextId := s.cutIssue_nextId q slot
  rw [← handler, ← basin, ← launch, ← owner, ← nextId, ← s.basin_cutState q slot _ g, State.takeNotice, hg]
  change (if (s.cutGroup q slot g).handler = true then _ else _) = _
  refine if_congr Iff.rfl rfl ?_
  split
  next cap hb =>
    have hb : ((s.cutState q slot g).basin (s.cutGroup q slot g).basin).handler = some cap := hb
    rw [hb, Option.elim_some]; rfl
  next hb =>
    have hb : ((s.cutState q slot g).basin (s.cutGroup q slot g).basin).handler = none := hb
    rw [hb, Option.elim_none]; rfl

/-- Outside a handler, with one registered, a trap goes into it. -/
theorem State.takeNotice_of_handler (hh : g.handler = false) {cap : DWord} (hb : (s.basin g.basin).handler = some cap) :
    s.takeNotice q slot n s57 = ((s.cutIssue q slot).setGroup q slot
      ((s.cutGroup q slot g).enterHandler n s57 (capOfs cap) s.nextId)).shelve (g.owner q slot) := by
  rw [State.takeNotice_eq hg, hh, hb, if_neg Bool.false_ne_true, Option.elim_some, State.cutState, State.setGroup_setGroup]

/-- In a handler, or with none registered, a trap ends the launch of its group (R55, R243). -/
theorem State.takeNotice_of_no_handler (hh : g.handler = true ∨ (s.basin g.basin).handler = none) :
    ∃ cause, s.takeNotice q slot n s57 = (s.cutState q slot g).killLaunch g.basin g.launch cause n.code := by
  rw [State.takeNotice_eq hg]
  cases hf : g.handler with
  | true => exact ⟨0x80, if_pos rfl⟩
  | false =>
    rw [hh.resolve_left (by simp [hf]), Option.elim_none]
    exact ⟨0x81, if_neg Bool.false_ne_true⟩

end

/-! ### TRAP and BPT -/

/-- The notice of a software trap (R244, R290, R396). -/
def softNotice (code : Nat) (s58 : Word) (g : Group) : Notice :=
  { code := code, s58 := s58, s59 := 0#32, em := g.em, v120 := Lanes.zero, v121 := Lanes.zero, v122 := Lanes.zero,
    byHandler := g.handler, job := none }

/-- An instruction whose only effect is a trap with a code and `s58`, and the next instruction in `s57`. -/
def IsSoftTrap (i : Instr) (code : Nat) (s58 : Word) : Prop :=
  isLduWord (W1.ofWord (instrWords i).1) = false ∧
  ∀ s, exec i s = runInstr s i fun _ _ _ _ => .trap { Trap.own code s58.toNat 0 with after := true }

theorem isSoftTrap_trap (code : BitVec 16) : IsSoftTrap (.trap code) 0x0F (code.setWidth 32) := by
  have word : (instrWords (.trap code)).1 = encUni true 0x11#6 0#7 0#8 0#8 := rfl
  refine ⟨by rw [word]; decide, fun s => ?_⟩
  have h : (code.setWidth 32).toNat = code.toNat := by simp; omega
  rw [h]
  rfl

theorem isSoftTrap_bpt : IsSoftTrap .bpt 0x10 0#32 := ⟨rfl, fun _ => rfl⟩

theorem resolve_softTrap {words : Word × Word} (h : isLduWord (W1.ofWord words.1) = false) (code : Nat) (s58 : Word) (g : Group) :
    Trap.resolve { Trap.own code s58.toNat 0 with after := true } words g = softNotice code s58 g := by
  simp [Trap.resolve, h, Trap.own, Trap.plain, softNotice]

/-- The state in which an instruction of the current group traps: its jet is open, and nothing of its effect has happened. -/
def State.trapping (s : State) (g : Group) : State := { s.setGroup s.cur.1 s.cur.2 g.opened with freeIx := s.freeIx + 1 }

theorem State.group?_trapping {s : State} {g : Group} (hg : s.group? s.cur.1 s.cur.2 = some g) :
    (s.trapping g).group? s.cur.1 s.cur.2 = some g.opened := State.group?_setGroup hg

theorem exec_softTrap {s : State} {i : Instr} {g : Group} {code : Nat} {s58 : Word} (hi : IsSoftTrap i code s58) (h : Issues s i g) :
    exec i s = .next ((s.trapping g).takeNotice s.cur.1 s.cur.2 (softNotice code s58 g.opened) (g.pc + instrLen i)) := by
  rw [hi.2, runInstr_trap h rfl, ← State.trapping.eq_def, State.takeTrap, State.group?_trapping h.1]
  simp only [resolve_softTrap hi.1, if_true, g.opened_fields.1]

/-- The group at the end of the jet that a software trap interrupts. -/
def State.interrupted (s : State) (g : Group) : Group := (s.trapping g).cutGroup s.cur.1 s.cur.2 g.opened

/-- The group that the handler of a software trap finds, before what stands still is put aside. -/
def State.trapped (s : State) (i : Instr) (g : Group) (code : Nat) (s58 : Word) (cap : DWord) : Group :=
  (s.interrupted g).enterHandler (softNotice code s58 g.opened) (g.pc + instrLen i) (capOfs cap) s.nextId

theorem State.ownerGroup?_of_group? {s : State} {q slot : Nat} {g : Group} (h : s.group? q slot = some g) :
    s.ownerGroup? (g.owner q slot) = some g := by
  simp [State.ownerGroup?, Group.owner, Owner.isGroup, h]

/-- The state in which the handler of the current group begins, with its group `x`: its accesses wait for some numbers no longer. -/
def State.handling (s : State) (g x : Group) (ids : List Nat) : State :=
  (((s.trapping g).cutIssue s.cur.1 s.cur.2).setGroup s.cur.1 s.cur.2 x).handlerWithout (g.opened.owner s.cur.1 s.cur.2) s.nextId ids

section
variable (s : State) (g x : Group) (ids : List Nat)

theorem State.handling_eq :
    { s.handling g x ids with quads := s.quads, freeIx := s.freeIx, reqs := s.reqs, engines := s.engines } = s := by
  simp only [State.handling, State.cutIssue]
  split <;> rfl

theorem State.req?_handling {id : Nat} (h : id < s.nextId) : (s.handling g x ids).req? id = s.req? id := by
  rw [State.handling, State.req?_handlerWithout _ _ _ _ h]
  simp only [State.cutIssue]
  split <;> rfl

theorem State.engine_handling (qs : Nat) :
    ((s.handling g x ids).engine qs).acc = (s.engine qs).acc ∧ ((s.handling g x ids).engine qs).holder = (s.engine qs).holder ∧
    ∀ y : CopyJob, y.id < s.nextId → (y ∈ ((s.handling g x ids).engine qs).copies ↔ y ∈ (s.engine qs).copies) := by
  have engine : (((s.trapping g).cutIssue s.cur.1 s.cur.2).setGroup s.cur.1 s.cur.2 x).engine qs = s.engine qs := by
    simp only [State.cutIssue]
    split <;> rfl
  rw [← engine]
  exact State.engine_handlerWithout ..

theorem State.group?_handling_of_ne {q slot : Nat} (h : (q, slot) ≠ s.cur) : (s.handling g x ids).group? q slot = s.group? q slot := by
  have hne : (s.cur.1, s.cur.2) ≠ (q, slot) := h.symm
  rw [State.handling, State.group?_handlerWithout, State.group?_setGroup_of_ne _ _ hne, State.group?_cutIssue]
  exact State.group?_setGroup_of_ne _ _ hne

theorem State.group?_handling (h : s.group? s.cur.1 s.cur.2 = some g) :
    (s.handling g x ids).group? s.cur.1 s.cur.2 = some x := by
  rw [State.handling, State.group?_handlerWithout]
  exact State.group?_setGroup ((State.group?_cutIssue ..).trans (State.group?_trapping h))

end

/-- A software trap outside a handler enters it. -/
theorem softTrap_enters {s : State} {i : Instr} {g : Group} {code : Nat} {s58 : Word} (hi : IsSoftTrap i code s58)
    (h : Issues s i g) (hh : g.handler = false) {cap : DWord} (hb : (s.basin g.basin).handler = some cap) :
    ∃ still ids, exec i s = .next
      (s.handling g ((s.trapped i g code s58 cap).shelve ((s.interrupted g).saveFrame s.nextId) still) ids) := by
  have hg := State.group?_trapping h.1
  obtain ⟨-, -, -, cutOwner⟩ := (s.trapping g).cutGroup_fields s.cur.1 s.cur.2 g.opened
  obtain ⟨-, -, -, -, -, -, -, entryOwner, entryFrame⟩ := Group.enterHandler_fields (s.interrupted g) (softNotice code s58 g.opened)
    (g.pc + instrLen i) (capOfs cap) s.nextId
  have owner : g.opened.owner = (s.trapped i g code s58 cap).owner := (entryOwner.trans cutOwner).symm
  have here := State.group?_setGroup (g' := s.trapped i g code s58 cap)
    ((State.group?_cutIssue _ s.cur.1 s.cur.2 s.cur.1 s.cur.2).trans hg)
  obtain ⟨still, ids, hshelve⟩ := State.shelve_eq (State.ownerGroup?_of_group? here) entryFrame
  rw [← owner] at hshelve
  have enters : (s.trapping g).takeNotice s.cur.1 s.cur.2 (softNotice code s58 g.opened) (g.pc + instrLen i) = _ :=
    (State.takeNotice_of_handler hg _ _ (g.opened_handler.trans hh) (by rw [g.opened_basin]; exact hb)).trans hshelve
  exact ⟨still, ids, (exec_softTrap hi h).trans (congrArg _ (enters.trans (congrArg
    (fun t : State => t.handlerWithout (g.opened.owner s.cur.1 s.cur.2) s.nextId ids) (State.setGroup_setGroup ..))))⟩

/-- The group at the end of the jet that a software trap interrupts: as it was, but for what the jet writes (R44, R54). -/
theorem interrupted_fields (s : State) (g : Group) :
    let x := s.interrupted g
    (∀ n, x.getS n = g.getS n) ∧ x.em = g.em ∧ x.part = g.part ∧ x.stack = g.stack ∧ x.status = g.status ||| g.jetOr.flags ∧
    x.vgran = g.vgran ∧ (∀ n, x.getP n = g.opened.endJet.getP n) ∧ (∀ n, x.getV n = g.opened.endJet.getV n) := by
  obtain ⟨-, em, part, -, s', -, -, -, status, stack, -, -, -, -, vgran, -⟩ := g.opened_fields
  obtain ⟨endS, endEm, endPart, endStack, endStatus, endVgran, -⟩ := g.opened.endJet_fields
  rw [status, Group.opened_jetOr] at endStatus
  exact ⟨fun n => congrArg (fun m => NMap.getD m n 0#32) (endS.trans s'), endEm.trans em, endPart.trans part, endStack.trans stack,
    endStatus, endVgran.trans vgran, fun _ => rfl, fun _ => rfl⟩

/-- The registers, the flag, the place and the stack of the group that the handler finds (R53, R54). -/
theorem trapped_fields (s : State) (i : Instr) (g : Group) (code : Nat) (s58 : Word) (cap : DWord) :
    let h := s.trapped i g code s58 cap
    h.getS 56 = BitVec.ofNat 32 code ∧ h.getS 57 = BitVec.ofNat 32 (g.pc + instrLen i) ∧ h.getS 58 = s58 ∧ h.getS 59 = 0#32 ∧
    (∀ n l, 120 ≤ n → n < 128 → h.lane n l = 0#32) ∧ (∀ n, n < 56 ∨ 59 < n → h.getS n = g.getS n) ∧
    h.em = g.em ∧ h.part = g.part ∧ h.handler = true ∧ h.pc = capOfs cap ∧ h.jet = none ∧ h.stack = g.stack ∧
    h.status = g.status ||| g.jetOr.flags := by
  obtain ⟨oldS, -, oldPart, oldStack, oldStatus, -, -, -⟩ := interrupted_fields s g
  obtain ⟨em, part, handler, pc, jet, stack, status, -, -⟩ := Group.enterHandler_fields (s.interrupted g) (softNotice code s58 g.opened)
    (g.pc + instrLen i) (capOfs cap) s.nextId
  have getS := Group.getS_enterHandler (s.interrupted g) (softNotice code s58 g.opened)
    (g.pc + instrLen i) (capOfs cap) s.nextId
  refine ⟨getS 56, getS 57, getS 58, getS 59, fun n l hn hn' => ?_, fun n hn => ?_, em.trans g.opened_fields.2.1, part.trans oldPart,
    handler, pc, jet, stack.trans oldStack, status.trans oldStatus⟩
  · have zero := Group.getV_enterHandler (s.interrupted g) (softNotice code s58 g.opened) (g.pc + instrLen i)
      (capOfs cap) s.nextId rfl rfl rfl hn hn'
    exact (congrArg (fun x => Lanes.at x l) zero).trans (Lanes.at_zero l)
  · rw [← oldS n]
    refine (getS n).trans ?_
    simp only [show ¬ 59 = n by omega, show ¬ 58 = n by omega, show ¬ 57 = n by omega, show ¬ 56 = n by omega, if_false]

/-- The frame of a software trap holds the group at the end of its interrupted jet (R53). -/
theorem trapped_saveFrame (s : State) (g : Group) :
    let f := (s.interrupted g).saveFrame s.nextId
    (∀ n, 56 ≤ n → n < 64 → NMap.get? f.s n = some (g.getS n)) ∧
    (∀ n, n < 7 → NMap.get? f.p n = some (g.opened.endJet.getP n)) ∧
    (g.vgran = 15 → ∀ n, 120 ≤ n → n < 128 → NMap.get? f.v n = some (g.opened.endJet.getV n)) ∧
    f.em = g.em ∧ f.part = g.part ∧ f.top = g.stack.head? ∧ f.depth = g.stack.length := by
  obtain ⟨oldS, oldEm, oldPart, oldStack, -, oldVgran, oldP, oldV⟩ := interrupted_fields s g
  refine ⟨fun n hn hn' => ?_, fun n hn => ?_, fun hv n hn hn' => ?_, oldEm, oldPart, congrArg List.head? oldStack,
    congrArg List.length oldStack⟩
  · rw [Group.saveFrame_s _ _ hn hn', oldS]
  · rw [Group.saveFrame_p _ _ hn, oldP]
  · rw [Group.saveFrame_v _ _ (oldVgran.trans hv) hn hn', oldV]

end Sys2Proof.Machine
end

section
/-! What the end of a launch keeps: memory, the marks of the launches, and of each group its registers and its place. One lemma says of
each operation on the way that it leaves what is seen. -/

namespace Sys2Proof.Machine

/-! ### What is seen of a state -/

/-- What is seen of a group: whose it is, its registers, its place, and whether it has retired. -/
structure GroupView where
  basin : Nat
  launch : Word
  v : NMap Lanes
  s : NMap Word
  p : NMap Mask
  pc : Nat
  em : Mask
  retired : Bool

def Group.view (g : Group) : GroupView :=
  { basin := g.basin, launch := g.launch, v := g.v, s := g.s, p := g.p, pc := g.pc, em := g.em, retired := g.retired }

/-- What is seen of a launch: its number, whether it is complete, and whether it is marked killed. -/
def Launch.view (l : Launch) : Word × Bool × Bool := (l.num, l.complete, l.killed)

/-- What is seen of a machine. -/
@[ext] structure View where
  mem : NMap Byte
  launches : Nat → List (Word × Bool × Bool)
  groups : Nat → Nat → Option GroupView

def State.view (s : State) : View :=
  { mem := s.mem, launches := fun b => (s.basin b).launches.map Launch.view, groups := fun q slot => (s.group? q slot).map Group.view }

/-- A change of quadrants that leaves what is seen of each group. -/
theorem State.view_quads {s : State} {m : NMap Quad}
    (h : ∀ q slot, ((NMap.get? m q).bind (fun x => NMap.get? x.groups slot)).map Group.view = (s.group? q slot).map Group.view) :
    { s with quads := m }.view = s.view := by
  refine View.ext rfl rfl (funext fun q => funext fun slot => Eq.trans ?_ (h q slot))
  simp only [State.view, State.group?, State.quad?]
  cases NMap.get? m q <;> rfl

/-- A change of one quadrant that leaves what is seen of each of its groups. -/
theorem State.view_modQuad (s : State) (q : Nat) {f : Quad → Quad}
    (hf : ∀ x slot, (NMap.get? (f x).groups slot).map Group.view = (NMap.get? x.groups slot).map Group.view) :
    (s.modQuad q f).view = s.view := by
  refine State.view_quads fun q' slot => ?_
  simp only [State.group?, State.quad?, NMap.modify]
  cases hx : NMap.get? s.quads q with
  | none => cases NMap.get? s.quads q' <;> rfl
  | some x =>
    by_cases h : q = q'
    · subst h
      simp [hx, hf]
    · rw [NMap.get?_set_of_ne _ _ h]
      cases NMap.get? s.quads q' <;> rfl

/-- A change of every quadrant that leaves what is seen of each of its groups. -/
theorem State.view_mapQuads (s : State) {f : Nat × Quad → Nat × Quad} (hk : ∀ e, (f e).1 = e.1)
    (hf : ∀ e slot, (NMap.get? (f e).2.groups slot).map Group.view = (NMap.get? e.2.groups slot).map Group.view) :
    { s with quads := s.quads.map f }.view = s.view := by
  refine State.view_quads fun q slot => ?_
  rw [NMap.get?_map_of_key hk]
  simp only [State.group?, State.quad?]
  cases NMap.get? s.quads q with
  | none => rfl
  | some x => exact hf (q, x) slot

/-- A change of each group of a quadrant that leaves what is seen of it. -/
theorem get?_mapGroups_view (m : NMap Group) {f : Nat × Group → Nat × Group} (hk : ∀ e, (f e).1 = e.1)
    (hf : ∀ e, (f e).2.view = e.2.view) (slot : Nat) :
    (NMap.get? (m.map f) slot).map Group.view = (NMap.get? m slot).map Group.view := by
  rw [NMap.get?_map_of_key hk]
  cases NMap.get? m slot with
  | none => rfl
  | some g => exact congrArg some (hf (slot, g))

theorem State.view_setGroup {s : State} {q slot : Nat} {g g' : Group} (hg : s.group? q slot = some g) (h : g'.view = g.view) :
    (s.setGroup q slot g').view = s.view := by
  have groups : (s.setGroup q slot g').view.groups = s.view.groups := by
    funext q' slot'
    by_cases hne : (q, slot) = (q', slot')
    · cases hne
      simp only [State.view, State.group?_setGroup hg, hg, Option.map_some, h]
    · simp only [State.view, State.group?_setGroup_of_ne _ _ hne]
  exact View.ext rfl rfl groups

theorem State.view_modGroup (s : State) (q slot : Nat) {f : Group → Group} (hf : ∀ g, (f g).view = g.view) :
    (s.modGroup q slot f).view = s.view := by
  unfold State.modGroup
  split
  next g hg => exact State.view_setGroup hg (hf g)
  next => rfl

theorem State.view_modOwner (s : State) (o : Owner) {f : Group → Group} (hf : ∀ g, (f g).view = g.view) :
    (s.modOwner o f).view = s.view := by
  unfold State.modOwner State.ownerGroup?
  cases hg : s.group? o.q o.slot with
  | none => rfl
  | some g =>
    dsimp only
    split
    next g' h =>
      split at h
      · cases h; exact State.view_setGroup hg (hf g)
      · cases h
    next => rfl

theorem State.view_modBasin (s : State) (b : Nat) {f : Basin → Basin}
    (hf : (f (s.basin b)).launches.map Launch.view = (s.basin b).launches.map Launch.view) : (s.modBasin b f).view = s.view := by
  refine View.ext rfl (funext fun b' => ?_) rfl
  simp only [State.view, State.basin, State.modBasin, NMap.getD_set]
  split
  next h => rw [← h]; exact hf
  next => rfl

/-- Steps one after another leave what is seen when each of them does. -/
theorem foldl_view {α : Type} {f : State → α → State} (hf : ∀ s a, (f s a).view = s.view) (l : List α) (s : State) :
    (l.foldl f s).view = s.view := by
  induction l generalizing s with
  | nil => rfl
  | cons a l ih => exact (ih (f s a)).trans (hf s a)

/-! ### Numbers that are over, and the requests that leave -/

@[simp] theorem State.over_view (s : State) (id : Nat) : (s.over id).view = s.view :=
  s.view_mapQuads (fun _ => rfl) (fun e => get?_mapGroups_view e.2.groups (fun _ => rfl) (fun _ => rfl))

@[simp] theorem State.follow_view (s : State) (old : Nat) (new : List Nat) (narrow : Bool) : (s.follow old new narrow).view = s.view :=
  s.view_mapQuads (fun _ => rfl) (fun e => get?_mapGroups_view e.2.groups (fun _ => rfl) (fun _ => rfl))

@[simp] theorem State.placed_view (s : State) (id : Nat) : (s.placed id).view = s.view := rfl
@[simp] theorem State.unpark_view (s : State) (id : Nat) : (s.unpark id).view = s.view := rfl
@[simp] theorem State.setReq_view (s : State) (id : Nat) (r : Req) : (s.setReq id r).view = s.view := rfl
@[simp] theorem State.addReq_view (s : State) (r : Req) : (s.addReq r).view = s.view := rfl
@[simp] theorem State.overtake_view (s : State) (q k : Nat) : (s.overtake q k).view = s.view := rfl
@[simp] theorem State.modEngine_view (s : State) (qs : Nat) (f : SlotEng → SlotEng) : (s.modEngine qs f).view = s.view := rfl

@[simp] theorem State.regain_view (s : State) (r : Req) : (s.regain r).view = s.view := by
  unfold State.regain
  split
  · rfl
  · exact s.view_modBasin _ rfl

@[simp] theorem State.l1Invalidate_view (s : State) (q : Nat) : (s.l1Invalidate q).view = s.view :=
  s.view_modQuad q (f := Quad.l1Inv) (fun _ _ => by rfl)

@[simp] theorem State.wcEnter_view (s : State) (e : WcEntry) : (s.wcEnter e).view = s.view := by
  simp only [State.wcEnter, State.over_view, State.follow_view, State.addReq_view, State.overtake_view]
  exact s.view_modQuad _ (fun _ _ => by rfl)

@[simp] theorem State.drainWc_view (s : State) (q : Nat) : (s.drainWc q).view = s.view := by
  unfold State.drainWc
  split
  · rfl
  · refine foldl_view (fun s e => ?_) _ s
    dsimp only
    split
    · exact (State.view_modQuad _ q (fun _ _ => by rfl)).trans (s.wcEnter_view e)
    · rfl

@[simp] theorem State.wcFlush_view (s : State) (o : Owner) (f : WcEntry → Bool) : (s.wcFlush o f).view = s.view :=
  (State.drainWc_view _ _).trans (s.view_modQuad o.q (fun _ _ => by rfl))

theorem State.wcMerge_view {s t : State} {o : Owner} {obj line : Nat} {bytes : NMap Byte} {flight : List Nat} {byHandler : Bool}
    {accs : List (Nat × Nat × Nat)} (h : s.wcMerge o obj line bytes flight byHandler accs = some t) : t.view = s.view := by
  simp only [State.wcMerge] at h
  split at h
  · cases h
  next x hx =>
    split at h
    · cases h; exact s.view_modQuad _ (fun _ _ => by rfl)
    · split at h
      · obtain ⟨-, h⟩ := Option.ite_none_right_eq_some.1 h
        rw [← Option.some.inj h]
        exact (State.view_modQuad _ _ (fun _ _ => by rfl)).trans rfl
      · obtain ⟨-, h⟩ := Option.ite_none_right_eq_some.1 h
        rw [← Option.some.inj h]
        refine (State.view_modQuad _ _ (fun _ _ => by rfl)).trans ?_
        cases x.wc with
        | nil => rfl
        | cons e l => exact s.wcFlush_view ..

@[simp] theorem State.merge_view (s : State) (id : Nat) (r : Req) (bytes : NMap Byte) : (s.merge id r bytes).view = s.view := by
  unfold State.merge
  split
  · rfl
  next s1 h =>
    have h1 : s1.view = s.view := (State.wcMerge_view h).trans rfl
    split
    · refine (State.view_modQuad _ _ (fun _ _ => by rfl)).trans ?_
      simp only [State.over_view, State.wcFlush_view, State.follow_view, h1]
    · simp only [State.drainWc_view, State.over_view, h1]

@[simp] theorem State.keptOut_view (s : State) (id : Nat) (r : Req) : (s.keptOut id r).view = s.view := by
  unfold State.keptOut
  split <;> rfl

theorem Basin.spend_launches {b : Basin} {ports : List Nat} {p : Basin × List Nat} (h : b.spend ports = some p) :
    p.1.launches = b.launches := by
  obtain ⟨-, h⟩ := Option.ite_none_right_eq_some.1 h
  rw [← Option.some.inj h]
  refine List.foldlRecOn ports _ (motive := fun acc : Basin × List Nat => acc.1.launches = b.launches) rfl fun acc hacc p _ => ?_
  split
  · exact hacc
  · exact hacc

@[simp] theorem State.modQuad_l1Update_view (s : State) (q k line : Nat) (bytes : NMap Byte) :
    (s.modQuad q (fun x => x.l1Update k line bytes)).view = s.view := s.view_modQuad q (fun _ _ => by rfl)

@[simp] theorem State.modQuad_l1Drop_view (s : State) (q k : Nat) : (s.modQuad q (fun x => x.l1Drop k)).view = s.view :=
  s.view_modQuad q (fun _ _ => by rfl)

@[simp] theorem State.modQuad_l1Hit_view (s : State) (q k : Nat) : (s.modQuad q (fun x => x.l1Hit k)).view = s.view :=
  s.view_modQuad q (fun _ _ => by rfl)

@[simp] theorem State.modQuad_roHit_view (s : State) (q k : Nat) : (s.modQuad q (fun x => x.roHit k)).view = s.view :=
  s.view_modQuad q (fun _ _ => by rfl)

@[simp] theorem foldl_overtake_view (s : State) (q : Nat) (ks : List Nat) :
    (ks.foldl (fun s k => s.overtake q k) s).view = s.view := foldl_view (fun s k => s.overtake_view q k) ks s

/-- Whatever becomes of a request that may leave, nothing that is seen changes: it spends credits, answers from a cache, merges into
the write-combining buffer, or stands in its line's order. -/
@[simp] theorem State.depart_view (s : State) (id : Nat) (r : Req) : (s.depart id r).view = s.view := by
  unfold State.depart
  cases hx : s.quad? r.owner.q with
  | none => simp only [hx]
  | some x =>
    simp only [hx]
    split
    next => exact s.keptOut_view id r
    next =>
      split
      next =>
        split
        next p hp => exact s.view_modBasin r.owner.basin (f := fun _ => p.1) (congrArg _ (Basin.spend_launches hp))
        next => split <;> rfl
      next =>
        repeat' split
        all_goals simp only [State.setReq_view, State.merge_view, State.wcFlush_view, State.overtake_view,
          State.modQuad_l1Update_view, State.modQuad_l1Drop_view, State.modQuad_l1Hit_view, State.modQuad_roHit_view, foldl_overtake_view]

@[simp] theorem State.ackPromotes_view (s : State) : s.ackPromotes.view = s.view :=
  foldl_view (fun t e => by
    split
    · exact (State.over_view _ _).trans rfl
    · rfl) s.reqs s

/-! ### What follows by itself -/

@[simp] theorem State.sendPromotes_view (s : State) (o : Owner) : (s.sendPromotes o).1.view = s.view :=
  List.foldlRecOn _ _ (motive := fun acc : State × List Nat => acc.1.view = s.view) rfl fun _ h _ _ => h

theorem State.modGroup_orders_view (s : State) (q slot : Nat) (f : Group → List Order) :
    (s.modGroup q slot (fun h => { h with orders := f h })).view = s.view := s.view_modGroup q slot (fun _ => rfl)

@[simp] theorem State.stepOrder_view (s : State) (q slot : Nat) : (s.stepOrder q slot).view = s.view := by
  unfold State.stepOrder
  split
  · rfl
  · split
    · rfl
    next g hg w rest hw =>
      simp only
      split
      · rfl
      · split
        · exact s.modGroup_orders_view q slot _
        · split
          · rw [State.modGroup_orders_view, State.sendPromotes_view]
          · rw [State.over_view, State.modGroup_orders_view]
            split
            · exact s.l1Invalidate_view q
            · rfl

@[simp] theorem State.settle1_view (s : State) : s.settle1.view = s.view := by
  simp only [State.settle1]
  rw [foldl_view, foldl_view, foldl_view, State.ackPromotes_view]
  · intro t e
    split
    · split
      · exact t.depart_view ..
      · rfl
    · rfl
  · exact fun t e => t.drainWc_view e.1
  · exact fun t e => foldl_view (fun t (p : Nat × Group) => foldl_view (fun t _ => t.stepOrder_view e.1 p.1) p.2.orders t) _ t

@[simp] theorem State.settle_view (s : State) : s.settle.view = s.view := by
  simp only [State.settle, State.settle1_view]

@[simp] theorem State.finish_view (s : State) (id : Nat) : (s.finish id).view = s.view := by
  simp only [State.finish, State.settle_view, State.over_view, State.placed_view]
  split
  · exact s.regain_view _
  · rfl

/-! ### What a group leaves behind -/

theorem Group.flightDone_view (g : Group) (ids : List Nat) : (g.flightDone ids).view = g.view :=
  List.foldlRecOn ids _ (motive := fun h : Group => h.view = g.view) rfl fun _ h _ _ => h

@[simp] theorem State.dropRead_view (s : State) (id : Nat) (r : Req) : (s.dropRead id r).view = s.view := by
  rw [State.dropRead, State.finish_view, State.view_modOwner _ _ (fun g => g.flightDone_view r.flight), State.unpark_view]

@[simp] theorem State.dropParked_view (s : State) (o : Owner) : (s.dropParked o).view = s.view :=
  foldl_view (fun t id => by
    split
    · rfl
    · exact t.dropRead_view id _) _ s

@[simp] theorem State.copyDone_view (s : State) (c : CopyJob) : (s.copyDone c).view = s.view := by
  rw [State.copyDone, State.settle_view, State.over_view, State.view_modOwner _ _ (fun g => g.flightDone_view [c.flight]),
    State.modEngine_view, State.unpark_view]

@[simp] theorem State.dropCopies_view (s : State) (o : Owner) : (s.dropCopies o).view = s.view :=
  foldl_view (fun t c => t.copyDone_view c) _ s

/-! ### Barriers, engines, counts and records -/

@[simp] theorem State.setBarrier_view (s : State) (q : Nat) (g : Group) (id : Nat) (b : Barrier) :
    (s.setBarrier q g id b).view = s.view := by
  unfold State.setBarrier
  split
  · exact s.view_modQuad q (fun _ _ => by rfl)
  · exact s.view_modBasin g.basin rfl

theorem State.modAny_view (s : State) (o : Owner) {f : Group → Group} (hf : ∀ g, (f g).view = g.view) :
    (s.modAny o f).view = s.view := s.view_modOwner o hf

theorem Group.barrierFails_view (id reason : Nat) (g : Group) : (Group.barrierFails id reason g).view = g.view := by
  unfold Group.barrierFails
  split <;> rfl

@[simp] theorem State.testBarrier_view (s : State) (q : Nat) (g : Group) (id : Nat) : (s.testBarrier q g id).view = s.view := by
  simp only [State.testBarrier]
  split
  · rw [foldl_view (fun t e => t.modAny_view _ (Group.barrierFails_view id 3)), State.setBarrier_view]
  · rfl

@[simp] theorem State.countRetired_view (s : State) (g : Group) : (s.countRetired g).view = s.view := by
  refine s.view_modBasin g.basin ?_
  rw [List.map_map]
  refine List.map_congr_left fun l _ => ?_
  simp only [Function.comp_apply]
  split <;> rfl

@[simp] theorem State.dropEngine_view (s : State) (q slot : Nat) : (s.dropEngine q slot).view = s.view := by
  rw [State.dropEngine, State.view_modGroup _ _ _ (fun _ => by rfl), State.modEngine_view]
  exact foldl_view (fun t k => t.modEngine_view _ _) _ s

theorem State.modBasin_win_view (s : State) (b : Nat) (w : Window) : (s.modBasin b (fun x => { x with win := w })).view = s.view :=
  s.view_modBasin b rfl

@[simp] theorem State.writeErr_view (s : State) (e : ErrRec) : (s.writeErr e).view = s.view := by
  simp only [State.writeErr]
  split
  · split <;> rfl
  · split
    · rfl
    · split
      · exact s.modBasin_win_view e.queue _
      · exact s.modBasin_win_view e.queue _

@[simp] theorem State.logErr1_view (s : State) (e : ErrRec) : (s.logErr1 e).view = s.view := by
  unfold State.logErr1
  split
  · exact s.writeErr_view e
  · split
    · rfl
    · simp only
      split
      · rfl
      · split
        · exact (State.writeErr_view _ _).trans rfl
        · rfl

@[simp] theorem State.logErr_view (s : State) (cause basin src : Nat) (addr : DWord) (info : Word) (ext : Nat) :
    (s.logErr cause basin src addr info ext).view = s.view := by
  simp only [State.logErr, State.logErr1_view]

end Sys2Proof.Machine
end

section
/-! The end of a launch: its groups retire one by one, and nothing else that is seen changes; and the obligation about TRAP and BPT. -/

namespace Sys2Proof.Machine

/-! ### Groups of a launch that retire -/

/-- Between two states groups of one basin and launch may have retired, and nothing else that is seen has changed. -/
structure KillStep (b : Nat) (n : Word) (s t : State) : Prop where
  mem : t.view.mem = s.view.mem
  launches : t.view.launches = s.view.launches
  groups : ∀ q slot, t.view.groups q slot = s.view.groups q slot ∨
    ∃ x, s.view.groups q slot = some x ∧ x.basin = b ∧ x.launch = n ∧ t.view.groups q slot = some { x with retired := true }

variable {b : Nat} {n : Word}

theorem KillStep.of_view {s t : State} (h : t.view = s.view) : KillStep b n s t :=
  ⟨congrArg _ h, congrArg _ h, fun q slot => .inl (by rw [h])⟩

theorem KillStep.trans {s t u : State} (h : KillStep b n s t) (h' : KillStep b n t u) : KillStep b n s u := by
  refine ⟨h'.mem.trans h.mem, h'.launches.trans h.launches, fun q slot => ?_⟩
  obtain ht | ⟨x, hs, hb, hn, ht⟩ := h.groups q slot
  · obtain hu | ⟨y, hy, hb, hn, hu⟩ := h'.groups q slot
    · exact .inl (hu.trans ht)
    · exact .inr ⟨y, ht.symm.trans hy, hb, hn, hu⟩
  · obtain hu | ⟨y, hy, -, -, hu⟩ := h'.groups q slot
    · exact .inr ⟨x, hs, hb, hn, hu.trans ht⟩
    · cases ht.symm.trans hy
      exact .inr ⟨x, hs, hb, hn, hu⟩

/-- A group of the basin and launch in a slot has retired there. -/
def RetiredAt (b : Nat) (n : Word) (t : State) (q slot : Nat) : Prop :=
  ∀ x, t.view.groups q slot = some x → x.basin = b → x.launch = n → x.retired = true

theorem KillStep.retiredAt {s t : State} {q slot : Nat} (h : KillStep b n s t) (hs : RetiredAt b n s q slot) : RetiredAt b n t q slot := by
  intro x hx hb hn
  obtain ht | ⟨y, -, -, -, ht⟩ := h.groups q slot
  · exact hs x (ht.symm.trans hx) hb hn
  · cases ht.symm.trans hx; rfl

/-- Steps one after another, each of which lets groups of the launch retire. -/
theorem foldl_killStep {α : Type} {f : State → α → State} {l : List α} (hf : ∀ s, ∀ a ∈ l, KillStep b n s (f s a))
    (s : State) : KillStep b n s (l.foldl f s) :=
  List.foldlRecOn l f (motive := fun t => KillStep b n s t) (.of_view rfl) fun t h a ha => h.trans (hf t a ha)

/-- A group that retires at its place. -/
theorem killStep_setGroup {s : State} {q slot : Nat} {g g' : Group} (hg : s.group? q slot = some g)
    (h : g'.view = { g.view with retired := true }) : KillStep g.basin g.launch s (s.setGroup q slot g') := by
  refine ⟨rfl, rfl, fun q' slot' => ?_⟩
  by_cases hne : (q, slot) = (q', slot')
  · cases hne
    refine .inr ⟨g.view, ?_, rfl, rfl, ?_⟩
    · simp only [State.view, hg, Option.map_some]
    · simp only [State.view, State.group?_setGroup hg, Option.map_some, h]
  · exact .inl (by simp only [State.view, State.group?_setGroup_of_ne _ _ hne])

/-- What comes before a group's retirement: its entries are sent, its parked reads and its copies dropped, its orders over. -/
def State.leaveGroup (s : State) (q slot : Nat) (g : Group) : State :=
  (g.orders ++ (g.frame.map (fun f => f.orders)).getD []).foldl (fun s w => s.over w.id)
    (((s.wcFlush (g.owner q slot) (fun _ => true)).dropParked (g.owner q slot)).dropCopies (g.owner q slot))

theorem State.leaveGroup_view (s : State) (q slot : Nat) (g : Group) : (s.leaveGroup q slot g).view = s.view := by
  rw [State.leaveGroup, foldl_view (fun t w => t.over_view _)]
  simp only [State.dropCopies_view, State.dropParked_view, State.wcFlush_view]

/-- What comes after it: its quadrant issues no more for it, it is counted, and its barriers are tested. -/
theorem State.retireGroup_view {s : State} {q slot : Nat} {g : Group} (hg : s.group? q slot = some g) :
    (s.retireGroup q slot).view = ((s.leaveGroup q slot g).modGroup q slot Group.retire).view := by
  rw [State.retireGroup, hg]
  refine (foldl_view (fun t id => t.testBarrier_view q g id) _ _).trans ?_
  rw [State.countRetired_view]
  refine State.view_modQuad _ _ fun x i => ?_
  exact get?_mapGroups_view x.groups (fun _ => by rfl) (fun _ => by rfl) i

/-- A group with the view of another. -/
theorem State.group?_of_view {s t : State} (h : t.view = s.view) {q slot : Nat} {g : Group} (hg : s.group? q slot = some g) :
    ∃ g', t.group? q slot = some g' ∧ g'.view = g.view := by
  have groups : (t.group? q slot).map Group.view = some g.view := by
    have := congrFun (congrFun (congrArg View.groups h) q) slot
    simpa only [State.view, hg, Option.map_some] using this
  exact Option.map_eq_some_iff.1 groups

theorem retireGroup_killStep {s : State} {q slot : Nat} {g : Group} (hg : s.group? q slot = some g) :
    KillStep g.basin g.launch s (s.retireGroup q slot) ∧ RetiredAt b n (s.retireGroup q slot) q slot := by
  obtain ⟨g', hg', hv⟩ := State.group?_of_view (s.leaveGroup_view q slot g) hg
  have hbasin : g'.basin = g.basin := congrArg GroupView.basin hv
  have hlaunch : g'.launch = g.launch := congrArg GroupView.launch hv
  have hview := State.retireGroup_view hg
  rw [State.modGroup_eq hg'] at hview
  have step := killStep_setGroup hg' (g' := g'.retire) rfl
  rw [hbasin, hlaunch] at step
  refine ⟨((KillStep.of_view (s.leaveGroup_view q slot g)).trans step).trans (.of_view hview), fun x hx _ _ => ?_⟩
  rw [hview] at hx
  simp only [State.view, State.group?_setGroup hg', Option.map_some, Option.some.injEq] at hx
  rw [← hx]; rfl

/-- The end of what stands in one slot, where it is of the launch. -/
def State.killAt (b : Nat) (n : Word) (s : State) (e : Nat × Nat × Group) : State :=
  if (s.group? e.1 e.2.1).any (fun g => g.basin == b && g.launch == n) then (s.dropEngine e.1 e.2.1).retireGroup e.1 e.2.1 else s

theorem killAt_killStep (s : State) (e : Nat × Nat × Group) :
    KillStep b n s (s.killAt b n e) ∧ RetiredAt b n (s.killAt b n e) e.1 e.2.1 := by
  unfold State.killAt
  split
  next h =>
    obtain ⟨g, hg, hmine⟩ := (Option.any_eq_true _ _).1 h
    obtain ⟨hb, hn⟩ : g.basin = b ∧ g.launch = n := by simpa using hmine
    obtain ⟨g', hg', hv⟩ := State.group?_of_view (s.dropEngine_view e.1 e.2.1) hg
    have hb' : g'.basin = b := (congrArg GroupView.basin hv).trans hb
    have hn' : g'.launch = n := (congrArg GroupView.launch hv).trans hn
    obtain ⟨step, gone⟩ := retireGroup_killStep (b := b) (n := n) hg'
    rw [hb', hn'] at step
    exact ⟨(KillStep.of_view (s.dropEngine_view e.1 e.2.1)).trans step, gone⟩
  next h =>
    refine ⟨.of_view rfl, fun x hx hb hn => absurd ?_ h⟩
    obtain ⟨g, hg, rfl⟩ := Option.map_eq_some_iff.1 hx
    have hb : g.basin = b := hb
    have hn : g.launch = n := hn
    simp [hg, hb, hn]

/-- After the end of what stands in each of some slots, nothing of the launch that has not retired stands there. -/
theorem foldl_killAt (l : List (Nat × Nat × Group)) (s : State) :
    KillStep b n s (l.foldl (State.killAt b n) s) ∧ ∀ e ∈ l, RetiredAt b n (l.foldl (State.killAt b n) s) e.1 e.2.1 := by
  refine ⟨foldl_killStep (fun s e _ => (killAt_killStep s e).1) s, ?_⟩
  induction l generalizing s with
  | nil => simp
  | cons a l ih =>
    intro e he
    rcases List.mem_cons.1 he with rfl | he
    · exact KillStep.retiredAt (s := s.killAt b n e) (foldl_killStep (fun s e _ => (killAt_killStep s e).1) _) (killAt_killStep s e).2
    · exact ih _ e he

theorem modOwner_killStep (s : State) (o : Owner) {f : Group → Group} (hf : ∀ g, (f g).view = { g.view with retired := true }) :
    KillStep o.basin o.launch s (s.modOwner o f) := by
  unfold State.modOwner State.ownerGroup?
  cases hg : s.group? o.q o.slot with
  | none => exact .of_view rfl
  | some g =>
    by_cases h : o.isGroup g = true
    · obtain ⟨⟨⟨⟨hb, hn⟩, -⟩, -⟩, -⟩ : (((o.basin = g.basin ∧ o.launch = g.launch) ∧ _) ∧ _) ∧ _ := by
        simpa [Owner.isGroup] using h
      simp only [h, if_true]
      rw [hb, hn]
      exact killStep_setGroup hg (hf g)
    · simp only [h]
      exact .of_view rfl

theorem modAny_killStep (s : State) (o : Owner) {f : Group → Group} (hf : ∀ g, (f g).view = { g.view with retired := true }) :
    KillStep o.basin o.launch s (s.modAny o f) := (modOwner_killStep s o hf).trans (.of_view rfl)

/-- A group of a saved context that ends: one in its place, if it is there, retires. -/
theorem retireSaved_killStep (s : State) (q slot : Nat) (g : Group) : KillStep g.basin g.launch s (s.retireSaved q slot g) := by
  simp only [State.retireSaved]
  refine KillStep.trans ?_ (.of_view (State.countRetired_view _ g))
  refine (KillStep.of_view (foldl_view (fun t id => t.over_view id) (s.savedReads (g.owner q slot)) s)).trans ?_
  exact KillStep.trans (.of_view (by rfl)) (modAny_killStep _ (g.owner q slot) (fun _ => by rfl))

/-! ### The end of a launch (R55, R243) -/

/-- The mark of a killed launch. -/
def State.markKilled (s : State) (b : Nat) (n : Word) : State :=
  s.modBasin b (fun x => { x with
    launches := x.launches.map (fun l => if l.num = n ∧ l.complete = false then { l with killed := true } else l) })

theorem NMap.mem_of_get? {α : Type} {m : NMap α} {i : Nat} {x : α} (h : NMap.get? m i = some x) : (i, x) ∈ m := by
  induction m with
  | nil => cases h
  | cons e m ih =>
    simp only [NMap.get?] at h
    split at h
    next hk => cases h; rw [← hk]; exact List.mem_cons_self
    next => exact List.mem_cons_of_mem _ (ih h)

theorem State.mem_allGroups {s : State} {q slot : Nat} {g : Group} (h : s.group? q slot = some g) : (q, slot, g) ∈ s.allGroups := by
  obtain ⟨x, hx, hg⟩ := State.quad?_of_group? h
  exact List.mem_flatMap.2 ⟨(q, x), NMap.mem_of_get? hx, List.mem_map.2 ⟨(slot, g), NMap.mem_of_get? hg, rfl⟩⟩

/-- Whether a group is of a launch and has not retired. -/
def Group.liveOf (b : Nat) (n : Word) (g : Group) : Bool := g.basin == b && g.launch == n && !g.retired

/-- The end of a launch: the mark, the groups in their places, those in saved contexts, the record. -/
theorem State.killLaunch_eq (s : State) (b : Nat) (n : Word) (cause inner : Nat) : s.killLaunch b n cause inner =
    ((((s.everyGroup.drop s.allGroups.length).filter (fun e => e.2.2.liveOf b n)).foldl (fun s e => s.retireSaved e.1 e.2.1 e.2.2)
      ((s.allGroups.filter (fun e => e.2.2.liveOf b n)).foldl (State.killAt b n) (s.markKilled b n))).logErr
        cause b 0 0#64 (BitVec.ofNat 32 inner) 0xFFFFFF) := rfl

theorem killLaunch_killStep (s : State) (b : Nat) (n : Word) (cause inner : Nat) :
    KillStep b n (s.markKilled b n) (s.killLaunch b n cause inner) ∧ ∀ q slot, RetiredAt b n (s.killLaunch b n cause inner) q slot := by
  rw [State.killLaunch_eq]
  obtain ⟨placed, gone⟩ := foldl_killAt (b := b) (n := n) (s.allGroups.filter (fun e => e.2.2.liveOf b n)) (s.markKilled b n)
  generalize (s.allGroups.filter (fun e => e.2.2.liveOf b n)).foldl (State.killAt b n) (s.markKilled b n) = t at *
  have saved : KillStep b n t (((s.everyGroup.drop s.allGroups.length).filter (fun e => e.2.2.liveOf b n)).foldl
      (fun s e => s.retireSaved e.1 e.2.1 e.2.2) t) := by
    refine foldl_killStep (fun u e he => ?_) t
    obtain ⟨⟨hb, hn⟩, -⟩ : (e.2.2.basin = b ∧ e.2.2.launch = n) ∧ _ := by simpa [Group.liveOf] using (List.mem_filter.1 he).2
    rw [← hb, ← hn]
    exact retireSaved_killStep u e.1 e.2.1 e.2.2
  have rest := saved.trans (.of_view (State.logErr_view _ cause b 0 0#64 (BitVec.ofNat 32 inner) 0xFFFFFF))
  refine ⟨placed.trans rest, fun q slot => rest.retiredAt ?_⟩
  by_cases live : ∃ g, s.group? q slot = some g ∧ g.liveOf b n = true
  · obtain ⟨g, hg, hl⟩ := live
    exact gone (q, slot, g) (List.mem_filter.2 ⟨State.mem_allGroups hg, hl⟩)
  · refine placed.retiredAt fun x hx hb hn => ?_
    obtain ⟨g, hg, rfl⟩ := Option.map_eq_some_iff.1 hx
    by_contra hr
    have hb : g.basin = b := hb
    have hn : g.launch = n := hn
    have hr : ¬ g.retired = true := hr
    exact live ⟨g, hg, by simp [Group.liveOf, hb, hn, hr]⟩

theorem markKilled_launches (s : State) (b : Nat) (n : Word) :
    ∀ x ∈ (s.markKilled b n).view.launches b, x.1 = n → x.2.1 = false → x.2.2 = true := by
  intro x hx hn hc
  simp only [State.markKilled, State.view, State.basin, State.modBasin, NMap.getD_set_self, List.map_map] at hx
  obtain ⟨l, -, rfl⟩ := List.mem_map.1 hx
  simp only [Function.comp_apply, Launch.view] at hn hc ⊢
  split
  next => rfl
  next h =>
    simp only [if_neg h] at hn hc
    exact absurd ⟨hn, hc⟩ h

/-! ### A software trap that no handler can take -/

theorem State.mem_cutState (s : State) (q slot : Nat) (g : Group) : (s.cutState q slot g).mem = s.mem := by
  simp only [State.cutState, State.cutIssue]
  split <;> rfl

/-- Another slot has its group from before the trap. -/
theorem State.group?_cutState_trapping_of_ne (s : State) (g x : Group) {q slot : Nat} (h : (q, slot) ≠ s.cur) :
    ((s.trapping g).cutState s.cur.1 s.cur.2 x).group? q slot = s.group? q slot := by
  have hne : (s.cur.1, s.cur.2) ≠ (q, slot) := h.symm
  rw [State.cutState, State.group?_setGroup_of_ne _ _ hne, State.group?_cutIssue]
  exact State.group?_setGroup_of_ne _ _ hne

theorem softTrap_ends {s : State} {i : Instr} {g : Group} {code : Nat} {s58 : Word} (hi : IsSoftTrap i code s58)
    (h : Issues s i g) (hh : g.handler = true ∨ (s.basin g.basin).handler = none) :
    ∃ cause, exec i s = .next (((s.trapping g).cutState s.cur.1 s.cur.2 g.opened).killLaunch g.basin g.launch cause code) := by
  have hh' : g.opened.handler = true ∨ ((s.trapping g).basin g.opened.basin).handler = none := by
    rw [g.opened_handler, g.opened_basin]; exact hh
  obtain ⟨cause, kill⟩ := State.takeNotice_of_no_handler (State.group?_trapping h.1) (softNotice code s58 g.opened)
    (g.pc + instrLen i) hh'
  rw [g.opened_basin, g.opened_launch] at kill
  exact ⟨cause, (exec_softTrap hi h).trans (congrArg _ kill)⟩

/-- Groups of other basins are not touched by the retirements of a launch. -/
theorem KillStep.group?_of_ne {b : Nat} {n : Word} {s t : State} (h : KillStep b n s t) {q slot : Nat} {g : Group}
    (hg : s.group? q slot = some g) (hb : g.basin ≠ b) : ∃ g', t.group? q slot = some g' ∧ g'.view = g.view := by
  have seen : s.view.groups q slot = some g.view := congrArg (Option.map Group.view) hg
  obtain ht | ⟨x, hx, hxb, -, -⟩ := h.groups q slot
  · exact Option.map_eq_some_iff.1 (ht.trans seen)
  · cases seen.symm.trans hx
    exact absurd hxb hb

/-- Settles O15: a software trap enters the handler with the group that `enterHandler` leaves, or ends its launch, which lets the groups of
that launch retire and changes nothing else that is seen. -/
theorem trapsEnterTheHandlerOrEndTheLaunch : Obligations.TrapsEnterTheHandlerOrEndTheLaunch := by
  refine ⟨?enters, ?ends⟩
  case enters =>
    intro s g code cap hh hb entered
    suffices soft : ∀ i cause w, IsSoftTrap i cause w → entered i cause w from
      ⟨soft _ _ _ (isSoftTrap_trap code), soft _ _ _ isSoftTrap_bpt⟩
    intro i cause w hi h
    obtain ⟨still, ids, run⟩ := softTrap_enters hi h hh hb
    obtain ⟨s56, s57, s58, s59, lanes, regs, em, part, handler, pc, jet, stack, status⟩ := trapped_fields s i g cause w cap
    obtain ⟨fs, fp, fv, fem, fpart, ftop, fdepth⟩ := trapped_saveFrame s g
    generalize s.trapped i g cause w cap = x at *
    generalize (s.interrupted g).saveFrame s.nextId = f at *
    exact ⟨_, _, _, run, s.group?_handling g (x.shelve f still) ids h.1, rfl, s56, s57, s58, s59, lanes, regs, em, part, handler, pc,
      jet, stack, status, fs, fp, fv, fem, fpart, ftop, fdepth, s.handling_eq g _ ids, fun id => s.req?_handling g _ ids,
      s.engine_handling g _ ids, fun q slot => s.group?_handling_of_ne g _ ids⟩
  case ends =>
    intro s g code i hi h hh
    obtain ⟨w, c, soft⟩ : ∃ w c, IsSoftTrap i c w := by
      rcases hi with rfl | rfl
      · exact ⟨_, _, isSoftTrap_trap code⟩
      · exact ⟨_, _, isSoftTrap_bpt⟩
    obtain ⟨cause, run⟩ := softTrap_ends soft h hh
    obtain ⟨step, gone⟩ := killLaunch_killStep ((s.trapping g).cutState s.cur.1 s.cur.2 g.opened) g.basin g.launch cause c
    refine ⟨_, run, step.mem.trans (State.mem_cutState _ s.cur.1 s.cur.2 g.opened), ?retired, ?marked, ?others⟩
    case retired =>
      exact fun q slot k hk hb hn => gone q slot k.view (congrArg (Option.map Group.view) hk) hb hn
    case marked =>
      intro l hl hn hc
      refine markKilled_launches ((s.trapping g).cutState s.cur.1 s.cur.2 g.opened) g.basin g.launch l.view ?_ hn hc
      rw [← step.launches]
      exact List.mem_map_of_mem (f := Launch.view) hl
    case others =>
      intro q slot k hk hb
      have hne : (q, slot) ≠ s.cur := by
        intro heq
        have hg : s.group? s.cur.1 s.cur.2 = some g := h.1
        rw [← heq] at hg
        cases hg.symm.trans hk
        exact hb rfl
      have hk' := (State.group?_cutState_trapping_of_ne s g g.opened hne).trans hk
      obtain ⟨k', ht, hv⟩ := step.group?_of_ne hk' hb
      exact ⟨k', ht, congrArg GroupView.v hv, congrArg GroupView.s hv, congrArg GroupView.p hv, congrArg GroupView.pc hv,
        congrArg GroupView.em hv, congrArg GroupView.retired hv⟩

end Sys2Proof.Machine
end

section
/-! The fields of the instruction words, read back: of each layout, of a selector, a destination, an ordering and every list of values.
The obligation about the decoder and the encoder rests on these. -/

namespace Sys2Proof.Machine

/-! ### Steps of the decoder that succeed -/

@[simp] theorem ok_bind {ε α β : Type} (a : α) (f : α → Except ε β) : (Except.ok a >>= f) = f a := rfl

@[simp] theorem need_true (e : DecErr) : need true e = .ok () := rfl

/-! ### Layouts: the fields of a word that is put together from fields (R58, R64, R69, R73, R74) -/

@[simp] theorem ofBool_beq_one (b : Bool) : (BitVec.ofBool b == 1#1) = b := by cases b <;> rfl

@[simp] theorem W1.ofWord_toWord (f : W1) : W1.ofWord f.toWord = f := by
  simp (disch := decide) only [-Nat.reduceAdd, W1.ofWord, W1.toWord, BitVec.getLsbD_eq_extractLsb',
    BitVec.extractLsb'_setWidth_of_le, BitVec.extractLsb'_append_eq_of_le, BitVec.extractLsb'_append_eq_of_add_le]
  simp

@[simp] theorem XDef.ofWord_toWord (f : XDef) : XDef.ofWord f.toWord = f := by
  simp (disch := decide) only [-Nat.reduceAdd, XDef.ofWord, XDef.toWord, BitVec.getLsbD_eq_extractLsb',
    BitVec.extractLsb'_setWidth_of_le, BitVec.extractLsb'_append_eq_of_le, BitVec.extractLsb'_append_eq_of_add_le]
  simp

@[simp] theorem XMem.ofWord_toWord (f : XMem) : XMem.ofWord f.toWord = f := by
  simp (disch := decide) only [-Nat.reduceAdd, XMem.ofWord, XMem.toWord, BitVec.getLsbD_eq_extractLsb',
    BitVec.extractLsb'_setWidth_of_le, BitVec.extractLsb'_append_eq_of_le, BitVec.extractLsb'_append_eq_of_add_le]
  simp

@[simp] theorem XAtom.ofWord_toWord (f : XAtom) : XAtom.ofWord f.toWord = f := by
  simp (disch := decide) only [-Nat.reduceAdd, XAtom.ofWord, XAtom.toWord, BitVec.getLsbD_eq_extractLsb',
    BitVec.extractLsb'_setWidth_of_le, BitVec.extractLsb'_append_eq_of_le, BitVec.extractLsb'_append_eq_of_add_le]
  simp

@[simp] theorem XDep.ofWord_toWord (f : XDep) : XDep.ofWord f.toWord = f := by
  simp (disch := decide) only [-Nat.reduceAdd, XDep.ofWord, XDep.toWord, BitVec.getLsbD_eq_extractLsb',
    BitVec.extractLsb'_setWidth_of_le, BitVec.extractLsb'_append_eq_of_le, BitVec.extractLsb'_append_eq_of_add_le]
  simp

@[simp] theorem XLdv.ofWord_toWord (f : XLdv) : XLdv.ofWord f.toWord = f := by
  simp (disch := decide) only [-Nat.reduceAdd, XLdv.ofWord, XLdv.toWord, BitVec.getLsbD_eq_extractLsb',
    BitVec.extractLsb'_setWidth_of_le, BitVec.extractLsb'_append_eq_of_le, BitVec.extractLsb'_append_eq_of_add_le]
  simp

@[simp] theorem XCasv.ofWord_toWord (f : XCasv) : XCasv.ofWord f.toWord = f := by
  simp (disch := decide) only [-Nat.reduceAdd, XCasv.ofWord, XCasv.toWord, BitVec.getLsbD_eq_extractLsb',
    BitVec.extractLsb'_setWidth_of_le, BitVec.extractLsb'_append_eq_of_le, BitVec.extractLsb'_append_eq_of_add_le]
  simp

@[simp] theorem XVal.ofWord_toWord (f : XVal) : XVal.ofWord f.toWord = f := by
  simp (disch := decide) only [-Nat.reduceAdd, XVal.ofWord, XVal.toWord, BitVec.getLsbD_eq_extractLsb',
    BitVec.extractLsb'_setWidth_of_le, BitVec.extractLsb'_append_eq_of_le, BitVec.extractLsb'_append_eq_of_add_le]
  simp

@[simp] theorem XOw.ofWord_toWord (f : XOw) : XOw.ofWord f.toWord = f := by
  simp (disch := decide) only [-Nat.reduceAdd, XOw.ofWord, XOw.toWord,
    BitVec.extractLsb'_setWidth_of_le, BitVec.extractLsb'_append_eq_of_le, BitVec.extractLsb'_append_eq_of_add_le]
  simp

@[simp] theorem XMma.ofWord_toWord (f : XMma) : XMma.ofWord f.toWord = f := by
  simp (disch := decide) only [-Nat.reduceAdd, XMma.ofWord, XMma.toWord, BitVec.getLsbD_eq_extractLsb',
    BitVec.extractLsb'_setWidth_of_le, BitVec.extractLsb'_append_eq_of_le, BitVec.extractLsb'_append_eq_of_add_le]
  simp

@[simp] theorem XCtl.ofWord_toWord (f : XCtl) : XCtl.ofWord f.toWord = f := by
  simp (disch := decide) only [-Nat.reduceAdd, XCtl.ofWord, XCtl.toWord,
    BitVec.extractLsb'_setWidth_of_le, BitVec.extractLsb'_append_eq_of_le, BitVec.extractLsb'_append_eq_of_add_le]
  simp

@[simp] theorem XLdu.ofWord_toWord (f : XLdu) : XLdu.ofWord f.toWord = f := by
  simp (disch := decide) only [-Nat.reduceAdd, XLdu.ofWord, XLdu.toWord,
    BitVec.extractLsb'_setWidth_of_le, BitVec.extractLsb'_append_eq_of_le, BitVec.extractLsb'_append_eq_of_add_le]
  simp

@[simp] theorem XDef.ofWord_encX (g : Guard) (c : BitVec 8) (m : BitVec 4) (imm : BitVec 16) :
    XDef.ofWord (encX g c m imm) = ⟨g.neg, g.p, c, m, imm⟩ :=
  XDef.ofWord_toWord _

@[simp] theorem XMem.ofWord_encXMem (g : Guard) (size ord scope hint : BitVec 3) (ofs : BitVec 16) :
    XMem.ofWord (encXMem g size ord scope hint ofs) = ⟨g.neg, g.p, size, ord, scope, hint, ofs⟩ :=
  XMem.ofWord_toWord _

/-! ### Fields that are 0, and the guard -/

@[simp] theorem noN_false (s x : Bool) (op : BitVec 6) (d : BitVec 7) (a b : BitVec 8) : noN ⟨s, x, op, false, d, a, b⟩ = .ok () := rfl

@[simp] theorem noC_zero (gn : Bool) (gp : BitVec 3) (m : BitVec 4) (imm : BitVec 16) : noC ⟨gn, gp, 0#8, m, imm⟩ = .ok () := rfl

@[simp] theorem noImm_zero (gn : Bool) (gp : BitVec 3) (c : BitVec 8) (m : BitVec 4) : noImm ⟨gn, gp, c, m, 0#16⟩ = .ok () := rfl

@[simp] theorem XDef.guard_mk (g : Guard) (c : BitVec 8) (m : BitVec 4) (imm : BitVec 16) :
    XDef.guard ⟨g.neg, g.p, c, m, imm⟩ = g := rfl

@[simp] theorem XMem.guard_mk (g : Guard) (size ord scope hint : BitVec 3) (ofs : BitVec 16) :
    XMem.guard ⟨g.neg, g.p, size, ord, scope, hint, ofs⟩ = g := rfl

/-- Bits above a small value are 0. -/
theorem extractLsb'_eq_zero_of_lt {w start len : Nat} {x : BitVec w} (h : x.toNat < 2 ^ start) :
    x.extractLsb' start len = 0#len := by
  apply BitVec.eq_of_toNat_eq
  rw [BitVec.extractLsb'_toNat, Nat.shiftRight_eq_div_pow, Nat.div_eq_of_lt h, Nat.zero_mod, BitVec.toNat_ofNat, Nat.zero_mod]

/-! ### Selectors and destinations (R59, R60, R63, R73) -/

@[simp] theorem decSel_encSel (a : Sel) : decSel (encSel a) = .ok a := by
  cases a with
  | v n => revert n; decide
  | latch k => revert k; decide
  | imm x => revert x; decide
  | fconst k => revert k; decide
  | s n => revert n; decide
  | fq | laneid | zero | tileid => rfl

@[simp] theorem decUSel_encUSel (a : USel) : decUSel (encUSel a) = .ok a := by
  cases a with
  | s n => revert n; decide
  | imm x => revert x; decide

@[simp] theorem decPDst_setWidth (p : BitVec 3) : decPDst (p.setWidth 7) = .ok p := by revert p; decide

@[simp] theorem decHDst_setWidth (d : BitVec 4) : decHDst (d.setWidth 7) = .ok d := by revert d; decide

@[simp] theorem decUDst_setWidth (d : BitVec 6) : decUDst (d.setWidth 7) = .ok d := by revert d; decide

@[simp] theorem decTDst_setWidth (t : BitVec 3) : decTDst (t.setWidth 7) = .ok t := by revert t; decide

@[simp] theorem decMemAB_encSel (x s : Bool) (op : BitVec 6) (d : BitVec 7) (a b : Sel) :
    decMemAB ⟨s, x, op, false, d, encSel a, encSel b⟩ = .ok (a, b) := by
  simp [decMemAB]

/-! ### Values with a code of three or four bits of their own -/

@[simp] theorem decSize_encSize (x : Size) : decSize (encSize x) = .ok x := by cases x <;> rfl

@[simp] theorem decHint_encHint (x : Hint) : decHint (encHint x) = .ok x := by cases x <;> rfl

@[simp] theorem decAtOp_encAtOp (x : AtOp) : decAtOp (encAtOp x) = .ok x := by cases x <;> rfl

@[simp] theorem decAtTy_encAtTy (x : AtTy) : decAtTy (encAtTy x) = x := by cases x <;> rfl

@[simp] theorem decDepOp_encDepOp (x : DepOp) : decDepOp (encDepOp x) = .ok x := by cases x <;> rfl

@[simp] theorem decRnd_encRnd (x : Rnd) : decRnd (encRnd x) = x := by cases x <;> rfl

@[simp] theorem decCvtFmt_encCvtFmt (x : CvtFmt) : decCvtFmt (encCvtFmt x).toNat = .ok x := by cases x <;> rfl

@[simp] theorem decPackTy_encPackTy (x : PackTy) : decPackTy (encPackTy x) = .ok x := by cases x <;> rfl

@[simp] theorem decMmaFmt_encMmaFmt (x : MmaFmt) : decMmaFmt (encMmaFmt x).toNat = .ok x := by cases x <;> rfl

@[simp] theorem decBlk_encBlk (x : Blk) : decBlk (encBlk x) = .ok x := by cases x <;> rfl

/-! ### Orderings with their scopes, conditions with their selector (R71, R75, R130, R161) -/

@[simp] theorem decLdOrd_encLdOrd (o : LdOrd) : decLdOrd (encLdOrd o).1 (encLdOrd o).2 = .ok o := by
  cases o with
  | plain => rfl
  | acq sc => cases sc <;> rfl
  | acqRemote dev => cases dev <;> rfl

@[simp] theorem decStOrd_encStOrd (o : StOrd) : decStOrd (encStOrd o).1 (encStOrd o).2 = .ok o := by
  cases o with
  | plain | post => rfl
  | rel sc => cases sc <;> rfl

@[simp] theorem decSpOrd_encSpOrd_one (o : SpOrd) : decSpOrd 1 (encSpOrd 1#3 o).1 (encSpOrd 1#3 o).2 = .ok o := by
  cases o with
  | plain => rfl
  | ordered crew => cases crew <;> rfl

@[simp] theorem decSpOrd_encSpOrd_two (o : SpOrd) : decSpOrd 2 (encSpOrd 2#3 o).1 (encSpOrd 2#3 o).2 = .ok o := by
  cases o with
  | plain => rfl
  | ordered crew => cases crew <;> rfl

@[simp] theorem decAtOrd_encAtOrd (o : AtOrd) : decAtOrd (encAtOrd o).1 (encAtOrd o).2 = .ok o := by
  cases o with
  | plain => rfl
  | acq sc | rel sc | acqrel sc => cases sc <;> rfl

@[simp] theorem decFenceKind_encFenceKind (k : FenceKind) : decFenceKind (encFenceKind k).1 (encFenceKind k).2 = .ok k := by
  cases k with
  | acq sc | rel sc | acqrel sc => cases sc <;> rfl
  | acqRemote dev => cases dev <;> rfl

@[simp] theorem decCondTest_encCondTest (t : CondTest) : decCondTest (encCondTest t).1 (encCondTest t).2 = .ok t := by
  cases t with
  | always => rfl
  | test c u => cases c <;> simp [decCondTest, encCondTest, encCond]

/-! ### Values with a number, which a field holds modulo its size -/

section
variable {m : Nat}

/-- A field that has room for every number of a list of values gives the value back. -/
theorem dec_mod {α : Type} {dec : Nat → Dec α} {n k : Nat} {x : α} (hn : n < k) (hd : dec n = .ok x) (hm : k ≤ m) :
    dec (n % m) = .ok x := by
  rw [Nat.mod_eq_of_lt (hn.trans_le hm), hd]

theorem encTy3_lt (x : Ty3) : encTy3 x < 3 := by cases x <;> decide

theorem encICmp_lt (x : ICmp) : encICmp x < 10 := by cases x <;> decide

theorem encAccWidth_lt (x : AccWidth) : encAccWidth x < 3 := by cases x <;> decide

theorem encPath_lt (x : Path) : encPath x < 6 := by cases x <;> decide

theorem encGran_lt (x : Gran) : encGran x < 6 := by cases x <;> decide

theorem encSReg_lt (x : SReg) : encSReg x < 0x23 := by
  cases x with
  | landrec w => revert w; decide
  | _ => decide

@[simp] theorem decSReg_encSReg (x : SReg) : decSReg (encSReg x) = .ok x := by
  cases x with
  | landrec w => revert w; decide
  | _ => rfl

@[simp] theorem decTy3_encTy3 (x : Ty3) (h : 3 ≤ m) : decTy3 (encTy3 x % m) = .ok x :=
  dec_mod (encTy3_lt x) (by cases x <;> rfl) h

@[simp] theorem decICmp_encICmp (x : ICmp) (h : 10 ≤ m) : decICmp (encICmp x % m) = .ok x :=
  dec_mod (encICmp_lt x) (by cases x <;> rfl) h

@[simp] theorem decFCmp_encFCmp (x : FCmp) (h : 14 ≤ m) : decFCmp (encFCmp x % m) = .ok x :=
  dec_mod (by cases x <;> decide) (by cases x <;> rfl) h

@[simp] theorem decSatForm_encSatForm (x : SatForm) (h : 3 ≤ m) : decSatForm (encSatForm x % m) = .ok x :=
  dec_mod (by cases x <;> decide) (by cases x <;> rfl) h

@[simp] theorem decSfuFn_encSfuFn (x : SfuFn) (h : 8 ≤ m) : decSfuFn (encSfuFn x % m) = .ok x :=
  dec_mod (by cases x <;> decide) (by cases x <;> rfl) h

@[simp] theorem decShflMode_encShflMode (x : ShflMode) (h : 4 ≤ m) : decShflMode (encShflMode x % m) = .ok x :=
  dec_mod (by cases x <;> decide) (by cases x <;> rfl) h

@[simp] theorem decVoteOp_encVoteOp (x : VoteOp) (h : 3 ≤ m) : decVoteOp (encVoteOp x % m) = .ok x :=
  dec_mod (by cases x <;> decide) (by cases x <;> rfl) h

@[simp] theorem decRedOp_encRedOp (x : RedOp) (h : 6 ≤ m) : decRedOp (encRedOp x % m) = .ok x :=
  dec_mod (by cases x <;> decide) (by cases x <;> rfl) h

@[simp] theorem decAccWidth_encAccWidth (x : AccWidth) (h : 3 ≤ m) : decAccWidth (encAccWidth x % m) = .ok x :=
  dec_mod (encAccWidth_lt x) (by cases x <;> rfl) h

@[simp] theorem decPath_encPath (x : Path) (h : 6 ≤ m) : decPath (encPath x % m) = .ok x :=
  dec_mod (encPath_lt x) (by cases x <;> rfl) h

@[simp] theorem decGran_encGran (x : Gran) (h : 6 ≤ m) : decGran (encGran x % m) = .ok x :=
  dec_mod (encGran_lt x) (by cases x <;> rfl) h

@[simp] theorem decSReg_encSReg_mod (x : SReg) (h : 0x23 ≤ m) : decSReg (encSReg x % m) = .ok x :=
  dec_mod (encSReg_lt x) (decSReg_encSReg x) h

end

end Sys2Proof.Machine
end

section
/-! Lane instructions: decoding the words of each gives it back (R58, R60, R64, R69). -/

namespace Sys2Proof.Machine

/-! ### What the obligation asks of one instruction, by the four tables of the decoder (R56, R76) -/

/-- The words of an instruction decode to it, and the first one announces a second exactly where there is one. -/
def ReadsBack (i : Instr) : Prop :=
  ∀ c : Code, encode i = some c → decode c.1 (c.2.getD 0#32) = .ok i ∧ hasExt c.1 = c.2.isSome

@[simp] theorem ofWord_encLane (x : Bool) (op : BitVec 6) (n : Bool) (d : BitVec 7) (a b : BitVec 8) :
    W1.ofWord (encLane x op n d a b) = ⟨false, x, op, n, d, a, b⟩ :=
  W1.ofWord_toWord _

@[simp] theorem ofWord_encUni (x : Bool) (op : BitVec 6) (d : BitVec 7) (a b : BitVec 8) :
    W1.ofWord (encUni x op d a b) = ⟨true, x, op, false, d, a, b⟩ :=
  W1.ofWord_toWord _

theorem hasExt_eq_x (w : Word) : hasExt w = (W1.ofWord w).x := rfl

namespace ReadsBack

variable {i : Instr} {op : BitVec 6} {n : Bool} {d : BitVec 7} {a b : BitVec 8} {w : Word}

theorem laneSingle (he : encode i = some (encLane false op n d a b, none))
    (hd : decLane0 ⟨false, false, op, n, d, a, b⟩ = .ok i) : ReadsBack i := by
  intro c hc
  cases he.symm.trans hc
  exact ⟨by simpa [decode] using hd, by simp [hasExt_eq_x]⟩

theorem laneArith (he : encode i = some (encLane true op n d a b, some w)) (hop : op.toNat < 0x13)
    (hd : decLane1a ⟨false, true, op, n, d, a, b⟩ w = .ok i) : ReadsBack i := by
  intro c hc
  cases he.symm.trans hc
  exact ⟨by simpa [decode, hop] using hd, by simp [hasExt_eq_x]⟩

theorem laneMemory (he : encode i = some (encLane true op n d a b, some w)) (hop : ¬ op.toNat < 0x13)
    (hd : decLane1b ⟨false, true, op, n, d, a, b⟩ w = .ok i) : ReadsBack i := by
  intro c hc
  cases he.symm.trans hc
  exact ⟨by simpa [decode, hop] using hd, by simp [hasExt_eq_x]⟩

theorem uniSingle (he : encode i = some (encUni false op d a b, none))
    (hd : decUni0 ⟨true, false, op, false, d, a, b⟩ = .ok i) : ReadsBack i := by
  intro c hc
  cases he.symm.trans hc
  exact ⟨by simpa [decode] using hd, by simp [hasExt_eq_x]⟩

theorem uniExt (he : encode i = some (encUni true op d a b, some w))
    (hd : decUni1 ⟨true, true, op, false, d, a, b⟩ w = .ok i) : ReadsBack i := by
  intro c hc
  cases he.symm.trans hc
  exact ⟨by simpa [decode] using hd, by simp [hasExt_eq_x]⟩

end ReadsBack

section
variable {nw : Bool} {g : Guard} {d : BitVec 7} {a b c : Sel}

/-! ### Lane set, single words -/

theorem readsBack_bin {mk : Bool → BitVec 7 → Sel → Sel → Instr} {op : BitVec 6}
    (he : encode (mk nw d a b) = some (enc0 op nw d a b))
    (hd : decLane0 ⟨false, false, op, nw, d, encSel a, encSel b⟩ = decBin mk ⟨false, false, op, nw, d, encSel a, encSel b⟩) :
    ReadsBack (mk nw d a b) :=
  .laneSingle he (by simp [hd, decBin])

theorem readsBack_un {mk : Bool → BitVec 7 → Sel → Instr} {op : BitVec 6}
    (he : encode (mk nw d a) = some (enc0u op nw d a))
    (hd : decLane0 ⟨false, false, op, nw, d, encSel a, 0#8⟩ = decUn mk ⟨false, false, op, nw, d, encSel a, 0#8⟩) :
    ReadsBack (mk nw d a) :=
  .laneSingle he (by simp [hd, decUn])

theorem readsBack_dsc {w : Bool} {k : BitVec 4} (h : WellFormed (.dsc w k) = true) : ReadsBack (.dsc w k) :=
  .laneSingle rfl (by revert w k; decide)

/-! ### Fields of M and IMM16 that hold several values -/

theorem lowBit_of_four (y : Bool) :
    (0#3 ++ BitVec.ofBool y : BitVec 4)[0] = y ∧ (0#3 ++ BitVec.ofBool y : BitVec 4).extractLsb' 1 3 = 0#3 := by
  cases y <;> decide

theorem highBit_of_four (y : Bool) (p : BitVec 3) :
    (BitVec.ofBool y ++ p : BitVec 4)[3] = y ∧ (BitVec.ofBool y ++ p : BitVec 4).setWidth 3 = p := by
  revert y p; decide

theorem packM_fields (sat : Bool) (ty : PackTy) : (packM sat ty)[3] = sat ∧ (packM sat ty).setWidth 3 = encPackTy ty :=
  highBit_of_four sat (encPackTy ty)

theorem rnd_field (r : Rnd) :
    (0#2 ++ encRnd r : BitVec 4).extractLsb' 2 2 = 0#2 ∧ (0#2 ++ encRnd r : BitVec 4).setWidth 2 = encRnd r := by
  cases r <;> decide

theorem fcvt_m_fields (sat : Bool) (r : Rnd) :
    let m : BitVec 4 := 0#1 ++ (BitVec.ofBool sat ++ encRnd r)
    m[3] = false ∧ m[2] = sat ∧ m.setWidth 2 = encRnd r := by
  cases sat <;> cases r <;> decide

theorem fcvt_imm_fields (di si : BitVec 3) (df sf : BitVec 4) :
    let imm : BitVec 16 := 0#2 ++ (di ++ (si ++ (df ++ sf)))
    imm.extractLsb' 14 2 = 0#2 ∧ imm.extractLsb' 11 3 = di ∧ imm.extractLsb' 8 3 = si ∧ imm.extractLsb' 4 4 = df ∧
      imm.extractLsb' 0 4 = sf := by
  simp (disch := decide) only [-Nat.reduceAdd, BitVec.extractLsb'_append_eq_of_le, BitVec.extractLsb'_append_eq_of_add_le]
  simp

theorem bfi_imm_fields (len pos : BitVec 6) :
    let imm : BitVec 16 := 0#4 ++ (len ++ pos)
    imm.extractLsb' 12 4 = 0#4 ∧ imm.extractLsb' 6 6 = len ∧ imm.setWidth 6 = pos := by
  simp (disch := decide) only [-Nat.reduceAdd, BitVec.setWidth_eq_extractLsb',
    BitVec.extractLsb'_append_eq_of_le, BitVec.extractLsb'_append_eq_of_add_le]
  simp

theorem vote_imm_fields (neg : Bool) (p : BitVec 3) :
    let imm : BitVec 16 := 0#12 ++ (BitVec.ofBool neg ++ p)
    imm.extractLsb' 4 12 = 0#12 ∧ imm[3] = neg ∧ imm.setWidth 3 = p := by
  revert neg p; decide

/-! ### Lane set with extension word, arithmetic half -/

theorem readsBack_selLane {neg : Bool} {p : BitVec 3} : ReadsBack (.selLane nw g d a b neg p) :=
  .laneArith rfl (by decide) (by simp [decLane1a, highBit_of_four])

theorem readsBack_bfe {signed : Bool} : ReadsBack (.bfe nw g d a b c signed) :=
  .laneArith rfl (by decide) (by simp [decLane1a, lowBit_of_four])

theorem readsBack_bfi {src : BfiSrc} : ReadsBack (.bfi nw g d a b src) := by
  cases src with
  | const pos len =>
    obtain ⟨unused, hlen, hpos⟩ := bfi_imm_fields len pos
    exact .laneArith rfl (by decide) (by simp [decLane1a, unused, hlen, hpos])
  | reg c => exact .laneArith rfl (by decide) (by simp [decLane1a])

theorem readsBack_fcvt {sat : Bool} {rnd : Rnd} {di si : BitVec 3} {df sf : CvtFmt}
    (h : WellFormed (.fcvt nw g d a b sat rnd di si df sf) = true) : ReadsBack (.fcvt nw g d a b sat rnd di si df sf) := by
  have h : fcvtOk b sat di si df sf = true := h
  obtain ⟨hm, hsat, hrnd⟩ := fcvt_m_fields sat rnd
  obtain ⟨unused, hdi, hsi, hdf, hsf⟩ := fcvt_imm_fields di si (encCvtFmt df) (encCvtFmt sf)
  exact .laneArith rfl (by decide)
    (by simp [decLane1a, -BitVec.extractLsb'_toNat, hm, hsat, hrnd, unused, hdi, hsi, hdf, hsf, h])

theorem readsBack_frnd {rnd : Rnd} : ReadsBack (.frnd nw g d a rnd) :=
  .laneArith rfl (by decide) (by simp [decLane1a, rnd_field])

theorem decPack_packM {mk : Bool → Guard → BitVec 7 → Sel → Sel → Bool → PackTy → Instr} {satOk sat : Bool} {ty : PackTy}
    (op : BitVec 6) (h : packSatOk sat ty = true) (hs : (satOk || !sat) = true) :
    decPack mk satOk ⟨false, true, op, nw, d, encSel a, encSel b⟩ ⟨g.neg, g.p, 0#8, packM sat ty, 0#16⟩ =
      .ok (mk nw g d a b sat ty) := by
  simp [decPack, packM_fields, h, hs]

theorem readsBack_padd {sat : Bool} {ty : PackTy} (h : WellFormed (.padd nw g d a b sat ty) = true) :
    ReadsBack (.padd nw g d a b sat ty) :=
  .laneArith rfl (by decide) (by simpa [decLane1a] using decPack_packM _ h rfl)

theorem readsBack_pmul {sat : Bool} {ty : PackTy} (h : WellFormed (.pmul nw g d a b sat ty) = true) :
    ReadsBack (.pmul nw g d a b sat ty) :=
  .laneArith rfl (by decide) (by simpa [decLane1a] using decPack_packM _ h rfl)

theorem readsBack_pfma {sat : Bool} {ty : PackTy} (h : WellFormed (.pfma nw g d a b c sat ty) = true) :
    ReadsBack (.pfma nw g d a b c sat ty) :=
  have h : packSatOk sat ty = true := h
  .laneArith rfl (by decide) (by simp [decLane1a, packM_fields, h])

theorem readsBack_pmax {ty : PackTy} : ReadsBack (.pmax nw g d a b ty) :=
  .laneArith rfl (by decide) (by simpa [decLane1a] using decPack_packM _ rfl rfl)

theorem readsBack_pmin {ty : PackTy} : ReadsBack (.pmin nw g d a b ty) :=
  .laneArith rfl (by decide) (by simpa [decLane1a] using decPack_packM _ rfl rfl)

theorem readsBack_vote {op : VoteOp} {neg : Bool} {p : BitVec 3} : ReadsBack (.vote g d op neg p) := by
  obtain ⟨unused, hneg, hp⟩ := vote_imm_fields neg p
  exact .laneArith rfl (by decide) (by simp [decLane1a, unused, hneg, hp])

theorem readsBack_red {op : RedOp} {ty : Ty3} (h : WellFormed (.red g d a op ty) = true) : ReadsBack (.red g d a op ty) :=
  have h : redOk op ty = true := h
  have unused : (BitVec.ofNat 16 (encTy3 ty)).extractLsb' 2 14 = 0#14 := by cases ty <;> decide
  .laneArith rfl (by decide) (by simp [decLane1a, unused, h])

/-! ### Lane set with extension word, memory and atomics -/

theorem readsBack_dep {op : DepOp} {ty : Ty3} {ofs : BitVec 16} : ReadsBack (.dep g d a b op ty ofs) :=
  .laneMemory rfl (by decide) (by simp [decLane1b, XDep.guard])

theorem readsBack_ldv {vd : BitVec 7} {size : Size} {ord : LdOrd} {ofs : BitVec 12}
    (h : WellFormed (.ldv g d vd a b size ord ofs) = true) : ReadsBack (.ldv g d vd a b size ord ofs) := by
  obtain ⟨hsize, hord⟩ := Bool.and_eq_true_iff.1 h
  exact .laneMemory rfl (by decide) (by simp [decLane1b, XLdv.guard, hsize, hord])

theorem readsBack_smpl {lin : Bool} : ReadsBack (.smpl g d a b c lin) :=
  .laneMemory rfl (by decide) (by simp [decLane1b, lowBit_of_four])

section
variable {op : AtOp} {ord : AtOrd} {ty : AtTy} {agg nd : Bool} {ofw : BitVec 7}

/-- `ATOM` and `ATOMS` share their words; only the second restricts the scope. -/
theorem decAtomForm_encAtomForm
    {mk : Guard → BitVec 7 → Sel → Sel → Sel → AtOp → AtOrd → AtTy → Bool → Bool → BitVec 7 → Instr} {scratch : Bool}
    (code : BitVec 6) (h : atomOk d op ty agg nd = true) (hs : (!scratch || ord.crewOk) = true) :
    decAtomForm mk scratch ⟨false, true, code, false, d, encSel a, encSel b⟩
        ⟨g.neg, g.p, encSel c, encAtOp op, (encAtOrd ord).1, (encAtOrd ord).2, encAtTy ty, agg, nd, ofw⟩ =
      .ok (mk g d a b c op ord ty agg nd ofw) := by
  simp [decAtomForm, XAtom.guard, h, hs]

theorem readsBack_atom (h : WellFormed (.atom g d a b c op ord ty agg nd ofw) = true) :
    ReadsBack (.atom g d a b c op ord ty agg nd ofw) :=
  .laneMemory rfl (by decide) (by simpa [decLane1b] using decAtomForm_encAtomForm _ h rfl)

theorem readsBack_atoms (h : WellFormed (.atoms g d a b c op ord ty agg nd ofw) = true) :
    ReadsBack (.atoms g d a b c op ord ty agg nd ofw) := by
  obtain ⟨hop, hord⟩ := Bool.and_eq_true_iff.1 h
  exact .laneMemory rfl (by decide) (by simpa [decLane1b] using decAtomForm_encAtomForm (scratch := true) _ hop hord)

end

theorem wide_size_bits (wide : Bool) :
    (0#1 ++ BitVec.ofBool wide : BitVec 2)[0] = wide ∧ (0#1 ++ BitVec.ofBool wide : BitVec 2)[1] = false := by
  cases wide <;> decide

theorem readsBack_casv {v : BitVec 7} {wide : Bool} {ord : AtOrd} {ofw : BitVec 6} :
    ReadsBack (.casv g d v a b c wide ord ofw) :=
  .laneMemory rfl (by decide) (by simp [decLane1b, XCasv.guard, wide_size_bits])

theorem readsBack_valset {data : Sel} {wide w : Bool} {vp : BitVec 3}
    (h : WellFormed (.valset g d a b c data wide w vp) = true) : ReadsBack (.valset g d a b c data wide w vp) :=
  have h : (w || (data == .v 0#7 && !wide)) = true := h
  .laneMemory rfl (by decide) (by simp [decLane1b, XVal.guard, wide_size_bits, h])

/-! ### Lane set with extension word, headings and engines -/

@[simp] theorem hdOk_plain (gn : Bool) (gp : BitVec 3) (negOk : Bool) : hdOk ⟨gn, gp, 0#8, 0#4, 0#16⟩ negOk = .ok false := rfl

@[simp] theorem hdOk_neg (gn : Bool) (gp : BitVec 3) (neg : Bool) :
    hdOk ⟨gn, gp, 0#8, 0#3 ++ BitVec.ofBool neg, 0#16⟩ true = .ok neg := by
  cases neg <;> rfl

/-- The selectors past the cells of `OWFOOT` are 0, and the count says how many there are (R217). -/
theorem decCells_cellSel {cells : List Sel} (h : cells.length ≤ 4) :
    decCells cells.length (cellSel cells 0) (cellSel cells 1) (cellSel cells 2) (cellSel cells 3) = .ok cells := by
  match cells, h with
  | [], _ => rfl
  | [_], _ | [_, _], _ | [_, _, _], _ | [_, _, _, _], _ => simp [decCells, cellSel]

theorem readsBack_owfoot {cells : List Sel} (h : WellFormed (.owfoot d cells) = true) : ReadsBack (.owfoot d cells) := by
  have len : cells.length ≤ 4 := of_decide_eq_true h
  have cnt : cells.length % 8 = cells.length := Nat.mod_eq_of_lt (len.trans_lt (by decide))
  exact .laneMemory rfl (by decide) (by simp [decLane1b, cnt, decCells_cellSel len])

theorem readsBack_mma {fmt : MmaFmt} {blka blkb : Blk} {mxa mxb clr : Bool}
    (h : WellFormed (.mma g a b c fmt blka blkb mxa mxb clr) = true) : ReadsBack (.mma g a b c fmt blka blkb mxa mxb clr) :=
  have h : mmaOk fmt blka blkb mxa mxb = true := h
  .laneMemory rfl (by decide) (by simp [decLane1b, XMma.guard, h])

/-- `ACCLD` and `ACCST` (R279). -/
theorem decAcc_encX {mk : Guard → BitVec 7 → Sel → Sel → AccWidth → BitVec 7 → Instr} {w : AccWidth} {k : BitVec 7}
    (op : BitVec 6) :
    decAcc mk ⟨false, true, op, false, d, encSel a, encSel b⟩ ⟨g.neg, g.p, 0#8, BitVec.ofNat 4 (encAccWidth w), k.setWidth 16⟩ =
      .ok (mk g d a b w k) := by
  have width : (BitVec.ofNat 4 (encAccWidth w)).extractLsb' 2 2 = 0#2 := by cases w <;> decide
  have reg : (k.setWidth 16).extractLsb' 7 9 = 0#9 := extractLsb'_eq_zero_of_lt (by simpa using Nat.mod_lt_of_lt k.isLt)
  simp [decAcc, width, reg]

theorem readsBack_accld {w : AccWidth} {k : BitVec 7} : ReadsBack (.accld g d a b w k) :=
  .laneMemory rfl (by decide) (by simpa [decLane1b] using decAcc_encX _)

theorem readsBack_accst {w : AccWidth} {k : BitVec 7} : ReadsBack (.accst g d a b w k) :=
  .laneMemory rfl (by decide) (by simpa [decLane1b] using decAcc_encX _)

theorem readsBack_tcopy {t : BitVec 3} {form : TcopyForm} : ReadsBack (.tcopy g t form) := by
  cases form with
  | strided => exact .laneMemory rfl (by decide) (by simp [decLane1b])
  | gather va vb => exact .laneMemory rfl (by decide) (by simp [decLane1b])

end

end Sys2Proof.Machine
end

section
/-! Uniform instructions: decoding the words of each gives it back (R58, R73 to R75); and the obligation about the encoder and the
decoder, by cases on the instruction. -/

namespace Sys2Proof.Machine

section
variable {d : BitVec 6} {a b c : USel}

/-! ### Uniform set, single words -/

theorem readsBack_uBin {mk : BitVec 6 → USel → USel → Instr} {op : BitVec 6} (he : encode (mk d a b) = some (encU2 op d a b))
    (hd : decUni0 ⟨true, false, op, false, d.setWidth 7, encUSel a, encUSel b⟩ =
      decUBin mk ⟨true, false, op, false, d.setWidth 7, encUSel a, encUSel b⟩) : ReadsBack (mk d a b) :=
  .uniSingle he (by simp [hd, decUBin])

theorem readsBack_uA {mk : USel → Instr} {op : BitVec 6} (he : encode (mk a) = some (encUni false op 0#7 (encUSel a) 0#8, none))
    (hd : decUni0 ⟨true, false, op, false, 0#7, encUSel a, 0#8⟩ = decUA mk ⟨true, false, op, false, 0#7, encUSel a, 0#8⟩) :
    ReadsBack (mk a) :=
  .uniSingle he (by simp [hd, decUA])

theorem readsBack_movs {r : SReg} : ReadsBack (.movs d r) := by
  have lt := encSReg_lt r
  have field : (0x40 + encSReg r) % 256 = 0x40 + encSReg r := Nat.mod_eq_of_lt (by omega)
  have range : 0x40 + encSReg r < 0x80 := by omega
  exact .uniSingle rfl (by simp [decUni0, field, range])

theorem readsBack_pfence {mask : BitVec 4} (h : WellFormed (.pfence mask) = true) : ReadsBack (.pfence mask) :=
  .uniSingle rfl (by revert mask; decide)

theorem getLsbD_ofBool_append {w : Nat} (y : Bool) (x : BitVec w) : (BitVec.ofBool y ++ x).getLsbD w = y := by
  rw [BitVec.getLsbD_append, if_neg (lt_irrefl w), Nat.sub_self]
  cases y <;> rfl

theorem ofBool_getLsbD_append_setWidth (z : BitVec 7) : BitVec.ofBool (z.getLsbD 6) ++ z.setWidth 6 = z := by
  revert z; decide

/-- The seventh bit of `TRAIL`'s third name stands above its first name (R394). -/
theorem trail_fields (x y z : BitVec 7) :
    (0#1 ++ z.setWidth 6 : BitVec 7).getLsbD 6 = false ∧ (0#1 ++ y : BitVec 8).getLsbD 7 = false ∧
      (BitVec.ofBool (z.getLsbD 6) ++ x : BitVec 8).setWidth 7 = x ∧ (0#1 ++ y : BitVec 8).setWidth 7 = y ∧
      BitVec.ofBool ((BitVec.ofBool (z.getLsbD 6) ++ x : BitVec 8).getLsbD 7) ++
        (0#1 ++ z.setWidth 6 : BitVec 7).setWidth 6 = z := by
  have top : (BitVec.ofBool (z.getLsbD 6) ++ x : BitVec 8).getLsbD 7 = z.getLsbD 6 := getLsbD_ofBool_append _ x
  have low : (0#1 ++ z.setWidth 6 : BitVec 7).setWidth 6 = z.setWidth 6 := BitVec.setWidth_append_eq_right
  refine ⟨getLsbD_ofBool_append false _, getLsbD_ofBool_append false y, BitVec.setWidth_append_eq_right,
    BitVec.setWidth_append_eq_right, ?_⟩
  rw [top, low]
  exact ofBool_getLsbD_append_setWidth z

theorem readsBack_trail {names : Option (BitVec 7 × BitVec 7 × BitVec 7)} : ReadsBack (.trail names) := by
  match names with
  | none => exact .uniSingle rfl rfl
  | some (x, y, z) =>
    obtain ⟨hd, hb, hx, hy, hz⟩ := trail_fields x y z
    exact .uniSingle rfl (by simp [decUni0, decTrail, -BitVec.getLsbD_eq_getElem, hd, hb, hx, hy, hz])

/-! ### Uniform set with extension word: control and waits -/

theorem readsBack_isetpUniform {cmp : ICmp} : ReadsBack (.isetpUniform d a b cmp) := by
  have unused : (BitVec.ofNat 32 (encICmp cmp)).extractLsb' 4 28 = 0#28 := by cases cmp <;> decide
  exact .uniExt rfl (by simp [decUni1, unused])

theorem readsBack_selUniform : ReadsBack (.selUniform d a b c) := by
  have unused : ((encUSel c).setWidth 32).extractLsb' 8 24 = 0#24 :=
    extractLsb'_eq_zero_of_lt (by simpa using Nat.mod_lt_of_lt (encUSel c).isLt)
  exact .uniExt rfl (by simp [decUni1, unused])

theorem bar_fields (sync : Bool) (id : BitVec 5) :
    let w : Word := 0#23 ++ (BitVec.ofBool sync ++ (0#3 ++ id))
    w.extractLsb' 9 23 = 0#23 ∧ w.extractLsb' 5 3 = 0#3 ∧ w[8] = sync ∧ w.extractLsb' 0 5 = id := by
  revert sync id; decide

theorem readsBack_bar {sync : Bool} {id : BitVec 5} (h : WellFormed (.bar sync id a) = true) : ReadsBack (.bar sync id a) := by
  have range : id.toNat < 24 := of_decide_eq_true h
  obtain ⟨high, mid, hsync, hid⟩ := bar_fields sync id
  exact .uniExt rfl (by simp [decUni1, -BitVec.extractLsb'_toNat, high, mid, hsync, hid, range])

theorem gate_fields (k ofs : BitVec 16) :
    (k ++ ofs : Word).extractLsb' 19 13 = k.extractLsb' 3 13 ∧ (k ++ ofs : Word).extractLsb' 16 3 = k.extractLsb' 0 3 ∧
      (k ++ ofs : Word).extractLsb' 0 16 = ofs :=
  ⟨BitVec.extractLsb'_append_eq_of_le (by decide), BitVec.extractLsb'_append_eq_of_le (by decide), BitVec.extractLsb'_append_eq_right⟩

theorem readsBack_gate {op : GateOp} {ofs : BitVec 16} : ReadsBack (.gate op a ofs) := by
  cases op with
  | arrive d => exact .uniExt rfl (by simp [decUni1, decGate, -BitVec.extractLsb'_toNat, gate_fields])
  | sync d => exact .uniExt rfl (by simp [decUni1, decGate, -BitVec.extractLsb'_toNat, gate_fields])
  | wait p => exact .uniExt rfl (by simp [decUni1, decGate, -BitVec.extractLsb'_toNat, gate_fields])
  | expect n => exact .uniExt rfl (by simp [decUni1, decGate, -BitVec.extractLsb'_toNat, gate_fields])

theorem readsBack_waitc {path : Path} : ReadsBack (.waitc path a) := by
  have unused : (BitVec.ofNat 32 (encPath path)).extractLsb' 3 29 = 0#29 := by cases path <;> decide
  exact .uniExt rfl (by simp [decUni1, unused])

theorem readsBack_trap {code : BitVec 16} : ReadsBack (.trap code) := by
  have unused : (code.setWidth 32).extractLsb' 16 16 = 0#16 :=
    extractLsb'_eq_zero_of_lt (by simpa using Nat.mod_lt_of_lt code.isLt)
  exact .uniExt rfl (by simp [decUni1, unused])

theorem readsBack_mtsr {r : SReg} : ReadsBack (.mtsr r a) := by
  have unused : (BitVec.ofNat 32 (encSReg r)).extractLsb' 8 24 = 0#24 :=
    extractLsb'_eq_zero_of_lt (by simpa using Nat.mod_lt_of_lt ((encSReg_lt r).trans (by decide)))
  exact .uniExt rfl (by simp [decUni1, unused])

/-! ### Uniform set with extension word: memory, engines and objects -/

section
variable {cap : BitVec 8} {wide : Bool}

theorem decLduSize_wide {ord scope : BitVec 3} {ofs : BitVec 20} (h : (!(wide && d.getLsbD 0)) = true) :
    decLduSize ⟨if wide then 3#3 else 2#3, ord, scope, 0#3, ofs⟩ d = .ok wide := by
  cases wide with
  | false => rfl
  | true =>
    have even : (!d.getLsbD 0) = true := h
    simp only [decLduSize, if_true, Bool.true_and, beq_self_eq_true, Bool.or_true, even, need_true, ok_bind]

theorem readsBack_ldu {ord : LdOrd} {ofs : BitVec 20} (h : WellFormed (.ldu d cap a wide ord ofs) = true) :
    ReadsBack (.ldu d cap a wide ord ofs) := by
  obtain ⟨hord, even⟩ := Bool.and_eq_true_iff.1 h
  exact .uniExt rfl (by simp [decUni1, decLduSize_wide even, hord])

theorem readsBack_stu {ord : StOrd} {ofs : BitVec 20} (h : WellFormed (.stu d cap a wide ord ofs) = true) :
    ReadsBack (.stu d cap a wide ord ofs) := by
  obtain ⟨hord, even⟩ := Bool.and_eq_true_iff.1 h
  exact .uniExt rfl (by simp [decUni1, decLduSize_wide even, hord])

theorem signal_fields (add : Bool) :
    let w : Word := 0#31 ++ BitVec.ofBool add
    w.extractLsb' 2 30 = 0#30 ∧ w[1] = false ∧ w[0] = add := by
  cases add <;> decide

theorem readsBack_signal {add : Bool} : ReadsBack (.signal add cap a) := by
  obtain ⟨unused, one, zero⟩ := signal_fields add
  exact .uniExt rfl (by simp [decUni1, unused, one, zero])

theorem coll_fields (op : CollOp) (ty : Ty3) :
    let w : Word := 0#26 ++ (BitVec.ofNat 2 (encTy3 ty) ++ (0#1 ++ BitVec.ofNat 3 (encCollOp op)))
    w.extractLsb' 6 26 = 0#26 ∧ w[3] = false ∧ decTy3 (w.extractLsb' 4 2).toNat = .ok ty ∧
      decCollOp (w.setWidth 3).toNat = .ok op := by
  cases op <;> cases ty <;> decide

theorem readsBack_coll {op : CollOp} {ty : Ty3} (h : WellFormed (.coll d cap a op ty) = true) : ReadsBack (.coll d cap a op ty) := by
  have h : collOk op ty = true := h
  obtain ⟨unused, three, hty, hop⟩ := coll_fields op ty
  exact .uniExt rfl (by simp [decUni1, -BitVec.extractLsb'_toNat, -BitVec.toNat_setWidth, unused, three, hty, hop, h])

theorem readsBack_fwcall {fn : BitVec 8} : ReadsBack (.fwcall d cap fn) := by
  have unused : (fn.setWidth 32).extractLsb' 8 24 = 0#24 :=
    extractLsb'_eq_zero_of_lt (by simpa using Nat.mod_lt_of_lt fn.isLt)
  exact .uniExt rfl (by simp [decUni1, unused])

theorem readsBack_owbegin {gran : Gran} : ReadsBack (.owbegin d cap a gran) := by
  have unused : (BitVec.ofNat 32 (encGran gran)).extractLsb' 3 29 = 0#29 := by cases gran <;> decide
  exact .uniExt rfl (by simp [decUni1, unused])

theorem copy_fields (gadr : BitVec 15) :
    let w : Word := 1#1 ++ (0#16 ++ gadr)
    w.extractLsb' 15 16 = 0#16 ∧ w.extractLsb' 0 15 = gadr ∧ w.getLsbD 31 = true := by
  have unused : (0#16 ++ gadr).extractLsb' 15 16 = 0#16 := BitVec.extractLsb'_append_eq_left
  have low : (0#16 ++ gadr).extractLsb' 0 15 = gadr := BitVec.extractLsb'_append_eq_right
  exact ⟨(BitVec.extractLsb'_append_eq_of_add_le (by decide)).trans unused,
    (BitVec.extractLsb'_append_eq_of_add_le (by decide)).trans low, getLsbD_ofBool_append true _⟩

theorem readsBack_copy {gate : Option (BitVec 15)} : ReadsBack (.copy d cap a gate) := by
  cases gate with
  | none => exact .uniExt rfl (by simp [decUni1])
  | some gadr =>
    obtain ⟨unused, hgadr, present⟩ := copy_fields gadr
    exact .uniExt rfl (by simp [decUni1, -BitVec.getLsbD_eq_getElem, unused, hgadr, present])

end
end

/-! ### Every instruction -/

/-- Where the words hold each field as it stands, the lemmas above on fields suffice; the others have a lemma of their own. -/
theorem readsBack_of_wellFormed {i : Instr} (h : WellFormed i = true) : ReadsBack i := by
  cases i with
  | movLane | notLane | popc | clz => exact readsBack_un rfl rfl
  | iaddLane | isubLane | imulLane | imulhiS32 | imulhiN32 | iminS32Lane | iminN32 | imaxS32Lane | imaxN32 | andLane
  | orLane | xorLane | shlLane | shrN32Lane | shrS32Lane | fadd | fsub | fmul | fmin | fmax => exact readsBack_bin rfl rfl
  | iaddUniform | isubUniform | imulUniform | andUniform | orUniform | xorUniform | shlUniform | shrN32Uniform
  | shrS32Uniform | iminS32Uniform | imaxS32Uniform => exact readsBack_uBin rfl rfl
  | qsend | setem | setpart => exact readsBack_uA rfl rfl
  | qret | hmov => exact .laneSingle rfl (by simp [decLane0])
  | imad | ffma | isetpLane | fsetp | fsfu | moviLane | shfl => exact .laneArith rfl (by decide) (by simp [decLane1a])
  | ld | st | ldc | lds | sts | bra | hcvt | hexp | hdot | hadd | hscl | hnrm =>
    exact .laneMemory rfl (by decide) (by simp [decLane1b])
  | movUniform | qtake | ret => exact .uniSingle rfl (by simp [decUni0])
  | moviUniform | jmp | call | mark | fence | acqb | relb | launch | extmap | tstore | tld =>
    exact .uniExt rfl (by simp [decUni1])
  | nop | join | exit | ofence | yield | bpt | trapret | mmwait | ownext => exact .uniSingle rfl rfl
  | selLane => exact readsBack_selLane
  | bfe => exact readsBack_bfe
  | bfi => exact readsBack_bfi
  | frnd => exact readsBack_frnd
  | pmax => exact readsBack_pmax
  | pmin => exact readsBack_pmin
  | vote => exact readsBack_vote
  | smpl => exact readsBack_smpl
  | dep => exact readsBack_dep
  | casv => exact readsBack_casv
  | accld => exact readsBack_accld
  | accst => exact readsBack_accst
  | tcopy => exact readsBack_tcopy
  | movs => exact readsBack_movs
  | trail => exact readsBack_trail
  | isetpUniform => exact readsBack_isetpUniform
  | selUniform => exact readsBack_selUniform
  | gate => exact readsBack_gate
  | waitc => exact readsBack_waitc
  | signal => exact readsBack_signal
  | trap => exact readsBack_trap
  | fwcall => exact readsBack_fwcall
  | mtsr => exact readsBack_mtsr
  | owbegin => exact readsBack_owbegin
  | copy => exact readsBack_copy
  | dsc => exact readsBack_dsc h
  | fcvt => exact readsBack_fcvt h
  | padd => exact readsBack_padd h
  | pmul => exact readsBack_pmul h
  | pfma => exact readsBack_pfma h
  | red => exact readsBack_red h
  | ldv => exact readsBack_ldv h
  | atom => exact readsBack_atom h
  | atoms => exact readsBack_atoms h
  | valset => exact readsBack_valset h
  | owfoot => exact readsBack_owfoot h
  | mma => exact readsBack_mma h
  | pfence => exact readsBack_pfence h
  | bar => exact readsBack_bar h
  | ldu => exact readsBack_ldu h
  | stu => exact readsBack_stu h
  | coll => exact readsBack_coll h
  | _ => nofun

/-- An instruction is as long as its first word says, and eight bytes exactly where it has a second word (R56, R57). -/
theorem instrLen_of_encode {i : Instr} {w0 : Word} {w1 : Option Word} (h : encode i = some (w0, w1)) :
    instrLen i = if w1.isSome then 8 else 4 := by
  cases w1 <;> simp [instrLen, h]

/-- Settles O59: each instruction's words read back, as its fields do; the X bit of the first word gives the length. -/
theorem decodingInvertsEncoding : Obligations.DecodingInvertsEncoding := by
  intro i w0 w1 hw he
  obtain ⟨hdecode, hext⟩ := readsBack_of_wellFormed hw (w0, w1) he
  have hext : hasExt w0 = w1.isSome := hext
  have hlen := instrLen_of_encode he
  refine ⟨hdecode, ?length, ?second⟩
  case length => rw [wordLen, hext, hlen]
  case second => cases w1 <;> simp [hlen]

end Sys2Proof.Machine
end

section
/-! What is kept by the steps that follow by themselves: requests that leave, numbers that are over, places taken, orders that are met. One
relation says it once: memory, the lines, an extent but for the request that a collapse puts first, a request that has left its quadrant but for
what it follows, a group but for what its later accesses wait for, the crews, the numbers in each bank's queue, and each copy but for what it
waits for. -/

namespace Sys2Proof.Machine

/-! ### What settling does not touch -/

/-- A group without what its later accesses wait for. -/
def Group.core (g : Group) : Group := { g with orders := [], relReads := [], frame := none }

/-- A request without what it follows and whether its fill is dropped. -/
def Req.core (r : Req) : Req := { r with holdFor := [], after := [], noFill := false }

/-- An extent without the request that a collapse puts first. -/
def Extent.core (e : Extent) : Extent := { e with first := none }

/-- A copy without what it waits for. -/
def CopyJob.core (c : CopyJob) : CopyJob := { c with writes := [], after := [] }

/-- A request that stays when others move: no promotion, and one that has left its quadrant or is for a peer. -/
def Req.lasting (r : Req) : Prop := r.kind.isPromote = false ∧ (r.st ≠ .held ∨ r.dev ≠ devHere)

/-- What becomes of the request under a number: none comes; a lasting one stays with its kind and its data, and one that has left its quadrant
keeps all but what it follows. -/
def ReqKept (a b : Option Req) : Prop :=
  (a = none → b = none) ∧ ∀ r, a = some r → r.lasting →
    ∃ z, b = some z ∧ z.kind = r.kind ∧ z.dev = r.dev ∧ z.data = r.data ∧ (r.st ≠ .held → z.core = r.core)

/-- What is kept of a quadrant. -/
structure QuadKept (x y : Quad) : Prop where
  crews : y.crews = x.crews
  groups : ∀ slot, (NMap.get? y.groups slot).map Group.core = (NMap.get? x.groups slot).map Group.core
  banks : ∀ k, ((y.bank k).map BankReq.id).Perm ((x.bank k).map BankReq.id)

/-- What is kept of a machine. -/
structure Keeps (s t : State) : Prop where
  mem : t.mem = s.mem
  lines : t.lines = s.lines
  extents : ∀ k, (t.extent k).core = (s.extent k).core
  nextId : s.nextId ≤ t.nextId
  req : ∀ id, id < s.nextId → ReqKept (s.req? id) (t.req? id)
  quads : ∀ q, Option.Rel QuadKept (s.quad? q) (t.quad? q)
  copies : ∀ qs, (t.engine qs).copies.map CopyJob.core = (s.engine qs).copies.map CopyJob.core

/-! ### The relations compose -/

theorem ReqKept.of_core {a b : Option Req} (h : b.map Req.core = a.map Req.core) : ReqKept a b := by
  refine ⟨fun ha => ?_, fun r ha _ => ?_⟩
  · rw [ha] at h
    exact Option.map_eq_none_iff.1 h
  · rw [ha] at h
    obtain ⟨z, hz, hc⟩ := Option.map_eq_some_iff.1 h
    exact ⟨z, hz, (congrArg Req.kind hc :), (congrArg Req.dev hc :), (congrArg Req.data hc :), fun _ => hc⟩

theorem ReqKept.refl (a : Option Req) : ReqKept a a := ReqKept.of_core rfl

theorem ReqKept.trans {a b c : Option Req} (h : ReqKept a b) (h' : ReqKept b c) : ReqKept a c := by
  refine ⟨fun ha => h'.1 (h.1 ha), fun r ha hr => ?_⟩
  obtain ⟨z, hz, kind, dev, data, core⟩ := h.2 r ha hr
  have lasting : z.lasting := by
    refine ⟨kind ▸ hr.1, hr.2.imp (fun hst => ?_) (fun hdev => dev ▸ hdev)⟩
    rw [show z.st = r.st from (congrArg Req.st (core hst) :)]
    exact hst
  obtain ⟨w, hw, kind', dev', data', core'⟩ := h'.2 z hz lasting
  refine ⟨w, hw, kind'.trans kind, dev'.trans dev, data'.trans data, fun hst => ?_⟩
  have sent : z.st = r.st := (congrArg Req.st (core hst) :)
  exact (core' (sent ▸ hst)).trans (core hst)

theorem QuadKept.refl (x : Quad) : QuadKept x x := ⟨rfl, fun _ => rfl, fun _ => .refl _⟩

theorem QuadKept.trans {x y z : Quad} (h : QuadKept x y) (h' : QuadKept y z) : QuadKept x z :=
  ⟨h'.crews.trans h.crews, fun slot => (h'.groups slot).trans (h.groups slot), fun k => (h'.banks k).trans (h.banks k)⟩

theorem optionRel_refl {α : Type} {R : α → α → Prop} (h : ∀ x, R x x) (a : Option α) : Option.Rel R a a := by
  cases a with
  | none => exact .none
  | some x => exact .some (h x)

theorem optionRel_trans {α : Type} {R : α → α → Prop} (h : ∀ {x y z}, R x y → R y z → R x z) {a b c : Option α}
    (hab : Option.Rel R a b) (hbc : Option.Rel R b c) : Option.Rel R a c := by
  cases hab with
  | none => exact hbc
  | some hxy =>
    cases hbc with
    | some hyz => exact .some (h hxy hyz)

theorem Keeps.refl (s : State) : Keeps s s :=
  ⟨rfl, rfl, fun _ => rfl, le_rfl, fun _ _ => ReqKept.refl _, fun _ => optionRel_refl QuadKept.refl _, fun _ => rfl⟩

theorem Keeps.trans {s t u : State} (h : Keeps s t) (h' : Keeps t u) : Keeps s u where
  mem := h'.mem.trans h.mem
  lines := h'.lines.trans h.lines
  extents k := (h'.extents k).trans (h.extents k)
  nextId := h.nextId.trans h'.nextId
  req id hid := (h.req id hid).trans (h'.req id (hid.trans_le h.nextId))
  quads q := optionRel_trans (fun hxy hyz => hxy.trans hyz) (h.quads q) (h'.quads q)
  copies qs := (h'.copies qs).trans (h.copies qs)

theorem Keeps.foldl {α : Type} {f : State → α → State} (hf : ∀ s a, Keeps s (f s a)) (l : List α) (s : State) : Keeps s (l.foldl f s) := by
  induction l generalizing s with
  | nil => exact .refl s
  | cons a l ih => exact (hf s a).trans (ih (f s a))

/-! ### Reading what is kept -/

section
variable {s t : State} (h : Keeps s t)
include h

theorem Keeps.readByte (k : Nat) : t.readByte k = s.readByte k := by rw [State.readByte, h.mem, State.readByte]

theorem Keeps.line (k : Nat) : t.line k = s.line k := by rw [State.line, h.lines, State.line]

theorem Keeps.parked (k : Nat) : (t.extent k).parked = (s.extent k).parked := (congrArg Extent.parked (h.extents k) :)

theorem Keeps.fp (k : Nat) : (t.extent k).fp = (s.extent k).fp := (congrArg Extent.fp (h.extents k) :)

/-- No request comes under an old number. -/
theorem Keeps.req?_none {id : Nat} (hid : id < s.nextId) (hr : s.req? id = none) : t.req? id = none := (h.req id hid).1 hr

/-- A request that has left its quadrant keeps all but what it follows. -/
theorem Keeps.req?_some {id : Nat} {r : Req} (hid : id < s.nextId) (hr : s.req? id = some r) (hp : r.kind.isPromote = false)
    (hst : r.st ≠ .held) : ∃ z, t.req? id = some z ∧ z.core = r.core := by
  obtain ⟨z, hz, -, -, -, core⟩ := (h.req id hid).2 r hr ⟨hp, .inl hst⟩
  exact ⟨z, hz, core hst⟩

theorem Keeps.quad {q : Nat} {x : Quad} (hx : s.quad? q = some x) : ∃ y, t.quad? q = some y ∧ QuadKept x y := by
  have hq := h.quads q
  rw [hx] at hq
  generalize t.quad? q = b at hq
  cases hq with
  | some hxy => exact ⟨_, rfl, hxy⟩

/-- A group keeps all but what its later accesses wait for. -/
theorem Keeps.group {q slot : Nat} {g : Group} (hg : s.group? q slot = some g) : ∃ z, t.group? q slot = some z ∧ z.core = g.core := by
  obtain ⟨x, hx, hxg⟩ := State.quad?_of_group? hg
  obtain ⟨y, hy, kept⟩ := h.quad hx
  have hs := kept.groups slot
  rw [hxg] at hs
  obtain ⟨z, hz, hc⟩ := Option.map_eq_some_iff.1 hs
  exact ⟨z, by rw [State.group?, hy]; exact hz, hc⟩

theorem Keeps.crew? {q : Nat} {g z : Group} {c : Crew} (hc : s.crew? q g = some c) (hz : z.core = g.core) : t.crew? q z = some c := by
  obtain ⟨x, hx, hxc⟩ := Option.bind_eq_some_iff.1 hc
  obtain ⟨y, hy, kept⟩ := h.quad hx
  have has : (fun c : Crew => c.has z) = fun c => c.has g := by
    funext c
    rw [Crew.has, show z.launch = g.launch from (congrArg Group.launch hz :), show z.gang = g.gang from (congrArg Group.gang hz :),
      show z.crew = g.crew from (congrArg Group.crew hz :), Crew.has]
  rw [State.crew?, hy, Option.bind_some, Quad.crewOf?, kept.crews, has]
  exact hxc

end

/-! ### Changes of one part -/

/-- A change that touches none of the parts. -/
theorem Keeps.of_same {s t : State} (mem : t.mem = s.mem) (lines : t.lines = s.lines) (extents : t.extents = s.extents)
    (nextId : s.nextId ≤ t.nextId) (reqs : t.reqs = s.reqs) (quads : t.quads = s.quads) (engines : t.engines = s.engines) : Keeps s t where
  mem := mem
  lines := lines
  extents k := by rw [State.extent, extents, State.extent]
  nextId := nextId
  req id _ := by rw [State.req?, State.req?, reqs]; exact .refl _
  quads q := by rw [State.quad?, State.quad?, quads]; exact optionRel_refl QuadKept.refl _
  copies qs := by rw [State.engine, engines, State.engine]

/-- One quadrant changed. -/
theorem keeps_modQuad_at {s : State} {q : Nat} {f : Quad → Quad} (hf : ∀ x, s.quad? q = some x → QuadKept x (f x)) :
    Keeps s (s.modQuad q f) where
  mem := rfl
  lines := rfl
  extents _ := rfl
  nextId := le_rfl
  req _ _ := .refl _
  quads q' := by
    simp only [State.quad?, State.modQuad_quads, NMap.modify]
    cases hx : NMap.get? s.quads q with
    | none => exact optionRel_refl QuadKept.refl _
    | some x =>
      dsimp only
      rw [NMap.get?_set]
      split
      next e => rw [← e, hx]; exact .some (hf x hx)
      next => exact optionRel_refl QuadKept.refl _
  copies _ := rfl

theorem keeps_modQuad (s : State) (q : Nat) {f : Quad → Quad} (hf : ∀ x, QuadKept x (f x)) : Keeps s (s.modQuad q f) :=
  keeps_modQuad_at (fun x _ => hf x)

/-- Requests, quadrants, extents and engines changed each in its place. -/
theorem keeps_maps {s t : State} {fr : Nat × Req → Nat × Req} {fq : Nat × Quad → Nat × Quad} {fx : Nat × Extent → Nat × Extent}
    {fe : Nat × SlotEng → Nat × SlotEng} (mem : t.mem = s.mem) (lines : t.lines = s.lines) (nextId : t.nextId = s.nextId)
    (reqs : t.reqs = s.reqs.map fr) (hr : ∀ e, (fr e).1 = e.1 ∧ (fr e).2.core = e.2.core)
    (quads : t.quads = s.quads.map fq) (hq : ∀ e, (fq e).1 = e.1 ∧ QuadKept e.2 (fq e).2)
    (extents : t.extents = s.extents.map fx) (hx : ∀ e, (fx e).1 = e.1 ∧ (fx e).2.core = e.2.core)
    (engines : t.engines = s.engines.map fe)
    (he : ∀ e, (fe e).1 = e.1 ∧ (fe e).2.copies.map CopyJob.core = e.2.copies.map CopyJob.core) : Keeps s t where
  mem := mem
  lines := lines
  extents k := by
    rw [State.extent, State.extent, extents, NMap.getD, NMap.getD, NMap.get?_map_of_key (fun e => (hx e).1)]
    cases NMap.get? s.extents k with
    | none => rfl
    | some x => exact (hx (k, x)).2
  nextId := nextId.ge
  req id _ := by
    rw [State.req?, State.req?, reqs, NMap.get?_map_of_key (fun e => (hr e).1)]
    refine ReqKept.of_core ?_
    cases NMap.get? s.reqs id with
    | none => rfl
    | some r => exact congrArg some (hr (id, r)).2
  quads q := by
    rw [State.quad?, State.quad?, quads, NMap.get?_map_of_key (fun e => (hq e).1)]
    cases NMap.get? s.quads q with
    | none => exact .none
    | some x => exact .some (hq (q, x)).2
  copies qs := by
    rw [State.engine, State.engine, engines, NMap.getD, NMap.getD, NMap.get?_map_of_key (fun e => (he e).1)]
    cases NMap.get? s.engines qs with
    | none => rfl
    | some x => exact (he (qs, x)).2

/-- A request written where none that lasts stood, or with its kind and data. -/
theorem Keeps.setReq {s t : State} (h : Keeps s t) {id : Nat} {z : Req}
    (hz : id < s.nextId → s.req? id ≠ none ∧ ∀ r, s.req? id = some r → r.lasting →
      z.kind = r.kind ∧ z.dev = r.dev ∧ z.data = r.data ∧ (r.st ≠ .held → z.core = r.core)) : Keeps s (t.setReq id z) where
  mem := h.mem
  lines := h.lines
  extents := h.extents
  nextId := h.nextId
  req i hi := by
    simp only [State.req?, State.setReq, NMap.get?_set]
    split
    next e =>
      subst e
      obtain ⟨some_, kept⟩ := hz hi
      exact ⟨fun hn => absurd hn some_, fun r hr hl => ⟨z, rfl, kept r hr hl⟩⟩
    next => exact h.req i hi
  quads := h.quads
  copies := h.copies

/-- The same request written into both. -/
theorem Keeps.setReq_setReq {s t : State} (h : Keeps s t) (id : Nat) (z : Req) : Keeps (s.setReq id z) (t.setReq id z) where
  mem := h.mem
  lines := h.lines
  extents := h.extents
  nextId := h.nextId
  req i hi := by
    simp only [State.req?, State.setReq, NMap.get?_set]
    split
    · exact .refl _
    · exact h.req i hi
  quads := h.quads
  copies := h.copies

/-- A request that does not last leaves. -/
theorem keeps_erase {s : State} {id : Nat} (h : ∀ r, s.req? id = some r → ¬ r.lasting) : Keeps s { s with reqs := NMap.erase s.reqs id } where
  mem := rfl
  lines := rfl
  extents _ := rfl
  nextId := le_rfl
  req i _ := by
    simp only [State.req?, NMap.get?_erase]
    split
    next e =>
      subst e
      exact ⟨fun _ => rfl, fun r hr hl => absurd hl (h r hr)⟩
    next => exact .refl _
  quads _ := optionRel_refl QuadKept.refl _
  copies _ := rfl

theorem keeps_addReq (s : State) (r : Req) : Keeps s (s.addReq r) where
  mem := rfl
  lines := rfl
  extents _ := rfl
  nextId := Nat.le_succ _
  req i hi := by
    simp only [State.req?, State.addReq, NMap.get?_set, Nat.ne_of_gt hi, if_false]
    exact .refl _
  quads _ := optionRel_refl QuadKept.refl _
  copies _ := rfl

/-! ### Numbers that are over, and places taken -/

/-- The requests of a bank that entered behind others have changed places at most (R98). -/
theorem bankAfter_perm (l : List BankReq) {f : BankReq → BankReq} (hf : ∀ r, (f r).id = r.id) :
    ((bankAfter l f).map BankReq.id).Perm (l.map BankReq.id) := by
  have ids : (l.map f).map BankReq.id = l.map BankReq.id := by rw [List.map_map]; exact List.map_congr_left (fun r _ => hf r)
  rw [← ids, bankAfter]
  refine List.Perm.map _ ?_
  refine List.perm_append_comm.trans ?_
  exact List.filter_append_perm _ _

theorem quadKept_of_banks {x y : Quad} (crews : y.crews = x.crews) (groups : y.groups = x.groups) (banks : y.banks = x.banks) :
    QuadKept x y := ⟨crews, fun _ => by rw [groups], fun k => by rw [Quad.bank, banks, Quad.bank]⟩

/-- A quadrant whose groups and bank requests have changed in what they wait for. -/
theorem quadKept_maps {x y : Quad} {fg : Nat × Group → Nat × Group} {fb : Nat × List BankReq → Nat × List BankReq}
    (crews : y.crews = x.crews) (groups : y.groups = x.groups.map fg) (hg : ∀ e, (fg e).1 = e.1 ∧ (fg e).2.core = e.2.core)
    (banks : y.banks = x.banks.map fb)
    (hb : ∀ e, (fb e).1 = e.1 ∧ ((fb e).2.map BankReq.id).Perm (e.2.map BankReq.id)) : QuadKept x y where
  crews := crews
  groups slot := by
    rw [groups, NMap.get?_map_of_key (fun e => (hg e).1)]
    cases NMap.get? x.groups slot with
    | none => rfl
    | some g => exact congrArg some (hg (slot, g)).2
  banks k := by
    rw [Quad.bank, Quad.bank, banks, NMap.getD, NMap.getD, NMap.get?_map_of_key (fun e => (hb e).1)]
    cases NMap.get? x.banks k with
    | none => exact .refl _
    | some l => exact (hb (k, l)).2

theorem quadKept_without (x : Quad) (id : Nat) : QuadKept x (x.without id) :=
  quadKept_maps rfl rfl (fun _ => ⟨rfl, rfl⟩) rfl (fun e => ⟨rfl, bankAfter_perm e.2 (fun _ => rfl)⟩)

theorem quadKept_follow (x : Quad) (old : Nat) (new : List Nat) (narrow : Bool) : QuadKept x (x.follow old new narrow) := by
  refine quadKept_maps rfl rfl (fun _ => ⟨rfl, rfl⟩) rfl (fun e => ⟨rfl, .of_eq ?_⟩)
  rw [List.map_map]
  refine List.map_congr_left (fun r _ => ?_)
  dsimp only [Function.comp]
  split <;> rfl

theorem copyCore_map {l : List CopyJob} {f : CopyJob → CopyJob} (hf : ∀ c, (f c).core = c.core) :
    (l.map f).map CopyJob.core = l.map CopyJob.core := by
  rw [List.map_map]
  exact List.map_congr_left (fun c _ => hf c)

theorem keeps_over (s : State) (id : Nat) : Keeps s (s.over id) :=
  keeps_maps (fx := fun e => e) rfl rfl rfl rfl (fun _ => ⟨rfl, rfl⟩) rfl (fun e => ⟨rfl, quadKept_without e.2 id⟩)
    (List.map_id _).symm (fun _ => ⟨rfl, rfl⟩) rfl (fun _ => ⟨rfl, copyCore_map (fun _ => rfl)⟩)

theorem keeps_placed (s : State) (id : Nat) : Keeps s (s.placed id) :=
  keeps_maps (fq := fun e => e) rfl rfl rfl rfl (fun _ => ⟨rfl, rfl⟩) (List.map_id _).symm (fun e => ⟨rfl, .refl e.2⟩)
    rfl (fun _ => by split <;> exact ⟨rfl, rfl⟩) rfl (fun _ => ⟨rfl, copyCore_map (fun _ => rfl)⟩)

theorem keeps_follow (s : State) (old : Nat) (new : List Nat) (narrow : Bool) : Keeps s (s.follow old new narrow) :=
  keeps_maps (fx := fun e => e) rfl rfl rfl rfl (fun _ => by split <;> exact ⟨rfl, rfl⟩) rfl
    (fun e => ⟨rfl, quadKept_follow e.2 old new narrow⟩) (List.map_id _).symm (fun _ => ⟨rfl, rfl⟩) rfl
    (fun _ => ⟨rfl, copyCore_map (fun _ => rfl)⟩)

theorem keeps_dropFills (s : State) (f : Req → Bool) : Keeps s (s.dropFills f) :=
  keeps_maps (fq := fun e => e) (fx := fun e => e) (fe := fun e => e) rfl rfl rfl rfl
    (fun e => by
      split
      next => split <;> exact ⟨rfl, rfl⟩
      next => exact ⟨rfl, rfl⟩) (List.map_id _).symm (fun e => ⟨rfl, .refl e.2⟩) (List.map_id _).symm (fun _ => ⟨rfl, rfl⟩) (List.map_id _).symm (fun _ => ⟨rfl, rfl⟩)

theorem keeps_overtake (s : State) (q k : Nat) : Keeps s (s.overtake q k) := keeps_dropFills s _

/-! ### Caches and write-combining -/

/-- A change of a quadrant that is none of its crews, groups or banks. -/
theorem keeps_modQuad_of_banks (s : State) (q : Nat) {f : Quad → Quad} (crews : ∀ x, (f x).crews = x.crews)
    (groups : ∀ x, (f x).groups = x.groups) (banks : ∀ x, (f x).banks = x.banks) : Keeps s (s.modQuad q f) :=
  keeps_modQuad s q (fun x => quadKept_of_banks (crews x) (groups x) (banks x))

theorem keeps_l1Invalidate (s : State) (q : Nat) : Keeps s (s.l1Invalidate q) :=
  (keeps_modQuad_of_banks s q (f := Quad.l1Inv) (fun _ => rfl) (fun _ => rfl) (fun _ => rfl)).trans (keeps_dropFills _ _)

theorem keeps_roInvalidate (s : State) (q : Nat) (cst smp : Bool) : Keeps s (s.roInvalidate q cst smp) := by
  have inv := keeps_modQuad_of_banks s q (f := fun x => { x with ro := x.ro.filter (fun e => if e.2.sampler then !smp else !cst) })
    (fun _ => rfl) (fun _ => rfl) (fun _ => rfl)
  unfold State.roInvalidate
  split
  · exact inv.trans (keeps_dropFills _ _)
  · exact inv

theorem quadKept_l1Stale (x : Quad) (k : Nat) (v : Word) : QuadKept x (x.l1Stale k v) := by
  unfold Quad.l1Stale
  split
  · split
    · exact quadKept_of_banks rfl rfl rfl
    · exact .refl x
  · exact .refl x

theorem keeps_l1Seen (s : State) (q k : Nat) (v : Word) : Keeps s (s.l1Seen q k v) :=
  (keeps_modQuad s q (fun x => quadKept_l1Stale x k v)).trans (keeps_dropFills _ _)

theorem keeps_l1Post (s : State) (q k line : Nat) (bytes : NMap Byte) : Keeps s (s.l1Post q k line bytes) := by
  refine (keeps_modQuad s q (fun x => ?_)).trans (keeps_l1Seen _ _ _ _)
  split
  · exact .refl x
  · split
    · exact quadKept_of_banks rfl rfl rfl
    · exact .refl x

theorem keeps_l1Behind (s : State) (r : Req) : Keeps s (s.l1Behind r) := by
  unfold State.l1Behind
  split
  · exact .refl s
  · split
    · exact keeps_l1Post ..
    · exact .refl s
    · split
      · exact Keeps.foldl (fun s k => keeps_l1Seen ..) _ s
      · exact .refl s

theorem keeps_wcEnter (s : State) (e : WcEntry) : Keeps s (s.wcEnter e) := by
  refine Keeps.trans ?_ (keeps_over _ _)
  refine Keeps.trans ?_ (keeps_follow _ _ _ _)
  refine Keeps.trans ?_ (keeps_addReq _ _)
  refine Keeps.trans ?_ (keeps_overtake _ _ _)
  exact keeps_modQuad_of_banks s e.owner.q (fun _ => rfl) (fun _ => rfl) (fun _ => rfl)

theorem keeps_drainWc (s : State) (q : Nat) : Keeps s (s.drainWc q) := by
  unfold State.drainWc
  split
  · exact .refl s
  · refine Keeps.foldl (fun s e => ?_) _ s
    dsimp only
    split
    · exact (keeps_wcEnter s e).trans (keeps_modQuad_of_banks _ q (fun _ => rfl) (fun _ => rfl) (fun _ => rfl))
    · exact .refl s

theorem keeps_wcFlush (s : State) (o : Owner) (f : WcEntry → Bool) : Keeps s (s.wcFlush o f) :=
  (keeps_modQuad_of_banks s o.q (f := fun x => { x with wc := x.wc.map (fun e => if e.owner == o && f e then { e with leaving := true } else e) })
    (fun _ => rfl) (fun _ => rfl) (fun _ => rfl)).trans (keeps_drainWc _ _)

theorem keeps_nextId (s : State) : Keeps s { s with nextId := s.nextId + 1 } :=
  .of_same rfl rfl rfl (Nat.le_succ _) rfl rfl rfl

theorem keeps_wcMerge {s t : State} {o : Owner} {obj line : Nat} {bytes : NMap Byte} {flight : List Nat} {byHandler : Bool}
    {accs : List (Nat × Nat × Nat)} (h : s.wcMerge o obj line bytes flight byHandler accs = some t) : Keeps s t := by
  simp only [State.wcMerge] at h
  split at h
  · cases h
  next x hx =>
    split at h
    · cases h
      exact keeps_modQuad_of_banks s _ (fun _ => rfl) (fun _ => rfl) (fun _ => rfl)
    · split at h
      · obtain ⟨-, h⟩ := Option.ite_none_right_eq_some.1 h
        rw [← Option.some.inj h]
        exact (keeps_nextId s).trans (keeps_modQuad_of_banks _ _ (fun _ => rfl) (fun _ => rfl) (fun _ => rfl))
      · obtain ⟨-, h⟩ := Option.ite_none_right_eq_some.1 h
        rw [← Option.some.inj h]
        refine Keeps.trans ?_ ((keeps_nextId _).trans (keeps_modQuad_of_banks _ _ (fun _ => rfl) (fun _ => rfl) (fun _ => rfl)))
        cases x.wc with
        | nil => exact .refl s
        | cons e l => exact keeps_wcFlush s _ _

/-! ### Requests that leave -/

/-- A store that is merged leaves the requests. -/
theorem keeps_merge {s : State} {id : Nat} {r : Req} (hr : s.req? id = some r) (hst : r.st = .held) (hdev : r.dev = devHere)
    (bytes : NMap Byte) : Keeps s (s.merge id r bytes) := by
  have gone : Keeps s { s with reqs := NMap.erase s.reqs id } := by
    refine keeps_erase fun z hz hl => ?_
    cases hr.symm.trans hz
    exact hl.2.elim (fun h => h hst) (fun h => h hdev)
  unfold State.merge
  split
  · exact .refl s
  next s1 h =>
    have h1 : Keeps s s1 := gone.trans (keeps_wcMerge h)
    split
    · refine Keeps.trans ?_ (keeps_modQuad_of_banks _ _ (fun _ => rfl) (fun _ => rfl) (fun _ => rfl))
      exact ((h1.trans (keeps_follow ..)).trans (keeps_wcFlush ..)).trans (keeps_over ..)
    · exact (h1.trans (keeps_over ..)).trans (keeps_drainWc ..)

theorem keeps_modBasin (s : State) (b : Nat) (f : Basin → Basin) : Keeps s (s.modBasin b f) :=
  .of_same rfl rfl rfl le_rfl rfl rfl rfl

/-- A held request written again: what it asks of a peer, and what has come for it, stay. -/
theorem Keeps.setReq_held {s t : State} (h : Keeps s t) {id : Nat} {r z : Req} (hr : s.req? id = some r) (hst : r.st = .held)
    (hz : r.dev ≠ devHere → z.kind = r.kind ∧ z.dev = r.dev ∧ z.data = r.data) : Keeps s (t.setReq id z) := by
  refine h.setReq fun _ => ⟨by rw [hr]; exact Option.some_ne_none r, fun r' hr' hl => ?_⟩
  cases hr.symm.trans hr'
  obtain ⟨kind, dev, data⟩ := hz (hl.2.resolve_left (fun hn => hn hst))
  exact ⟨kind, dev, data, fun hn => absurd hst hn⟩

theorem keeps_foldl_overtake (s : State) (q : Nat) (ks : List Nat) : Keeps s (ks.foldl (fun s k => s.overtake q k) s) :=
  Keeps.foldl (fun s k => keeps_overtake s q k) ks s

/-- A held request that may leave is sent, answered from a cache, merged, or stays. -/
theorem keeps_depart {s : State} {id : Nat} {r : Req} (hr : s.req? id = some r) (hst : r.st = .held) : Keeps s (s.depart id r) := by
  have here {t : State} {z : Req} (hdev : r.dev = devHere) (h : Keeps s t) : Keeps s (t.setReq id z) :=
    h.setReq_held hr hst (fun hn => absurd hdev hn)
  have peer {t : State} {z : Req} (h : Keeps s t) (hz : z.kind = r.kind ∧ z.dev = r.dev ∧ z.data = r.data) : Keeps s (t.setReq id z) :=
    h.setReq_held hr hst (fun _ => hz)
  have drop {t : State} (h : Keeps s t) : Keeps s ((t.modQuad r.owner.q (fun x => x.l1Drop r.key)).overtake r.owner.q r.key) :=
    (h.trans (keeps_modQuad_of_banks t _ (f := fun x => x.l1Drop r.key) (fun _ => rfl) (fun _ => rfl) (fun _ => rfl))).trans
      (keeps_overtake ..)
  have update {t : State} (h : Keeps s t) (bytes : NMap Byte) :
      Keeps s ((t.modQuad r.owner.q (fun x => x.l1Update r.key r.line bytes)).overtake r.owner.q r.key) :=
    (h.trans (keeps_modQuad_of_banks t _ (f := fun x => x.l1Update r.key r.line bytes) (fun _ => rfl) (fun _ => rfl)
      (fun _ => rfl))).trans (keeps_overtake ..)
  unfold State.depart
  cases hx : s.quad? r.owner.q with
  | none => simp only [hx]; exact .refl s
  | some x =>
    simp only [hx]
    split
    next =>
      unfold State.keptOut
      split
      · exact .refl s
      · exact peer (.refl s) ⟨rfl, rfl, rfl⟩
    next =>
      split
      next =>
        split
        next p hp =>
          exact peer (t := { s.modBasin r.owner.basin (fun _ => p.1) with outbox := s.outbox ++ [.peerAsk id] })
            (.of_same rfl rfl rfl le_rfl rfl rfl rfl) ⟨rfl, rfl, rfl⟩
        next =>
          split
          · exact peer (.refl s) ⟨rfl, rfl, rfl⟩
          · exact .refl s
      next hdev =>
        have hdev : r.dev = devHere := not_not.1 hdev
        split
        · exact keeps_merge hr hst hdev _
        · split
          · refine here hdev (keeps_modQuad s r.owner.q (fun x => ?_))
            split
            · exact quadKept_of_banks rfl rfl rfl
            · exact quadKept_of_banks rfl rfl rfl
          · split
            · exact here hdev (.refl s)
            · exact here hdev (.refl s)
        · exact here hdev (.refl s)
        · exact here hdev (.refl s)
        · exact here hdev (.refl s)
        · exact here hdev (update (.refl s) _)
        · have flush : Keeps s (if r.again = true then s
              else s.wcFlush r.owner (fun e => r.keys.contains (lineKey e.owner.basin e.obj e.line))) := by
            split
            · exact .refl s
            · exact keeps_wcFlush ..
          revert flush
          generalize (if r.again = true then s
            else s.wcFlush r.owner (fun e => r.keys.contains (lineKey e.owner.basin e.obj e.line))) = s'
          intro flush
          split
          · exact flush
          · split
            · exact here hdev (drop flush)
            · exact here hdev (update flush _)
            · split
              · exact here hdev (flush.trans (keeps_foldl_overtake ..))
              · exact here hdev flush
            · split
              · exact here hdev (drop flush)
              · exact here hdev flush
            · exact here hdev flush
            · exact here hdev (flush.trans (keeps_overtake ..))

/-! ### Settling -/

theorem keeps_ackPromotes (s : State) : Keeps s s.ackPromotes := by
  refine Keeps.foldl (fun t e => ?_) s.reqs s
  split
  next h =>
    refine (keeps_erase fun r hr hl => ?_).trans (keeps_over ..)
    rw [hr] at h
    simp [hl.1] at h
  next => exact .refl t

theorem keeps_sendPromotes (s : State) (o : Owner) : Keeps s (s.sendPromotes o).1 :=
  List.foldlRecOn _ _ (motive := fun acc : State × List Nat => Keeps s acc.1) (.refl s) fun _ h _ _ => h.trans (keeps_addReq ..)

/-- A change of one group's orders, reads or frame. -/
theorem keeps_setGroup {s : State} {q slot : Nat} {g g' : Group} (hg : s.group? q slot = some g) (h : g'.core = g.core) :
    Keeps s (s.setGroup q slot g') := by
  refine keeps_modQuad_at fun x hx => ⟨rfl, fun slot' => ?_, fun _ => .refl _⟩
  simp only [Quad.setGroup, NMap.get?_set]
  split
  next e =>
    subst e
    rw [State.group?, hx] at hg
    rw [show NMap.get? x.groups slot = some g from hg]
    exact congrArg some h
  next => rfl

theorem keeps_modGroup (s : State) (q slot : Nat) {f : Group → Group} (hf : ∀ g, (f g).core = g.core) : Keeps s (s.modGroup q slot f) := by
  unfold State.modGroup
  split
  next g hg => exact keeps_setGroup hg (hf g)
  next => exact .refl s

theorem keeps_stepOrder (s : State) (q slot : Nat) : Keeps s (s.stepOrder q slot) := by
  unfold State.stepOrder
  split
  · exact .refl s
  · split
    · exact .refl s
    next g _ _ w rest _ =>
      dsimp only
      split
      · exact .refl s
      · split
        · exact keeps_modGroup s q slot (fun _ => rfl)
        · split
          · exact (keeps_sendPromotes s (g.owner q slot)).trans (keeps_modGroup _ q slot (fun _ => rfl))
          · refine Keeps.trans ?_ (keeps_over _ _)
            refine Keeps.trans ?_ (keeps_modGroup _ q slot (fun _ => rfl))
            split
            · exact keeps_l1Invalidate s q
            · exact .refl s

theorem keeps_settle1 (s : State) : Keeps s s.settle1 := by
  refine Keeps.trans ?_ (Keeps.foldl (fun t (e : Nat × Quad) => Keeps.foldl (fun t (p : Nat × Group) =>
    Keeps.foldl (fun t _ => keeps_stepOrder t e.1 p.1) _ t) _ t) _ _)
  refine Keeps.trans ?_ (Keeps.foldl (fun t (e : Nat × Quad) => keeps_drainWc t e.1) _ _)
  refine (keeps_ackPromotes s).trans (Keeps.foldl (fun t e => ?_) _ _)
  split
  next r hr =>
    split
    next h => exact keeps_depart hr h.1
    next => exact .refl t
  next => exact .refl t

theorem keeps_settle (s : State) : Keeps s s.settle :=
  (((keeps_settle1 _).trans (keeps_settle1 _)).trans (keeps_settle1 _)).trans (keeps_settle1 _)

/-! ### A request that has performed, and one that is over -/

theorem keeps_performed (s : State) (id : Nat) (r : Req) :
    Keeps (s.setReq id { r with st := .performed, after := [] }) (s.performed id r) :=
  (((keeps_l1Behind s r).setReq_setReq id _).trans (keeps_placed ..)).trans (keeps_settle _)

theorem keeps_regain (s : State) (r : Req) : Keeps s (s.regain r) := by
  unfold State.regain
  split
  · exact .refl s
  · exact keeps_modBasin ..

/-- The requests without one. -/
def State.without (s : State) (id : Nat) : State := { s with reqs := NMap.erase s.reqs id }

theorem State.regain_without (s : State) (id : Nat) (r : Req) : (s.regain r).without id = (s.without id).regain r := by
  unfold State.regain
  split <;> rfl

theorem keeps_finish (s : State) (id : Nat) : Keeps (s.without id) (s.finish id) := by
  unfold State.finish
  refine Keeps.trans ?_ (keeps_settle _)
  refine Keeps.trans ?_ (keeps_over _ _)
  refine Keeps.trans ?_ (keeps_placed _ _)
  cases s.req? id with
  | none => exact .refl _
  | some r =>
    have regained := keeps_regain (s.without id) r
    rw [← s.regain_without] at regained
    exact regained

end Sys2Proof.Machine
end

section
/-! Bits of masks, little-endian bytes of numbers, and what a byte holds after writes one after another: in memory and in a scratchpad. -/

namespace Sys2Proof.Machine

/-! ### Masks -/

/-- A mask from a predicate has the bits for which it holds. -/
theorem maskOf_getLsbD (f : Nat → Bool) (l : Nat) : (maskOf f).getLsbD l = (decide (l < 32) && f l) := by
  have run : ∀ n, n ≤ 32 → ((List.range n).foldl (fun m i => if f i then m ||| (1#32 <<< i) else m) 0#32).getLsbD l
      = (decide (l < n) && f l) := by
    intro n hn
    induction n with
    | zero => simp
    | succ n ih =>
      rw [List.range_succ, List.foldl_append, List.foldl_cons, List.foldl_nil]
      have bit : (1#32 <<< n).getLsbD l = decide (l = n) := by
        simp only [BitVec.getLsbD_shiftLeft, BitVec.getLsbD_one]
        by_cases h : l = n
        · subst h; simp; omega
        · simp [h]; omega
      by_cases hf : f n
      · simp only [hf, if_true, BitVec.getLsbD_or, ih (by omega), bit]
        by_cases h : l = n
        · subst h; simp [hf]
        · simp [h, show (l < n + 1) ↔ l < n by omega]
      · simp only [hf, Bool.false_eq_true, if_false, ih (by omega)]
        by_cases h : l = n
        · subst h; simp [hf]
        · simp [show (l < n + 1) ↔ l < n by omega]
  exact run 32 le_rfl

theorem maskOf_ne_zero {f : Nat → Bool} {l : Nat} (hl : l < 32) (hf : f l = true) : maskOf f ≠ 0#32 := by
  intro h
  have := maskOf_getLsbD f l
  simp [h, hl, hf] at this

/-! ### Numbers as bytes -/

theorem natBytes_succ (n x : Nat) : natBytes (n + 1) x = BitVec.ofNat 8 x :: natBytes n (x / 256) := by
  simp only [natBytes, List.range_succ_eq_map, List.map_cons, List.map_map, Nat.pow_zero, Nat.div_one]
  refine congrArg _ (List.map_congr_left fun i _ => ?_)
  simp only [Function.comp, Nat.succ_eq_add_one, Nat.pow_succ, Nat.div_div_eq_div_mul, Nat.mul_comm]

/-- The bytes of a number give it back, as far as they go. -/
theorem leNat_natBytes (n x : Nat) : leNat (natBytes n x) = x % 256 ^ n := by
  induction n generalizing x with
  | zero => simp [natBytes, leNat, Nat.mod_one]
  | succ n ih =>
    rw [natBytes_succ, leNat, List.foldr_cons, ← leNat, ih, Nat.pow_succ, Nat.mul_comm (256 ^ n), Nat.mod_mul, BitVec.toNat_ofNat]

theorem mem_bytesAt {a n x : Nat} {e : Nat × Byte} : e ∈ bytesAt a n x ↔ ∃ i, i < n ∧ e = (a + i, BitVec.ofNat 8 (x / 256 ^ i)) := by
  simp only [bytesAt, natBytes, List.mem_map, List.mem_zipIdx_iff_getElem?, List.getElem?_map, Option.map_eq_some_iff,
    List.getElem?_eq_some_iff, List.length_range, List.getElem_range]
  constructor
  · rintro ⟨⟨b, i⟩, ⟨j, ⟨hj, rfl⟩, hb⟩, rfl⟩
    exact ⟨i, hj, by rw [← hb]⟩
  · rintro ⟨i, hi, rfl⟩
    exact ⟨(BitVec.ofNat 8 (x / 256 ^ i), i), ⟨i, ⟨hi, rfl⟩, rfl⟩, rfl⟩

/-! ### Writes one after another -/

section
variable {α β : Type} {p : α → Prop} [DecidablePred p] {f : α → β}

/-- What nothing writes stays. -/
theorem foldl_write_of_none {l : List α} (h : ∀ e ∈ l, ¬ p e) (x : β) : l.foldl (fun acc e => if p e then f e else acc) x = x := by
  induction l with
  | nil => rfl
  | cons e l ih =>
    rw [List.foldl_cons, if_neg (h e List.mem_cons_self)]
    exact ih (fun e he => h e (List.mem_cons_of_mem _ he))

/-- What is written with one value only holds it. -/
theorem foldl_write_of_all {l : List α} {v : β} (h : ∀ e ∈ l, p e → f e = v) (some_ : ∃ e ∈ l, p e) (x : β) :
    l.foldl (fun acc e => if p e then f e else acc) x = v := by
  have keep : ∀ l : List α, (∀ e ∈ l, p e → f e = v) → l.foldl (fun acc e => if p e then f e else acc) v = v := by
    intro l
    induction l with
    | nil => exact fun _ => rfl
    | cons e l ih =>
      intro h
      have first : (if p e then f e else v) = v := by
        split
        next hp => exact h e List.mem_cons_self hp
        next => rfl
      rw [List.foldl_cons, first]
      exact ih (fun e he => h e (List.mem_cons_of_mem _ he))
  induction l generalizing x with
  | nil => simp at some_
  | cons e l ih =>
    rw [List.foldl_cons]
    have rest := fun e he => h e (List.mem_cons_of_mem _ he)
    by_cases hp : p e
    · rw [if_pos hp, h e List.mem_cons_self hp]
      exact keep l rest
    · obtain ⟨d, hd, hpd⟩ := some_
      refine ih rest ⟨d, (List.mem_cons.1 hd).resolve_left (fun e => hp (e ▸ hpd)), hpd⟩ _

end

/-! ### Scratchpad bytes -/

theorem spSet_read (m : NMap Byte) (k j : Nat) (b : Byte) : NMap.getD (spSet m k b) j 0#8 = if k = j then b else NMap.getD m j 0#8 :=
  memSet_read m k j b

/-- What a byte holds after writes one after another. -/
theorem Crew.byte_put (c : Crew) (bs : NMap Byte) (a : Nat) :
    (c.put bs).byte a = bs.foldl (fun acc e => if e.1 = a then e.2 else acc) (c.byte a) := by
  have run : ∀ m : NMap Byte, NMap.getD (bs.foldl (fun m (e : Nat × Byte) => spSet m e.1 e.2) m) a 0#8
      = bs.foldl (fun acc e => if e.1 = a then e.2 else acc) (NMap.getD m a 0#8) := by
    induction bs with
    | nil => exact fun _ => rfl
    | cons e l ih => intro m; rw [List.foldl_cons, ih, List.foldl_cons, spSet_read]
  exact run c.sp

theorem Crew.byte_putNum (c : Crew) (a n x : Nat) {i : Nat} (hi : i < n) :
    (c.putNum a n x).byte (a + i) = BitVec.ofNat 8 (x / 256 ^ i) := by
  refine (c.byte_put (bytesAt a n x) (a + i)).trans (foldl_write_of_all (p := fun e : Nat × Byte => e.1 = a + i) (f := Prod.snd) (fun e he hk => ?_)
    ⟨_, mem_bytesAt.2 ⟨i, hi, rfl⟩, rfl⟩ _)
  obtain ⟨j, -, rfl⟩ := mem_bytesAt.1 he
  rw [Nat.add_left_cancel hk]

theorem Crew.num_putNum (c : Crew) (a n x : Nat) : (c.putNum a n x).num a n = x % 256 ^ n := by
  rw [← leNat_natBytes, Crew.num, natBytes]
  exact congrArg leNat (List.map_congr_left fun i hi => c.byte_putNum a n x (List.mem_range.1 hi))

/-! ### Bytes of memory -/

theorem memKey_inj {b o a a' : Nat} : memKey b o a = memKey b o a' ↔ a = a' := Nat.add_right_inj

/-- What a byte holds after the bytes of an object have been written. -/
theorem State.readByte_putBytes (s : State) (b o : Nat) (bs : NMap Byte) (k : Nat) :
    (s.putBytes b o bs).readByte k = bs.foldl (fun acc e => if memKey b o e.1 = k then e.2 else acc) (s.readByte k) := by
  have run : ∀ m : NMap Byte, NMap.getD (bs.foldl (fun m (e : Nat × Byte) => memSet m (memKey b o e.1) e.2) m) k memDefault
      = bs.foldl (fun acc e => if memKey b o e.1 = k then e.2 else acc) (NMap.getD m k memDefault) := by
    induction bs with
    | nil => exact fun _ => rfl
    | cons e l ih => intro m; rw [List.foldl_cons, ih, List.foldl_cons, memSet_read]
  exact run s.mem

/-- The number that `n` bytes of an object hold is `x` from now on, and no other byte has changed. -/
def WroteNum (s t : State) (b o a n x : Nat) : Prop :=
  (∀ i, i < n → t.readByte (memKey b o (a + i)) = BitVec.ofNat 8 (x / 256 ^ i)) ∧
    ∀ z, (∀ i, i < n → memKey b o (a + i) ≠ z) → t.readByte z = s.readByte z

theorem wroteNum_putBytes (s : State) (b o a n x : Nat) : WroteNum s (s.putBytes b o (bytesAt a n x)) b o a n x := by
  refine ⟨fun i hi => ?_, fun z hz => ?_⟩
  · rw [State.readByte_putBytes]
    refine foldl_write_of_all (p := fun e : Nat × Byte => memKey b o e.1 = memKey b o (a + i)) (f := Prod.snd) (fun e he hk => ?_)
      ⟨_, mem_bytesAt.2 ⟨i, hi, rfl⟩, rfl⟩ _
    obtain ⟨j, -, rfl⟩ := mem_bytesAt.1 he
    rw [Nat.add_left_cancel (memKey_inj.1 hk)]
  · rw [State.readByte_putBytes]
    refine foldl_write_of_none (fun e he => ?_) _
    obtain ⟨j, hj, rfl⟩ := mem_bytesAt.1 he
    exact hz j hj

end Sys2Proof.Machine
end

section
/-! The scratchpad: the bounds trap of `LDS` and `STS` (R97), and the service of a bank (R96, R98). -/

namespace Sys2Proof.Machine

/-! ### The bounds of a scratchpad access -/

/-- A scratchpad address is the sum of its parts mod 2^32 (R70). -/
theorem spAddr_eq (base idx : Word) (ofs : Int) :
    spAddr base idx ofs = (base.toNat + idx.toNat + (BitVec.ofInt 32 ofs).toNat) % 2 ^ 32 := by
  simp only [spAddr, BitVec.toNat_add]
  omega

/-- An access is in order where it is aligned and ends within the crew's scratchpad (R97). -/
theorem Crew.spOk_eq_false (c : Crew) (a n : Nat) : c.spOk a n = false ↔ c.scr * 1024 < a + n ∨ a % n ≠ 0 := by
  simp only [Crew.spOk, Bool.and_eq_false_iff, decide_eq_false_iff_not, not_le]

theorem State.quad?_modQuad (s : State) (q q' : Nat) (f : Quad → Quad) :
    (s.modQuad q f).quad? q' = if q = q' then (s.quad? q').map f else s.quad? q' := by
  simp only [State.quad?, State.modQuad_quads, NMap.modify]
  split
  next x hx =>
    rw [NMap.get?_set]
    split
    next e => rw [← e, hx]; rfl
    next => rfl
  next hx =>
    split
    next e => rw [← e, hx]; rfl
    next => rfl

/-- Putting a group into a slot changes no crew. -/
theorem State.crew?_setGroup (s : State) (q q' slot : Nat) (g h : Group) : (s.setGroup q' slot g).crew? q h = s.crew? q h := by
  rw [State.crew?, State.setGroup, State.quad?_modQuad]
  split
  · rw [State.crew?]; cases s.quad? q <;> rfl
  · rfl

/-- The crew of a group does not depend on whether its jet is open. -/
theorem State.crew?_opened (s : State) (q : Nat) (g : Group) : s.crew? q g.opened = s.crew? q g := by
  have has : (fun c : Crew => c.has g.opened) = fun c => c.has g := by
    funext c
    simp only [Crew.has, Group.opened]
    split <;> rfl
  simp only [State.crew?, Quad.crewOf?, has]

@[simp] theorem Group.opened_dataOk (g : Group) (d n : Nat) : g.opened.dataOk d n = g.dataOk d n := by
  simp only [Group.dataOk, Group.opened_vOk]

/-- The bounds trap of an access of a size for the lanes of a guard. -/
def spBounds (g : Group) (gd : Guard) (base idx : Sel) (size : Size) (ofs : Int) (c : Crew) : Trap :=
  let a := fun l => spAddr (selAt g base l) (selAt g idx l) ofs
  spTrap (maskOf (fun l => (guardMask g gd).getLsbD l && !c.spOk (a l) (sizeBytes size))) a (sizeField size)

section
variable {s : State} {g : Group} {gd : Guard} {d : BitVec 7} {base idx : Sel} {size : Size} {so : SpOrd} {ofs : BitVec 16} {c : Crew} {l : Nat}
  (hc : s.crew? s.cur.1 g = some c) (hb : selOk g base = true) (hi : selOk g idx = true)
  (hd : g.dataOk d.toNat (sizeBytes size) = true) (hl : l < 32) (hm : (guardMask g gd).getLsbD l = true)
  (hbad : c.spOk (spAddr (selAt g base l) (selAt g idx l) ofs.toInt) (sizeBytes size) = false)
include hc hb hi hd hl hm hbad

theorem lds_raises_spBounds (h : Issues s (.lds gd d base idx size so ofs) g) :
    Raises s (.lds gd d base idx size so ofs) g (spBounds g gd base idx size ofs.toInt c) := by
  have crew := (State.crew?_setGroup s s.cur.1 s.cur.1 s.cur.2 g.opened g.opened).trans ((State.crew?_opened ..).trans hc)
  have fails := maskOf_ne_zero (f := fun l => (guardMask g gd).getLsbD l
    && !c.spOk (spAddr (selAt g base l) (selAt g idx l) ofs.toInt) (sizeBytes size)) hl (by simp [hm, hbad])
  rw [Raises, exec_lds, execLds]
  refine runInstr_trap h ?_
  simp [hb, hi, hd, crew, fails, spBounds]

theorem sts_raises_spBounds (h : Issues s (.sts gd d base idx size so ofs) g) :
    Raises s (.sts gd d base idx size so ofs) g (spBounds g gd base idx size ofs.toInt c) := by
  have crew := (State.crew?_setGroup s s.cur.1 s.cur.1 s.cur.2 g.opened g.opened).trans ((State.crew?_opened ..).trans hc)
  have fails := maskOf_ne_zero (f := fun l => (guardMask g gd).getLsbD l
    && !c.spOk (spAddr (selAt g base l) (selAt g idx l) ofs.toInt) (sizeBytes size)) hl (by simp [hm, hbad])
  rw [Raises, exec_sts, execSts]
  refine runInstr_trap h ?_
  simp [hb, hi, hd, crew, fails, spBounds]

end

/-- Settles O30: the trap is `spBounds`, whose lanes are those that fail `Crew.spOk`. -/
theorem scratchpadBoundsTrap : Obligations.ScratchpadBoundsTrap := by
  intro s g gd d base idx size so ofs c l hc hb hi hd m n a bad hbad
  obtain ⟨hl, hm, hout⟩ := hbad
  have addr : ∀ k, spAddr (selAt g base k) (selAt g idx k) ofs.toInt = a k := fun k => spAddr_eq ..
  have fails : ∀ k, (maskOf (fun l => m.getLsbD l && !c.spOk (a l) n)).getLsbD k = true ↔ bad k := by
    intro k
    rw [maskOf_getLsbD, Bool.and_eq_true, decide_eq_true_eq, Bool.and_eq_true, Bool.not_eq_true', Crew.spOk_eq_false]
  have trap : spBounds g gd base idx size ofs.toInt c = spTrap (maskOf (fun l => m.getLsbD l && !c.spOk (a l) n)) a (sizeField size) := by
    simp only [spBounds, addr, m, n]
  have hspOk : c.spOk (spAddr (selAt g base l) (selAt g idx l) ofs.toInt) (sizeBytes size) = false := by
    rw [addr]; exact (Crew.spOk_eq_false ..).2 hout
  refine ⟨spBounds g gd base idx size ofs.toInt c, rfl, rfl, rfl, rfl, ?em, ?failing, ?others, fun k => Lanes.at_zero k,
    lds_raises_spBounds hc hb hi hd hl hm hspOk, sts_raises_spBounds hc hb hi hd hl hm hspOk⟩
  case em => rw [trap]; exact ⟨_, rfl, fun k _ => fails k⟩
  case failing =>
    intro k hk hbad
    rw [trap]
    simp only [spTrap, Lanes.at_lanesOf, hk, if_true, (fails k).2 hbad]
    exact ⟨trivial, by simp [v122Of, kindScratch]⟩
  case others =>
    intro k hbad
    rw [trap]
    have : (maskOf (fun l => m.getLsbD l && !c.spOk (a l) n)).getLsbD k = false := Bool.eq_false_iff.2 (fun h => hbad ((fails k).1 h))
    simp only [spTrap, Lanes.at_lanesOf, this, Bool.false_eq_true, if_false, ite_self, and_self]

/-! ### The request that a bank serves -/

theorem exists_of_mem_outside {l : List BankReq} {held : List (Nat × Nat)} {i : Nat} (h : i ∈ outside l held) : ∃ r ∈ l, r.id = i := by
  induction l generalizing held with
  | nil => simp [outside] at h
  | cons r l ih =>
    simp only [outside] at h
    split at h
    · obtain ⟨o, ho, hi⟩ := ih h
      exact ⟨o, List.mem_cons_of_mem _ ho, hi⟩
    · rcases List.mem_cons.1 h with rfl | h
      · exact ⟨r, List.mem_cons_self, rfl⟩
      · obtain ⟨o, ho, hi⟩ := ih h
        exact ⟨o, List.mem_cons_of_mem _ ho, hi⟩

/-- The oldest request of a bank has entered its queue when it follows nothing, and is served (R98). -/
theorem pickReq_cons {r : BankReq} {rest : List BankReq} (hold : r.hold = []) (other : ∀ o ∈ rest, o.id ≠ r.id) :
    pickReq (r :: rest) = some (r, rest) := by
  have entered : (outside (r :: rest) []).contains r.id = false := by
    rw [Bool.eq_false_iff, Ne, List.contains_iff_mem]
    intro h
    simp only [outside, hold, List.isEmpty_nil, List.contains_nil, Bool.not_false, Bool.and_self, if_true] at h
    obtain ⟨o, ho, hi⟩ := exists_of_mem_outside h
    exact other o ho hi
  have others : rest.filter (fun o => o.id != r.id) = rest := List.filter_eq_self.2 (fun o ho => by simp [other o ho])
  simp only [pickReq, List.find?_cons, entered, Bool.not_false, Option.map_some, List.filter_cons, bne_self_eq_false,
    Bool.false_eq_true, if_false, others]

/-- A quadrant whose bank holds the given requests. -/
def Quad.setBank (x : Quad) (k : Nat) (l : List BankReq) : Quad :=
  { x with banks := if l.isEmpty then NMap.erase x.banks k else NMap.set x.banks k l }

theorem Quad.bank_setBank (x : Quad) (k : Nat) (l : List BankReq) : (x.setBank k l).bank k = l := by
  rw [Quad.bank, Quad.setBank]
  cases l with
  | nil => simp [NMap.getD, NMap.get?_erase]
  | cons r l => simp

/-- What a request that is served does: the crew's bytes and who watches them, and the result in flight. -/
def State.applyReq (s : State) (q : Nat) (g : Group) (c : Crew) (r : BankReq) : State :=
  let p := r.op.perform c
  let s := if p.2.2 then ((s.modCrew q g (fun _ => p.1)).markTile q g (8 * r.word) 8).sluice q g r.word else s
  match r.flight with
  | none => s
  | some id => s.modGroup q r.slot (fun g => { g with vflights := g.vflights.map (fun (f : VFlight) =>
      if f.id = id then f.take p.2.1 else f) })

theorem bankService_eq {s : State} {q bank : Nat} {x : Quad} {r : BankReq} {rest : List BankReq} {g : Group} {c : Crew}
    (hx : s.quad? q = some x) (hb : x.bank bank = r :: rest) (hold : r.hold = []) (other : ∀ o ∈ rest, o.id ≠ r.id)
    (hg : NMap.get? x.groups r.slot = some g) (hc : x.crewOf? g = some c) :
    exec (.scratchpadBankService q bank) s = .next (((s.setQuad q (x.setBank bank rest)).applyReq q g c r).over r.id).settle := by
  simp only [exec_scratchpadBankService, execScratchpadBankService, State.serveBank, hx, hb, pickReq_cons hold other, hg, hc,
    Option.bind_some, Option.map_some]
  rfl

/-! ### What a served request leaves of its quadrant -/

/-- A group without what watches the scratchpad: the window of R204 and the wait at a gate. -/
def Group.unwatched (g : Group) : Group := { g with mmDirty := [], staging := none, wait := .none }

/-- A quadrant in which groups have noticed a write into a scratchpad. -/
structure QuadWatched (x y : Quad) : Prop where
  crews : y.crews = x.crews
  banks : y.banks = x.banks
  groups : ∀ slot, (NMap.get? y.groups slot).map Group.unwatched = (NMap.get? x.groups slot).map Group.unwatched

theorem QuadWatched.trans {x y z : Quad} (h : QuadWatched x y) (h' : QuadWatched y z) : QuadWatched x z :=
  ⟨h'.crews.trans h.crews, h'.banks.trans h.banks, fun slot => (h'.groups slot).trans (h.groups slot)⟩

theorem QuadWatched.refl (x : Quad) : QuadWatched x x := ⟨rfl, rfl, fun _ => rfl⟩

theorem quadWatched_mapGroups (x : Quad) {f : Nat × Group → Nat × Group} (hf : ∀ e, (f e).1 = e.1 ∧ (f e).2.unwatched = e.2.unwatched) :
    QuadWatched x { x with groups := x.groups.map f } := by
  refine ⟨rfl, rfl, fun slot => ?_⟩
  rw [NMap.get?_map_of_key (fun e => (hf e).1)]
  cases NMap.get? x.groups slot with
  | none => rfl
  | some g => exact congrArg some (hf (slot, g)).2

theorem State.markTile_quad {s : State} {q : Nat} {x : Quad} (hx : s.quad? q = some x) (g : Group) (a n : Nat) :
    ∃ y, (s.markTile q g a n).quad? q = some y ∧ QuadWatched x y := by
  unfold State.markTile
  split
  · exact ⟨x, hx, .refl x⟩
  next c _ =>
    refine ⟨_, (State.quad?_modQuad s q q _).trans ((if_pos rfl).trans (congrArg _ hx)), quadWatched_mapGroups x fun e => ?_⟩
    split <;> exact ⟨rfl, rfl⟩

theorem State.sluice_quad {s : State} {q : Nat} {x : Quad} (hx : s.quad? q = some x) (g : Group) (word : Nat) :
    ∃ y, (s.sluice q g word).quad? q = some y ∧ QuadWatched x y := by
  unfold State.sluice
  split
  · exact ⟨x, hx, .refl x⟩
  next c _ =>
    refine ⟨_, (State.quad?_modQuad s q q _).trans ((if_pos rfl).trans (congrArg _ hx)), quadWatched_mapGroups x fun e => ?_⟩
    split
    · split
      · split <;> exact ⟨rfl, rfl⟩
      · exact ⟨rfl, rfl⟩
    · exact ⟨rfl, rfl⟩

/-- A request touches the bytes of its crew only. -/
theorem BankOp.perform_eq (op : BankOp) (c : Crew) : ∃ sp, (op.perform c).1 = { c with sp := sp } := by
  cases op with
  | read ls => exact ⟨c.sp, rfl⟩
  | write bs => exact ⟨_, rfl⟩
  | gate a n job => exact ⟨_, rfl⟩
  | atom op ty d es =>
    refine List.foldlRecOn es _ (motive := fun acc : Crew × List (Nat × Nat × Word) => ∃ sp, acc.1 = { c with sp := sp }) ⟨c.sp, rfl⟩ ?_
    rintro acc ⟨sp, h⟩ e _
    exact ⟨_, by dsimp only; rw [h]; rfl⟩

/-- The crew of a group in its place. -/
theorem Quad.crewOf?_modCrew {x : Quad} {g : Group} {c c' : Crew} (hc : x.crewOf? g = some c) (has : c'.has g = c.has g) :
    (x.modCrew g (fun _ => c')).crewOf? g = some c' := by
  have mine : c.has g = true := List.find?_some (p := fun c : Crew => c.has g) hc
  simp only [Quad.crewOf?, Quad.modCrew] at hc ⊢
  generalize x.crews = l at hc
  induction l with
  | nil => simp at hc
  | cons d l ih =>
    simp only [List.map_cons, List.find?_cons] at hc ⊢
    cases hd : d.has g with
    | true => simp [has, mine]
    | false =>
      rw [hd] at hc
      simp only [hd, Bool.false_eq_true, if_false]
      exact ih hc

theorem Quad.crewOf?_congr {x y : Quad} {g h : Group} (crews : y.crews = x.crews) (launch : h.launch = g.launch) (gang : h.gang = g.gang)
    (crew : h.crew = g.crew) : y.crewOf? h = x.crewOf? g := by
  simp only [Quad.crewOf?, Crew.has, crews, launch, gang, crew]

/-- The values of a served request in the result in flight that waits for it. -/
def Group.takeReq (g : Group) (r : BankReq) (ws : List (Nat × Nat × Word)) : Group :=
  match r.flight with
  | none => g
  | some id => { g with vflights := g.vflights.map (fun (f : VFlight) => if f.id = id then f.take ws else f) }

/-- A served request leaves its quadrant with the crew's new bytes and the group's new results in flight, and the queues as they are. -/
theorem State.applyReq_quad {s : State} {q : Nat} {x : Quad} {r : BankReq} {g : Group} {c : Crew} (hx : s.quad? q = some x)
    (hg : NMap.get? x.groups r.slot = some g) (hc : x.crewOf? g = some c) :
    ∃ y z, (s.applyReq q g c r).quad? q = some y ∧ y.banks = x.banks ∧ NMap.get? y.groups r.slot = some z ∧
      z.unwatched = (g.takeReq r (r.op.perform c).2.1).unwatched ∧ y.crewOf? z = some (r.op.perform c).1 := by
  obtain ⟨sp, hsp⟩ := r.op.perform_eq c
  have has : (r.op.perform c).1.has g = c.has g := by rw [hsp]; rfl
  have written : ∃ y z, (if (r.op.perform c).2.2 then
        ((s.modCrew q g (fun _ => (r.op.perform c).1)).markTile q g (8 * r.word) 8).sluice q g r.word else s).quad? q = some y ∧
      y.banks = x.banks ∧ NMap.get? y.groups r.slot = some z ∧ z.unwatched = g.unwatched ∧ y.crewOf? z = some (r.op.perform c).1 := by
    split
    next =>
      have hx1 : (s.modCrew q g (fun _ => (r.op.perform c).1)).quad? q = some (x.modCrew g (fun _ => (r.op.perform c).1)) :=
        (State.quad?_modQuad s q q _).trans ((if_pos rfl).trans (congrArg _ hx))
      obtain ⟨y, hy, marked⟩ := State.markTile_quad hx1 g (8 * r.word) 8
      obtain ⟨y', hy', sluiced⟩ := State.sluice_quad hy g r.word
      have watched := marked.trans sluiced
      have hz := watched.groups r.slot
      rw [show NMap.get? (x.modCrew g (fun _ => (r.op.perform c).1)).groups r.slot = some g from hg] at hz
      obtain ⟨z, hzg, hz⟩ := Option.map_eq_some_iff.1 hz
      refine ⟨y', z, hy', watched.banks, hzg, hz, ?_⟩
      exact (Quad.crewOf?_congr watched.crews (congrArg Group.launch hz :) (congrArg Group.gang hz :) (congrArg Group.crew hz :)).trans
        (Quad.crewOf?_modCrew hc has)
    next hw =>
      refine ⟨x, g, hx, rfl, hg, rfl, ?_⟩
      have read : (r.op.perform c).1 = c := by
        cases hop : r.op with
        | read ls => rfl
        | _ => rw [hop] at hw; exact absurd rfl hw
      rw [read, hc]
  obtain ⟨y, z, hy, banks, hzg, hz, crew⟩ := written
  unfold State.applyReq Group.takeReq
  dsimp only
  split
  next => exact ⟨y, z, hy, banks, hzg, hz, crew⟩
  next id _ =>
    refine ⟨y.setGroup r.slot { z with vflights := z.vflights.map (fun (f : VFlight) => if f.id = id then f.take (r.op.perform c).2.1 else f) },
      _, ?_, banks, NMap.get?_set_self .., ?_, ?_⟩
    · rw [State.modGroup_eq (by rw [State.group?, hy]; exact hzg), State.setGroup, State.quad?_modQuad, if_pos rfl, hy]
      rfl
    · have hz' := congrArg (fun h : Group =>
        { h with vflights := h.vflights.map (fun (f : VFlight) => if f.id = id then f.take (r.op.perform c).2.1 else f) }) hz
      exact hz'
    · rw [← crew]
      exact Quad.crewOf?_congr rfl rfl rfl rfl

theorem State.applyReq_mem (s : State) (q : Nat) (g : Group) (c : Crew) (r : BankReq) : (s.applyReq q g c r).mem = s.mem := by
  have mark (s : State) : (s.markTile q g (8 * r.word) 8).mem = s.mem := by unfold State.markTile; split <;> rfl
  have sluice (s : State) : (s.sluice q g r.word).mem = s.mem := by unfold State.sluice; split <;> rfl
  unfold State.applyReq
  split <;> dsimp only
  · split
    · rw [sluice, mark]; rfl
    · rfl
  · rw [State.modGroup_mem]
    split
    · rw [sluice, mark]; rfl
    · rfl

/-- Settles O31: the oldest request is picked, `applyReq` performs it, and what follows by itself keeps what it has done. -/
theorem bankServicePerformsOneRequest : Obligations.BankServicePerformsOneRequest := by
  intro s q bank x r rest g c hx hb hold other hg hc
  have popped : (s.setQuad q (x.setBank bank rest)).quad? q = some (x.setBank bank rest) := NMap.get?_set_self ..
  obtain ⟨y, z, hy, banks, hzg, hz, crew⟩ := State.applyReq_quad (r := r) popped hg hc
  have hzt : ((s.setQuad q (x.setBank bank rest)).applyReq q g c r).group? q r.slot = some z := by rw [State.group?, hy]; exact hzg
  have keeps := (keeps_over ((s.setQuad q (x.setBank bank rest)).applyReq q g c r) r.id).trans (keeps_settle _)
  obtain ⟨h, hht, core⟩ := keeps.group hzt
  obtain ⟨w, hw, kept⟩ := keeps.quad hy
  have crewAfter := keeps.crew? (show State.crew? _ q z = some _ by rw [State.crew?, hy]; exact crew) core
  have taken : ∀ {α : Type} (f : Group → α), (∀ k, f k.core = f k) → (∀ k, f k.unwatched = f k) →
      f h = f (g.takeReq r (r.op.perform c).2.1) := fun f hcore hwatch => by
    rw [← hcore h, core, hcore, ← hwatch z, hz, hwatch]
  have regs : (g.takeReq r (r.op.perform c).2.1).v = g.v ∧ (g.takeReq r (r.op.perform c).2.1).s = g.s ∧
      (g.takeReq r (r.op.perform c).2.1).p = g.p ∧ (g.takeReq r (r.op.perform c).2.1).pc = g.pc := by
    unfold Group.takeReq
    split <;> exact ⟨rfl, rfl, rfl, rfl⟩
  obtain ⟨v, s', p, pc⟩ := regs
  refine ⟨_, h, (r.op.perform c).1, bankService_eq hx hb hold other hg hc, hht, crewAfter, (taken Group.v (fun _ => rfl) (fun _ => rfl)).trans v,
    (taken Group.s (fun _ => rfl) (fun _ => rfl)).trans s', (taken Group.p (fun _ => rfl) (fun _ => rfl)).trans p,
    (taken Group.pc (fun _ => rfl) (fun _ => rfl)).trans pc, keeps.mem.trans (State.applyReq_mem ..), ⟨w, hw, ?banks⟩, ?write, ?read, ?add⟩
  case banks =>
    have served : y.bank bank = rest := by rw [Quad.bank, banks, ← Quad.bank, Quad.bank_setBank]
    exact served ▸ kept.banks bank
  case write =>
    intro bs hop a
    rw [hop]
    exact c.byte_put bs a
  case read =>
    intro ls hop
    rw [hop]
    refine ⟨rfl, fun id f hflight hf hid => ?_⟩
    have flights : h.vflights = g.vflights.map (fun (f : VFlight) => if f.id = id then f.take (readWrites c ls) else f) := by
      rw [taken Group.vflights (fun _ => rfl) (fun _ => rfl), Group.takeReq, hflight, hop]
      rfl
    refine ⟨f.take (readWrites c ls), ?_, hid, rfl, by simp [VFlight.take], fun l a n d hls hn hl e he hreg => ?_⟩
    · rw [flights]
      exact List.mem_map.2 ⟨f, hf, if_pos hid⟩
    · obtain ⟨e', -, rfl⟩ := List.mem_map.1 he
      have small : ¬ n = 8 := by omega
      simp only at hreg
      subst hreg
      simp [hls, readWrites, small, hl]
  case add =>
    intro d e ty hop hf32 hs64
    have value : (c.putNum e.ofs 4 ((c.num e.ofs 4 + e.data.toNat) % 2 ^ 32)).num e.ofs 4 = (c.num e.ofs 4 + e.data.toNat) % 2 ^ 32 := by
      rw [Crew.num_putNum]
      omega
    have sum : (atomNew .add ty (BitVec.ofNat 64 (c.num e.ofs 4)) e.data e.cmp).toNat = (c.num e.ofs 4 + e.data.toNat) % 2 ^ 32 := by
      have word : atomWord .add ty = fun old data _ => old + data := by
        cases ty with
        | f32 => exact absurd rfl hf32
        | s64 => exact absurd rfl hs64
        | _ => rfl
      simp only [atomNew, hs64, if_false, word, BitVec.toNat_setWidth, BitVec.toNat_add, BitVec.toNat_ofNat]
      omega
    rw [hop]
    simp only [BankOp.perform, List.foldl_cons, List.foldl_nil, atomBytes, hs64, if_false, sum]
    exact value

end Sys2Proof.Machine
end

section
/-! The catch-up instructions that wait for paths and engines: `WAITC`, `PFENCE`, `OFENCE` and `MMWAIT` (R100, R95, R204, R354). -/

namespace Sys2Proof.Machine

/-! ### A group at a boundary -/

/-- The registers, masks and accesses of a group are those of another. -/
def Group.SameRegs (h g : Group) : Prop :=
  h.v = g.v ∧ h.s = g.s ∧ h.p = g.p ∧ h.h = g.h ∧ h.em = g.em ∧ h.status = g.status ∧ h.stack = g.stack ∧ h.flights = g.flights

theorem Group.sameRegs_opened (g : Group) : g.opened.SameRegs g := by
  simp only [Group.opened]
  split <;> exact ⟨rfl, rfl, rfl, rfl, rfl, rfl, rfl, rfl⟩

theorem Group.sameRegs_of_core {h g : Group} (c : h.core = g.core) : h.SameRegs g :=
  ⟨(congrArg Group.v c :), (congrArg Group.s c :), (congrArg Group.p c :), (congrArg Group.h c :), (congrArg Group.em c :),
    (congrArg Group.status c :), (congrArg Group.stack c :), (congrArg Group.flights c :)⟩

/-- What a result makes of the registers it reaches depends on them only. -/
theorem Group.landDest_congr {h g : Group} (v : h.v = g.v) (p : h.p = g.p) (ix : Nat) (d : Dest) (x : Lanes) :
    (h.landDest ix d x).v = (g.landDest ix d x).v ∧ (h.landDest ix d x).p = (g.landDest ix d x).p := by
  unfold Group.landDest Group.setP
  split
  · simp only [Group.setV, Group.getV, v, p, and_self]
  · split
    · exact ⟨v, p⟩
    · simp only [Group.getP, v, p, and_self]

theorem Group.landJet_congr {h g : Group} (v : h.v = g.v) (p : h.p = g.p) (j : Jet) :
    (h.landJet j).v = (g.landJet j).v ∧ (h.landJet j).p = (g.landJet j).p := by
  unfold Group.landJet
  induction j.late generalizing h g with
  | nil => exact ⟨v, p⟩
  | cons e es ih =>
    obtain ⟨v', p'⟩ : (Group.landLate j h e).v = (Group.landLate j g e).v ∧ (Group.landLate j h e).p = (Group.landLate j g e).p :=
      Group.landDest_congr v p ..
    exact ih v' p'

/-- A group that stands at an instruction has the registers that giving up its jet leaves. -/
theorem Group.sameRegs_stand {h g : Group} (same : h.SameRegs g) (jet : h.jetOr = g.jetOr) (o : Group) (w : Wait) :
    (h.stand o w).SameRegs g.leaveJet := by
  obtain ⟨v, s, p, hd, em, status, stack, flights⟩ := same
  obtain ⟨hv, hp⟩ := Group.landJet_congr v p g.jetOr
  obtain ⟨_, _, he⟩ := g.leaveJet_eq
  refine ⟨?_, ?_, ?_, ?_, ?_, ?_, ?_, ?_⟩
  case refine_1 => simp only [Group.stand, Group.leaveJet, jet, hv]
  case refine_3 => simp only [Group.stand, Group.leaveJet, jet, hp]
  all_goals simp only [Group.stand_s, Group.stand_h, Group.stand_em, Group.stand_status, Group.stand_stack, Group.stand_flights, he,
    s, hd, em, status, stack, flights]

theorem Group.jetOr_of_core {z g : Group} (c : z.core = g.opened.core) : z.jetOr = g.jetOr := by
  rw [Group.jetOr, show z.jet = g.opened.jet from (congrArg Group.jet c :), Group.opened_jet, Option.getD_some]

theorem Group.pc_of_core {z g : Group} (c : z.core = g.opened.core) : z.pc = g.pc :=
  ((congrArg Group.pc c :) : z.pc = g.opened.pc).trans g.opened_fields.1

theorem Group.SameRegs.trans {a b c : Group} (h : a.SameRegs b) (h' : b.SameRegs c) : a.SameRegs c := by
  obtain ⟨h1, h2, h3, h4, h5, h6, h7, h8⟩ := h
  obtain ⟨k1, k2, k3, k4, k5, k6, k7, k8⟩ := h'
  exact ⟨h1.trans k1, h2.trans k2, h3.trans k3, h4.trans k4, h5.trans k5, h6.trans k6, h7.trans k7, h8.trans k8⟩

/-! ### An instruction whose body lets accesses leave first -/

/-- The state in which the body of the current instruction begins. -/
def State.openCur (s : State) (g : Group) : State := s.setGroup s.cur.1 s.cur.2 g.opened

section
variable {s t : State} {i : Instr} {g : Group} {body : Body} (h : Issues s i g) (he : exec i s = runInstr s i body)
  (k : Keeps (s.openCur g) t)
include h he k

/-- After steps that keep its group, the instruction completes with every register as it was. -/
theorem keeps_runInstr_next (hb : body (s.openCur g) s.cur.1 s.cur.2 g.opened = .next t .none none) :
    ∃ z, t.group? s.cur.1 s.cur.2 = some z ∧ GroupAfter (exec i s) s.cur.1 s.cur.2 (fun u y =>
      u = t.setGroup s.cur.1 s.cur.2 y ∧ (u.mem = s.mem ∧ y.SameRegs g) ∧ y.pc = g.pc + instrLen i ∧ y.wait = .none) := by
  obtain ⟨z, hz, core⟩ := k.group (State.group?_setGroup h.1)
  have regs := (Group.sameRegs_of_core core).trans g.sameRegs_opened
  refine ⟨z, hz, _, _, he.trans (runInstr_next h hb), ?_, State.modGroup_eq hz _, ⟨(State.modGroup_mem ..).trans k.mem, regs⟩, rfl, Group.advance_wait ..⟩
  rw [State.modGroup_eq hz]
  exact State.group?_setGroup hz

/-- After steps that keep its group, the instruction waits: the jet is given up, and every register is as that leaves it. -/
theorem keeps_runInstr_wait {w : Wait} (hb : body (s.openCur g) s.cur.1 s.cur.2 g.opened = .wait t w) :
    GroupAfter (exec i s) s.cur.1 s.cur.2 (fun u y => (u.mem = s.mem ∧ y.SameRegs g.leaveJet) ∧ y.pc = g.pc ∧ y.wait = w ∧ y.jet = none) := by
  obtain ⟨z, hz, core⟩ := k.group (State.group?_setGroup h.1)
  have regs := (Group.sameRegs_of_core core).trans g.sameRegs_opened
  refine ⟨_, z.stand g w, he.trans (runInstr_wait h hb), ?_,
    ⟨(State.modGroup_mem ..).trans k.mem, Group.sameRegs_stand regs (Group.jetOr_of_core core) g w⟩,
    (Group.stand_pc ..).trans (Group.pc_of_core core), Group.stand_wait .., Group.stand_jet ..⟩
  rw [State.freeIssue]
  refine (State.group?_modQuad_of_groups _ _ (by exact fun _ => rfl) ..).trans ?_
  rw [State.modGroup_eq hz]
  exact State.group?_setGroup hz

end

/-- The stores of the group leave write-combining where the instruction says so. -/
theorem keeps_flushed (s : State) (o : Owner) (c : Prop) [Decidable c] :
    Keeps s (if c then (s.wcFlush o (fun _ => true)).settle else s) := by
  split
  · exact (keeps_wcFlush ..).trans (keeps_settle _)
  · exact .refl s

/-! ### WAITC and PFENCE -/

theorem instrLen_waitc (p : Path) (thr : USel) : instrLen (.waitc p thr) = 8 := by
  cases p <;> cases thr <;> rfl

theorem Group.counter_congr {h g : Group} (same : h.SameRegs g) (p : Path) : h.counter p = g.counter p := by
  obtain ⟨-, -, -, -, -, -, -, flights⟩ := same
  rw [Group.counter, flights, Group.counter]

theorem waitc_completes_or_waits {s : State} {g : Group} {p : Path} {thr : USel} (h : Issues s (.waitc p thr) g) :
    GroupAfter (exec (.waitc p thr) s) s.cur.1 s.cur.2 (fun t y =>
      if g.counter p ≤ (uAt g thr).toNat then (t.mem = s.mem ∧ y.SameRegs g) ∧ y.pc = g.pc + 8 ∧ y.wait = .none
      else (t.mem = s.mem ∧ y.SameRegs g.leaveJet) ∧ y.pc = g.pc ∧ y.wait = .until (.counter p (uAt g thr).toNat) ∧ y.jet = none) := by
  have k := keeps_flushed (s.openCur g) (g.opened.owner s.cur.1 s.cur.2) (p = .st)
  obtain ⟨z, hz, core⟩ := k.group (State.group?_setGroup h.1)
  have count : z.counter p = g.counter p := Group.counter_congr ((Group.sameRegs_of_core core).trans g.sameRegs_opened) p
  by_cases low : g.counter p ≤ (uAt g thr).toNat
  · obtain ⟨-, -, t, y, ht, hy, -, regs, pc, wait⟩ := keeps_runInstr_next h exec_waitc k (by
      simp only [hz, uAt_opened, count, low, if_true])
    exact ⟨t, y, ht, hy, by dsimp only; rw [if_pos low]; exact ⟨regs, pc.trans (by rw [instrLen_waitc]), wait⟩⟩
  · obtain ⟨t, y, ht, hy, stays⟩ := keeps_runInstr_wait h exec_waitc k (w := .until (.counter p (uAt g thr).toNat)) (by
      simp only [hz, uAt_opened, count, low, if_false])
    exact ⟨t, y, ht, hy, by dsimp only; rw [if_neg low]; exact stays⟩

/-- The counters of the paths of a mask are 0. -/
def Group.PathsQuiet (g : Group) (m : BitVec 4) : Prop :=
  (m.getLsbD 0 = true → g.counter .ld = 0 ∧ g.counter .st = 0 ∧ g.counter .dsc = 0) ∧ (m.getLsbD 1 = true → g.counter .cst = 0) ∧
    (m.getLsbD 2 = true → g.counter .smp = 0) ∧ (m.getLsbD 3 = true → g.counter .cpy = 0)

theorem Group.quiet_iff (g : Group) (m : BitVec 4) : g.quiet m = true ↔ g.PathsQuiet m := by
  have part : ∀ (b : Bool) (l : List Path), ((if b = true then l else []).all fun p => g.counter p == 0) = true ↔
      (b = true → l.all (fun p => g.counter p == 0) = true) := by
    intro b l
    cases b <;> simp
  simp only [Group.quiet, maskPaths, List.all_append, Bool.and_eq_true, part, Group.PathsQuiet, and_assoc, List.all_cons, List.all_nil,
    beq_iff_eq, and_true]

/-- Whether a quadrant's caches of the paths of a mask are empty. -/
def Quad.Emptied (x : Quad) (m : BitVec 4) : Prop :=
  (m.getLsbD 0 = true → x.l1 = []) ∧ (m.getLsbD 1 = true → ∀ e ∈ x.ro, e.2.sampler = true) ∧
    (m.getLsbD 2 = true → ∀ e ∈ x.ro, e.2.sampler = false)

theorem keeps_pathInv (s : State) (q : Nat) (m : BitVec 4) : Keeps s (s.pathInv q m) := by
  have low : Keeps s (if m.getLsbD 0 then s.l1Invalidate q else s) := by
    split
    · exact keeps_l1Invalidate s q
    · exact .refl s
  unfold State.pathInv
  dsimp only
  split
  · exact low.trans (keeps_roInvalidate ..)
  · exact low

theorem State.quad?_l1Invalidate (s : State) (q : Nat) : (s.l1Invalidate q).quad? q = (s.quad? q).map Quad.l1Inv :=
  (State.quad?_modQuad s q q _).trans (if_pos rfl)

theorem State.quad?_roInvalidate (s : State) (q : Nat) (cst smp : Bool) : (s.roInvalidate q cst smp).quad? q =
    (s.quad? q).map (fun x => { x with ro := x.ro.filter (fun e => if e.2.sampler then !smp else !cst) }) := by
  have inv := (State.quad?_modQuad s q q fun x => { x with ro := x.ro.filter (fun e => if e.2.sampler then !smp else !cst) }).trans
    (if_pos rfl)
  unfold State.roInvalidate
  dsimp only
  split <;> exact inv

theorem State.pathInv_emptied {s : State} {q : Nat} {x : Quad} (hx : s.quad? q = some x) (m : BitVec 4) :
    ∃ y, (s.pathInv q m).quad? q = some y ∧ y.Emptied m := by
  obtain ⟨y, hy, l1⟩ : ∃ y, (if m.getLsbD 0 then s.l1Invalidate q else s).quad? q = some y ∧ (m.getLsbD 0 = true → y.l1 = []) := by
    split
    · exact ⟨x.l1Inv, by rw [State.quad?_l1Invalidate, hx]; rfl, fun _ => rfl⟩
    next h => exact ⟨x, hx, fun h' => absurd h' h⟩
  unfold State.pathInv
  dsimp only
  split
  next =>
    refine ⟨_, (State.quad?_roInvalidate ..).trans (congrArg _ hy), l1, fun h1 e he => ?_, fun h2 e he => ?_⟩
    · have kept := (List.mem_filter.1 he).2
      cases hs : e.2.sampler with
      | true => rfl
      | false => simp only [hs, h1, Bool.false_eq_true, if_false, Bool.not_true] at kept
    · have kept := (List.mem_filter.1 he).2
      cases hs : e.2.sampler with
      | false => rfl
      | true => simp only [hs, h2, if_true, Bool.not_true, Bool.false_eq_true] at kept
  next h =>
    refine ⟨y, hy, l1, fun h1 => absurd ?_ h, fun h2 => absurd ?_ h⟩
    · simp [h1]
    · simp [h2]

theorem pfence_completes_or_waits {s : State} {g : Group} {m : BitVec 4} (h : Issues s (.pfence m) g) :
    GroupAfter (exec (.pfence m) s) s.cur.1 s.cur.2 (fun t y =>
      (g.PathsQuiet m → (t.mem = s.mem ∧ y.SameRegs g) ∧ y.pc = g.pc + 4 ∧ y.wait = .none ∧ ∃ x, t.quad? s.cur.1 = some x ∧ x.Emptied m) ∧
      (¬ g.PathsQuiet m → (t.mem = s.mem ∧ y.SameRegs g.leaveJet) ∧ y.pc = g.pc ∧ y.wait = .until (.paths m) ∧ y.jet = none)) := by
  have k := keeps_flushed (s.openCur g) (g.opened.owner s.cur.1 s.cur.2) (m.getLsbD 0 = true)
  obtain ⟨z, hz, core⟩ := k.group (State.group?_setGroup h.1)
  have regs := (Group.sameRegs_of_core core).trans g.sameRegs_opened
  have quiet : z.quiet m = true ↔ g.PathsQuiet m := by
    simp only [Group.quiet_iff, Group.PathsQuiet, Group.counter_congr regs]
  by_cases low : g.PathsQuiet m
  · obtain ⟨-, -, t, y, ht, hy, hset, regs, pc, wait⟩ := keeps_runInstr_next h exec_pfence (k.trans (keeps_pathInv _ s.cur.1 m)) (by
      simp only [hz, quiet.2 low, if_true])
    obtain ⟨x, hx, -⟩ := State.quad?_of_group? hz
    obtain ⟨x', hx', empty⟩ := State.pathInv_emptied hx m
    refine ⟨t, y, ht, hy, fun _ => ⟨regs, pc, wait, x'.setGroup s.cur.2 y, ?_, empty⟩, fun high => absurd low high⟩
    rw [hset, State.setGroup, State.quad?_modQuad, if_pos rfl, hx']
    rfl
  · obtain ⟨t, y, ht, hy, stays⟩ := keeps_runInstr_wait h exec_pfence k (w := .until (.paths m)) (by
      simp only [hz, Bool.eq_false_iff.2 (fun q => low (quiet.1 q)), Bool.false_eq_true, if_false])
    exact ⟨t, y, ht, hy, fun q => absurd q low, fun _ => stays⟩

/-! ### OFENCE and MMWAIT -/

theorem State.openCur_applied (s : State) (g : Group) : (s.openCur g).applied s.cur.1 s.cur.2 = s.applied s.cur.1 s.cur.2 := by
  rw [State.applied, State.openCur, State.setGroup, State.quad?_modQuad, if_pos rfl, State.applied]
  cases s.quad? s.cur.1 <;> rfl

theorem Group.opened_owner (g : Group) (q slot : Nat) : g.opened.owner q slot = g.owner q slot := by
  simp only [Group.owner, Group.opened]
  split <;> rfl

theorem Group.opened_mmw (g : Group) : g.opened.staging = g.staging ∧ g.opened.mmSpoilt = g.mmSpoilt := by
  simp only [Group.opened]
  split <;> exact ⟨rfl, rfl⟩

theorem State.openCur_tcopiesDone (s : State) (g : Group) (q slot : Nat) :
    (s.openCur g).tcopiesDone q slot g.opened = s.tcopiesDone q slot g := by
  simp only [State.tcopiesDone, Group.opened_owner]
  rfl

theorem State.openCur_mmas (s : State) (g : Group) (q slot : Nat) : (s.openCur g).mmas q slot g.opened = s.mmas q slot g := by
  simp only [State.mmas, g.opened_mmw]
  rfl

/-- Giving up the jet that has just been opened leaves the group as giving up the jet does. -/
theorem Group.opened_stand (g : Group) (w : Wait) : g.opened.stand g w = { g.leaveJet with wait := w } := by
  obtain ⟨v, s, p, -⟩ := g.sameRegs_opened
  obtain ⟨hv, hp⟩ := Group.landJet_congr v p g.jetOr
  obtain ⟨_, _, ho⟩ := Group.landJet_eq g.jetOr g.opened
  obtain ⟨_, _, hg⟩ := Group.landJet_eq g.jetOr g
  rw [ho, hg] at hv hp
  dsimp only at hv hp
  unfold Group.stand Group.leaveJet
  rw [Group.opened_jetOr, ho, hg, hv, hp]
  unfold Group.opened
  split <;> rfl

theorem Group.opened_tries (g : Group) (w : Wait) : g.opened.tries w = g.tries w := by
  have orders : g.opened.orders = g.orders := by
    simp only [Group.opened]
    split <;> rfl
  simp only [Group.tries, orders]

section
variable {s : State} {i : Instr} {g : Group} {body : Body} (h : Issues s i g) (he : exec i s = runInstr s i body)
include h he

/-- An instruction that finds its condition unmet waits, and has changed nothing. -/
theorem waits_of_unmet {w : Wait} (hb : body (s.openCur g) s.cur.1 s.cur.2 g.opened = .wait (s.openCur g) w) : Waits s i g w := by
  have hg := State.group?_setGroup (g' := g.opened) h.1
  rw [Waits, he, runInstr_wait h hb, State.openCur, State.modGroup_eq hg, hg, Option.any_some, State.setGroup_setGroup,
    Group.opened_stand, Group.opened_tries]

/-- An instruction that changes its group to `k`, which has the same jet and counts. -/
theorem runs_of_setGroup {k : Group} (hb : body (s.openCur g) s.cur.1 s.cur.2 g.opened =
      .next ((s.openCur g).setGroup s.cur.1 s.cur.2 k.opened) .none none)
    (hk : ∀ pc, issuedGroup k k .none [] 0#5 pc = issuedGroup g k .none [] 0#5 pc) : Runs s i g k .none [] 0#5 (g.pc + instrLen i) := by
  have hg := State.group?_setGroup (g' := k.opened) (State.group?_setGroup (g' := g.opened) h.1)
  rw [Runs, he, runInstr_next h hb, State.openCur, State.modGroup_eq hg, State.setGroup_setGroup, State.setGroup_setGroup,
    Group.opened_advance, hk]
  rfl

end

/-- Elements of banks that are not spoilt stay. -/
theorem SlotEng.spoil_acc (x : SlotEng) (ix : Nat) {bs : List Nat} {k w : Nat} (hk : k ∉ bs) (hw : w < 512) :
    NMap.get? (x.spoil ix bs).acc (512 * k + w) = NMap.get? x.acc (512 * k + w) := by
  have words : ∀ (b : Nat) (f : Nat → Word) (n : Nat) (m : NMap Word), n ≤ 512 → b ≠ k →
      NMap.get? ((List.range n).foldl (fun m w => NMap.set m (512 * b + w) (f w)) m) (512 * k + w) = NMap.get? m (512 * k + w) := by
    intro b f n m hn hb
    induction n with
    | zero => rfl
    | succ n ih =>
      rw [List.range_succ, List.foldl_append, List.foldl_cons, List.foldl_nil, NMap.get?_set, if_neg (by omega)]
      exact ih (by omega)
  refine List.foldlRecOn bs.zipIdx _ (motive := fun m => NMap.get? m (512 * k + w) = NMap.get? x.acc (512 * k + w)) rfl ?_
  intro m ih e he
  have other : e.1 ≠ k := fun e' => hk (e' ▸ List.fst_mem_of_mem_zipIdx he)
  exact (words e.1 _ 512 m le_rfl other).trans ih

theorem State.engine_modEngine (s : State) (qs : Nat) (f : SlotEng → SlotEng) : (s.modEngine qs f).engine qs = f (s.engine qs) := by
  rw [State.engine, State.modEngine_engines, NMap.getD, NMap.get?_set_self, Option.getD_some]

/-- The window of an engine fence opens before or after the jet alike. -/
theorem Group.opened_window (g : Group) : { g.opened with ofence := true, mmDirty := [] } = { g with ofence := true, mmDirty := [] }.opened := by
  change _ = { (if g.jetOr.pos = 0 then { g with ofence := true, mmDirty := [] }.countJet else { g with ofence := true, mmDirty := [] }) with jet := some g.jetOr }
  unfold Group.opened
  split <;> rfl

/-- The window of the matrix engine ends before or after the jet alike. -/
theorem Group.opened_mmEnd (g : Group) : { g.opened with mmNamed := [], mmSpoilt := [] } = { g with mmNamed := [], mmSpoilt := [] }.opened := by
  change _ = { (if g.jetOr.pos = 0 then { g with mmNamed := [], mmSpoilt := [] }.countJet else { g with mmNamed := [], mmSpoilt := [] }) with jet := some g.jetOr }
  unfold Group.opened
  split <;> rfl

theorem ofence_runs {s : State} {g : Group} (h : Issues s .ofence g) (applied : s.applied s.cur.1 s.cur.2 = true)
    (copies : s.tcopiesDone s.cur.1 s.cur.2 g = true) : Runs s .ofence g { g with ofence := true, mmDirty := [] } .none [] 0#5 (g.pc + 4) := by
  refine runs_of_setGroup h exec_ofence ?_ (fun _ => rfl)
  simp only [untilThen, State.openCur_applied, applied, State.openCur_tcopiesDone, copies, if_true, Group.opened_window]

theorem ofence_waits_applied {s : State} {g : Group} (h : Issues s .ofence g) (applied : s.applied s.cur.1 s.cur.2 = false) :
    Waits s .ofence g (.until .applied) := by
  refine waits_of_unmet h exec_ofence ?_
  simp only [untilThen, State.openCur_applied, applied, Bool.false_eq_true, if_false]

theorem ofence_waits_tcopies {s : State} {g : Group} (h : Issues s .ofence g) (applied : s.applied s.cur.1 s.cur.2 = true)
    (copies : s.tcopiesDone s.cur.1 s.cur.2 g = false) : Waits s .ofence g (.until .tcopies) := by
  refine waits_of_unmet h exec_ofence ?_
  simp only [untilThen, State.openCur_applied, applied, State.openCur_tcopiesDone, copies, if_true, Bool.false_eq_true, if_false]

theorem mmwait_waits {s : State} {g : Group} (h : Issues s .mmwait g) (busy : s.mmas s.cur.1 s.cur.2 g ≠ []) :
    Waits s .mmwait g (.until .mm) := by
  refine waits_of_unmet h exec_mmwait ?_
  simp only [untilThen, State.openCur_mmas, List.isEmpty_iff, busy, if_false]

theorem mmwait_runs {s : State} {g : Group} (h : Issues s .mmwait g) (done : s.mmas s.cur.1 s.cur.2 g = []) (clean : g.mmSpoilt = []) :
    Runs s .mmwait g { g with mmNamed := [] } .none [] 0#5 (g.pc + 4) := by
  have same : { g with mmNamed := [] } = { g with mmNamed := [], mmSpoilt := [] } :=
    congrArg (fun l => ({ g with mmNamed := [], mmSpoilt := l } : Group)) clean
  rw [same]
  refine runs_of_setGroup h exec_mmwait ?_ (fun _ => rfl)
  simp only [untilThen, State.openCur_mmas, done, List.isEmpty_nil, if_true, g.opened_mmw.2, clean, ← Group.opened_mmEnd]

/-- The state in which the window of the matrix engine has ended and the banks of an `ACCST` are spoilt. -/
def State.endWindow (s : State) (g : Group) : State :=
  { ((s.openCur g).setGroup s.cur.1 s.cur.2 { g.opened with mmNamed := [], mmSpoilt := [] }).modEngine (slotOf s.cur.1)
      (fun x => x.spoil s.freeIx g.mmSpoilt) with freeIx := s.freeIx + 512 * g.mmSpoilt.length }

theorem mmwait_spoils {s : State} {g : Group} (h : Issues s .mmwait g) (done : s.mmas s.cur.1 s.cur.2 g = []) (spoilt : g.mmSpoilt ≠ []) :
    ∃ t, exec .mmwait s = .next t ∧
      t.group? s.cur.1 s.cur.2 = some (issuedGroup g { g with mmNamed := [], mmSpoilt := [] } .none [] 0#5 (g.pc + 4)) ∧
      t.mem = s.mem ∧ t.engine (slotOf s.cur.1) = (s.engine (slotOf s.cur.1)).spoil s.freeIx g.mmSpoilt := by
  have drained : (s.setGroup s.cur.1 s.cur.2 g.opened).mmas s.cur.1 s.cur.2 g.opened = [] := (State.openCur_mmas ..).trans done
  have hg : (s.endWindow g).group? s.cur.1 s.cur.2 = some { g.opened with mmNamed := [], mmSpoilt := [] } :=
    State.group?_setGroup (State.group?_setGroup (g' := g.opened) h.1)
  refine ⟨_, exec_mmwait.trans (runInstr_next h (s2 := s.endWindow g) (l := .none) (pc := none) (by
    simp only [untilThen, drained, List.isEmpty_nil, if_true, g.opened_mmw.2, spoilt, if_false]; rfl)), ?_, ?_, ?_⟩
  · rw [State.modGroup_eq hg, Group.opened_mmEnd, Group.opened_advance]
    exact State.group?_setGroup hg
  · exact State.modGroup_mem ..
  · rw [State.modGroup_eq hg]
    exact State.engine_modEngine _ (slotOf s.cur.1) (fun x => x.spoil s.freeIx g.mmSpoilt)

/-- Settles O18: what the flush lets leave keeps the group (`Keeps`), the engine fences change the group or the spoilt banks only. -/
theorem waitsAndEngineFencesComplete : Obligations.WaitsAndEngineFencesComplete := by
  refine ⟨fun s g p thr m => ⟨fun h => waitc_completes_or_waits h, fun h => pfence_completes_or_waits h⟩,
    fun s g => ⟨ofence_runs, ofence_waits_applied, ofence_waits_tcopies, mmwait_runs, fun h done spoilt => ?_, mmwait_waits⟩⟩
  obtain ⟨t, ht, hg, mem, engine⟩ := mmwait_spoils h done spoilt
  exact ⟨t, ht, hg, mem, fun k w hk hw => by rw [engine, SlotEng.spoil_acc _ _ hk hw]⟩

end Sys2Proof.Machine
end

section
/-! Writes at their home: a compare that fails leaves the memory as it is listed, which is not what writing the old bytes back gives. -/

namespace Sys2Proof.Machine

/-- A request at its home that nothing goes before, on a line that is at hand, performs with the line filled (R102). -/
theorem atHome_of_ready {s t : State} {what : String} {id : Nat} {r : Req} {write full : Bool} {k : State → Nat → Out} (st : r.st = .sent)
    (dev : r.dev = devHere) (after : r.after = [])
    (meets : s.homeMeets id r.owner.basin r.obj r.line (s.homeDie r.owner.basin r.obj r.line (dieOf r.owner.q)) write full true = .ok)
    (fill : s.fillLine r.owner.basin r.obj r.line (s.homeDie r.owner.basin r.obj r.line (dieOf r.owner.q)) = some t) :
    s.atHome what id r write full k = k t (s.homeDie r.owner.basin r.obj r.line (dieOf r.owner.q)) := by
  have held : s.heldBack r = [] := by
    unfold State.heldBack
    split <;> simp [after]
  simp [State.atHome, st, dev, held, meets, fill]

/-- An atomic none of whose elements is written leaves the line as it is at hand (R163). -/
theorem atomRequest_of_miss {s t : State} {id : Nat} {r : Req} {op : AtOp} {ty : AtTy} {d : Option Nat} {es : List Elem}
    (hr : s.req? id = some r) (kind : r.kind = .atom op ty d es) (st : r.st = .sent) (dev : r.dev = devHere) (after : r.after = [])
    (meets : s.homeMeets id r.owner.basin r.obj r.line (s.homeDie r.owner.basin r.obj r.line (dieOf r.owner.q)) true false true = .ok)
    (fill : s.fillLine r.owner.basin r.obj r.line (s.homeDie r.owner.basin r.obj r.line (dieOf r.owner.q)) = some t)
    (miss : (t.atomElems r.owner.basin r.obj op ty d es).2.2 = false) :
    exec (.atomRequest id) s =
      .next (t.performed id { r with writes := (t.atomElems r.owner.basin r.obj op ty d es).2.1, version := t.reqVersion r }) := by
  simp only [exec_atomRequest, execAtomRequest, hr, kind, atHome_of_ready st dev after meets fill, miss, Bool.false_eq_true, if_false]

/-! ### A byte that is listed with the value of an unlisted one -/

/-- The element of a compare-and-swap that compares 1. -/
def missElem : Elem := { lane := 0, ofs := 0, data := 5#64, cmp := 1#64, ver := 0#32 }

/-- Its request, on its way to line 0 of object 2. -/
def missReq : Req :=
  { Req.new { q := 0, slot := 0, basin := 0, launch := 0#32, gang := 0, crew := 0, grp := 0 } (.atom .cas .s32 (some 3) [missElem]) devHere 2 0
      1#32 [] false with st := .sent }

/-- A state in which the request stands at its home, the line at hand; the first byte of the line is listed as 0. -/
def listedZero : State :=
  { State.reset with
    mem := [(memKey 0 2 0, 0#8)], lines := [(lineKey 0 2 0, { Line.init with res := 1#4 })],
    extents := [(extKey 0 2 0, { Extent.init with v := true })], basins := [(0, { Basin.free with dying := [2] })], reqs := [(0, missReq)],
    nextId := 1 }

theorem listedZero_ready :
    listedZero.homeMeets 0 0 2 0 (listedZero.homeDie 0 2 0 (dieOf 0)) true false true = .ok ∧
      listedZero.fillLine 0 2 0 (listedZero.homeDie 0 2 0 (dieOf 0)) = some listedZero := ⟨by decide, rfl⟩

/-- No byte is written: the list of bytes stays. -/
theorem listedZero_performs : ∃ t, exec (.atomRequest 0) listedZero = .next t ∧ t.mem = [(memKey 0 2 0, 0#8)] := by
  obtain ⟨meets, fill⟩ := listedZero_ready
  exact ⟨_, atomRequest_of_miss (r := missReq) rfl rfl rfl rfl rfl meets fill (by decide), (keeps_performed ..).mem⟩

/-- Written back, the old byte is 0 and is not listed. -/
theorem listedZero_atomElems : (listedZero.atomElems 0 2 .cas .s32 (some 3) [missElem]).1.mem = [] := by decide

/-- Refutes O47, in the clause of ATOM_REQUEST that gives the memory as a list: the statement ranges over states whose memory is not in its
canonical form. There a compare that fails writes nothing and leaves a listed 0, where the statement has the list after the old bytes are
written back, which drops it. (No byte differs: the lists do.) -/
theorem not_writesPerformAtTheirHome : ¬ Obligations.WritesPerformAtTheirHome := by
  intro h
  obtain ⟨meets, fill⟩ := listedZero_ready
  obtain ⟨-, atom, -⟩ := h listedZero 0 missReq rfl (by decide) rfl rfl
  obtain ⟨t, ht, ⟨-, mem, -⟩, -⟩ := atom .cas .s32 (some 3) [missElem] rfl ⟨rfl, meets, (congrArg Option.isSome fill).trans rfl⟩
  obtain ⟨u, hu, kept⟩ := listedZero_performs
  have same : t = u := by
    rw [ht] at hu
    injection hu
  rw [same, kept] at mem
  exact absurd (mem.trans listedZero_atomElems) (by simp)

end Sys2Proof.Machine
end

section
/-! What a monitor lets go: a request that is listed as parked while it stands in its quadrant may leave before the monitor reaches it. -/

namespace Sys2Proof.Machine

/-- The owner of both requests. -/
def heldOwner : Owner := { q := 0, slot := 0, basin := 0, launch := 0#32, gang := 0, crew := 0, grp := 0 }

/-- A store of one byte that waits in its quadrant for its write-combining entry. -/
def heldStore : Req := Req.new heldOwner (.merge [(0, 1#8)]) devHere 2 0 1#32 [] false

/-- A request that stands for a COLL, parked. -/
def parkedProbe : Req := { Req.new heldOwner (.probe 0 0) devHere 2 0 1#32 [] false with st := .parked }

/-- A state whose park list of an extent that is there names the probe, number 0, and after it the store, number 1, which is not parked. -/
def heldListed : State :=
  { State.reset with
    quads := [(0, Quad.init)], extents := [(5, { Extent.init with v := true, parked := [0, 1] })], reqs := [(0, parkedProbe), (1, heldStore)],
    nextId := 2 }

/-- What the monitor leaves of the store's request. -/
def storeAfterMonitor : Option Req :=
  match exec (.extentMonitorFire 5) heldListed with
  | .next t => t.req? 1
  | _ => some heldStore

/-- With the probe's end the store merges into the write-combining buffer, and its request is gone. -/
theorem storeAfterMonitor_eq : storeAfterMonitor = none := by decide

/-- Refutes O49, in the clause of EXTENT_MONITOR_FIRE that every request of the park list that is no probe is sent again: the statement ranges
over states whose park list names a request that is not parked. There a store waits in its quadrant; the probe before it ends, the store
follows by itself into the write-combining buffer, and no request under its number is left. -/
theorem not_fabricStepsComplete : ¬ Obligations.FabricStepsComplete := by
  intro h
  obtain ⟨-, -, -, -, -, -, -, monitor, -⟩ := h heldListed 0 parkedProbe
  obtain ⟨t, ht, -, -, -, listed⟩ := monitor 5 rfl (by decide)
  obtain ⟨z, hz, -⟩ := (listed 1 heldStore (by decide) (by decide) rfl (fun q => nofun)).2 rfl
  have gone := storeAfterMonitor_eq
  rw [storeAfterMonitor, ht] at gone
  exact absurd (hz.symm.trans gone) (Option.some_ne_none z)

end Sys2Proof.Machine
end

section
/-! Words that answer a request: what they bring to the lanes of their registers and predicates between two jets (R46, R128, R175). -/

namespace Sys2Proof.Machine

/-! ### Results without a race, lane by lane -/

/-- What a result brings to a lane of a vector register. -/
theorem Group.lane_landDest (g : Group) (ix : Nat) {d : Dest} (x : Lanes) (clean : d.raced = 0#32) {r m : Nat} (hr : r < 128) (hm : m < 32) :
    (g.landDest ix d x).lane r m = if d.reg = r ∧ d.mask.getLsbD m = true then Lanes.at x m else g.lane r m := by
  by_cases hd : d.reg < 128
  · rw [Group.lane, Group.landDest_of_lt hd, Group.getV_setV]
    by_cases e : d.reg = r
    · rw [if_pos e, Lanes.at_landLanes _ _ _ _ hm, clean]
      by_cases hb : d.mask.getLsbD m = true <;> simp [e, hb, Group.lane]
    · rw [if_neg e, if_neg (fun h => e h.1)]; rfl
  · have other : ¬ (d.reg = r ∧ d.mask.getLsbD m = true) := fun h => hd (h.1 ▸ hr)
    rw [if_neg other, Group.lane, Group.landDest, if_neg hd, Group.getV, Group.setP_v]; rfl

/-- What a result brings to a lane of a predicate. -/
theorem Group.bit_landDest (g : Group) (ix : Nat) {d : Dest} (x : Lanes) (clean : d.raced = 0#32) {r m : Nat} (hr : r ≠ 7) (hm : m < 32) :
    ((g.landDest ix d x).getP r).getLsbD m =
      if d.reg = predReg r ∧ d.mask.getLsbD m = true then Lanes.at x m == 1#32 else (g.getP r).getLsbD m := by
  by_cases hd : d.reg < 128
  · have other : ¬ (d.reg = predReg r ∧ d.mask.getLsbD m = true) := fun h => by rw [predReg] at h; omega
    rw [if_neg other, Group.landDest_of_lt hd]; rfl
  · rw [Group.landDest, if_neg hd, Group.getP_setP, if_neg hr]
    by_cases e : d.reg = predReg r
    · rw [if_pos (by rw [e, predReg]; omega), landBits, maskOf_getLsbD, Lanes.at_landLanes _ _ _ _ hm, clean,
        show d.reg - 128 = r by rw [e, predReg]; omega]
      by_cases hb : d.mask.getLsbD m = true
      · simp [e, hb, hm]
      · rw [if_neg hb, if_neg (fun h => hb h.2), Lanes.at_lanesOf]
        cases hp : (g.getP r).getLsbD m <;> simp [hm]
    · rw [if_neg (fun h => e (by rw [predReg]; omega)), if_neg (fun h => e h.1)]

/-- A lane after results that no later jet has overtaken: the last that names it, or what it held. -/
theorem Group.lane_landRun (ix : Nat) {es : List ((Dest × Lanes) × Nat)} (clean : ∀ e ∈ es, e.1.1.raced = 0#32) {r m : Nat} (hr : r < 128)
    (hm : m < 32) (g : Group) : (g.landRun ix es).lane r m =
      es.foldl (fun acc e => if e.1.1.reg = r ∧ e.1.1.mask.getLsbD m = true then Lanes.at e.1.2 m else acc) (g.lane r m) := by
  induction es generalizing g with
  | nil => rfl
  | cons e es ih =>
    rw [List.foldl_cons, ← Group.lane_landDest g (ix + 32 * e.2) e.1.2 (clean e List.mem_cons_self) hr hm]
    exact ih (fun e he => clean e (List.mem_cons_of_mem _ he)) _

theorem Group.bit_landRun (ix : Nat) {es : List ((Dest × Lanes) × Nat)} (clean : ∀ e ∈ es, e.1.1.raced = 0#32) {r m : Nat} (hr : r ≠ 7)
    (hm : m < 32) (g : Group) : ((g.landRun ix es).getP r).getLsbD m =
      es.foldl (fun acc e => if e.1.1.reg = predReg r ∧ e.1.1.mask.getLsbD m = true then Lanes.at e.1.2 m == 1#32 else acc)
        ((g.getP r).getLsbD m) := by
  induction es generalizing g with
  | nil => rfl
  | cons e es ih =>
    rw [List.foldl_cons, ← Group.bit_landDest g (ix + 32 * e.2) e.1.2 (clean e List.mem_cons_self) hr hm]
    exact ih (fun e he => clean e (List.mem_cons_of_mem _ he)) _

/-! ### The words of an answer -/

/-- The word that an answer gives a lane of a register. -/
def wordFor (ws : List (Nat × Nat × Word)) (r m : Nat) : Option (Nat × Nat × Word) := ws.find? (fun w => w.1 == r && w.2.1 == m)

/-- The lanes of a register that an answer reaches. -/
def answerMask (ws : List (Nat × Nat × Word)) (r : Nat) : Mask := maskOf (fun l => ws.any (fun w => w.1 == r && w.2.1 == l))

/-- The values that it brings. -/
def answerLanes (ws : List (Nat × Nat × Word)) (r : Nat) : Lanes := lanesOf (fun l => ((wordFor ws r l).map (fun w => w.2.2)).getD 0#32)

/-- The lanes of a register that a later jet has written while some instructions were in flight. -/
def Group.racedLanes (g : Group) (fid : List Nat) (r : Nat) : Mask :=
  g.flights.foldl (fun a f => if fid.contains f.id then f.dests.foldl (fun a d => if d.reg = r then a ||| d.raced else a) a else a) 0#32

/-- The results of an answer, one for each register. -/
def Group.answerResults (g : Group) (fid : List Nat) (ws : List (Nat × Nat × Word)) : List (Dest × Lanes) :=
  ((ws.map (fun w => w.1)).eraseDups).map (fun r =>
    ({ reg := r, mask := answerMask ws r, raced := g.racedLanes fid r }, answerLanes ws r))

/-- An instruction in flight after an answer of it: the lanes that have come are no longer to come. -/
def Flight.come (f : Flight) (fid : List Nat) (ws : List (Nat × Nat × Word)) : Flight :=
  if fid.contains f.id then
    { f with dests := f.dests.map (fun d =>
        if ((ws.map (fun w => w.1)).eraseDups).contains d.reg then { d with mask := d.mask &&& ~~~(answerMask ws d.reg) } else d) }
  else f

theorem Flight.come_same (f : Flight) (fid : List Nat) (ws : List (Nat × Nat × Word)) :
    (f.come fid ws).id = f.id ∧ (f.come fid ws).path = f.path := by
  unfold Flight.come
  split <;> exact ⟨rfl, rfl⟩

/-- What a delivery touches: registers and predicates, the open jet, and what is still to come of the instructions in flight. -/
theorem Group.deliver_eq (g : Group) (ix : Nat) (fid : List Nat) (ws : List (Nat × Nat × Word)) :
    g.deliver ix fid ws =
      { g.landAll ix (fid.headD 0) (g.answerResults fid ws) with flights := g.flights.map (fun f => f.come fid ws) } := by
  obtain ⟨v, p, j, h⟩ := g.landAll_eq ix (fid.headD 0) (g.answerResults fid ws)
  have lands : (g.landAll ix (fid.headD 0) (g.answerResults fid ws)).flights = g.flights := by rw [h]
  rw [← lands]
  rfl

theorem answerMask_getLsbD (ws : List (Nat × Nat × Word)) (r : Nat) {m : Nat} (hm : m < 32) :
    (answerMask ws r).getLsbD m = (wordFor ws r m).isSome := by
  rw [answerMask, maskOf_getLsbD, decide_eq_true hm, Bool.true_and, wordFor, List.isSome_find?]

theorem answerLanes_at {ws : List (Nat × Nat × Word)} {r m : Nat} {w : Nat × Nat × Word} (hm : m < 32) (hw : wordFor ws r m = some w) :
    Lanes.at (answerLanes ws r) m = w.2.2 := by
  rw [answerLanes, Lanes.at_lanesOf, if_pos hm, hw, Option.map_some, Option.getD_some]

/-- No flight of a group has a lane that a later jet has written. -/
def Group.Unraced (g : Group) : Prop := ∀ f ∈ g.flights, ∀ e ∈ f.dests, e.raced = 0#32

theorem Group.Unraced.racedLanes {g : Group} (h : g.Unraced) (fid : List Nat) (r : Nat) : g.racedLanes fid r = 0#32 := by
  refine List.foldlRecOn g.flights _ (motive := fun a : Mask => a = 0#32) rfl fun a ha f hf => ?_
  split
  · refine List.foldlRecOn f.dests _ (motive := fun a : Mask => a = 0#32) ha fun a ha d hd => ?_
    split
    · rw [ha, h f hf d hd]; rfl
    · exact ha
  · exact ha

/-- What an answer leaves in a place that its results for a register write lane by lane: `F` of their values, or what was there. -/
theorem foldl_answerResults {β : Type} (g : Group) (fid : List Nat) (ws : List (Nat × Nat × Word)) (F : Lanes → β) (k : Nat) {m : Nat}
    (hm : m < 32) (x : β) : (g.answerResults fid ws).zipIdx.foldl (fun acc e =>
      if e.1.1.reg = k ∧ e.1.1.mask.getLsbD m = true then F e.1.2 else acc) x = if (wordFor ws k m).isSome then F (answerLanes ws k) else x := by
  have result : ∀ e ∈ (g.answerResults fid ws).zipIdx, e.1.1.mask = answerMask ws e.1.1.reg ∧ e.1.2 = answerLanes ws e.1.1.reg := by
    intro e he
    obtain ⟨r, -, hr⟩ := List.mem_map.1 (List.fst_mem_of_mem_zipIdx he)
    rw [← hr]
    exact ⟨rfl, rfl⟩
  split
  next hw =>
    obtain ⟨w, hw⟩ := Option.isSome_iff_exists.1 hw
    have hk := List.find?_some hw
    simp only [Bool.and_eq_true, beq_iff_eq] at hk
    have named : k ∈ (ws.map (fun w => w.1)).eraseDups := List.mem_eraseDups.2 (List.mem_map.2 ⟨w, List.mem_of_find?_eq_some hw, hk.1⟩)
    have listed : (({ reg := k, mask := answerMask ws k, raced := g.racedLanes fid k } : Dest), answerLanes ws k) ∈ g.answerResults fid ws :=
      List.mem_map.2 ⟨k, named, rfl⟩
    rw [← List.zipIdx_map_fst 0 (g.answerResults fid ws)] at listed
    obtain ⟨e, he, hfst⟩ := List.mem_map.1 listed
    refine foldl_write_of_all (p := fun e : (Dest × Lanes) × Nat => e.1.1.reg = k ∧ e.1.1.mask.getLsbD m = true) (f := fun e => F e.1.2)
      (fun e he hp => by rw [(result e he).2, hp.1]) ⟨e, he, ?_⟩ x
    rw [hfst]
    exact ⟨rfl, by rw [answerMask_getLsbD ws k hm, hw]; rfl⟩
  next hw =>
    refine foldl_write_of_none (fun e he hp => hw ?_) x
    rw [← answerMask_getLsbD ws k hm, ← hp.1, ← (result e he).1]
    exact hp.2

theorem Group.Unraced.answerResults {g : Group} (h : g.Unraced) (fid : List Nat) (ws : List (Nat × Nat × Word)) :
    ∀ e ∈ (g.answerResults fid ws).zipIdx, e.1.1.raced = 0#32 := by
  intro e he
  obtain ⟨r, -, hr⟩ := List.mem_map.1 (List.fst_mem_of_mem_zipIdx he)
  rw [← hr]
  exact h.racedLanes fid r

/-- Between two jets an answer lands at once. -/
theorem Group.deliver_regs {g : Group} (jet : g.jet = none) (ix : Nat) (fid : List Nat) (ws : List (Nat × Nat × Word)) :
    (g.deliver ix fid ws).v = (g.landRun ix (g.answerResults fid ws).zipIdx).v ∧
      (g.deliver ix fid ws).p = (g.landRun ix (g.answerResults fid ws).zipIdx).p := by
  rw [Group.deliver_eq, ← Group.landAll_of_no_jet jet ix (fid.headD 0)]
  exact ⟨rfl, rfl⟩

section
variable {g : Group} (jet : g.jet = none) (unraced : g.Unraced) (ix : Nat) (fid : List Nat) (ws : List (Nat × Nat × Word))
include jet unraced

/-- Between two jets an answer brings its words to the lanes of their registers, and every other lane stays. -/
theorem Group.lane_deliver {r m : Nat} (hr : r < 128) (hm : m < 32) : (g.deliver ix fid ws).lane r m =
    match wordFor ws r m with
    | some w => w.2.2
    | none => g.lane r m := by
  have land : (g.deliver ix fid ws).lane r m = (g.landRun ix (g.answerResults fid ws).zipIdx).lane r m := by
    simp only [Group.lane, Group.getV, (Group.deliver_regs jet ix fid ws).1]
  rw [land, Group.lane_landRun ix (unraced.answerResults fid ws) hr hm, foldl_answerResults g fid ws (fun x => Lanes.at x m) r hm]
  cases hw : wordFor ws r m with
  | none => rfl
  | some w => exact answerLanes_at hm hw

/-- The same for a predicate, whose bits come as words of 1 and 0. -/
theorem Group.bit_deliver {r m : Nat} (hr : r ≠ 7) (hm : m < 32) : ((g.deliver ix fid ws).getP r).getLsbD m =
    match wordFor ws (predReg r) m with
    | some w => w.2.2 == 1#32
    | none => (g.getP r).getLsbD m := by
  have land : (g.deliver ix fid ws).getP r = (g.landRun ix (g.answerResults fid ws).zipIdx).getP r := by
    simp only [Group.getP, (Group.deliver_regs jet ix fid ws).2]
  rw [land, Group.bit_landRun ix (unraced.answerResults fid ws) hr hm,
    foldl_answerResults g fid ws (fun x => Lanes.at x m == 1#32) (predReg r) hm]
  cases hw : wordFor ws (predReg r) m with
  | none => rfl
  | some w => exact congrArg (· == 1#32) (answerLanes_at hm hw)

end

end Sys2Proof.Machine
end

section
/-! Answers on their way back: the request ends, no byte changes, and the group is told (R128, R135, R244). -/

namespace Sys2Proof.Machine

/-! ### Steps that write no byte -/

/-- A step that writes no byte and takes no number back. -/
structure Silent (s t : State) : Prop where
  mem : t.mem = s.mem
  nextId : s.nextId ≤ t.nextId

theorem Silent.refl (s : State) : Silent s s := ⟨rfl, le_rfl⟩

theorem Silent.trans {s t u : State} (h : Silent s t) (h' : Silent t u) : Silent s u := ⟨h'.mem.trans h.mem, h.nextId.trans h'.nextId⟩

theorem Keeps.silent {s t : State} (h : Keeps s t) : Silent s t := ⟨h.mem, h.nextId⟩

theorem silent_freeIx (s : State) (n : Nat) : Silent s { s with freeIx := n } := ⟨rfl, le_rfl⟩

theorem silent_modOwner (s : State) (o : Owner) (f : Group → Group) : Silent s (s.modOwner o f) := by
  unfold State.modOwner
  split <;> exact ⟨rfl, le_rfl⟩

theorem silent_notify (s : State) (o : Owner) (n : Notice) : Silent s (s.notify o n) := silent_modOwner ..

theorem silent_writeErr (s : State) (e : ErrRec) : Silent s (s.writeErr e) := by
  unfold State.writeErr
  dsimp only
  split
  · split <;> exact ⟨rfl, le_rfl⟩
  · split
    · exact .refl s
    · split <;> exact ⟨rfl, le_rfl⟩

theorem silent_logErr1 (s : State) (e : ErrRec) : Silent s (s.logErr1 e) := by
  unfold State.logErr1
  dsimp only
  split
  · exact silent_writeErr s e
  · split
    · exact ⟨rfl, le_rfl⟩
    · split
      · exact ⟨rfl, le_rfl⟩
      · split
        next h _ _ =>
          have w := silent_writeErr { s with errHeld := s.errHeld.erase h } h
          exact ⟨w.mem, w.nextId⟩
        next => exact ⟨rfl, le_rfl⟩

theorem silent_logErr (s : State) (cause basin src : Nat) (addr : DWord) (info : Word) (ext : Nat) :
    Silent s (s.logErr cause basin src addr info ext) := (silent_logErr1 ..).trans (silent_logErr1 ..)

/-- A peer's answer leaves the request's kind and data. -/
theorem State.peerAnswer_spec (s : State) (r : Req) (peer : Bool) (ix : Nat) : Silent s (s.peerAnswer r peer ix).1 ∧
    (s.peerAnswer r peer ix).2.kind = r.kind ∧ (s.peerAnswer r peer ix).2.data = r.data ∧ (s.peerAnswer r peer ix).2.owner = r.owner := by
  unfold State.peerAnswer
  split
  · refine ⟨?_, rfl, rfl, rfl⟩
    unfold State.peerError
    dsimp only
    exact silent_logErr ..
  · exact ⟨.refl s, rfl, rfl, rfl⟩

theorem State.peerResult_kind (s : State) (r : Req) (ix : Nat) : (s.peerResult r ix).kind = r.kind := by
  unfold State.peerResult
  dsimp only
  split <;> rfl

/-! ### The end of a request -/

theorem State.finish_req?_none {s : State} {id : Nat} (hid : id < s.nextId) : (s.finish id).req? id = none :=
  (keeps_finish s id).req?_none hid (by rw [State.req?, State.without, NMap.get?_erase, if_pos rfl])

theorem State.finish_mem (s : State) (id : Nat) : (s.finish id).mem = s.mem := (keeps_finish s id).mem

/-- The request ends in a step that writes no byte. -/
def Ends (s : State) (id : Nat) (x : Out) : Prop := ∃ u : State, x = .next (u.finish id) ∧ Silent s u

theorem Ends.ended {s : State} {id : Nat} {x : Out} (h : Ends s id x) (hid : id < s.nextId) : ∃ t, x = .next t ∧ t.mem = s.mem ∧ t.req? id = none := by
  obtain ⟨u, rfl, silent⟩ := h
  exact ⟨_, rfl, (u.finish_mem id).trans silent.mem, State.finish_req?_none (hid.trans_le silent.nextId)⟩

theorem ends_answer {s u : State} (h : Silent s u) (id : Nat) (r : Req) (ix : Nat) (ws : List (Nat × Nat × Word)) :
    Ends s id (.next (u.answer id r ix ws)) := ⟨_, rfl, h.trans (silent_modOwner ..)⟩

theorem ends_errorBack {s u : State} (h : Silent s u) (id : Nat) (r : Req) (n : Nat) : Ends s id (.next (u.errorBack id r n)) :=
  ⟨_, rfl, h.trans ((silent_notify ..).trans (silent_modOwner ..))⟩

theorem silent_modCopy (s : State) (o : Owner) (id : Nat) (f : CopyJob → CopyJob) : Silent s (s.modCopy o id f) := ⟨rfl, le_rfl⟩

theorem ends_fetchBack {s u : State} (h : Silent s u) (id : Nat) (r : Req) (ix : Nat) : Ends s id (.next (u.fetchBack id r ix)) := by
  refine ⟨_, rfl, h.trans ?_⟩
  split
  · exact .refl u
  · exact silent_modCopy ..

theorem quadKept_l1Fill (x : Quad) (k : Nat) (c : CacheLine) (noFill : Bool) : QuadKept x (x.l1Fill k c noFill) := by
  unfold Quad.l1Fill
  dsimp only
  split
  · split
    · exact .refl x
    · split
      · split
        · exact quadKept_of_banks rfl rfl rfl
        · exact .refl x
      · exact quadKept_of_banks rfl rfl rfl
  · split
    · exact .refl x
    · exact quadKept_of_banks rfl rfl rfl

/-- A load that comes back has filled a cache, or not. -/
theorem State.loadBack_eq (s : State) (id : Nat) (r : Req) (path : Path) (n d : Nat) (lanes : List (Nat × Nat)) (hint : Hint) (uni keep : Bool)
    (ix : Nat) : ∃ u, Keeps s u ∧ s.loadBack id r path n d lanes hint uni keep ix = if uni then
        (u.modOwner r.owner (fun g => if g.wait = .request id then { g with wait := .answer ((lanes.flatMap (fun e =>
          (loadWrites 0 n [e] (fun a => s.readBack r a)).map (fun w => w.2.2)))) } else g)).finish id
      else u.answer id r ix (loadWrites d n lanes (fun a => s.readBack r a)) := by
  refine ⟨_, ?_, rfl⟩
  have seen : Keeps s (if r.dev = devHere ∧ path = .ld then s.l1Seen r.owner.q r.key r.version else s) := by
    split
    · exact keeps_l1Seen ..
    · exact .refl s
  revert seen
  generalize (if r.dev = devHere ∧ path = .ld then s.l1Seen r.owner.q r.key r.version else s) = t
  intro seen
  split
  · exact seen
  · split
    · exact seen.trans (keeps_modQuad t _ (fun x => quadKept_l1Fill ..))
    · split
      · exact seen
      · exact seen.trans (keeps_modQuad t _ (fun x => quadKept_of_banks rfl rfl rfl))

theorem ends_loadBack {s u : State} (h : Silent s u) (id : Nat) (r : Req) (path : Path) (n d : Nat) (lanes : List (Nat × Nat)) (hint : Hint)
    (uni keep : Bool) (ix : Nat) : Ends s id (.next (u.loadBack id r path n d lanes hint uni keep ix)) := by
  obtain ⟨v, kept, eq⟩ := u.loadBack_eq id r path n d lanes hint uni keep ix
  have quiet := h.trans kept.silent
  rw [eq]
  split
  · exact ⟨_, rfl, quiet.trans (silent_modOwner ..)⟩
  · exact ends_answer quiet ..

/-- The kinds that READ_RESPONSE answers. -/
def ReqKind.isAnswered : ReqKind → Bool
  | .load .. | .smpl .. | .ldv .. | .atom _ _ (some _) _ | .casv .. | .valset .. | .fetch => true
  | _ => false

/-- Whether an answer may come back: the request has performed, or a peer over a port that is up answers it. -/
def State.mayAnswer (s : State) (r : Req) : Prop := r.st = .performed ∨ (r.st = .sent ∧ r.dev ≠ devHere ∧ s.portUp r = true)

theorem State.mayAnswer.answered {s : State} {r : Req} (back : s.mayAnswer r) :
    ¬ (r.st ≠ .performed ∧ (!(r.dev != devHere && r.st == .sent && s.portUp r)) = true) := by
  rintro ⟨st, up⟩
  obtain ⟨sent, dev, port⟩ := back.resolve_left st
  simp [sent, dev, port] at up

theorem readResponse_ends {s : State} {id : Nat} {r : Req} (hr : s.req? id = some r) (back : s.mayAnswer r) (read : r.kind.isAnswered = true)
    (came : ∀ d lin wd ls, r.kind = .smpl d lin wd ls → r.st = .performed ∨ r.data ≠ []) : Ends s id (exec (.readResponse id) s) := by
  have silent := silent_freeIx s (s.freeIx + 512)
  simp only [exec_readResponse, execReadResponse, hr]
  have mayAnswer : ¬ (r.st ≠ .performed ∧ (!(r.dev != devHere && r.st == .sent && State.portUp { s with freeIx := s.freeIx + 512 } r)) = true) :=
    back.answered
  rw [if_neg mayAnswer]
  have texels : ∀ d lin wd ls, r.kind = .smpl d lin wd ls →
      (r.dev != devHere && r.st == .sent && State.portUp { s with freeIx := s.freeIx + 512 } r) = true → r.data.isEmpty = false := by
    intro d lin wd ls hk peer
    simp only [Bool.and_eq_true, beq_iff_eq] at peer
    have sent := peer.1.2
    rw [List.isEmpty_eq_false_iff]
    exact (came d lin wd ls hk).resolve_left (by simp [sent])
  obtain ⟨quiet, kind, data, -⟩ := State.peerAnswer_spec { s with freeIx := s.freeIx + 512 } r
    (r.dev != devHere && r.st == .sent && State.portUp { s with freeIx := s.freeIx + 512 } r) (s.freeIx + 400)
  revert quiet kind data texels
  generalize State.peerAnswer _ _ _ _ = a
  generalize (r.dev != devHere && r.st == .sent && State.portUp { s with freeIx := s.freeIx + 512 } r) = peer
  intro texels quiet kind data
  rw [← kind] at read texels
  rw [← data] at texels
  have quiet := silent.trans quiet
  split
  next n _ =>
    revert read
    cases hk : a.2.kind with
    | load | smpl | ldv | casv | valset => exact fun _ => ends_errorBack quiet ..
    | fetch => exact fun _ => ends_fetchBack quiet ..
    | atom op ty d es =>
      cases d with
      | none => exact nofun
      | some d => exact fun _ => ends_errorBack quiet ..
    | store | merge | copyWrite | signal | dep | descent | promote | probe => exact nofun
  next =>
    split
    next d lin wd ls hk =>
      split at hk
      next asks =>
        obtain ⟨hp, he⟩ := Bool.and_eq_true_iff.1 asks
        exact absurd he (Bool.eq_false_iff.1 (texels d lin wd ls hk hp))
      next => cases hk
    next =>
      have counted : Silent s (if peer && State.peerGaveUp a.1 a.2 (s.freeIx + 128) then State.count a.1 fieldTimeout else a.1) := by
        split
        · exact quiet.trans ⟨rfl, le_rfl⟩
        · exact quiet
      revert counted
      generalize (if peer && State.peerGaveUp a.1 a.2 (s.freeIx + 128) then State.count a.1 fieldTimeout else a.1) = u
      intro counted
      have result : (if peer then u.peerResult a.2 (s.freeIx + 128) else a.2).kind = a.2.kind := by
        split
        · exact State.peerResult_kind ..
        · rfl
      revert result
      generalize (if peer then u.peerResult a.2 (s.freeIx + 128) else a.2) = z
      intro result
      have seen : Silent s (if peer then u else u.l1Seen z.owner.q z.key z.version) := by
        split
        · exact counted
        · exact counted.trans (keeps_l1Seen ..).silent
      rw [← result] at read
      revert read
      cases hk : z.kind with
      | load => exact fun _ => ends_loadBack counted ..
      | smpl => exact fun _ => ends_answer counted ..
      | valset => exact fun _ => ends_answer counted ..
      | fetch => exact fun _ => ends_fetchBack counted ..
      | ldv | casv => exact fun _ => ends_answer seen ..
      | atom op ty d es =>
        cases d with
        | none => exact nofun
        | some d => exact fun _ => ends_answer seen ..
      | store | merge | copyWrite | signal | dep | descent | promote | probe => exact nofun

end Sys2Proof.Machine
end

section
/-! What an answer leaves of the group that it comes to (R46, R99, R128, R244). -/

namespace Sys2Proof.Machine

/-! ### The group of an owner -/

/-- The group of an owner, while others follow by themselves. -/
theorem Keeps.ownerGroup? {s t : State} (h : Keeps s t) {o : Owner} {g : Group} (hg : s.ownerGroup? o = some g) :
    ∃ z, t.ownerGroup? o = some z ∧ z.core = g.core := by
  unfold State.ownerGroup? at hg ⊢
  cases hs : s.group? o.q o.slot with
  | none => simp [hs] at hg
  | some g' =>
    simp only [hs, Option.ite_none_right_eq_some, Option.some.injEq] at hg
    obtain ⟨mine, rfl⟩ := hg
    obtain ⟨z, hz, core⟩ := h.group hs
    have same : o.isGroup z = o.isGroup g' := by
      rw [Owner.isGroup, Owner.isGroup, show z.basin = g'.basin from (congrArg Group.basin core :), show z.launch = g'.launch from (congrArg Group.launch core :),
        show z.gang = g'.gang from (congrArg Group.gang core :), show z.crew = g'.crew from (congrArg Group.crew core :),
        show z.grp = g'.grp from (congrArg Group.grp core :)]
    exact ⟨z, by simp [hz, same, mine], core⟩

theorem State.group?_of_ownerGroup? {s : State} {o : Owner} {g : Group} (hg : s.ownerGroup? o = some g) : s.group? o.q o.slot = some g := by
  unfold State.ownerGroup? at hg
  cases hs : s.group? o.q o.slot with
  | none => simp [hs] at hg
  | some g' =>
    simp only [hs, Option.ite_none_right_eq_some, Option.some.injEq] at hg
    rw [hg.2]

theorem State.group?_modOwner {s : State} {o : Owner} {g : Group} (hg : s.ownerGroup? o = some g) (F : Group → Group) :
    (s.modOwner o F).group? o.q o.slot = some (F g) := by
  rw [State.modOwner, hg]
  exact State.group?_setGroup (State.group?_of_ownerGroup? hg)

/-- The group that a request ends in keeps all but what its later accesses wait for. -/
theorem State.group?_finish {s : State} {q slot : Nat} {g : Group} (hg : s.group? q slot = some g) (id : Nat) :
    ∃ z, (s.finish id).group? q slot = some z ∧ z.core = g.core := (keeps_finish s id).group hg

/-- The operations of instructions that are complete change the flights only. -/
theorem Group.flightDone_eq (g : Group) (ids : List Nat) : ∃ fl, g.flightDone ids = { g with flights := fl } := by
  have rest : { g.flightDone ids with flights := g.flights } = g :=
    List.foldlRecOn ids _ (motive := fun h : Group => { h with flights := g.flights } = g) rfl fun _ h _ _ => h
  exact ⟨(g.flightDone ids).flights, congrArg (fun h : Group => { h with flights := (g.flightDone ids).flights }) rest⟩

/-- What a delivery leaves of a group beside its registers, predicates, open jet and flights. -/
theorem Group.deliver_rest (g : Group) (ix : Nat) (fid : List Nat) (ws : List (Nat × Nat × Word)) :
    ∃ v p j fl, g.deliver ix fid ws = { g with v := v, p := p, jet := j, flights := fl } := by
  obtain ⟨v, p, j, h⟩ := g.landAll_eq ix (fid.headD 0) (g.answerResults fid ws)
  exact ⟨v, p, j, _, by rw [Group.deliver_eq, h]⟩

/-! ### Words that are brought -/

/-- The outcome is a state in which the group of an owner has the words of an answer in the lanes of their registers. -/
def Brings (o : Owner) (x : Out) (g : Group) (ws : List (Nat × Nat × Word)) : Prop :=
  ∃ t z, x = .next t ∧ t.group? o.q o.slot = some z ∧ z.s = g.s ∧ z.pc = g.pc ∧ z.em = g.em ∧
    ∀ r m, r < 128 → m < 32 → Lanes.at (z.getV r) m = match wordFor ws r m with
      | some w => w.2.2
      | none => Lanes.at (g.getV r) m

/-- A group to which an answer comes between two jets, no lane of its flights overtaken. -/
def Group.Awaits (g : Group) : Prop := g.jet = none ∧ g.Unraced

theorem Group.awaits_of_core {z g : Group} (c : z.core = g.core) (h : g.Awaits) : z.Awaits := by
  refine ⟨((congrArg Group.jet c :) : z.jet = g.jet).trans h.1, fun f hf => h.2 f ?_⟩
  rw [← show z.flights = g.flights from (congrArg Group.flights c :)]
  exact hf

/-- An answer whose effect on the group has the registers of a delivery brings its words. -/
theorem brings_of_finish {w : State} {o : Owner} {g z h : Group} {id ix : Nat} {fid : List Nat} {ws : List (Nat × Nat × Word)} (wait : g.Awaits)
    (core : z.core = g.core) (hh : w.group? o.q o.slot = some h) (v : h.v = (z.deliver ix fid ws).v) (s : h.s = z.s) (pc : h.pc = z.pc) (em : h.em = z.em) :
    Brings o (.next (w.finish id)) g ws := by
  obtain ⟨y, hy, last⟩ := State.group?_finish hh id
  obtain ⟨jet, unraced⟩ := Group.awaits_of_core core wait
  have same : y.s = h.s ∧ y.pc = h.pc ∧ y.em = h.em ∧ y.v = h.v :=
    ⟨(congrArg Group.s last :), (congrArg Group.pc last :), (congrArg Group.em last :), (congrArg Group.v last :)⟩
  obtain ⟨ys, ypc, yem, yv⟩ := same
  refine ⟨_, y, rfl, hy, (ys.trans s).trans (congrArg Group.s core :), (ypc.trans pc).trans (congrArg Group.pc core :),
    (yem.trans em).trans (congrArg Group.em core :), fun r m hr hm => ?_⟩
  have lane := Group.lane_deliver jet unraced ix fid ws hr hm
  have old : z.lane r m = Lanes.at (g.getV r) m := by rw [Group.lane, Group.getV, show z.v = g.v from (congrArg Group.v core :), Group.getV]
  rw [old] at lane
  refine Eq.trans ?_ lane
  rw [Group.lane, Group.getV, Group.getV, yv, v]

/-- An answer of the load-store path. -/
theorem brings_answer {s u : State} (k : Keeps s u) {r : Req} {g : Group} (hg : s.ownerGroup? r.owner = some g) (wait : g.Awaits) (id ix : Nat)
    (ws : List (Nat × Nat × Word)) : Brings r.owner (.next (u.answer id r ix ws)) g ws := by
  obtain ⟨z, hz, core⟩ := k.ownerGroup? hg
  obtain ⟨fl, done⟩ := (z.deliver ix r.flight ws).flightDone_eq r.flight
  obtain ⟨v, p, j, fl', rest⟩ := z.deliver_rest ix r.flight ws
  refine brings_of_finish (z := z) (ix := ix) (fid := r.flight) wait core (State.group?_modOwner hz _) ?_ ?_ ?_ ?_
  all_goals rw [done]
  all_goals rw [rest]

/-! ### Data errors -/

/-- The outcome is a state in which the group has the notice of a data error, and its registers as they were. -/
def Fails (s : State) (r : Req) (x : Out) : Prop :=
  ∀ n g, r.st = .performed → r.err = some n → s.ownerGroup? r.owner = some g → g.retired = false →
    ∃ t z, x = .next t ∧ t.group? r.owner.q r.owner.slot = some z ∧ z.v = g.v ∧ z.p = g.p ∧ z.pc = g.pc ∧ z.notices = g.notices ++ [r.dataError n]

/-- A notice reaches a group that has not retired. -/
theorem State.ownerGroup?_notify {s : State} {o : Owner} {g : Group} (hg : s.ownerGroup? o = some g) (live : g.retired = false) (n : Notice) :
    (s.notify o n).ownerGroup? o = some { g with notices := g.notices ++ [n] } := by
  have here := State.group?_modOwner hg (fun g => if g.retired then g else { g with notices := g.notices ++ [n] })
  have told : (if g.retired then g else { g with notices := g.notices ++ [n] }) = { g with notices := g.notices ++ [n] } :=
    if_neg (Bool.eq_false_iff.1 live)
  rw [told] at here
  have mine : o.isGroup g = true := by
    unfold State.ownerGroup? at hg
    rw [State.group?_of_ownerGroup? (by unfold State.ownerGroup?; exact hg)] at hg
    simp only [Option.ite_none_right_eq_some] at hg
    exact hg.1
  rw [State.notify, State.ownerGroup?, here]
  exact if_pos mine

/-- The notice, and what counts the instruction as complete, leave the registers. -/
theorem noticed_of_finish {s : State} {r : Req} {g : Group} {n : Nat} (hg : s.ownerGroup? r.owner = some g) (live : g.retired = false) {F : Group → Group}
    (hF : ∀ h : Group, (F h).v = h.v ∧ (F h).p = h.p ∧ (F h).pc = h.pc ∧ (F h).notices = h.notices) (id : Nat) :
    ∃ z, (((s.notify r.owner (r.dataError n)).modOwner r.owner F).finish id).group? r.owner.q r.owner.slot = some z ∧ z.v = g.v ∧ z.p = g.p ∧
      z.pc = g.pc ∧ z.notices = g.notices ++ [r.dataError n] := by
  obtain ⟨z, hz, core⟩ := State.group?_finish (State.group?_modOwner (State.ownerGroup?_notify hg live (r.dataError n)) F) id
  obtain ⟨v, p, pc, notices⟩ := hF { g with notices := g.notices ++ [r.dataError n] }
  exact ⟨z, hz, ((congrArg Group.v core :) : z.v = _).trans v, ((congrArg Group.p core :) : z.p = _).trans p,
    ((congrArg Group.pc core :) : z.pc = _).trans pc, ((congrArg Group.notices core :) : z.notices = _).trans notices⟩

theorem flightDone_keepsRegs (ids : List Nat) (h : Group) :
    (h.flightDone ids).v = h.v ∧ (h.flightDone ids).p = h.p ∧ (h.flightDone ids).pc = h.pc ∧ (h.flightDone ids).notices = h.notices := by
  obtain ⟨fl, e⟩ := h.flightDone_eq ids
  rw [e]
  exact ⟨rfl, rfl, rfl, rfl⟩

theorem State.errorBack_notices {s : State} {r : Req} {g : Group} (hg : s.ownerGroup? r.owner = some g) (live : g.retired = false) (id n : Nat) :
    ∃ z, (s.errorBack id r n).group? r.owner.q r.owner.slot = some z ∧ z.v = g.v ∧ z.p = g.p ∧
      z.pc = g.pc ∧ z.notices = g.notices ++ [r.dataError n] := by
  refine noticed_of_finish hg live (fun h => ?_) id
  obtain ⟨v, p, pc, notices⟩ := flightDone_keepsRegs r.flight h
  dsimp only
  split
  · exact ⟨v, p, pc, notices⟩
  · exact ⟨v, p, pc, notices⟩

end Sys2Proof.Machine
end

section
/-! `READ_RESPONSE` of a request that has performed: the words that it brings, or the data error (R46, R128, R175, R244). -/

namespace Sys2Proof.Machine

/-- The words that the answer of a performed request carries. -/
def State.answerWords (s : State) (r : Req) : List (Nat × Nat × Word) :=
  match r.kind with
  | .load _ n d ls _ _ _ => loadWrites d n ls (fun a => s.readBack r a)
  | .ldv n d v ls => loadWrites d n ls (fun a => NMap.getD r.data a 0#8) ++ ls.map (fun e => (v, e.1, r.version))
  | .valset w => r.writes ++ w.vpWrites r.ok
  | _ => r.writes

/-- A uniform read, whose words go to an instruction that waits for them. -/
def ReqKind.isUniform : ReqKind → Bool
  | .load _ _ _ _ _ uni _ => uni
  | _ => false

section
variable {s : State} {id : Nat} {r : Req} (hr : s.req? id = some r) (st : r.st = .performed) (read : r.kind.isAnswered = true)
  (line : r.kind ≠ .fetch)
include hr st read line

/-- With an error the answer is the data error. -/
theorem readResponse_of_error {n : Nat} (err : r.err = some n) :
    exec (.readResponse id) s = .next (State.errorBack { s with freeIx := s.freeIx + 512 } id r n) := by
  have mine : (r.dev != devHere && r.st == .sent && State.portUp { s with freeIx := s.freeIx + 512 } r) = false := by simp [st]
  simp only [exec_readResponse, execReadResponse, hr]
  rw [mine, if_neg (fun h => h.1 st)]
  simp only [State.peerAnswer, Bool.false_and, Bool.false_eq_true, if_false, err]
  revert read line
  cases r.kind with
  | load | smpl | ldv | casv | valset => exact fun _ _ => rfl
  | fetch => exact fun _ h => absurd rfl h
  | atom op ty d es =>
    cases d with
    | none => exact nofun
    | some d => exact fun _ _ => rfl
  | store | merge | copyWrite | signal | dep | descent | promote | probe => exact nofun

/-- Without one it delivers its words, once a cache has been filled or an older copy dropped. -/
theorem readResponse_of_performed (err : r.err = none) (uni : r.kind.isUniform = false) :
    ∃ u, Keeps s u ∧ ∃ z, z.flight = r.flight ∧ z.owner = r.owner ∧ exec (.readResponse id) s = .next (u.answer id z s.freeIx (s.answerWords r)) := by
  have mine : (r.dev != devHere && r.st == .sent && State.portUp { s with freeIx := s.freeIx + 512 } r) = false := by simp [st]
  have next : Keeps s { s with freeIx := s.freeIx + 512 } := .of_same rfl rfl rfl le_rfl rfl rfl rfl
  have seen := next.trans (keeps_l1Seen { s with freeIx := s.freeIx + 512 } r.owner.q r.key r.version)
  simp only [exec_readResponse, execReadResponse, hr]
  rw [mine, if_neg (fun h => h.1 st)]
  simp only [State.peerAnswer, Bool.false_and, Bool.false_eq_true, if_false, err]
  have same : { r with ok := r.ok && !false, err := none } = r := by rw [Bool.not_false, Bool.and_true, ← err]
  rw [same]
  unfold State.answerWords
  revert read line uni
  cases r.kind with
  | load path n d ls hint uni keep =>
    intro _ _ words
    obtain rfl : uni = false := words
    obtain ⟨u, kept, back⟩ := State.loadBack_eq { s with freeIx := s.freeIx + 512 } id r path n d ls hint false keep s.freeIx
    rw [if_neg Bool.false_ne_true] at back
    have bytes : (fun a => State.readBack { s with freeIx := s.freeIx + 512 } r a) = fun a => s.readBack r a := rfl
    rw [bytes] at back
    exact ⟨u, next.trans kept, r, rfl, rfl, by dsimp only; rw [back]⟩
  | smpl => exact fun _ _ _ => ⟨_, next, r, rfl, rfl, rfl⟩
  | valset => exact fun _ _ _ => ⟨_, next, r, rfl, rfl, rfl⟩
  | ldv | casv => exact fun _ _ _ => ⟨_, seen, r, rfl, rfl, rfl⟩
  | fetch => exact fun _ h => absurd rfl h
  | atom op ty d es =>
    cases d with
    | none => exact nofun
    | some d => exact fun _ _ _ => ⟨_, seen, r, rfl, rfl, rfl⟩
  | store | merge | copyWrite | signal | dep | descent | promote | probe => exact nofun

end

end Sys2Proof.Machine
end

section
/-! What `READ_RESPONSE` does to the group: words, predicates, notices (R46, R128, R175, R244). -/

namespace Sys2Proof.Machine

section
variable {s : State} {id : Nat} {r : Req} (hr : s.req? id = some r) (read : r.kind.isAnswered = true) (line : r.kind ≠ .fetch)
include hr read line

theorem readResponse_fails : Fails s r (exec (.readResponse id) s) := by
  intro n g st err hg live
  obtain ⟨z, hz, rest⟩ := State.errorBack_notices (s := { s with freeIx := s.freeIx + 512 }) hg live id n
  exact ⟨_, z, readResponse_of_error hr st read line err, hz, rest⟩

theorem readResponse_brings {g : Group} (st : r.st = .performed) (err : r.err = none) (uni : r.kind.isUniform = false)
    (hg : s.ownerGroup? r.owner = some g) (wait : g.Awaits) : Brings r.owner (exec (.readResponse id) s) g (s.answerWords r) := by
  obtain ⟨u, kept, z, -, owner, eq⟩ := readResponse_of_performed hr st read line err uni
  rw [eq, ← owner]
  exact brings_answer kept (owner ▸ hg) wait id _ _

end

/-! ### The answer of a VALSET -/

theorem wordFor_append (a b : List (Nat × Nat × Word)) (r m : Nat) : wordFor (a ++ b) r m = (wordFor a r m).or (wordFor b r m) :=
  List.find?_append

/-- No word for a register that is not named. -/
theorem wordFor_eq_none {ws : List (Nat × Nat × Word)} {r : Nat} (h : ∀ w ∈ ws, w.1 ≠ r) (m : Nat) : wordFor ws r m = none :=
  List.find?_eq_none.2 fun w hw => by simp [h w hw]

theorem Valset.vpWrites_reg {w : Valset} {ok : Bool} {e : Nat × Nat × Word} (he : e ∈ w.vpWrites ok) : e.1 = predReg w.vp := by
  obtain ⟨l, -, rfl⟩ := List.mem_map.1 he
  rfl

/-- A word of VP for each lane of `em` at the issue. -/
theorem Valset.wordFor_vpWrites (w : Valset) (ok : Bool) {m : Nat} (hm : m < 32) : wordFor (w.vpWrites ok) (predReg w.vp) m =
    if w.em.getLsbD m then some (predReg w.vp, m, if ok then 1#32 else 0#32) else none := by
  have find : wordFor (w.vpWrites ok) (predReg w.vp) m = ((maskLanes w.em).find? (fun l => l == m)).map
      (fun l => (predReg w.vp, l, if ok then 1#32 else 0#32)) := by
    rw [wordFor, Valset.vpWrites, List.find?_map]
    refine congrArg _ (congrArg (fun p => List.find? p (maskLanes w.em)) (funext fun l => ?_))
    simp [Function.comp]
  have mem : m ∈ maskLanes w.em ↔ w.em.getLsbD m = true := by simp [maskLanes, hm]
  rw [find]
  by_cases he : w.em.getLsbD m = true
  · have found : (maskLanes w.em).find? (fun l => l == m) = some m := by
      cases hf : (maskLanes w.em).find? (fun l => l == m) with
      | none => exact absurd (by simp) (List.find?_eq_none.1 hf m (mem.2 he))
      | some l => rw [show l = m by simpa using List.find?_some hf]
    rw [found, if_pos he]; rfl
  · rw [if_neg he, List.find?_eq_none.2 (fun l hl => by simp only [beq_iff_eq]; rintro rfl; exact he (mem.1 hl))]; rfl

/-- A word for a predicate register leaves the vector registers to the other words. -/
theorem brings_of_append_vpWrites {o : Owner} {x : Out} {g : Group} {ws : List (Nat × Nat × Word)} {w : Valset} {ok : Bool}
    (h : Brings o x g (ws ++ w.vpWrites ok)) : Brings o x g ws := by
  obtain ⟨t, z, hx, hz, s, pc, em, lanes⟩ := h
  refine ⟨t, z, hx, hz, s, pc, em, fun r m hr hm => ?_⟩
  have none_ : wordFor (w.vpWrites ok) r m = none := wordFor_eq_none (fun e he => by rw [Valset.vpWrites_reg he, predReg]; omega) m
  have lane := lanes r m hr hm
  rw [wordFor_append, none_, Option.or_none] at lane
  exact lane

/-- What an answer leaves of the predicates between two jets. -/
theorem answer_preds {s u : State} (k : Keeps s u) {r : Req} {g : Group} (hg : s.ownerGroup? r.owner = some g) (wait : g.Awaits) (id ix : Nat)
    (ws : List (Nat × Nat × Word)) : ∃ y, (u.answer id r ix ws).group? r.owner.q r.owner.slot = some y ∧ ∀ p m, p ≠ 7 → m < 32 →
      (y.getP p).getLsbD m = match wordFor ws (predReg p) m with
        | some w => w.2.2 == 1#32
        | none => (g.getP p).getLsbD m := by
  obtain ⟨z, hz, core⟩ := k.ownerGroup? hg
  obtain ⟨jet, unraced⟩ := Group.awaits_of_core core wait
  obtain ⟨y, hy, last⟩ := State.group?_finish (State.group?_modOwner hz (fun g => (g.deliver ix r.flight ws).flightDone r.flight)) id
  have yp : y.p = (z.deliver ix r.flight ws).p := ((congrArg Group.p last :) : y.p = _).trans (flightDone_keepsRegs r.flight _).2.1
  refine ⟨y, hy, fun p m hp hm => ?_⟩
  have bit := Group.bit_deliver jet unraced ix r.flight ws hp hm
  have old : z.getP p = g.getP p := by simp only [Group.getP, show z.p = g.p from (congrArg Group.p core :)]
  rw [old] at bit
  refine Eq.trans ?_ bit
  simp only [Group.getP, yp]

/-- `VALSET` sets VP in the lanes of `em` to whether it validated, and no other predicate bit (R175). -/
theorem readResponse_valset_preds {s : State} {id : Nat} {r : Req} {w : Valset} {g : Group} (hr : s.req? id = some r) (hk : r.kind = .valset w)
    (st : r.st = .performed) (err : r.err = none) (hg : s.ownerGroup? r.owner = some g) (wait : g.Awaits) (vp : w.vp < 7)
    (regs : ∀ e ∈ r.writes, e.1 < 128) {t : State} (ht : exec (.readResponse id) s = .next t) :
    ∃ z, t.group? r.owner.q r.owner.slot = some z ∧ z.getP w.vp = (g.getP w.vp &&& ~~~w.em) ||| (if r.ok then w.em else 0#32) ∧
      ∀ p, p ≠ w.vp → z.getP p = g.getP p := by
  obtain ⟨u, kept, z, flight, owner, eq⟩ := readResponse_of_performed hr st (by rw [hk]; rfl) (by rw [hk]; nofun) err (by rw [hk]; rfl)
  obtain ⟨y, hy, bits⟩ := answer_preds (r := z) kept (by rw [owner]; exact hg) wait id s.freeIx (s.answerWords r)
  have reached : t = u.answer id z s.freeIx (s.answerWords r) := Host.Outcome.next.inj (ht.symm.trans eq)
  have words : s.answerWords r = r.writes ++ w.vpWrites r.ok := by simp only [State.answerWords, hk]
  have noWrite : ∀ p m, wordFor r.writes (predReg p) m = none := fun p m => wordFor_eq_none (fun e he => by have := regs e he; rw [predReg]; omega) m
  refine ⟨y, ?_, ?_, fun p hp => ?_⟩
  · rw [reached, ← owner]
    exact hy
  · refine BitVec.eq_of_getLsbD_eq fun m hm => ?_
    have bit := bits w.vp m (by omega) hm
    rw [words, wordFor_append, noWrite, Option.none_or, Valset.wordFor_vpWrites w r.ok hm] at bit
    by_cases he : w.em.getLsbD m = true
    · rw [if_pos he] at bit
      rw [bit]
      cases r.ok <;> simp [he]
    · rw [if_neg he] at bit
      rw [bit]
      have off : w.em[m] = false := Bool.not_eq_true _ ▸ he
      cases r.ok <;> simp [off, hm]
  · by_cases p7 : p = 7
    · subst p7; rfl
    · refine BitVec.eq_of_getLsbD_eq fun m hm => ?_
      have bit := bits p m p7 hm
      have other : wordFor (w.vpWrites r.ok) (predReg p) m = none :=
        wordFor_eq_none (fun e he => by rw [Valset.vpWrites_reg he, predReg, predReg]; omega) m
      rw [words, wordFor_append, noWrite, other, Option.none_or] at bit
      exact bit

end Sys2Proof.Machine
end

section
/-! `WRITE_ACK`: the acknowledgement of a write ends its request (R135, R382). -/

namespace Sys2Proof.Machine

/-- The kinds that WRITE_ACK answers to a group. -/
def ReqKind.isAcked : ReqKind → Bool
  | .store .. | .atom _ _ none _ | .signal .. | .dep .. => true
  | _ => false

/-- No peer answers a request that has performed. -/
theorem State.peerAnswer_of_performed {t : State} {r : Req} (st : r.st = .performed) (s : State) (ix : Nat) :
    s.peerAnswer r (r.dev != devHere && r.st == .sent && t.portUp r) ix = (s, r) := by
  have mine : (r.dev != devHere && r.st == .sent && t.portUp r) = false := by simp [st]
  simp [mine, State.peerAnswer]

/-- A group whose write is acknowledged: a `SIGNAL` that waits for it goes on. -/
def Group.acked (g : Group) (id : Nat) (ids : List Nat) : Group :=
  let g := g.flightDone ids
  if g.wait = .request id then { g with wait := .answer [] } else g

theorem Group.acked_eq (g : Group) (id : Nat) (ids : List Nat) :
    ∃ fl, g.acked id ids = { g with flights := fl, wait := if g.wait = .request id then .answer [] else g.wait } := by
  obtain ⟨fl, done⟩ := g.flightDone_eq ids
  refine ⟨fl, ?_⟩
  rw [Group.acked, done]
  dsimp only
  split <;> rfl

/-- The acknowledgement of a write to its group. -/
def State.ackBack (s : State) (id : Nat) (r : Req) : State := (s.modOwner r.owner (fun g => g.acked id r.flight)).finish id

/-- What comes back of a write: the error, or the acknowledgement. -/
def State.ackOrError (s : State) (id : Nat) (r : Req) : State :=
  match r.err with
  | some n => s.errorBack id r n
  | none => s.ackBack id r

theorem silent_copyAck (s : State) (id : Nat) (r : Req) : Silent s (s.copyAck id r) := by
  unfold State.copyAck
  split
  · exact .refl s
  · exact silent_modCopy ..

theorem ends_ackOrError {s u : State} (h : Silent s u) (id : Nat) (r : Req) : Ends s id (.next (u.ackOrError id r)) := by
  unfold State.ackOrError
  split
  · exact ends_errorBack h ..
  · exact ⟨_, rfl, h.trans (silent_modOwner ..)⟩

section
variable {s : State} {id : Nat} {r : Req} (hr : s.req? id = some r)
include hr

theorem writeAck_eq (back : s.mayAnswer r) (write : r.kind.isAcked = true) : exec (.writeAck id) s =
    let a := State.peerAnswer { s with freeIx := s.freeIx + 1 } r (r.dev != devHere && r.st == .sent && s.portUp r) s.freeIx
    .next (a.1.ackOrError id a.2) := by
  simp only [exec_writeAck, execWriteAck, hr]
  rw [if_neg back.answered]
  obtain ⟨-, kind, -⟩ := State.peerAnswer_spec { s with freeIx := s.freeIx + 1 } r (r.dev != devHere && r.st == .sent && s.portUp r) s.freeIx
  revert kind
  generalize State.peerAnswer _ _ _ _ = a
  intro kind
  rw [← kind] at write
  unfold State.ackOrError
  revert write
  cases a.2.kind with
  | store | signal | dep =>
    intro _
    dsimp only
    cases a.2.err <;> rfl
  | atom op ty d es =>
    cases d with
    | none =>
      intro _
      dsimp only
      cases a.2.err <;> rfl
    | some d => exact nofun
  | load | smpl | ldv | casv | valset | fetch | merge | copyWrite | descent | promote | probe => exact nofun

theorem writeAck_ends (back : s.mayAnswer r) (write : r.kind.isAcked = true) : Ends s id (exec (.writeAck id) s) := by
  obtain ⟨silent, -⟩ := State.peerAnswer_spec { s with freeIx := s.freeIx + 1 } r (r.dev != devHere && r.st == .sent && s.portUp r) s.freeIx
  rw [writeAck_eq hr back write]
  exact ends_ackOrError ((silent_freeIx s _).trans silent) id _

theorem writeAck_ends_copy (back : s.mayAnswer r) {bs : NMap Byte} (write : r.kind = .copyWrite bs) : Ends s id (exec (.writeAck id) s) := by
  simp only [exec_writeAck, execWriteAck, hr]
  rw [if_neg back.answered]
  obtain ⟨silent, kind, -⟩ := State.peerAnswer_spec { s with freeIx := s.freeIx + 1 } r (r.dev != devHere && r.st == .sent && s.portUp r) s.freeIx
  revert silent kind
  generalize State.peerAnswer _ _ _ _ = a
  intro silent kind
  simp only [kind.trans write]
  exact ⟨_, rfl, ((silent_freeIx s _).trans silent).trans (silent_copyAck ..)⟩

theorem writeAck_of_performed (st : r.st = .performed) (write : r.kind.isAcked = true) :
    exec (.writeAck id) s = .next (State.ackOrError { s with freeIx := s.freeIx + 1 } id r) := by
  rw [writeAck_eq hr (.inl st) write, State.peerAnswer_of_performed st]

theorem writeAck_fails (write : r.kind.isAcked = true) : Fails s r (exec (.writeAck id) s) := by
  intro n g st err hg live
  obtain ⟨z, hz, rest⟩ := State.errorBack_notices (s := { s with freeIx := s.freeIx + 1 }) hg live id n
  exact ⟨_, z, by rw [writeAck_of_performed hr st write, State.ackOrError, err], hz, rest⟩

/-- An acknowledgement changes no register, and a `SIGNAL` that waits for it has it (R382). -/
theorem writeAck_acknowledges (st : r.st = .performed) (err : r.err = none) (write : r.kind.isAcked = true) {g : Group}
    (hg : s.ownerGroup? r.owner = some g) : ∃ t z, exec (.writeAck id) s = .next t ∧ t.group? r.owner.q r.owner.slot = some z ∧
      z.v = g.v ∧ z.s = g.s ∧ z.pc = g.pc ∧ z.em = g.em ∧ (g.wait = .request id → z.wait = .answer []) := by
  obtain ⟨fl, acked⟩ := g.acked_eq id r.flight
  obtain ⟨z, hz, core⟩ := State.group?_finish (State.group?_modOwner (s := { s with freeIx := s.freeIx + 1 }) hg (fun g => g.acked id r.flight)) id
  rw [acked] at core
  refine ⟨_, z, by rw [writeAck_of_performed hr st write, State.ackOrError, err]; rfl, hz, (congrArg Group.v core :), (congrArg Group.s core :),
    (congrArg Group.pc core :), (congrArg Group.em core :), fun wait => ?_⟩
  exact (congrArg Group.wait core :).trans (if_pos wait)

theorem writeAck_brings (st : r.st = .performed) (err : r.err = none) (write : r.kind.isAcked = true) {g : Group}
    (hg : s.ownerGroup? r.owner = some g) : Brings r.owner (exec (.writeAck id) s) g [] := by
  obtain ⟨t, z, ht, hz, v, s_, pc, em, -⟩ := writeAck_acknowledges hr st err write hg
  exact ⟨t, z, ht, hz, s_, pc, em, fun r m _ _ => by rw [Group.getV, v]; rfl⟩

end

end Sys2Proof.Machine
end

section
/-! `DESCENT_RETURN`: the value of a descent's group of requests reaches its lane, and its landing nibble its record (R115, R116). -/

namespace Sys2Proof.Machine

/-! ### The landing record -/

/-- The youngest group of descents in flight. -/
def Group.youngestDsc (g : Group) : Option Nat := ((g.flights.filter (fun f => f.path == .dsc)).getLast?).map (fun f => f.id)

theorem Group.recordLanding_eq (g : Group) (fid : List Nat) (lane code : Nat) : g.recordLanding fid lane code =
    { g with landrec := if g.youngestDsc.any (fun i => fid.contains i) then
        (g.landrec &&& ~~~(0xF#128 <<< (4 * lane))) ||| (BitVec.ofNat 128 (code % 16) <<< (4 * lane)) else g.landrec } := by
  unfold Group.recordLanding Group.youngestDsc
  cases (g.flights.filter (fun f => f.path == .dsc)).getLast? with
  | none => rfl
  | some f =>
    simp only [Option.map_some, Option.any_some]
    split <;> rfl

theorem Group.youngestDsc_deliver (g : Group) (ix : Nat) (fid : List Nat) (ws : List (Nat × Nat × Word)) :
    (g.deliver ix fid ws).youngestDsc = g.youngestDsc := by
  rw [Group.deliver_eq, Group.youngestDsc, List.filter_map, List.getLast?_map, Option.map_map, Group.youngestDsc]
  have path : ((fun f : Flight => f.path == .dsc) ∘ fun f : Flight => f.come fid ws) = fun f : Flight => f.path == .dsc :=
    funext fun f => by rw [Function.comp, (f.come_same fid ws).2]
  have ids : ((fun f : Flight => f.id) ∘ fun f : Flight => f.come fid ws) = fun f : Flight => f.id := funext fun f => (f.come_same fid ws).1
  rw [path, ids]

/-- The record that a landing leaves depends on the youngest group of descents and the record before. -/
theorem Group.landrec_recordLanding {g h : Group} (young : h.youngestDsc = g.youngestDsc) (rec_ : h.landrec = g.landrec) (fid : List Nat)
    (lane code : Nat) : (h.recordLanding fid lane code).landrec = (g.recordLanding fid lane code).landrec := by
  rw [Group.recordLanding_eq, Group.recordLanding_eq, young, rec_]

/-! ### The group after a return -/

/-- A lane of a descent has come. -/
def Group.descended (g : Group) (ix : Nat) (fid : List Nat) (ws : List (Nat × Nat × Word)) (lane nibble : Nat) : Group :=
  ((g.deliver ix fid ws).recordLanding fid lane nibble).flightDone fid

theorem Group.descended_rest (g : Group) (ix : Nat) (fid : List Nat) (ws : List (Nat × Nat × Word)) (lane nibble : Nat) :
    (g.descended ix fid ws lane nibble).v = (g.deliver ix fid ws).v ∧ (g.descended ix fid ws lane nibble).s = g.s ∧
      (g.descended ix fid ws lane nibble).pc = g.pc ∧ (g.descended ix fid ws lane nibble).em = g.em ∧
      (g.descended ix fid ws lane nibble).landrec = (g.recordLanding fid lane nibble).landrec := by
  obtain ⟨fl, done⟩ := ((g.deliver ix fid ws).recordLanding fid lane nibble).flightDone_eq fid
  obtain ⟨v, p, j, fl', rest⟩ := g.deliver_rest ix fid ws
  have young := g.youngestDsc_deliver ix fid ws
  have record := Group.landrec_recordLanding young (by rw [rest]) fid lane nibble
  rw [Group.descended, done]
  refine ⟨?_, ?_, ?_, ?_, record⟩
  all_goals rw [Group.recordLanding_eq]
  all_goals rw [rest]

/-- The line's mark of a descent that is under way goes. -/
def State.unpend (s : State) (k id : Nat) : State :=
  if (s.line k).pend.contains id then s.setLine k { s.line k with pend := (s.line k).pend.filter (· != id) } else s

theorem State.dscBack_eq (s : State) (id : Nat) (r : Req) (w : Descent) (ix : Nat) (ws : List (Nat × Nat × Word)) (nibble : Nat) :
    s.dscBack id r w ix ws nibble =
      ((s.modOwner r.owner (fun g => g.descended ix r.flight ws w.lane nibble)).unpend r.key id).finish id := rfl

theorem silent_unpend (s : State) (k id : Nat) : Silent s (s.unpend k id) := by
  unfold State.unpend
  split
  · exact ⟨rfl, le_rfl⟩
  · exact .refl s

theorem State.group?_unpend (s : State) (k id q slot : Nat) : (s.unpend k id).group? q slot = s.group? q slot := by
  unfold State.unpend
  split <;> rfl

theorem ends_dscBack {s u : State} (h : Silent s u) (id : Nat) (r : Req) (w : Descent) (ix : Nat) (ws : List (Nat × Nat × Word)) (nibble : Nat) :
    Ends s id (.next (u.dscBack id r w ix ws nibble)) :=
  ⟨_, rfl, h.trans ((silent_modOwner ..).trans (silent_unpend ..))⟩

theorem ends_dscError {s u : State} (h : Silent s u) (id : Nat) (r : Req) (n : Nat) : Ends s id (.next (u.dscError id r n)) :=
  ⟨_, rfl, h.trans ((silent_notify ..).trans (silent_modOwner ..))⟩

/-! ### `DESCENT_RETURN` -/

section
variable {s : State} {id : Nat} {r : Req} {w : Descent} (hr : s.req? id = some r) (hk : r.kind = .descent w)
include hr hk

theorem descentReturn_ends (back : s.mayAnswer r) : Ends s id (exec (.descentReturn id) s) := by
  have silent := silent_freeIx s (s.freeIx + 128)
  simp only [exec_descentReturn, execDescentReturn, hr, hk]
  by_cases st : r.st = .performed
  · rw [if_pos st]
    split
    · exact ends_dscError silent ..
    · exact ends_dscBack (silent.trans (keeps_l1Seen ..).silent) ..
  · have peer : (r.dev != devHere && r.st == .sent && State.portUp { s with freeIx := s.freeIx + 128 } r) = true := by
      obtain ⟨sent, dev, port⟩ := back.resolve_left st
      have port : State.portUp { s with freeIx := s.freeIx + 128 } r = true := port
      simp [sent, dev, port]
    obtain ⟨quiet, -⟩ := State.peerAnswer_spec { s with freeIx := s.freeIx + 128 } r true (s.freeIx + 67)
    rw [if_neg st, if_pos peer]
    split
    · exact ends_dscError (silent.trans quiet) ..
    · exact ends_dscBack (silent.trans quiet) ..

theorem descentReturn_fails : Fails s r (exec (.descentReturn id) s) := by
  intro n g st err hg live
  obtain ⟨z, hz, rest⟩ := noticed_of_finish (s := { s with freeIx := s.freeIx + 128 }) (n := n) hg live (flightDone_keepsRegs r.flight) id
  refine ⟨_, z, ?_, hz, rest⟩
  simp only [exec_descentReturn, execDescentReturn, hr, hk, err]
  rw [if_pos st]
  rfl

theorem descentReturn_of_performed (st : r.st = .performed) (err : r.err = none) : exec (.descentReturn id) s =
    .next ((State.l1Seen { s with freeIx := s.freeIx + 128 } r.owner.q r.key r.version).dscBack id r w s.freeIx r.writes (landNibble r r.landing)) := by
  simp only [exec_descentReturn, execDescentReturn, hr, hk, err]
  rw [if_pos st]

/-- A descent that has performed brings its words and records its landing. -/
theorem descentReturn_brings (st : r.st = .performed) (err : r.err = none) {g : Group} (hg : s.ownerGroup? r.owner = some g) (wait : g.Awaits) :
    Brings r.owner (exec (.descentReturn id) s) g r.writes ∧ ∀ t, exec (.descentReturn id) s = .next t →
      ∃ z, t.group? r.owner.q r.owner.slot = some z ∧ z.landrec = (g.recordLanding r.flight w.lane (landNibble r r.landing)).landrec := by
  have kept := (Keeps.of_same rfl rfl rfl le_rfl rfl rfl rfl : Keeps s { s with freeIx := s.freeIx + 128 }).trans
    (keeps_l1Seen { s with freeIx := s.freeIx + 128 } r.owner.q r.key r.version)
  rw [descentReturn_of_performed hr hk st err, State.dscBack_eq]
  revert kept
  generalize State.l1Seen { s with freeIx := s.freeIx + 128 } r.owner.q r.key r.version = u
  intro kept
  obtain ⟨z, hz, core⟩ := kept.ownerGroup? hg
  obtain ⟨v, s_, pc, em, record⟩ := z.descended_rest s.freeIx r.flight r.writes w.lane (landNibble r r.landing)
  have here := State.group?_modOwner hz (fun g => g.descended s.freeIx r.flight r.writes w.lane (landNibble r r.landing))
  rw [← State.group?_unpend _ r.key id] at here
  refine ⟨brings_of_finish wait core here v s_ pc em, fun t ht => ?_⟩
  obtain ⟨y, hy, last⟩ := State.group?_finish here id
  refine ⟨y, Host.Outcome.next.inj ht ▸ hy, ((congrArg Group.landrec last :) : y.landrec = _).trans (record.trans ?_)⟩
  have young : z.youngestDsc = g.youngestDsc := by rw [Group.youngestDsc, Group.youngestDsc, show z.flights = g.flights from (congrArg Group.flights core :)]
  exact Group.landrec_recordLanding young (congrArg Group.landrec core :) ..

end

end Sys2Proof.Machine
end

section
/-! Reads at their home take one state of their line (R102, R170). -/

namespace Sys2Proof.Machine

/-! ### Steps that place lines -/

/-- A step that at most places lines: the bytes and the versions stay. -/
structure KeepsLines (s t : State) : Prop where
  mem : t.mem = s.mem
  nextId : t.nextId = s.nextId
  version : ∀ k, (t.line k).version = (s.line k).version

theorem KeepsLines.trans {s t u : State} (h : KeepsLines s t) (h' : KeepsLines t u) : KeepsLines s u :=
  ⟨h'.mem.trans h.mem, h'.nextId.trans h.nextId, fun k => (h'.version k).trans (h.version k)⟩

theorem keepsLines_of_same {s t : State} (mem : t.mem = s.mem) (nextId : t.nextId = s.nextId) (lines : t.lines = s.lines) : KeepsLines s t :=
  ⟨mem, nextId, fun k => by rw [State.line, lines, State.line]⟩

theorem KeepsLines.refl (s : State) : KeepsLines s s := ⟨rfl, rfl, fun _ => rfl⟩

theorem keepsLines_modOwner (s : State) (o : Owner) (f : Group → Group) : KeepsLines s (s.modOwner o f) := by
  unfold State.modOwner
  split <;> exact keepsLines_of_same rfl rfl rfl

theorem State.line_setLine (s : State) (k j : Nat) (l : Line) : (s.setLine k l).line j = if k = j then l else s.line j := by
  simp only [State.line, State.setLine_lines, NMap.getD_set]

theorem keepsLines_setLine (s : State) {k : Nat} {l : Line} (h : l.version = (s.line k).version) : KeepsLines s (s.setLine k l) := by
  refine ⟨rfl, rfl, fun j => ?_⟩
  rw [State.line_setLine]
  split
  next e => rw [← e, h]
  next => rfl

theorem keepsLines_activate {s t : State} {b stack : Nat} (h : s.activate b stack = some t) : KeepsLines s t := by
  simp only [State.activate] at h
  split at h
  · cases h; exact keepsLines_of_same rfl rfl rfl
  · split at h
    · cases h; exact keepsLines_of_same rfl rfl rfl
    · cases h

theorem keepsLines_fillLine {s t : State} {b obj line die : Nat} (h : s.fillLine b obj line die = some t) : KeepsLines s t := by
  simp only [State.fillLine] at h
  split at h
  · cases h; exact .refl s
  split at h
  · cases h
  obtain ⟨u, hu, rfl⟩ := Option.map_eq_some_iff.1 h
  suffices KeepsLines s u from this.trans (keepsLines_setLine u rfl)
  split at hu
  · split at hu
    · obtain ⟨v, hv, rfl⟩ := Option.map_eq_some_iff.1 hu
      exact (keepsLines_activate hv).trans (keepsLines_of_same rfl rfl rfl)
    · cases hu
  · cases hu; exact .refl s

theorem KeepsLines.readByte {s t : State} (h : KeepsLines s t) (k : Nat) : t.readByte k = s.readByte k := by
  rw [State.readByte, h.mem, State.readByte]

/-! ### A request that has performed -/

/-- The request stands performed, and no line has changed. -/
theorem performed_request {u : State} {id : Nat} {r : Req} (hid : id < u.nextId) (kind : r.kind.isPromote = false) :
    ∃ z, (u.performed id r).req? id = some z ∧ z.core = { r with st := .performed, after := [] }.core :=
  (keeps_performed u id r).req?_some hid (NMap.get?_set_self ..) kind nofun

theorem performed_line (u : State) (id : Nat) (r : Req) (k : Nat) : (u.performed id r).line k = u.line k := (keeps_performed u id r).line k

theorem performed_mem (u : State) (id : Nat) (r : Req) : (u.performed id r).mem = u.mem := (keeps_performed u id r).mem

/-! ### The state of one line -/

theorem Req.key_of_here {r : Req} (h : r.dev = devHere) : r.key = lineKey r.owner.basin r.obj r.line := if_pos h

theorem State.lineBytes_get? (s : State) (b o line : Nat) {i : Nat} (hi : i < 128) :
    NMap.get? (s.lineBytes b o line) (128 * line + i) = some (s.readByte (memKey b o (128 * line + i))) :=
  NMap.get?_map_of_mem (k := fun i => 128 * line + i) (fun _ _ e => Nat.add_left_cancel e)
    (fun i => s.readByte (memKey b o (128 * line + i))) (List.mem_range.2 hi)

/-- The outcome is a state in which the request has performed with the line as it stands, and no byte or version has changed. -/
def Takes (s : State) (id : Nat) (r : Req) (x : Out) : Prop :=
  ∃ t z, x = .next t ∧ t.mem = s.mem ∧ t.req? id = some z ∧ z.st = .performed ∧
    z.version = (s.line (lineKey r.owner.basin r.obj r.line)).version ∧
    (∀ i, i < 128 → NMap.get? z.data (128 * r.line + i) = some (s.readByte (memKey r.owner.basin r.obj (128 * r.line + i)))) ∧
    ∀ j, (t.line j).version = (s.line j).version

theorem takes_performed {s u : State} (filled : KeepsLines s u) {id : Nat} {r : Req} (hid : id < s.nextId) (dev : r.dev = devHere)
    (kind : r.kind.isPromote = false) (level : Nat) : Takes s id r (.next (u.performed id { r with
      data := u.lineBytes r.owner.basin r.obj r.line, version := u.reqVersion r, landing := level })) := by
  obtain ⟨z, hz, core⟩ := performed_request (r := { r with
    data := u.lineBytes r.owner.basin r.obj r.line, version := u.reqVersion r, landing := level }) (filled.nextId ▸ hid) kind
  have data : z.data = u.lineBytes r.owner.basin r.obj r.line := (congrArg Req.data core :)
  have version : z.version = u.reqVersion r := (congrArg Req.version core :)
  refine ⟨_, z, rfl, (performed_mem ..).trans filled.mem, hz, (congrArg Req.st core :), ?_, fun i hi => ?_, fun j => ?_⟩
  · rw [version, State.reqVersion, filled.version, Req.key_of_here dev]
  · rw [data, State.lineBytes_get? _ _ _ _ hi, filled.readByte]
  · rw [performed_line, filled.version]

/-! ### READ_REQUEST and LDV_REQUEST -/

/-- A read on its way to a line at its home that is at hand, nothing before it. -/
def State.ReadReady (s : State) (id : Nat) (r : Req) : Prop :=
  (r.st = .sent ∧ r.dev = devHere) ∧ r.after = [] ∧
    s.homeMeets id r.owner.basin r.obj r.line (s.homeDie r.owner.basin r.obj r.line (dieOf r.owner.q)) false false true = .ok ∧
    (s.fillLine r.owner.basin r.obj r.line (s.homeDie r.owner.basin r.obj r.line (dieOf r.owner.q))).isSome = true

section
variable {s : State} {id : Nat} {r : Req} (hr : s.req? id = some r) (hid : id < s.nextId) (ready : s.ReadReady id r)
include hr hid ready

theorem readRequest_takes {p : Path} {n d : Nat} {ls : List (Nat × Nat)} {h : Hint} {u c : Bool} (hk : r.kind = .load p n d ls h u c) :
    Takes s id r (exec (.readRequest id) s) := by
  obtain ⟨⟨st, dev⟩, after, meets, filled⟩ := ready
  obtain ⟨t, ht⟩ := Option.isSome_iff_exists.1 filled
  simp only [exec_readRequest, execReadRequest, hr]
  split
  next =>
    rw [atHome_of_ready st dev after meets ht]
    exact takes_performed (keepsLines_fillLine ht) hid dev (by rw [hk]; rfl) _
  next other => cases hk.symm.trans other
  next other _ => exact (other _ _ _ _ _ _ _ hk).elim

theorem ldvRequest_takes {n d v : Nat} {ls : List (Nat × Nat)} (hk : r.kind = .ldv n d v ls) : Takes s id r (exec (.ldvRequest id) s) := by
  obtain ⟨⟨st, dev⟩, after, meets, filled⟩ := ready
  obtain ⟨t, ht⟩ := Option.isSome_iff_exists.1 filled
  simp only [exec_ldvRequest, execLdvRequest, hr]
  split
  next =>
    rw [atHome_of_ready st dev after meets ht]
    exact takes_performed (keepsLines_fillLine ht) hid dev (by rw [hk]; rfl) _
  next other => exact (other _ _ _ _ hk).elim

end

end Sys2Proof.Machine
end

section
/-! A sampler read at its home: the lines it needs are filled, and its lanes have the channels of their texels (R94, R385). -/

namespace Sys2Proof.Machine

/-! ### Fills do not read the quadrants -/

/-- The same machine with other quadrants. -/
def State.onQuads (s : State) (qs : NMap Quad) : State := { s with quads := qs }

theorem State.activate_onQuads (s : State) (qs : NMap Quad) (b stack : Nat) :
    (s.onQuads qs).activate b stack = (s.activate b stack).map (fun t => t.onQuads qs) := by
  have cap : (s.onQuads qs).shareCap b stack = s.shareCap b stack := rfl
  have share : (s.onQuads qs).share b stack = s.share b stack := rfl
  simp only [State.activate, cap, share]
  split
  · rfl
  · split <;> rfl

theorem State.fillLine_onQuads (s : State) (qs : NMap Quad) (b o l die : Nat) :
    (s.onQuads qs).fillLine b o l die = (s.fillLine b o l die).map (fun t => t.onQuads qs) := by
  have line : (s.onQuads qs).line (lineKey b o l) = s.line (lineKey b o l) := rfl
  have full : (s.onQuads qs).sliceCount ((s.onQuads qs).sliceFor b o l die) die = s.sliceCount (s.sliceFor b o l die) die := rfl
  have hbm : (s.onQuads qs).needsHbm b o l die = s.needsHbm b o l die := rfl
  have extent : (s.onQuads qs).extent (extKey b o (l / 512)) = s.extent (extKey b o (l / 512)) := rfl
  have block : (s.onQuads qs).block (blockKey b o l) = s.block (blockKey b o l) := rfl
  have room : ∀ d x, (s.onQuads qs).mscRoom (blockKey b o l) d x = s.mscRoom (blockKey b o l) d x := fun _ _ => rfl
  simp only [State.fillLine, line, full, hbm, extent, block, room, State.activate_onQuads]
  split
  · rfl
  · split
    · rfl
    · split
      · split
        · cases s.activate b ((s.extent (extKey b o (l / 512))).chanAt die / 32) <;> rfl
        · rfl
      · rfl

/-- Whether the lines of a sampler read can be filled does not depend on what the quadrants hold. -/
theorem State.smplFill_isSome (s : State) (r : Req) (ks : List (Nat × Nat)) (qs qs' : NMap Quad) :
    ((s.onQuads qs).smplFill r ks).isSome = ((s.onQuads qs').smplFill r ks).isSome := by
  induction ks generalizing s qs qs' with
  | nil => rfl
  | cons e ks ih =>
    have die : ∀ qs, (s.onQuads qs).homeDie r.owner.basin e.1 e.2 (dieOf r.owner.q) = s.homeDie r.owner.basin e.1 e.2 (dieOf r.owner.q) := fun _ => rfl
    simp only [State.smplFill, State.fillLine_onQuads, die]
    cases s.fillLine r.owner.basin e.1 e.2 (s.homeDie r.owner.basin e.1 e.2 (dieOf r.owner.q)) with
    | none => rfl
    | some t => exact ih t _ _

theorem State.smplFill_modQuad (s : State) (q : Nat) (f : Quad → Quad) (r : Req) (ks : List (Nat × Nat)) :
    ((s.modQuad q f).smplFill r ks).isSome = (s.smplFill r ks).isSome := s.smplFill_isSome r ks _ _

theorem keepsLines_smplFill {r : Req} {ks : List (Nat × Nat)} {s t : State} (h : s.smplFill r ks = some t) : KeepsLines s t := by
  induction ks generalizing s with
  | nil => cases h; exact .refl _
  | cons e ks ih =>
    simp only [State.smplFill] at h
    split at h
    · cases h
    next u hu =>
      refine (keepsLines_fillLine hu).trans (KeepsLines.trans ?_ (ih h))
      exact keepsLines_of_same rfl rfl rfl

theorem keepsLines_smplNotice (s : State) (r : Req) (word : Word) (faults : List (Nat × Nat × CapFail)) :
    KeepsLines s (s.smplNotice r word faults) := by
  unfold State.smplNotice
  split
  · exact .refl s
  · exact keepsLines_modOwner ..

/-! ### The channels -/

/-- The channels of a lane: those of its texels, or zeros. -/
def State.smplChannels (s : State) (r : Req) (lin : Bool) (e : Nat × Nat × Word × Word) : List Word :=
  let h := s.smplHdr r.owner.q r.owner.basin r.obj e.2.1
  let ts := (s.smplTexels r lin e).map (fun a => BitVec.ofNat 32 (leNat ((List.range 4).map (fun i => s.smplByte r.owner.q r.owner.basin r.obj (a + i)))))
  if h.ok then texResult h lin e.2.2.1 e.2.2.2 (s.freeIx + 4 * e.1) ts else [0#32, 0#32, 0#32, 0#32]

/-- The words of the lanes whose texels pass the checks. -/
def State.smplWrites (s : State) (r : Req) (d : Nat) (lin : Bool) (ls : List (Nat × Nat × Word × Word)) : List (Nat × Nat × Word) :=
  (ls.filter (fun e => (s.smplFault r lin e).isNone)).flatMap (fun e => (s.smplChannels r lin e).zipIdx.map (fun c => (d + c.2, e.1, c.1)))

theorem State.mem_smplWrites {s : State} {r : Req} {d : Nat} {lin : Bool} {ls : List (Nat × Nat × Word × Word)} {e : Nat × Nat × Word × Word}
    (he : e ∈ ls) (sound : s.smplFault r lin e = none) {c : Nat} {x : Word} (hx : (s.smplChannels r lin e)[c]? = some x) :
    (d + c, e.1, x) ∈ s.smplWrites r d lin ls :=
  List.mem_flatMap.2 ⟨e, List.mem_filter.2 ⟨he, by rw [sound]; rfl⟩, List.mem_map.2 ⟨(x, c), List.mem_zipIdx_iff_getElem?.2 hx, rfl⟩⟩

/-! ### The read -/

theorem State.smplAt_eq_nil {s : State} {id : Nat} {r : Req} {d : Nat} {lin : Bool} {wd : Word} {ls : List (Nat × Nat × Word × Word)}
    (hk : r.kind = .smpl d lin wd ls) (meets : ∀ e ∈ ls, ∀ a ∈ s.smplReads r lin e, s.smplMeets id r a = .ok) {p : Home → Bool}
    (hp : p .ok = false) : s.smplAt id r p = [] := by
  unfold State.smplAt
  rw [hk]
  refine List.filterMap_eq_nil_iff.2 fun e he => ?_
  rw [List.find?_eq_none.2 (fun a ha => by simp [meets e he a ha, hp]), Option.map_none]

theorem smplRead_of_ready {s : State} {id : Nat} {r : Req} {d : Nat} {lin : Bool} {wd : Word} {ls : List (Nat × Nat × Word × Word)}
    (hk : r.kind = .smpl d lin wd ls) (meets : ∀ e ∈ ls, ∀ a ∈ s.smplReads r lin e, s.smplMeets id r a = .ok)
    (fills : (s.smplFill r (s.needs r)).isSome = true) :
    ∃ u, KeepsLines s u ∧ s.smplRead id r d lin wd ls = .next (u.performed id { r with writes := s.smplWrites r d lin ls }) := by
  unfold State.smplRead
  dsimp only
  split
  next bad =>
    rw [State.smplAt_eq_nil hk meets ?_] at bad
    · cases bad
    · rfl
  next =>
    rw [if_neg (by simp [State.smplAt_eq_nil hk meets]), if_neg (by simp [State.smplAt_eq_nil hk meets])]
    split
    next none_ => rw [← State.smplFill_modQuad, none_] at fills; cases fills
    next u hu =>
      refine ⟨_, ?_, rfl⟩
      refine KeepsLines.trans ?_ (keepsLines_smplNotice ..)
      have filled := keepsLines_smplFill hu
      exact ⟨filled.mem, filled.nextId, filled.version⟩

theorem readRequest_samples {s : State} {id : Nat} {r : Req} (hr : s.req? id = some r) (hid : id < s.nextId) {d : Nat} {lin : Bool} {wd : Word}
    {ls : List (Nat × Nat × Word × Word)} (hk : r.kind = .smpl d lin wd ls) (st : r.st = .sent) (dev : r.dev = devHere) (after : r.after = [])
    (meets : ∀ e ∈ ls, ∀ a ∈ s.smplReads r lin e, s.smplMeets id r a = .ok) (fills : (s.smplFill r (s.needs r)).isSome = true) :
    ∃ t z, exec (.readRequest id) s = .next t ∧ t.mem = s.mem ∧ t.req? id = some z ∧ z.st = .performed ∧ z.writes = s.smplWrites r d lin ls := by
  obtain ⟨u, lines, read⟩ := smplRead_of_ready hk meets fills
  obtain ⟨z, hz, core⟩ := performed_request (u := u) (r := { r with writes := s.smplWrites r d lin ls }) (lines.nextId ▸ hid)
    (show r.kind.isPromote = false by rw [hk]; rfl)
  refine ⟨_, z, ?_, (performed_mem ..).trans lines.mem, hz, (congrArg Req.st core :), (congrArg Req.writes core :)⟩
  simp only [exec_readRequest, execReadRequest, hr]
  split
  next other => cases hk.symm.trans other
  next other =>
    cases hk.symm.trans other
    rw [if_neg (by simp [st, dev]), if_neg (by simp [after]), read]
  next _ other => exact (other _ _ _ _ hk).elim

end Sys2Proof.Machine
end

section
/-! A sampler read at a peer: once its headers have come, it asks for its texels (R134, R270, R385). -/

namespace Sys2Proof.Machine

theorem State.req?_modOwner (s : State) (o : Owner) (f : Group → Group) (id : Nat) : (s.modOwner o f).req? id = s.req? id := by
  unfold State.modOwner
  split <;> rfl

theorem State.req?_smplNotice (s : State) (r : Req) (word : Word) (faults : List (Nat × Nat × CapFail)) (id : Nat) :
    (s.smplNotice r word faults).req? id = s.req? id := by
  unfold State.smplNotice
  split
  · rfl
  · exact State.req?_modOwner ..

theorem silent_setReq_smplNotice (s : State) (id : Nat) (h r : Req) (word : Word) (faults : List (Nat × Nat × CapFail)) :
    Silent s ((s.setReq id h).smplNotice r word faults) := by
  have lines := keepsLines_smplNotice (s.setReq id h) r word faults
  exact ⟨lines.mem, lines.nextId.ge⟩

/-- A notice of texels leaves the registers of the group. -/
theorem State.group?_smplNotice {s : State} {r : Req} {g : Group} (hg : s.ownerGroup? r.owner = some g) (word : Word)
    (faults : List (Nat × Nat × CapFail)) :
    ∃ h, (s.smplNotice r word faults).group? r.owner.q r.owner.slot = some h ∧ h.v = g.v ∧ h.p = g.p ∧ h.pc = g.pc := by
  unfold State.smplNotice
  split
  · exact ⟨g, State.group?_of_ownerGroup? hg, rfl, rfl, rfl⟩
  · refine ⟨_, State.group?_modOwner hg _, ?_⟩
    split <;> exact ⟨rfl, rfl, rfl⟩

/-- A peer's answer without an error changes nothing yet. -/
theorem State.peerAnswer_of_noError {s : State} {r : Req} {peer : Bool} {ix : Nat} (h : (s.peerAnswer r peer ix).2.err = none) :
    s.peerAnswer r peer ix = (s, r) := by
  unfold State.peerAnswer at h ⊢
  split
  next e => rw [if_pos e] at h; cases h
  next => rfl

/-- A sampler request for some of its lanes is one still, with what has come for it. -/
theorem Req.smplOnly_same (r : Req) (p : Nat → Bool) :
    (r.smplOnly p).data = r.data ∧ (r.smplOnly p).dev = r.dev ∧ (r.smplOnly p).kind.isPromote = r.kind.isPromote := by
  unfold Req.smplOnly
  split
  next hk => exact ⟨rfl, rfl, by rw [hk]; rfl⟩
  next => exact ⟨rfl, rfl, rfl⟩

/-- The headers that come are whole lines. -/
theorem length_freeLines (ls : List (Nat × Nat)) (ix : Nat) :
    (ls.zipIdx.flatMap (fun e => freeLine (ix + 128 * e.2) e.1.2)).length = 128 * ls.length := by
  have each : (fun e : (Nat × Nat) × Nat => (freeLine (ix + 128 * e.2) e.1.2).length) = fun _ => 128 := by
    funext e
    rw [freeLine, List.length_map, List.length_range]
  rw [List.length_flatMap, each, List.map_const', List.sum_replicate, List.length_zipIdx, smul_eq_mul, Nat.mul_comm]

/-- What a sampler read at a peer is once its headers have come: over, or a request that holds them and asks again. -/
def Asks (s : State) (id : Nat) (r : Req) (x : Out) : Prop :=
  ∃ t, x = .next t ∧ t.mem = s.mem ∧ ∀ z, t.req? id = some z → z.data.length = 128 * r.peerLines.length ∧
    ∀ g, s.ownerGroup? r.owner = some g → ∃ h, t.group? r.owner.q r.owner.slot = some h ∧ h.v = g.v ∧ h.p = g.p ∧ h.pc = g.pc

theorem asks_of_ends {s : State} {id : Nat} {r : Req} {x : Out} (h : Ends s id x) (hid : id < s.nextId) : Asks s id r x := by
  obtain ⟨t, hx, mem, gone⟩ := h.ended hid
  exact ⟨t, hx, mem, fun z hz => by rw [gone] at hz; cases hz⟩

/-- A request that stands written, with the notice of its texels, stays when others move. -/
theorem asks_settle {s u : State} {id : Nat} {r h : Req} (kept : Keeps s u) (hid : id < s.nextId) (lasts : h.lasting)
    (came : h.data.length = 128 * r.peerLines.length) (word : Word) (faults : List (Nat × Nat × CapFail)) :
    Asks s id r (.next ((u.setReq id h).smplNotice r word faults).settle) := by
  have settled := keeps_settle ((u.setReq id h).smplNotice r word faults)
  have lines := keepsLines_smplNotice (u.setReq id h) r word faults
  refine ⟨_, rfl, settled.mem.trans (lines.mem.trans kept.mem), fun z hz => ⟨?_, fun g hg => ?_⟩⟩
  · have here : ((u.setReq id h).smplNotice r word faults).req? id = some h := by
      rw [State.req?_smplNotice]
      exact NMap.get?_set_self ..
    obtain ⟨z', hz', -, -, data, -⟩ := (settled.req id (lines.nextId.symm ▸ hid.trans_le kept.nextId)).2 h here lasts
    rw [hz] at hz'
    rw [Option.some.inj hz', data, came]
  · obtain ⟨g1, hg1, core⟩ := kept.ownerGroup? hg
    obtain ⟨g2, hg2, v, p, pc⟩ := State.group?_smplNotice (s := u.setReq id h) hg1 word faults
    obtain ⟨g3, hg3, last⟩ := settled.group hg2
    exact ⟨g3, hg3, ((congrArg Group.v last :) : g3.v = _).trans (v.trans (congrArg Group.v core :)),
      ((congrArg Group.p last :) : g3.p = _).trans (p.trans (congrArg Group.p core :)),
      ((congrArg Group.pc last :) : g3.pc = _).trans (pc.trans (congrArg Group.pc core :))⟩

theorem asks_smplHeaders {s u : State} (kept : Keeps s u) {id : Nat} (hid : id < s.nextId) {r : Req} (dev : r.dev ≠ devHere) {d : Nat} {lin : Bool} {wd : Word}
    {ls : List (Nat × Nat × Word × Word)} (hk : r.kind = .smpl d lin wd ls) (ix : Nat) :
    Asks s id r (.next (u.smplHeaders id r d lin wd ls ix)) := by
  have regained := kept.trans (keeps_regain u r)
  unfold State.smplHeaders
  dsimp only
  split
  · refine asks_of_ends (ends_answer ?_ ..) hid
    exact regained.silent.trans (silent_setReq_smplNotice ..)
  · refine asks_settle regained hid ⟨?_, .inr ?_⟩ ?_ wd _
    · rw [(Req.smplOnly_same _ _).2.2]
      show r.kind.isPromote = false
      rw [hk]; rfl
    · rw [(Req.smplOnly_same _ _).2.1]; exact dev
    · rw [(Req.smplOnly_same _ _).1]; exact length_freeLines ..

theorem readResponse_asks {s : State} {id : Nat} {r : Req} (hr : s.req? id = some r) (hid : id < s.nextId) {d : Nat} {lin : Bool} {wd : Word}
    {ls : List (Nat × Nat × Word × Word)} (hk : r.kind = .smpl d lin wd ls) (st : r.st = .sent) (empty : r.data = []) (back : s.mayAnswer r) :
    Asks s id r (exec (.readResponse id) s) := by
  obtain ⟨-, dev, port⟩ := back.resolve_left (by rw [st]; nofun)
  have port : State.portUp { s with freeIx := s.freeIx + 512 } r = true := port
  have peer : (r.dev != devHere && r.st == .sent && State.portUp { s with freeIx := s.freeIx + 512 } r) = true := by simp [st, dev, port]
  have next : Keeps s { s with freeIx := s.freeIx + 512 } := .of_same rfl rfl rfl le_rfl rfl rfl rfl
  simp only [exec_readResponse, execReadResponse, hr]
  rw [peer, if_neg (fun h => nomatch h.2)]
  obtain ⟨quiet, kind, -⟩ := State.peerAnswer_spec { s with freeIx := s.freeIx + 512 } r true (s.freeIx + 400)
  have none_ := State.peerAnswer_of_noError (s := { s with freeIx := s.freeIx + 512 }) (r := r) (peer := true) (ix := s.freeIx + 400)
  revert quiet kind none_
  generalize State.peerAnswer _ _ _ _ = a
  intro quiet kind none_
  split
  next n _ =>
    simp only [kind.trans hk]
    exact asks_of_ends (ends_errorBack (next.silent.trans quiet) ..) hid
  next err =>
    obtain rfl := none_ err
    simp only [empty, hk, List.isEmpty_nil, Bool.and_self, if_true]
    refine asks_smplHeaders (next.trans ?_) hid dev hk _
    exact .of_same rfl rfl rfl le_rfl rfl rfl rfl

end Sys2Proof.Machine
end

section
/-! `DESCENT_LANDING`: a lane's group of requests lands and runs, on the L1 copy that serves it or below it (R113, R115). -/

namespace Sys2Proof.Machine

/-! ### A group of requests that has landed -/

/-- The request of a group that has landed. -/
def Req.landedWith (r : Req) (w : Descent) (d : DWord) (code : Nat) (v : Word) : Req :=
  { r with st := .performed, writes := w.result d, version := v, landing := code + (if w.stOfs.isSome then 8 else 0) }

def State.landed (s : State) (id : Nat) (r : Req) (w : Descent) (d : DWord) (code : Nat) (v : Word) : State :=
  (((s.count (fieldLanding (landCode r code))).setReq id (r.landedWith w d code v)).placed id).settle

theorem keeps_landed (s : State) (id : Nat) (r : Req) (w : Descent) (d : DWord) (code : Nat) (v : Word) :
    Keeps ((s.count (fieldLanding (landCode r code))).setReq id (r.landedWith w d code v)) (s.landed id r w d code v) :=
  (keeps_placed ..).trans (keeps_settle _)

/-- What a landing leaves: the request performed, its result, its code and its version; memory and lines as they were before it. -/
theorem State.landed_spec {s : State} {id : Nat} (hid : id < s.nextId) {r : Req} {w : Descent} (hk : r.kind = .descent w) (d : DWord) (code : Nat) (v : Word) :
    (s.landed id r w d code v).mem = s.mem ∧ (∀ k, (s.landed id r w d code v).line k = s.line k) ∧
      ∃ z, (s.landed id r w d code v).req? id = some z ∧ z.st = .performed ∧ z.writes = w.result d ∧
        z.landing = code + (if w.stOfs.isSome then 8 else 0) ∧ z.version = v := by
  have kept := keeps_landed s id r w d code v
  obtain ⟨z, hz, core⟩ := kept.req?_some (r := r.landedWith w d code v) hid (NMap.get?_set_self ..) (show r.kind.isPromote = false by rw [hk]; rfl) nofun
  exact ⟨kept.mem, kept.line, z, hz, (congrArg Req.st core :), (congrArg Req.writes core :), (congrArg Req.landing core :), (congrArg Req.version core :)⟩

/-! ### The place below L1 -/

theorem keepsLines_landing {s t : State} {id : Nat} {r : Req} {write : Bool} {code : Nat} (h : s.landing id r write = .at_ code t) : KeepsLines s t := by
  unfold State.landing at h
  extract_lets b die l blk stack share res inMsc short below counted at h
  split at h
  · cases h
  · cases h
  · cases h
  split at h
  · cases h; exact .refl _
  split at h
  · cases h; exact keepsLines_of_same rfl rfl rfl
  split at h
  · split at h <;> cases h
  next u hu =>
    cases h
    have rest : KeepsLines s counted := by
      unfold counted
      split
      · exact keepsLines_of_same rfl rfl rfl
      · exact .refl s
    exact rest.trans (keepsLines_fillLine hu)

/-- What a group does to its line where it lands: its `ST`, if it has one, and the mark of a place below the home slice. -/
def State.landOn (s : State) (id : Nat) (r : Req) (w : Descent) (d : DWord) (code die : Nat) : State :=
  if 3 ≤ code then
    let t := if w.stOfs.isSome then s.performBelow r.owner.basin r.obj r.line (code == 3) (w.stBytes d) else s
    t.setLine r.key { t.line r.key with pend := (t.line r.key).pend ++ [id] }
  else if w.stOfs.isSome then s.performWrite r.owner.basin r.obj r.line die (w.stBytes d)
  else s

/-- Without an `ST` no byte and no version changes. -/
theorem keepsLines_landOn (s : State) (id : Nat) (r : Req) {w : Descent} (reads : w.stOfs = none) (d : DWord) (code die : Nat) :
    KeepsLines s (s.landOn id r w d code die) := by
  unfold State.landOn
  rw [reads]
  split
  · exact keepsLines_setLine s rfl
  · exact .refl s

theorem State.performBelow_spec (s : State) (b o line : Nat) (cached : Bool) (bs : NMap Byte) :
    (s.performBelow b o line cached bs).mem = (s.putBytes b o bs).mem ∧ (s.performBelow b o line cached bs).nextId = s.nextId ∧
      ((s.performBelow b o line cached bs).line (lineKey b o line)).version = (s.line (lineKey b o line)).version + 1#32 := by
  have raised : (((s.putBytes b o bs).setLine (lineKey b o line)
      { s.line (lineKey b o line) with version := (s.line (lineKey b o line)).version + 1#32 }).line (lineKey b o line)).version =
      (s.line (lineKey b o line)).version + 1#32 := by rw [State.line_setLine, if_pos rfl]
  unfold State.performBelow
  dsimp only
  split
  · exact ⟨rfl, rfl, raised⟩
  · exact ⟨rfl, rfl, raised⟩

theorem State.performWrite_spec (s : State) (b o line die : Nat) (bs : NMap Byte) :
    (s.performWrite b o line die bs).mem = (s.putBytes b o bs).mem ∧ (s.performWrite b o line die bs).nextId = s.nextId ∧
      ((s.performWrite b o line die bs).line (lineKey b o line)).version = (s.line (lineKey b o line)).version + 1#32 := by
  refine ⟨rfl, rfl, ?_⟩
  rw [State.performWrite, State.performInc, State.line_setLine, if_pos rfl]

theorem Descent.stBytes_eq {w : Descent} {a : Nat} (h : w.stOfs = some a) (d : DWord) :
    w.stBytes d = bytesAt a (if w.wide then 8 else 4) d.toNat := by
  unfold Descent.stBytes
  rw [h]; rfl

/-- An `ST` stores the value of D and raises the version of its line. -/
theorem State.landOn_stores (s : State) (id : Nat) {r : Req} (dev : r.dev = devHere) {w : Descent} {a : Nat} (stores : w.stOfs = some a) (d : DWord)
    (code die : Nat) : WroteNum s (s.landOn id r w d code die) r.owner.basin r.obj a (if w.wide then 8 else 4) d.toNat ∧
      (s.landOn id r w d code die).nextId = s.nextId ∧
      ((s.landOn id r w d code die).line r.key).version = (s.line r.key).version + 1#32 := by
  have wrote : ∀ t : State, t.mem = (s.putBytes r.owner.basin r.obj (w.stBytes d)).mem →
      WroteNum s t r.owner.basin r.obj a (if w.wide then 8 else 4) d.toNat := by
    intro t mem
    obtain ⟨inside, outside⟩ := wroteNum_putBytes s r.owner.basin r.obj a (if w.wide then 8 else 4) d.toNat
    rw [← Descent.stBytes_eq stores] at inside outside
    have bytes : ∀ k, t.readByte k = (s.putBytes r.owner.basin r.obj (w.stBytes d)).readByte k := fun k => by rw [State.readByte, mem, State.readByte]
    exact ⟨fun i hi => (bytes _).trans (inside i hi), fun z hz => (bytes z).trans (outside z hz)⟩
  have st : w.stOfs.isSome = true := by rw [stores]; rfl
  rw [Req.key_of_here dev, State.landOn, st, if_pos rfl, if_pos rfl, Req.key_of_here dev]
  split
  · obtain ⟨mem, nextId, version⟩ := s.performBelow_spec r.owner.basin r.obj r.line (code == 3) (w.stBytes d)
    have marked := keepsLines_setLine (s.performBelow r.owner.basin r.obj r.line (code == 3) (w.stBytes d)) (k := lineKey r.owner.basin r.obj r.line)
      (l := { (s.performBelow r.owner.basin r.obj r.line (code == 3) (w.stBytes d)).line (lineKey r.owner.basin r.obj r.line) with
        pend := ((s.performBelow r.owner.basin r.obj r.line (code == 3) (w.stBytes d)).line (lineKey r.owner.basin r.obj r.line)).pend ++ [id] }) rfl
    exact ⟨wrote _ (marked.mem.trans mem), marked.nextId.trans nextId, (marked.version _).trans version⟩
  · obtain ⟨mem, nextId, version⟩ := s.performWrite_spec r.owner.basin r.obj r.line die (w.stBytes d)
    exact ⟨wrote _ mem, nextId, version⟩

/-! ### `DESCENT_LANDING` -/

section
variable {s : State} {id : Nat} {r : Req} {w : Descent} (hr : s.req? id = some r) (hk : r.kind = .descent w)
  (here : r.st = .sent ∧ r.dev = devHere)
include hr hk here

/-- A read that an L1 copy serves runs on it. -/
theorem descentLanding_onL1 (hid : id < s.nextId) {x : Quad} {c : CacheLine} (reads : w.stOfs = none) (serves : s.l1Serves r = true)
    (hx : s.quad? r.owner.q = some x)
    (hc : NMap.get? x.l1 r.key = some c) : ∃ t z, exec (.descentLanding id) s = .next t ∧ t.mem = s.mem ∧ t.req? id = some z ∧ z.st = .performed ∧
      z.writes = w.result (w.run (l1Value c w)) ∧ z.landing = 0 ∧ z.version = c.version := by
  obtain ⟨mem, -, z, hz, st, writes, landing, version⟩ :=
    State.landed_spec (s := s.modQuad r.owner.q (fun x => x.l1Hit r.key)) hid hk (w.run (l1Value c w)) 0 c.version
  refine ⟨_, z, ?_, mem, hz, st, writes, ?_, version⟩
  · simp only [exec_descentLanding, execDescentLanding, hr]
    split
    next w' other =>
      cases hk.symm.trans other
      rw [if_neg (by simp [here])]
      have copy : (s.quad? r.owner.q).bind (fun x => if !w.stOfs.isSome && s.l1Serves r then NMap.get? x.l1 r.key else none) = some c := by
        rw [hx, Option.bind_some, reads, serves]
        exact hc
      rw [copy]
      rfl
    next other => exact absurd hk (other w)
  · rw [landing, reads]; rfl

/-- A group that lands below L1 runs on the bytes of its line. -/
theorem descentLanding_below {code : Nat} {u : State} (after : r.after = []) (below : w.stOfs.isSome = true ∨ s.l1Serves r = false)
    (lands : s.landing id r w.stOfs.isSome = .at_ code u) : exec (.descentLanding id) s =
      let d := w.run (s.dscRead r.owner.basin r.obj w)
      let t := u.landOn id r w d code (u.homeDie r.owner.basin r.obj r.line (dieOf r.owner.q))
      .next (t.landed id r w d code (t.line r.key).version) := by
  simp only [exec_descentLanding, execDescentLanding, hr]
  split
  next w' other =>
    cases hk.symm.trans other
    rw [if_neg (by simp [here])]
    have copy : (s.quad? r.owner.q).bind (fun x => if !w.stOfs.isSome && s.l1Serves r then NMap.get? x.l1 r.key else none) = none := by
      have closed : (!w.stOfs.isSome && s.l1Serves r) = false := by
        rcases below with h | h <;> simp [h]
      rw [closed]
      cases s.quad? r.owner.q <;> rfl
    rw [copy]
    dsimp only
    rw [if_neg (by simp [after]), lands]
    have same : u.dscRead r.owner.basin r.obj w = s.dscRead r.owner.basin r.obj w := by
      simp only [State.dscRead, State.readBytes, (keepsLines_landing lands).readByte]
    simp only [same]
    rfl
  next other => exact absurd hk (other w)

/-- It answers the value of its instructions, and changes memory by its `ST` only. -/
theorem descentLanding_lands (hid : id < s.nextId) {code : Nat} {u : State} (after : r.after = [])
    (below : w.stOfs.isSome = true ∨ s.l1Serves r = false) (lands : s.landing id r w.stOfs.isSome = .at_ code u) :
    ∃ t z, exec (.descentLanding id) s = .next t ∧ t.req? id = some z ∧ z.st = .performed ∧
      z.writes = w.result (w.run (s.dscRead r.owner.basin r.obj w)) ∧ z.landing = code + (if w.stOfs.isSome then 8 else 0) ∧
      z.version = (t.line r.key).version ∧
      (w.stOfs = none → t.mem = s.mem ∧ (t.line r.key).version = (s.line r.key).version) ∧
      ∀ a, w.stOfs = some a → (t.line r.key).version = (s.line r.key).version + 1#32 ∧
        WroteNum s t r.owner.basin r.obj a (if w.wide then 8 else 4) (w.run (s.dscRead r.owner.basin r.obj w)).toNat := by
  have filled := keepsLines_landing lands
  generalize hd : w.run (s.dscRead r.owner.basin r.obj w) = d
  generalize hv : u.landOn id r w d code (u.homeDie r.owner.basin r.obj r.line (dieOf r.owner.q)) = v
  have run : exec (.descentLanding id) s = .next (v.landed id r w d code (v.line r.key).version) := by
    rw [descentLanding_below hr hk here after below lands, hd]
    dsimp only
    rw [hv]
  have nextId : v.nextId = s.nextId := by
    subst hv
    cases hst : w.stOfs with
    | none => exact (keepsLines_landOn u id r hst d code _).nextId.trans filled.nextId
    | some a => exact (u.landOn_stores id here.2 hst d code _).2.1.trans filled.nextId
  obtain ⟨mem, line, z, hz, st, writes, landing, version⟩ :=
    State.landed_spec (s := v) (nextId.symm ▸ hid) hk d code (v.line r.key).version
  refine ⟨_, z, run, hz, st, writes, landing, by rw [version, line], fun reads => ?_, fun a stores => ?_⟩
  · have kept := filled.trans (hv ▸ keepsLines_landOn u id r reads d code _)
    exact ⟨mem.trans kept.mem, by rw [line, kept.version]⟩
  · obtain ⟨⟨inside, outside⟩, -, raised⟩ := u.landOn_stores id here.2 stores d code (u.homeDie r.owner.basin r.obj r.line (dieOf r.owner.q))
    rw [hv] at inside outside raised
    have bytes : ∀ k, (v.landed id r w d code (v.line r.key).version).readByte k = v.readByte k := fun k => by rw [State.readByte, mem, State.readByte]
    exact ⟨by rw [line, raised, filled.version], fun i hi => (bytes _).trans (inside i hi),
      fun k hk => (bytes k).trans ((outside k hk).trans (filled.readByte k))⟩

end

end Sys2Proof.Machine
end

section
/-! Reads and answers complete: the statement for each kind of request, put together. -/

namespace Sys2Proof.Machine

section
variable {s : State} {id : Nat} {r : Req} (hr : s.req? id = some r)
include hr

/-- An answer that comes back ends its request; of a sampler read, once its texels have come. -/
theorem readResponse_ended (hid : id < s.nextId) (read : r.kind.isAnswered = true) (came : (∃ d lin wd ls, r.kind = .smpl d lin wd ls) →
    r.st = .performed ∨ r.data ≠ []) (back : s.mayAnswer r) : ∃ t, exec (.readResponse id) s = .next t ∧ t.mem = s.mem ∧ t.req? id = none :=
  (readResponse_ends hr back read (fun d lin wd ls hk => came ⟨d, lin, wd, ls, hk⟩)).ended hid

/-- The answer of a performed request without an error, between two jets. -/
theorem readResponse_good (read : r.kind.isAnswered = true) (line : r.kind ≠ .fetch) (uni : r.kind.isUniform = false) {g : Group}
    (good : r.st = .performed ∧ r.err = none ∧ s.ownerGroup? r.owner = some g ∧ g.jet = none ∧ ∀ f ∈ g.flights, ∀ e ∈ f.dests, e.raced = 0#32) :
    Brings r.owner (exec (.readResponse id) s) g (s.answerWords r) := by
  obtain ⟨st, err, hg, jet, unraced⟩ := good
  exact readResponse_brings hr read line st err uni hg ⟨jet, unraced⟩

end

theorem ReqKind.isAcked_iff {k : ReqKind} : k.isAcked = true ↔ (∃ x bs, k = .store x bs) ∨ (∃ op ty es, k = .atom op ty none es) ∨
    (∃ a v x, k = .signal a v x) ∨ ∃ op ty es, k = .dep op ty es := by
  cases k with
  | atom op ty d es => cases d <;> simp [ReqKind.isAcked]
  | _ => simp [ReqKind.isAcked]

/-- Settles O48: for each kind of request, the read at its home, the end of the request, the data error, and the words that reach the group. -/
theorem readsAndAnswersComplete : Obligations.ReadsAndAnswersComplete := by
  unfold Obligations.ReadsAndAnswersComplete
  intro s id rq hr hid
  extract_lets b o k die here ready took ended back good brings fails
  refine ⟨?load, ?ldv, ?smpl, ?atom, ?valset, ?fetch, ?write, ?copyWrite, ?descent⟩
  case load =>
    intro p n d ls h u c hk
    have read : rq.kind.isAnswered = true := by rw [hk]; rfl
    have line : rq.kind ≠ .fetch := by rw [hk]; nofun
    refine ⟨fun h => readRequest_takes hr hid h hk, readResponse_ended hr hid read (by rw [hk]; nofun), readResponse_fails hr read line, fun g hg uni => ?_⟩
    have words := readResponse_good hr read line (by rw [hk]; exact uni) hg
    rw [State.answerWords, hk] at words
    exact words
  case ldv =>
    intro n d v ls hk
    have read : rq.kind.isAnswered = true := by rw [hk]; rfl
    have line : rq.kind ≠ .fetch := by rw [hk]; nofun
    refine ⟨fun h => ldvRequest_takes hr hid h hk, readResponse_ended hr hid read (by rw [hk]; nofun), readResponse_fails hr read line, fun g hg => ?_⟩
    have words := readResponse_good hr read line (by rw [hk]; rfl) hg
    rw [State.answerWords, hk] at words
    exact words
  case smpl =>
    intro d lin wd ls hk
    have read : rq.kind.isAnswered = true := by rw [hk]; rfl
    have line : rq.kind ≠ .fetch := by rw [hk]; nofun
    refine ⟨fun h after meets fills => ?_, fun came => readResponse_ended hr hid read (fun _ => came), fun st empty => readResponse_asks hr hid hk st empty,
      readResponse_fails hr read line, fun g hg => ?_⟩
    · obtain ⟨t, z, ht, mem, hz, st, writes⟩ := readRequest_samples hr hid hk h.1 h.2 after meets fills
      refine ⟨t, z, ht, mem, hz, st, fun e he sound => ?_⟩
      intro hdr ts cs c x hx
      rw [writes]
      exact State.mem_smplWrites he sound hx
    · have words := readResponse_good hr read line (by rw [hk]; rfl) hg
      rw [State.answerWords, hk] at words
      exact words
  case atom =>
    intro hk
    have answered : rq.kind.isAnswered = true ∧ rq.kind ≠ .fetch ∧ rq.kind.isUniform = false ∧ s.answerWords rq = rq.writes ∧
        ¬ ∃ d lin wd ls, rq.kind = .smpl d lin wd ls := by
      obtain ⟨op, ty, d, es, hk⟩ | ⟨w, d, v, es, hk⟩ := hk
      all_goals
        rw [State.answerWords, hk]
        exact ⟨rfl, nofun, rfl, rfl, nofun⟩
    obtain ⟨read, line, uni, words, texels⟩ := answered
    exact ⟨readResponse_ended hr hid read (fun h => absurd h texels), readResponse_fails hr read line,
      fun g hg => words ▸ readResponse_good hr read line uni hg⟩
  case valset =>
    intro w hk
    have read : rq.kind.isAnswered = true := by rw [hk]; rfl
    have line : rq.kind ≠ .fetch := by rw [hk]; nofun
    refine ⟨readResponse_ended hr hid read (by rw [hk]; nofun), readResponse_fails hr read line, fun g hg => ⟨?_, fun t ht vp regs => ?_⟩⟩
    · have words := readResponse_good hr read line (by rw [hk]; rfl) hg
      rw [State.answerWords, hk] at words
      exact brings_of_append_vpWrites words
    · obtain ⟨st, err, hg, jet, unraced⟩ := hg
      exact readResponse_valset_preds hr hk st err hg ⟨jet, unraced⟩ vp regs ht
  case fetch =>
    intro hk
    exact readResponse_ended hr hid (by rw [hk]; rfl) (by rw [hk]; nofun)
  case write =>
    intro hk
    have write := ReqKind.isAcked_iff.2 hk
    refine ⟨fun h => (writeAck_ends hr h write).ended hid, writeAck_fails hr write, fun g hg => ?_⟩
    obtain ⟨st, err, hg, -, -⟩ := hg
    obtain ⟨t, z, ht, hz, -, -, -, -, wait⟩ := writeAck_acknowledges hr st err write hg
    exact ⟨writeAck_brings hr st err write hg, fun h => ⟨t, z, ht, hz, wait h⟩⟩
  case copyWrite =>
    intro bs hk h
    exact (writeAck_ends_copy hr h hk).ended hid
  case descent =>
    intro w hk
    refine ⟨fun x c h reads serves hx hc => descentLanding_onL1 hr hk h hid reads serves hx hc, fun code s1 h after below lands => ?_,
      fun h => (descentReturn_ends hr hk h).ended hid, descentReturn_fails hr hk, fun g hg => ?_⟩
    · intro x
      obtain ⟨t, z, ht, hz, st, writes, landing, version, reads, stores⟩ := descentLanding_lands hr hk h hid after below lands
      rw [Req.key_of_here h.2] at version reads stores
      exact ⟨t, z, ht, hz, st, writes, landing, version, reads, stores⟩
    · obtain ⟨st, err, hg, jet, unraced⟩ := hg
      exact descentReturn_brings hr hk st err hg ⟨jet, unraced⟩

end Sys2Proof.Machine
end

section
/-! The checks of a `DSC` are made on the group with its jet open: each of them answers as it does on the group before (R79, R111, R229). -/

namespace Sys2Proof.Machine

/-! ### A group whose jet is open answers as before -/

theorem Group.opened_code (g : Group) : g.opened.code = g.code := by
  simp only [Group.opened]
  split <;> rfl

theorem Group.opened_loop (g : Group) : g.opened.loop = g.loop := by
  simp only [Group.opened]
  split <;> rfl

theorem Group.opened_inLoop (g : Group) : g.opened.inLoop = g.inLoop := by
  rw [Group.inLoop, Group.opened_loop, Group.opened_handler, Group.inLoop]

theorem Group.opened_pc (g : Group) : g.opened.pc = g.pc := g.opened_fields.1

@[simp] theorem pairSel_opened (g : Group) (x : Sel) : pairSel g.opened x = pairSel g x := by
  cases x <;> simp only [pairSel, Group.opened_vOk]

@[simp] theorem pairAt_opened (g : Group) (x : PairSel) (l : Nat) : pairAt g.opened x l = pairAt g x l := by
  obtain ⟨-, -, -, -, hs, -⟩ := g.opened_fields
  cases x with
  | v n => simp only [pairAt, Group.opened_lane]
  | s n => simp only [pairAt, Group.getSPair, Group.getS, hs]

@[simp] theorem laneAccs_opened (g : Group) (m : Mask) (p : PairSel) (idx : Sel) (ofs : Int) :
    laneAccs g.opened m p idx ofs = laneAccs g m p idx ofs := by
  simp only [laneAccs, pairAt_opened, selAt_opened]

@[simp] theorem memberOperand_opened (g : Group) (wide : Bool) (m : DscMember) : memberOperand g.opened wide m = memberOperand g wide m := by
  have sel : selOk g.opened = selOk g := funext (selOk_opened g)
  simp only [memberOperand, pairSel_opened, Group.opened_dataOk, Group.opened_vOk, sel]

/-! ### The state with the open jet -/

section
variable (s : State) (q slot : Nat) (g : Group)

theorem State.fetchWord_opened (ofs : Nat) : (s.setGroup q slot g.opened).fetchWord g.opened ofs = s.fetchWord g ofs := by
  have cap : (s.setGroup q slot g.opened).codeCap g.opened = s.codeCap g := by
    rw [State.codeCap, Group.opened_handler, Group.opened_basin, Group.opened_code]; rfl
  simp only [State.fetchWord, cap, Group.opened_basin]
  rfl

/-- The members stand behind a `DSC` whether its jet is open or not. -/
theorem State.dscScan_opened (n i room ofs : Nat) :
    (s.setGroup q slot g.opened).dscScan g.opened n i room ofs = s.dscScan g n i room ofs := by
  induction n generalizing i room ofs with
  | zero => rfl
  | succ n ih => simp only [State.dscScan, State.fetchWord_opened, ih]

theorem State.walkerCrew_opened : (s.setGroup q slot g.opened).walkerCrew q slot g.opened = s.walkerCrew q slot g := by
  have has : (fun c : Crew => c.has g.opened) = fun c => c.has g := by
    funext c
    simp only [Crew.has, Group.opened]
    split <;> rfl
  simp only [State.walkerCrew, State.setGroup, State.quad?_modQuad, if_true, Quad.crewOf?, has]
  cases s.quad? q <;> rfl

theorem State.loopCheck_opened (ws : List LaneWrite) (size kind : Nat) :
    (s.setGroup q slot g.opened).loopCheck q slot g.opened ws size kind = s.loopCheck q slot g ws size kind := by
  simp only [State.loopCheck, Group.opened_loop, Group.opened_inLoop, State.walkerCrew_opened]

variable {s q slot g}

/-- Opening a jet changes no group's crew, so that the same bank requests are its crew's. -/
theorem State.crewIdle_opened (hg : s.group? q slot = some g) :
    (s.setGroup q slot g.opened).crewIdle q g.opened = s.crewIdle q g := by
  obtain ⟨x, hx, hxg⟩ := State.quad?_of_group? hg
  have crew : g.opened.launch = g.launch ∧ g.opened.gang = g.gang ∧ g.opened.crew = g.crew := by
    simp only [Group.opened]
    split <;> exact ⟨rfl, rfl, rfl⟩
  obtain ⟨launch, gang, number⟩ := crew
  simp only [State.crewIdle, State.setGroup, State.quad?_modQuad, if_true, hx, Option.map_some, Quad.crewIdle, Quad.setGroup, NMap.get?_set,
    launch, gang, number]
  refine congrArg (fun p => List.all _ p) (funext fun r => ?_)
  by_cases e : slot = r.slot
  · subst e
    simp only [if_true, hxg, launch, gang, number]
  · simp only [e, if_false]

end

end Sys2Proof.Machine
end

section
/-! The lanes of an access and their checks: what they name, and that the lists of checks pass when each lane passes (R70, R111, R229). -/

namespace Sys2Proof.Machine

/-! ### Lanes -/

theorem mem_maskLanes {m : Mask} {l : Nat} : l ∈ maskLanes m ↔ l < 32 ∧ m.getLsbD l = true := by
  rw [maskLanes, List.mem_filter, List.mem_range]

/-- The lanes of a mask for which something holds are those of a smaller mask. -/
theorem maskLanes_filter (m : Mask) (f : Nat → Bool) : (maskLanes m).filter f = maskLanes (maskOf (fun l => m.getLsbD l && f l)) := by
  rw [maskLanes, maskLanes, List.filter_filter]
  refine List.filter_congr fun l hl => ?_
  rw [maskOf_getLsbD, decide_eq_true (List.mem_range.1 hl), Bool.true_and, Bool.and_comm]

theorem maskLanes_length_ne_zero {m : Mask} (h : m ≠ 0#32) : (maskLanes m).length ≠ 0 := by
  intro none_
  refine h (BitVec.eq_of_getLsbD_eq fun l hl => ?_)
  have out : l ∉ maskLanes m := by rw [List.length_eq_zero_iff.1 none_]; exact List.not_mem_nil
  rw [mem_maskLanes, not_and, Bool.not_eq_true] at out
  rw [out hl, BitVec.getLsbD_zero]

/-- A function of lanes that names each lane finds it among the lanes of a mask. -/
theorem find?_map_maskLanes {α : Type} {A : Nat → α} {lane : α → Nat} (hA : ∀ l, lane (A l) = l) {m : Mask} {l : Nat} (hl : l ∈ maskLanes m) :
    ((maskLanes m).map A).find? (fun x => lane x == l) = some (A l) := by
  have same : (fun x => lane x == l) ∘ A = fun k => k == l := funext fun k => by rw [Function.comp, hA]
  rw [List.find?_map, same, List.find?_eq_some_iff_append.2, Option.map_some]
  obtain ⟨as, bs, eq, fresh⟩ := List.eq_append_cons_of_mem hl
  exact ⟨beq_self_eq_true l, as, bs, eq, fun a ha => by simpa using fun e : a = l => fresh (e ▸ ha)⟩

/-- The lanes of a mask make it. -/
theorem accMask_map_maskLanes {A : Nat → LaneAcc} (hA : ∀ l, (A l).lane = l) (m : Mask) : accMask ((maskLanes m).map A) = m := by
  refine BitVec.eq_of_getLsbD_eq fun l hl => ?_
  have named : ((maskLanes m).map A).any (fun x => x.lane == l) = m.getLsbD l := by
    rw [Bool.eq_iff_iff]
    simp [hA, mem_maskLanes, hl]
  rw [accMask, maskOf_getLsbD, decide_eq_true hl, Bool.true_and, named]

theorem accMask_singleton_getLsbD (x : LaneAcc) {j : Nat} (hj : j < 32) : (accMask [x]).getLsbD j = decide (j = x.lane) := by
  rw [accMask, maskOf_getLsbD, decide_eq_true hj, Bool.true_and, List.any_cons, List.any_nil, Bool.or_false, Bool.eq_iff_iff, beq_iff_eq,
    decide_eq_true_eq, eq_comm]

/-! ### Checks -/

/-- The access of one lane. -/
def laneAcc (g : Group) (p : PairSel) (idx : Sel) (ofs : Int) (l : Nat) : LaneAcc :=
  { lane := l, cap := pairAt g p l, ofs := (capOfs (pairAt g p l) : Int) + (selAt g idx l).toInt + ofs }

theorem laneAccs_eq (g : Group) (m : Mask) (p : PairSel) (idx : Sel) (ofs : Int) :
    laneAccs g m p idx ofs = (maskLanes m).map (laneAcc g p idx ofs) := rfl

/-- Accesses that pass one by one pass together. -/
theorem checkAccs_eq_ok {b : Basin} {xs : List (LaneAcc × Rights)} {n al : Nat} (size kind : Nat)
    (h : ∀ x ∈ xs, checkAccess b x.1.cap x.1.ofs n al x.2 = .ok ()) : checkAccs b xs n al size kind = .ok () := by
  simp only [checkAccs]
  split
  · rfl
  next e es fails =>
    obtain ⟨x, hx, failed⟩ := List.mem_filterMap.1 (fails.symm ▸ List.mem_cons_self)
    simp only [h x hx] at failed
    cases failed

/-- The offset of an access that passes is a natural number. -/
theorem nonneg_of_checkAccess {b : Basin} {c : DWord} {ofs : Int} {n al : Nat} {need : Rights} (h : checkAccess b c ofs n al need = .ok ()) :
    0 ≤ ofs := by
  unfold checkAccess at h
  split at h
  · cases h
  · split at h
    · cases h
    next inside => omega

/-- An aligned offset that is a natural number is aligned as one. -/
theorem toNat_mod_eq_zero {a : Int} {n : Nat} (ha : 0 ≤ a) (h : a % n = 0) : a.toNat % n = 0 := by
  rw [← Int.toNat_natCast n, ← Int.toNat_emod ha (Int.natCast_nonneg n), h]
  rfl

/-- Accesses of the lanes of a mask pass when the access of each lane does. -/
theorem checkAccess_of_mem_laneAccs {b : Basin} {g : Group} {m : Mask} {p : PairSel} {idx : Sel} {ofs : Int} {n al : Nat} {need : Rights}
    (h : ∀ l ∈ maskLanes m, checkAccess b (laneAcc g p idx ofs l).cap (laneAcc g p idx ofs l).ofs n al need = .ok ()) :
    ∀ x ∈ (laneAccs g m p idx ofs).map (fun x => (x, need)), checkAccess b x.1.cap x.1.ofs n al x.2 = .ok () := by
  rw [laneAccs_eq, List.map_map]
  exact List.forall_mem_map.2 h

/-- An open loop has nothing to say of no write. -/
theorem State.loopCheck_nil (s : State) (q slot : Nat) (g : Group) (size kind : Nat) : ∃ keep, s.loopCheck q slot g [] size kind = .ok keep := by
  unfold State.loopCheck
  split
  · split
    · exact ⟨_, rfl⟩
    · exact ⟨_, rfl⟩
  · exact ⟨_, rfl⟩

end Sys2Proof.Machine
end

section
/-! The departure of a descent group's lanes: the instruction counted on its path, one request a lane, and the hazards (R112, R119, R120). -/

namespace Sys2Proof.Machine

/-- What an element of a list brings about in a fold, and each later one keeps, holds at the end. -/
theorem foldl_of_mem {α β : Type} {f : β → α → β} {P : β → Prop} {a : α} (make : ∀ b, P (f b a)) (keep : ∀ b c, P b → P (f b c))
    {l : List α} (ha : a ∈ l) (b : β) : P (l.foldl f b) := by
  obtain ⟨l1, l2, rfl⟩ := List.append_of_mem ha
  rw [List.foldl_append, List.foldl_cons]
  exact List.foldlRecOn l2 f (motive := P) (make _) fun b hb c _ => keep b c hb

/-! ### The hazards of a `DSC` (R119) -/

/-- Something in the table names a number for a slot: an entry of the line, or an overflow mark. -/
def Quad.Warns (x : Quad) (slot key id : Nat) : Prop :=
  ∃ hz ∈ x.hazards, hz.slot = slot ∧ id ∈ hz.ids ∧ (hz.line = none ∨ hz.line = some key)

theorem Quad.overflow_mem (x : Quad) (slot : Nat) (ids : List Nat) :
    (∀ hz ∈ x.hazards, hz ∈ (x.overflow slot ids).hazards) ∧
      ∃ hz ∈ (x.overflow slot ids).hazards, hz.slot = slot ∧ hz.ids = ids ∧ hz.line = none := by
  unfold Quad.overflow
  split
  next h =>
    obtain ⟨hz, hmem, same⟩ := List.any_eq_true.1 h
    simp only [Bool.and_eq_true, Option.isNone_iff_eq_none, beq_iff_eq] at same
    obtain ⟨⟨line, slot_⟩, ids_⟩ := same
    exact ⟨fun _ h => h, hz, hmem, slot_, ids_, line⟩
  next => exact ⟨fun _ h => List.mem_append_left _ h, _, List.mem_append_right _ (List.mem_singleton.2 rfl), rfl, rfl, rfl⟩

/-- Each line of a `DSC` has an entry that names its requests, or an overflow mark names them all. -/
theorem Quad.warns_enterHazards (x : Quad) (slot : Nat) {lines : List (Nat × List Nat)} {ids : List Nat} {l : Nat × List Nat} {id : Nat}
    (hl : l ∈ lines) (hid : id ∈ l.2) (hall : id ∈ ids) : (x.enterHazards slot lines ids).Warns slot l.1 id := by
  unfold Quad.enterHazards
  refine foldl_of_mem (P := fun x : Quad => x.Warns slot l.1 id) (fun x => ?make) (fun x l' h => ?keep) hl x
  case make =>
    split
    · exact ⟨_, List.mem_append_right _ (List.mem_singleton.2 rfl), rfl, hid, .inr rfl⟩
    · obtain ⟨-, hz, hmem, slot_, ids_, line⟩ := x.overflow_mem slot ids
      exact ⟨hz, hmem, slot_, ids_ ▸ hall, .inl line⟩
  case keep =>
    obtain ⟨hz, hmem, named⟩ := h
    split
    · exact ⟨hz, List.mem_append_left _ hmem, named⟩
    · exact ⟨hz, (x.overflow_mem slot ids).1 hz hmem, named⟩

theorem Quad.enterHazards_same (x : Quad) (slot : Nat) (lines : List (Nat × List Nat)) (ids : List Nat) :
    ∃ hz, x.enterHazards slot lines ids = { x with hazards := hz } := by
  unfold Quad.enterHazards
  refine List.foldlRecOn lines _ (motive := fun y : Quad => ∃ hz, y = { x with hazards := hz }) ⟨_, rfl⟩ fun y hy l _ => ?_
  obtain ⟨hz, rfl⟩ := hy
  unfold Quad.overflow
  split
  · exact ⟨_, rfl⟩
  · split <;> exact ⟨_, rfl⟩

/-- The requests of a `DSC` by their lines. -/
def byKey (es : List (Nat × Nat)) : List (Nat × List Nat) :=
  ((es.map (fun e => e.1)).eraseDups).map (fun l => (l, (es.filter (fun e => e.1 == l)).map (fun e => e.2)))

theorem mem_byKey {es : List (Nat × Nat)} {e : Nat × Nat} (he : e ∈ es) : ∃ l ∈ byKey es, l.1 = e.1 ∧ e.2 ∈ l.2 :=
  ⟨_, List.mem_map.2 ⟨e.1, List.mem_eraseDups.2 (List.mem_map.2 ⟨e, he, rfl⟩), rfl⟩, rfl,
    List.mem_map.2 ⟨e, List.mem_filter.2 ⟨he, beq_self_eq_true _⟩, rfl⟩⟩

/-! ### One request a lane -/

/-- A request as it stands when it has been issued without an ordering: what it waits for and the time are the state's. -/
def Req.IssuedAs (r z : Req) : Prop :=
  ∃ hold now, z = { r with holdFor := hold, rel := false, wide := false, ord := 0, scope := 0, sentAt := now }

/-- Issues the request of one lane, and notes its line and its number. -/
def issueLane (o : Owner) (mk : DscLane → Req) (key : DscLane → Nat) (acc : State × List (Nat × Nat)) (x : DscLane) : State × List (Nat × Nat) :=
  (acc.1.issueReq o (mk x) RelHold.none, acc.2 ++ [(key x, acc.1.nextId)])

section
variable (o : Owner) (mk : DscLane → Req) (key : DscLane → Nat)

theorem keeps_issueLanes (ls : List DscLane) (s : State) (es : List (Nat × Nat)) : Keeps s (ls.foldl (issueLane o mk key) (s, es)).1 :=
  List.foldlRecOn ls _ (motive := fun acc : State × List (Nat × Nat) => Keeps s acc.1) (.refl s) fun _ h _ _ => h.trans (keeps_addReq ..)

/-- What has been issued and noted stays so while further lanes are. -/
theorem issueLanes_old (ls : List DscLane) {s : State} {es : List (Nat × Nat)} {id : Nat} {z : Req} {e : Nat × Nat} (hid : id < s.nextId)
    (hz : s.req? id = some z) (he : e ∈ es) :
    (ls.foldl (issueLane o mk key) (s, es)).1.req? id = some z ∧ e ∈ (ls.foldl (issueLane o mk key) (s, es)).2 := by
  induction ls generalizing s es with
  | nil => exact ⟨hz, he⟩
  | cons x ls ih =>
    refine ih (Nat.lt_succ_of_lt hid) ?_ (List.mem_append_left _ he)
    rw [State.issueReq, State.addReq, State.req?, NMap.get?_set_of_ne _ _ (Nat.ne_of_gt hid)]
    exact hz

/-- Each lane has its request, under a new number that is noted with its line. -/
theorem issueLanes_lane {ls : List DscLane} {x : DscLane} (hx : x ∈ ls) (s : State) (es : List (Nat × Nat)) :
    ∃ id z, s.nextId ≤ id ∧ (ls.foldl (issueLane o mk key) (s, es)).1.req? id = some z ∧ (mk x).IssuedAs z ∧
      (key x, id) ∈ (ls.foldl (issueLane o mk key) (s, es)).2 := by
  induction ls generalizing s es with
  | nil => cases hx
  | cons y ls ih =>
    rcases List.mem_cons.1 hx with rfl | hx
    · obtain ⟨here, noted⟩ := issueLanes_old o mk key ls (s := s.issueReq o (mk x) RelHold.none) (Nat.lt_succ_self s.nextId)
        (NMap.get?_set_self ..) (List.mem_append_right es (List.mem_singleton.2 rfl))
      exact ⟨s.nextId, _, le_rfl, here, ⟨_, _, rfl⟩, noted⟩
    · obtain ⟨id, z, le, rest⟩ := ih hx (s.issueReq o (mk y) RelHold.none) (es ++ [(key y, s.nextId)])
      exact ⟨id, z, (Nat.le_succ _).trans le, rest⟩

end

/-! ### Counting on a path (R99) -/

/-- An instruction with operations outstanding is not taken off its path. -/
theorem Group.launchFlight_flights (g : Group) (id : Nat) (p : Path) {ops : Nat} (h : ops ≠ 0) (dests : List Dest) :
    ∃ f ∈ (g.launchFlight id p ops dests).flights, f.id = id ∧ f.path = p ∧ f.ops = ops ∧ f.dests = dests := by
  refine ⟨{ id := id, path := p, ops := ops, dests := dests }, ?_, rfl, rfl, rfl, rfl⟩
  refine foldl_of_mem (P := fun acc : List Flight => { id := id, path := p, ops := ops, dests := dests } ∈ acc) (fun acc => ?make) (fun acc f hf => ?keep)
    (List.mem_append_right g.flights (List.mem_singleton.2 rfl)) []
  case make => rw [if_neg (fun e => h e.1)]; exact List.mem_append_right _ (List.mem_singleton.2 rfl)
  case keep =>
    split
    · exact hf
    · exact List.mem_append_left _ hf

/-! ### The departure -/

/-- The group at a `DSC` whose lanes depart: no lane has landed, and the members are still to pass. -/
def Group.departing (g : Group) (k : Nat) : Group := { g with landrec := landrecNone, jet := some { g.jetOr with dscLeft := k } }

/-- An instruction that has been decoded. -/
def decoded (x : Dec Instr) : Option Instr :=
  match x with
  | .ok i => some i
  | .error _ => none

section
variable (s : State) (q slot : Nat) (g : Group) (k : Nat) (ld : DscLd) (ms : List DscMember) (ls : List DscLane)

/-- The request of a lane. -/
def dscRequest (x : DscLane) : Req :=
  let h := g.departing k
  let ins := ms.map (fun y => y.ins)
  Req.new (g.owner q slot) (.descent
    { lane := x.ld.lane, dst := ld.d, wide := ld.wide, ofs := x.ld.at, stOfs := x.st.map LaneAcc.at,
      ops := ((ins.drop 1).filterMap decoded).filterMap (captureOp h (dscRegs ld) x.ld.lane), pc := g.pc,
      vecs := capturedVecs h (dscRegs ld) x.ld.lane ins, vals := capturedVals h ins, words := memberWords ins })
    x.ld.dev x.ld.obj x.ld.line (accMask [x.ld]) [s.nextId] g.handler

/-- The key of a lane's line. -/
def dscKey (x : DscLane) : Nat := anyLine g.basin x.ld.dev x.ld.obj x.ld.line

/-- The group with the instruction counted on the descent path. -/
def dscCounted : Group :=
  (g.departing k).launchFlight s.nextId .dsc ls.length ((dscRegs ld).map (fun r => Dest.new r (accMask (ls.map (fun x => x.ld)))))

/-- The state with the instruction counted. -/
def State.dscCount : State := ({ s with nextId := s.nextId + 1 }).setGroup q slot (dscCounted s g k ld ls)

/-- The state in which the requests are issued: the objects' descriptors have been used, and the lines of the lanes are in order. -/
def State.dscReady : State :=
  ((s.dscCount q slot g k ld ls).modQuad q (fun x => x.olbTouch (ls.map (fun x => (x.ld.dev, x.ld.obj))).eraseDups)).dscLines q (g.owner q slot)
    (ls.any (fun x => x.st.isSome)) (ls.map (dscKey g)).eraseDups

/-- The state with the requests issued, and their lines and numbers. -/
def State.dscIssued : State × List (Nat × Nat) :=
  ls.foldl (issueLane (g.owner q slot) (dscRequest s q slot g k ld ms) (dscKey g)) (s.dscReady q slot g k ld ls, [])

/-- The state with the hazards entered, from which whatever waits for nothing leaves the quadrant. -/
def State.dscEntered : State :=
  (s.dscIssued q slot g k ld ms ls).1.modQuad q
    (fun x => x.enterHazards slot (byKey (s.dscIssued q slot g k ld ms ls).2) ((s.dscIssued q slot g k ld ms ls).2.map (fun e => e.2)))

theorem State.dscDepart_eq : s.dscDepart q slot g k ld ms ls = (s.dscEntered q slot g k ld ms ls).settle := rfl

theorem keeps_dscLines (o : Owner) (write : Bool) (keys : List Nat) : Keeps s (s.dscLines q o write keys) := by
  refine Keeps.trans ?_ (keeps_wcFlush ..)
  split
  · exact Keeps.foldl (fun s k => (keeps_modQuad_of_banks s q (f := fun x => x.l1Drop k) (fun _ => rfl) (fun _ => rfl) (fun _ => rfl)).trans
      (keeps_overtake ..)) keys s
  · exact .refl s

theorem keeps_dscReady : Keeps (s.dscCount q slot g k ld ls) (s.dscReady q slot g k ld ls) := by
  refine Keeps.trans ?_ (keeps_dscLines ..)
  exact keeps_modQuad_of_banks _ q (fun _ => rfl) (fun _ => rfl) (fun _ => rfl)

/-- From the count on, the departure changes only what settling changes. -/
theorem keeps_dscEntered : Keeps (s.dscCount q slot g k ld ls) (s.dscEntered q slot g k ld ms ls) := by
  refine (keeps_dscReady s q slot g k ld ls).trans ((keeps_issueLanes ..).trans (keeps_modQuad _ q fun x => ?_))
  obtain ⟨hz, same⟩ := x.enterHazards_same slot (byKey (s.dscIssued q slot g k ld ms ls).2) ((s.dscIssued q slot g k ld ms ls).2.map (fun e => e.2))
  rw [same]
  exact quadKept_of_banks rfl rfl rfl

theorem State.dscEntered_mem : (s.dscEntered q slot g k ld ms ls).mem = s.mem := (keeps_dscEntered s q slot g k ld ms ls).mem

variable {s q slot g k ld ms ls}

/-- The group after the departure: its registers stand, the members are still to pass, and the instruction is on its path. -/
theorem State.group?_dscEntered_settle (hg : s.group? q slot = some g) :
    ∃ z, (s.dscEntered q slot g k ld ms ls).settle.group? q slot = some z ∧ z.jet = some { g.jetOr with dscLeft := k } ∧ z.landrec = landrecNone ∧
      z.v = g.v ∧ z.s = g.s ∧ z.p = g.p ∧ z.em = g.em ∧ z.status = g.status ∧ z.flights = (dscCounted s g k ld ls).flights := by
  obtain ⟨z, hz, core⟩ := ((keeps_dscEntered s q slot g k ld ms ls).trans (keeps_settle _)).group
    (State.group?_setGroup (s := { s with nextId := s.nextId + 1 }) (g := g) hg)
  exact ⟨z, hz, (congrArg Group.jet core :), (congrArg Group.landrec core :), (congrArg Group.v core :), (congrArg Group.s core :),
    (congrArg Group.p core :), (congrArg Group.em core :), (congrArg Group.status core :), (congrArg Group.flights core :)⟩

/-- Each lane has its request, which the hazard table names. -/
theorem State.dscEntered_lane (hg : s.group? q slot = some g) {x : DscLane} (hx : x ∈ ls) :
    ∃ id z y, s.nextId < id ∧ (s.dscEntered q slot g k ld ms ls).req? id = some z ∧ (dscRequest s q slot g k ld ms x).IssuedAs z ∧
      (s.dscEntered q slot g k ld ms ls).quad? q = some y ∧ y.Warns slot (dscKey g x) id := by
  obtain ⟨id, z, le, here, as, noted⟩ := issueLanes_lane (g.owner q slot) (dscRequest s q slot g k ld ms) (dscKey g) hx (s.dscReady q slot g k ld ls) []
  have new : s.nextId < id := Nat.lt_of_lt_of_le (Nat.lt_succ_self _) ((keeps_dscReady s q slot g k ld ls).nextId.trans le)
  obtain ⟨y, hy, -⟩ := State.quad?_of_group?
    (State.group?_setGroup (s := { s with nextId := s.nextId + 1 }) (g' := dscCounted s g k ld ls) hg)
  obtain ⟨y', hy', -⟩ := ((keeps_dscReady s q slot g k ld ls).trans
    (keeps_issueLanes (g.owner q slot) (dscRequest s q slot g k ld ms) (dscKey g) ls _ [])).quad hy
  obtain ⟨l, hl, key, listed⟩ := mem_byKey noted
  refine ⟨id, z, _, new, here, as, ?_, key ▸ y'.warns_enterHazards slot hl listed (List.mem_map.2 ⟨_, noted, rfl⟩)⟩
  rw [State.dscEntered, State.quad?_modQuad, if_pos rfl]
  exact congrArg (Option.map _) hy'

end

end Sys2Proof.Machine
end

section
/-! A `DSC` whose checks pass departs: the checks in their order, and the obligation about the departure (R109 to R112, R119, R219). -/

namespace Sys2Proof.Machine

/-- A body whose crew's bank requests are served, where it matters, runs at once. -/
theorem inLoopOrder_of_idle {writes : Bool} {s : State} {q slot : Nat} {g : Group}
    (h : writes = true → g.inLoop = true → s.crewIdle q g = true) (body : Body) : inLoopOrder writes body s q slot g = body s q slot g := by
  have served : (writes && g.inLoop && !s.crewIdle q g) = false := by
    cases writes with
    | false => rfl
    | true =>
      cases open_ : g.inLoop with
      | false => rfl
      | true => rw [h rfl open_]; rfl
  rw [inLoopOrder, drainedThen, served]
  rfl

/-! ### The lanes of a `DSC` -/

/-- The lanes of a `DSC`, each with its access of the `LD` and, where there is one, that of the `ST`. -/
def dscLanes (lds sts : List LaneAcc) : List DscLane := lds.map (fun x => { ld := x, st := sts.find? (fun y => y.lane == x.lane) })

/-- Those that act: of a `.w` group the lanes none of whose bytes R219 suppresses. -/
def dscActing (w : Bool) (n : Nat) (keep : Nat → Nat → Bool) (sts : List LaneAcc) (lanes : List DscLane) : List DscLane :=
  if w then lanes.filter (fun x => (wholeLanes (sts.map (fun x => x.write n)) keep).getLsbD x.ld.lane) else lanes

/-- The accesses of the `ST` that a group ends with, or none. -/
def StAccs (g : Group) (mask : Mask) (st : Option DscSt) (sts : List LaneAcc) : Prop :=
  (st = none ∧ sts = []) ∨ ∃ y p, st = some y ∧ pairSel g y.cap = some p ∧ sts = laneAccs g mask p y.idx y.ofs

/-! ### The checks in their order (R111) -/

/-- The state from which the requests of a `DSC` leave. -/
def State.dscFrom (s : State) (g : Group) (k : Nat) (ld : DscLd) (ms : List DscMember) (ls : List DscLane) : State :=
  (s.setGroup s.cur.1 s.cur.2 g.opened).dscEntered s.cur.1 s.cur.2 g.opened k ld ms ls

/-- The state after a `DSC`. -/
def State.dscAfter (s : State) (g : Group) (k : Nat) (ld : DscLd) (ms : List DscMember) (ls : List DscLane) : State :=
  (s.dscFrom g k ld ms ls).settle.modGroup s.cur.1 s.cur.2 (fun h => h.advance .none (g.pc + 4))

section
variable {s : State} {g : Group} {w : Bool} {k : BitVec 4} {sc : DscScan} {m : DscMember} {rest : List DscMember} {ld : DscLd} {p : PairSel}
  (h : Issues s (.dsc w k) g) (scan : s.dscScan g k.toNat 1 (22 - g.jetOr.pos) (g.pc + 4) = .ok sc) (whole : sc.bad = none)
  (members : sc.mem = m :: rest) (subset : dscReasons w k.toNat sc.mem = none) (first : dscLd m.ins = some ld)
  (operands : ∀ x ∈ sc.mem, memberOperand g ld.wide x = true) (pair : pairSel g ld.cap = some p)
include h scan whole members subset first operands pair

/-- A `DSC` whose checks pass departs with the lanes that act. -/
theorem exec_dsc_departs {n : Nat} (size : (if ld.wide then 8 else 4) = n) {sts : List LaneAcc} {keep : Nat → Nat → Bool}
    (stores : StAccs g (guardMask g ld.guard) ((rest.getLast?).bind (fun x => dscSt ld.wide x.ins)) sts)
    (idle : w = true → g.inLoop = true → s.crewIdle s.cur.1 g = true)
    (access : ∀ x ∈ (laneAccs g (guardMask g ld.guard) p ld.idx ld.ofs).map (fun x => (x, if w then Rights.rw else Rights.r))
      ++ sts.map (fun x => (x, Rights.w)), checkAccess (s.basin g.basin) x.1.cap x.1.ofs n 1 x.2 = .ok ())
    (rules : ∀ x ∈ dscLanes (laneAccs g (guardMask g ld.guard) p ld.idx ld.ofs) sts, x.ldBad n = false ∧ x.stBad n = false)
    (loop : s.loopCheck s.cur.1 s.cur.2 g (sts.map (fun x => x.write n)) (if ld.wide then 3 else 2) (if w then kindDscWrite else kindDscRead)
      = .ok keep) :
    exec (.dsc w k) s = .next (s.dscAfter g k.toNat ld (m :: rest)
      (dscActing w n keep sts (dscLanes (laneAccs g (guardMask g ld.guard) p ld.idx ld.ofs) sts))) := by
  subst size
  have served : w = true → g.opened.inLoop = true → (s.setGroup s.cur.1 s.cur.2 g.opened).crewIdle s.cur.1 g.opened = true := by
    rw [Group.opened_inLoop, State.crewIdle_opened h.1]
    exact idle
  have readable : (m :: rest).find? (fun x => !memberOperand g ld.wide x) = none :=
    List.find?_eq_none.2 fun x hx => by simp [operands x (members ▸ hx)]
  have passes := checkAccs_eq_ok (if ld.wide then 3 else 2) (if w then kindDscWrite else kindDscRead) access
  have aligned : ((dscLanes (laneAccs g (guardMask g ld.guard) p ld.idx ld.ofs) sts).filter
      (fun x => x.ldBad (if ld.wide then 8 else 4) || x.stBad (if ld.wide then 8 else 4))) = [] :=
    List.filter_eq_nil_iff.2 fun x hx => by simp [rules x hx]
  rw [members] at subset
  unfold dscActing dscLanes
  unfold dscLanes at aligned
  rw [exec_dsc, execDsc]
  refine runInstr_next h (l := .none) (pc := none) ?_
  rw [inLoopOrder_of_idle served]
  have basin : (s.setGroup s.cur.1 s.cur.2 g.opened).basin g.basin = s.basin g.basin := rfl
  simp only [State.dscScan_opened, State.loopCheck_opened, Group.opened_jetOr, Group.opened_pc, Group.opened_basin, guardMask_opened,
    laneAccs_opened, memberOperand_opened, pairSel_opened, basin, scan, whole, members, subset, first, readable, pair]
  obtain ⟨st, rfl⟩ | ⟨y, p2, st, store, rfl⟩ := stores
  · simp only [st, Option.map_none, passes, aligned, loop]
    rfl
  · simp only [st, Option.map_some, store, passes, aligned, loop]
    rfl

end

/-! ### What a departure leaves -/

@[simp] theorem selAt_departing (g : Group) (k : Nat) (x : Sel) (l : Nat) : selAt (g.departing k) x l = selAt g x l := by
  cases x <;> rfl

/-- A member is captured from the registers and latches as they stand at the `DSC`. -/
theorem captureOp_departing_opened (g : Group) (k : Nat) (regs : List Nat) (l : Nat) :
    captureOp (g.opened.departing k) regs l = captureOp g regs l := by
  funext i
  have pred (r : Nat) : (g.opened.departing k).getP r = g.getP r := (rfl : _ = g.opened.getP r).trans (g.opened_getP r)
  simp only [captureOp, selAt_departing, selAt_opened, pred]

/-- What a `DSC` leaves of its group: the registers stand, and the lanes that act are on their way. -/
def DscLeft (s : State) (g : Group) (k : Nat) (ld : DscLd) (acting : Mask) (t : State) (h : Group) : Prop :=
  h.pc = g.pc + 4 ∧ h.jet.map (fun j => j.dscLeft) = some k ∧ h.landrec = landrecNone ∧ h.v = g.v ∧ h.s = g.s ∧ h.p = g.p ∧
    h.em = g.em ∧ h.status = g.status ∧ t.mem = s.mem ∧
    (acting ≠ 0#32 → ∃ f ∈ h.flights, f.id = s.nextId ∧ f.path = .dsc ∧ f.ops = (maskLanes acting).length ∧
      f.dests = (dscRegs ld).map (fun r => Dest.new r acting))

/-- The request of a lane that acts stands in its quadrant, with what it captured, and the hazard table names it. -/
def DscStands (s s2 : State) (g : Group) (ld : DscLd) (p : PairSel) (rest : List DscMember) (so : Nat → Option Nat) (l : Nat) : Prop :=
  let x := laneAcc g p ld.idx ld.ofs l
  ∃ (id : Nat) (r : Req) (dd : Descent) (y : Quad), s2.req? id = some r ∧ r.st = .held ∧ s.nextId < id ∧ r.owner = g.owner s.cur.1 s.cur.2 ∧
    r.flight = [s.nextId] ∧ (∀ j, j < 32 → r.lanes.getLsbD j = decide (j = l)) ∧ r.dev = x.dev ∧ r.obj = x.obj ∧ r.line = x.line ∧
    r.kind = .descent dd ∧ dd.lane = l ∧ dd.dst = ld.d ∧ dd.wide = ld.wide ∧ dd.ofs = x.at ∧ dd.stOfs = so l ∧
    dd.ops = (rest.filterMap (fun x => decoded x.ins)).filterMap (captureOp g (dscRegs ld) l) ∧
    s2.quad? s.cur.1 = some y ∧ y.Warns s.cur.2 (anyLine g.basin x.dev x.obj x.line) id

section
variable {s : State} {g : Group} {k : Nat} {ld : DscLd} {p : PairSel} {m : DscMember} {rest : List DscMember} {acting : Mask} {D : Nat → DscLane}
  (hg : s.group? s.cur.1 s.cur.2 = some g) (access : ∀ l, (D l).ld = laneAcc g p ld.idx ld.ofs l)
include hg access

theorem dscLeft_dscAfter (ms : List DscMember) : ∃ h, (s.dscAfter g k ld ms ((maskLanes acting).map D)).group? s.cur.1 s.cur.2 = some h ∧
    DscLeft s g k ld acting (s.dscAfter g k ld ms ((maskLanes acting).map D)) h := by
  obtain ⟨z, hz, jet, landrec, v, sr, pr, em, status, flights⟩ := State.group?_dscEntered_settle (s := s.setGroup s.cur.1 s.cur.2 g.opened)
    (k := k) (ld := ld) (ms := ms) (ls := (maskLanes acting).map D) (State.group?_setGroup (g' := g.opened) hg)
  have mask : accMask (((maskLanes acting).map D).map (fun x => x.ld)) = acting := by
    rw [List.map_map]
    exact accMask_map_maskLanes (fun l => by rw [Function.comp, access]; rfl) acting
  obtain ⟨-, em', -, v', sr', pr', -, -, status', -⟩ := g.opened_fields
  rw [State.dscAfter, State.dscFrom, State.modGroup_eq hz]
  refine ⟨_, State.group?_setGroup hz, rfl, ?_, landrec, v.trans v', sr.trans sr', pr.trans pr', em.trans em',
    status.trans status', ?_, fun acts => ?_⟩
  · rw [Group.advance, Group.jetOr, jet]; rfl
  · rw [State.setGroup_mem, (keeps_settle _).mem, State.dscEntered_mem, State.setGroup_mem]
  · rw [dscCounted, mask, List.length_map, State.setGroup_nextId] at flights
    rw [Group.advance_flights, flights]
    exact Group.launchFlight_flights _ _ _ (maskLanes_length_ne_zero acts) _

theorem dscStands_dscFrom {so : Nat → Option Nat} (stores : ∀ l, (D l).st.map LaneAcc.at = so l) {l : Nat} (hl : l ∈ maskLanes acting) :
    DscStands s (s.dscFrom g k ld (m :: rest) ((maskLanes acting).map D)) g ld p rest so l := by
  obtain ⟨id, z, y, new, here, ⟨hold, now, rfl⟩, hy, warns⟩ := State.dscEntered_lane (s := s.setGroup s.cur.1 s.cur.2 g.opened) (k := k) (ld := ld)
    (ms := m :: rest) (State.group?_setGroup (g' := g.opened) hg) (List.mem_map.2 ⟨l, hl, rfl⟩ : D l ∈ (maskLanes acting).map D)
  rw [dscKey, access, Group.opened_basin] at warns
  have ops : (((m :: rest).map (fun y => y.ins)).drop 1).filterMap decoded = rest.filterMap (fun x => decoded x.ins) := by
    rw [List.map_cons, List.drop_one, List.tail_cons, List.filterMap_map]; rfl
  refine ⟨id, _, _, y, here, rfl, new, g.opened_owner .., rfl, fun j hj => ?_, ?_, ?_, ?_, rfl, ?_, rfl, rfl, ?_, stores l, ?_, hy, warns⟩
  · rw [dscRequest, Req.new, accMask_singleton_getLsbD _ hj, access]; rfl
  · rw [dscRequest, Req.new, access]
  · rw [dscRequest, Req.new, access]
  · rw [dscRequest, Req.new, access]
  · rw [access]; rfl
  · rw [access]
  · rw [ops, captureOp_departing_opened, access]; rfl

end

/-! ### The obligation -/

section
variable {s : State} {g : Group} {w : Bool} {k : BitVec 4} {m : DscMember} {rest : List DscMember} {ld : DscLd} {p : PairSel} {acting : Mask}
  {D : Nat → DscLane} {so : Nat → Option Nat}

/-- A `DSC` that departs with the lanes of a mask leaves its group as R112 says, and one request of each of them. -/
theorem departs_of_exec (hg : s.group? s.cur.1 s.cur.2 = some g) (access : ∀ l, (D l).ld = laneAcc g p ld.idx ld.ofs l)
    (stores : ∀ l, (D l).st.map LaneAcc.at = so l)
    (runs : exec (.dsc w k) s = .next (s.dscAfter g k.toNat ld (m :: rest) ((maskLanes acting).map D))) :
    GroupAfter (exec (.dsc w k) s) s.cur.1 s.cur.2 (DscLeft s g k.toNat ld acting) ∧
      ∃ s2 : State, exec (.dsc w k) s = .next (s2.settle.modGroup s.cur.1 s.cur.2 (fun h => h.advance .none (g.pc + 4))) ∧ s2.mem = s.mem ∧
        ∀ l, l < 32 → acting.getLsbD l = true → DscStands s s2 g ld p rest so l := by
  obtain ⟨h, hh, left⟩ := dscLeft_dscAfter hg access (k := k.toNat) (ld := ld) (acting := acting) (m :: rest)
  exact ⟨⟨_, h, runs, hh, left⟩, _, runs, State.dscEntered_mem .., fun l hl hm =>
    dscStands_dscFrom hg access stores (mem_maskLanes.2 ⟨hl, hm⟩)⟩

end

theorem dscLanes_nil (g : Group) (m : Mask) (p : PairSel) (idx : Sel) (ofs : Int) :
    dscLanes (laneAccs g m p idx ofs) [] = (maskLanes m).map (fun l => { ld := laneAcc g p idx ofs l, st := none }) := by
  rw [dscLanes, laneAccs_eq, List.map_map]; rfl

theorem dscLanes_laneAccs (g : Group) (m : Mask) (p p2 : PairSel) (idx idx2 : Sel) (ofs ofs2 : Int) :
    dscLanes (laneAccs g m p idx ofs) (laneAccs g m p2 idx2 ofs2) =
      (maskLanes m).map (fun l => { ld := laneAcc g p idx ofs l, st := some (laneAcc g p2 idx2 ofs2 l) }) := by
  rw [dscLanes, laneAccs_eq, laneAccs_eq, List.map_map]
  refine List.map_congr_left fun l hl => ?_
  exact congrArg (DscLane.mk _) (find?_map_maskLanes (lane := LaneAcc.lane) (fun _ => rfl) hl)

/-- A lane is kept whole where each byte that it writes is kept. -/
theorem wholeLanes_getLsbD (g : Group) {m : Mask} (p : PairSel) (idx : Sel) (ofs : Int) (n : Nat) (keep : Nat → Nat → Bool) {l : Nat}
    (hl : l ∈ maskLanes m) : (wholeLanes ((laneAccs g m p idx ofs).map (fun x => x.write n)) keep).getLsbD l =
      (List.range n).all (fun i => keep l ((laneAcc g p idx ofs l).at + i)) := by
  rw [wholeLanes, maskOf_getLsbD, decide_eq_true (mem_maskLanes.1 hl).1, Bool.true_and, laneAccs_eq, Bool.eq_iff_iff]
  simp only [List.map_map, List.any_map, List.any_eq_true, Function.comp, LaneAcc.write, laneAcc, Bool.and_eq_true, beq_iff_eq]
  constructor
  · rintro ⟨k, -, rfl, kept⟩
    exact kept
  · exact fun kept => ⟨l, hl, rfl, kept⟩

/-- Reason 8 at an `ST`: it is aligned, and on the line of the `LD`. -/
theorem DscLane.stBad_eq_false {x : DscLane} {y : LaneAcc} {n : Nat} (st : x.st = some y) (aligned : y.at % n = 0) (dev : y.dev = x.ld.dev)
    (obj : y.obj = x.ld.obj) (line : y.line = x.ld.line) : x.stBad n = false := by
  simp [DscLane.stBad, st, aligned, dev, obj, line]

/-- Of the lanes of a `.w` group those act whose `ST` is kept whole. -/
theorem dscActing_write (g : Group) (m : Mask) (p p2 : PairSel) (idx idx2 : Sel) (ofs ofs2 : Int) (n : Nat) (keep : Nat → Nat → Bool) :
    dscActing true n keep (laneAccs g m p2 idx2 ofs2) (dscLanes (laneAccs g m p idx ofs) (laneAccs g m p2 idx2 ofs2)) =
      (maskLanes (maskOf (fun l => m.getLsbD l && (List.range n).all (fun i => keep l ((laneAcc g p2 idx2 ofs2 l).at + i))))).map
        (fun l => { ld := laneAcc g p idx ofs l, st := some (laneAcc g p2 idx2 ofs2 l) }) := by
  rw [dscActing, if_pos rfl, dscLanes_laneAccs, List.filter_map, ← maskLanes_filter]
  exact congrArg (List.map _) (List.filter_congr fun l hl => wholeLanes_getLsbD g p2 idx2 ofs2 n keep hl)

theorem dscActing_read (n : Nat) (keep : Nat → Nat → Bool) (sts : List LaneAcc) (lanes : List DscLane) :
    dscActing false n keep sts lanes = lanes := if_neg Bool.false_ne_true

/-- Settles O36: the checks of the `DSC` pass one by one, so that it departs (`exec_dsc_departs`), and a departure leaves the group and the
requests that the statement names (`departs_of_exec`). -/
theorem descentGroupsDepart : Obligations.DescentGroupsDepart := by
  intro s g w k sc m rest ld p keep h scan whole members subset first operands pair q own n mask c a need lanes departs
  have loads := checkAccess_of_mem_laneAccs (fun l hl => (lanes l (mem_maskLanes.1 hl).1 (mem_maskLanes.1 hl).2).1)
  have natural : ∀ l ∈ maskLanes mask, 0 ≤ a l ∧ (a l).toNat % n = 0 := fun l hl => by
    obtain ⟨hlt, hm⟩ := mem_maskLanes.1 hl
    obtain ⟨passes, mod⟩ := lanes l hlt hm
    have nonneg := nonneg_of_checkAccess passes
    exact ⟨nonneg, toNat_mod_eq_zero nonneg mod⟩
  refine ⟨?read, ?write⟩
  case read =>
    intro reads st
    subst reads
    obtain ⟨keep', loop⟩ := s.loopCheck_nil q s.cur.2 g (if ld.wide then 3 else 2) kindDscRead
    have rules : ∀ x ∈ dscLanes (laneAccs g mask p ld.idx ld.ofs) [], x.ldBad n = false ∧ x.stBad n = false := by
      rw [dscLanes_nil]
      refine List.forall_mem_map.2 fun l hl => ?_
      exact ⟨decide_eq_false (not_not.2 (natural l hl).2), rfl⟩
    have runs := exec_dsc_departs h scan whole members subset first operands pair (n := n) rfl (.inl ⟨st, rfl⟩) nofun
      (by rw [List.map_nil, List.append_nil]; exact loads) rules loop
    rw [dscActing_read, dscLanes_nil] at runs
    exact departs_of_exec h.1 (fun _ => rfl) (fun _ => rfl) runs
  case write =>
    intro y p2 st store writes c2 a2 stores idle loop
    subst writes
    have rules : ∀ x ∈ dscLanes (laneAccs g mask p ld.idx ld.ofs) (laneAccs g mask p2 y.idx y.ofs), x.ldBad n = false ∧ x.stBad n = false := by
      rw [dscLanes_laneAccs]
      refine List.forall_mem_map.2 fun l hl => ?_
      obtain ⟨hlt, hm⟩ := mem_maskLanes.1 hl
      obtain ⟨passes, mod, dev, obj, line⟩ := stores l hlt hm
      obtain ⟨nonneg, aligned⟩ := natural l hl
      have nonneg2 := nonneg_of_checkAccess passes
      have sameLine : (a2 l).toNat / 128 = (a l).toNat / 128 := by omega
      exact ⟨decide_eq_false (not_not.2 aligned), DscLane.stBad_eq_false rfl (toNat_mod_eq_zero nonneg2 mod) dev obj sameLine⟩
    have stored := checkAccess_of_mem_laneAccs (fun l hl => (stores l (mem_maskLanes.1 hl).1 (mem_maskLanes.1 hl).2).1)
    have runs := exec_dsc_departs h scan whole members subset first operands pair (n := n) rfl (.inr ⟨y, p2, st, store, rfl⟩) (fun _ => idle)
      (List.forall_mem_append.2 ⟨loads, stored⟩) rules loop
    rw [dscActing_write] at runs
    exact departs_of_exec h.1 (fun _ => rfl) (fun _ => rfl) runs

end Sys2Proof.Machine
end

section
/-! The release of a `FENCE`: an earlier read whose number is that of a write-combining entry goes out of the reads when the release sends the
entry on (R126, R128). -/

namespace Sys2Proof.Machine

/-! ### A state in which nothing follows by itself -/

/-- No request waits in its quadrant or is a promotion, no write-combining entry is on its way out, and each group's first order, if any,
still waits. -/
structure State.Still (s : State) : Prop where
  reqs : ∀ id r, s.req? id = some r → r.st ≠ .held ∧ r.kind.isPromote = false
  wc : ∀ q x, s.quad? q = some x → ∀ e ∈ x.wc, e.leaving = false
  orders : ∀ q slot g, s.group? q slot = some g → ∀ w rest, g.orders = w :: rest → w.waits ≠ []

section
variable {s : State} (h : s.Still)
include h

theorem State.Still.ackPromotes : s.ackPromotes = s := by
  refine List.foldl_fixed' (fun e => if_neg ?_) _
  cases hr : s.req? e.1 with
  | none => simp
  | some r => simp [(h.reqs e.1 r hr).2]

theorem State.Still.drainWc (q : Nat) : s.drainWc q = s := by
  unfold State.drainWc
  split
  · rfl
  next x hx =>
    have none_leaves : x.wc.filter (fun e => e.leaving) = [] :=
      List.filter_eq_nil_iff.2 fun e he => by simp [h.wc q x hx e he]
    rw [none_leaves, List.foldl_nil]

theorem State.Still.stepOrder (q slot : Nat) : s.stepOrder q slot = s := by
  unfold State.stepOrder
  split
  · rfl
  next g hg =>
    split
    · rfl
    next w rest hw => simp [h.orders q slot g hg w rest hw]

theorem State.Still.settle1 : s.settle1 = s := by
  unfold State.settle1
  dsimp only
  rw [h.ackPromotes, List.foldl_fixed' (a := s) (l := s.reqs) ?depart, List.foldl_fixed' (a := s) (l := s.quads) ?drain]
  case depart =>
    intro e
    split
    next r hr => exact if_neg fun held => (h.reqs e.1 r hr).1 held.1
    · rfl
  case drain => exact fun e => h.drainWc e.1
  exact List.foldl_fixed' (fun (e : Nat × Quad) => List.foldl_fixed' (fun (p : Nat × Group) => List.foldl_fixed' (fun _ => h.stepOrder e.1 p.1) _) _) _

theorem State.Still.settle : s.settle = s := by simp only [State.settle, h.settle1]

end

/-! ### A group whose earlier reads name a write-combining entry -/

/-- The group: what it writes next follows number 5. -/
def readingGroup : Group := { Group.start 0 0#32 loadRec 0 0 0 0 with jet := some (Jet.fresh 0), relReads := [5] }

/-- Its write-combining entry, under the ticket 5. -/
def ticketEntry : WcEntry :=
  { owner := readingGroup.owner 0 0, obj := 2, line := 0, bytes := [(0, 1#8)], since := 0, ticket := 5, leaving := false, flight := [],
    byHandler := false, accs := [] }

/-- The group in slot 0 of quadrant 0, with that entry. -/
def ticketed : State :=
  { State.reset with quads := [(0, { Quad.init with groups := [(0, readingGroup)], wc := [ticketEntry] })], nextId := 10 }

/-- The entry as a store in the outbound queue. -/
def sentEntry : Req :=
  { Req.new ticketEntry.owner (.store true ticketEntry.bytes) devHere 2 0 0#32 [] false with st := .sent }

/-- The state in which a release has sent the entry on, as request 10, with some orders and reads of the group. -/
def entrySent (orders : List Order) (reads : List Nat) (next : Nat) : State :=
  { ticketed with
    quads := [(0, { Quad.init with groups := [(0, { readingGroup.opened with orders := orders, relReads := reads })] })],
    reqs := [(10, sentEntry)], nextId := next }

/-- The number of the entry is over when the entry is sent on, and goes out of the reads. -/
theorem ticketed_releaseMove :
    (ticketed.setGroup 0 0 readingGroup.opened).releaseMove (readingGroup.owner 0 0) .dev = entrySent [] [] 11 := by decide

/-- What a `FENCE` with a release at `.dev` leaves of the reads of the group. -/
def readsAfterRelease : Option (List Nat) :=
  match exec (.fence (.rel .dev)) ticketed with
  | .next t => (t.group? 0 0).map (fun g => g.relReads)
  | _ => none

theorem readsAfterRelease_eq : readsAfterRelease = some [] := by decide

theorem ticketed_issues : Issues ticketed (.fence (.rel .dev)) readingGroup := by decide

theorem NMap.get?_singleton {α : Type} (k i : Nat) (x : α) : NMap.get? [(k, x)] i = if k = i then some x else none := by
  simp [NMap.get?]

/-- An order that waits for the store stands. -/
theorem entrySent_still {w : Order} (waits : w.waits ≠ []) (reads : List Nat) (next : Nat) : (entrySent [w] reads next).Still where
  reqs id r hr := by
    obtain ⟨-, rfl⟩ : 10 = id ∧ sentEntry = r := by simpa [State.req?, entrySent, NMap.get?_singleton] using hr
    exact ⟨nofun, rfl⟩
  wc q x hx e he := by
    obtain ⟨-, rfl⟩ := by simpa [State.quad?, entrySent, NMap.get?_singleton] using hx
    cases he
  orders q slot g hg w' rest hw := by
    obtain ⟨x, hx, hg⟩ := State.quad?_of_group? hg
    obtain ⟨-, rfl⟩ := by simpa [State.quad?, entrySent, NMap.get?_singleton] using hx
    obtain ⟨-, rfl⟩ := by simpa [NMap.get?_singleton] using hg
    obtain ⟨rfl, -⟩ := by simpa using hw
    exact waits

theorem State.group?_freeIssue (s : State) (q : Nat) (again : Bool) (q' slot : Nat) :
    (s.freeIssue q again).group? q' slot = s.group? q' slot :=
  State.group?_modQuad_of_groups s q (by exact fun _ => rfl) q' slot

/-- A change of a group that is none of its reads. -/
theorem State.relReads_modGroup {s : State} {q slot : Nat} {g : Group} (hg : s.group? q slot = some g) {f : Group → Group}
    (hf : ∀ x, (f x).relReads = x.relReads) : ((s.modGroup q slot f).group? q slot).map Group.relReads = some g.relReads := by
  rw [State.modGroup_eq hg, State.group?_setGroup hg, Option.map_some, hf]

/-- Refutes O17, in the clause that a release keeps the earlier reads of the group: the statement ranges over states in which one of those
reads has the number of a write-combining entry. There the release itself sends the entry on, its number is over, and the group's later writes
wait for no read; the statement has them wait for number 5 still. The order waits for the store (`entrySent_still`), so that nothing else
follows that could take the number out. -/
theorem not_fencesOrderAndComplete : ¬ Obligations.FencesOrderAndComplete := by
  intro h
  obtain ⟨records, -, -⟩ := h ticketed readingGroup (.rel .dev) ticketed_issues
  obtain ⟨m, ws, rr, t, y, hm, ⟨w, hws, -, -, -, -, waits⟩, reads, hy, ht, ends⟩ := records (.inl rfl) rfl
  have moved : m = entrySent [] [] 11 := hm.trans ticketed_releaseMove
  subst moved hws
  have listed : 5 ∈ rr := (reads 5).2 (.inl (by decide))
  have waiting : w.waits ≠ [] :=
    List.ne_nil_of_mem ((waits 10).2 (.inl ⟨sentEntry, by decide, by decide, .inr ⟨.inr (.inl rfl), rfl⟩⟩))
  have still := (entrySent_still waiting rr 12).settle
  have kept : y.relReads = rr := by
    have settled : (State.settle (entrySent [w] rr 12)).group? 0 0 = some y := hy
    rw [still] at settled
    cases settled
    rfl
  have after : (t.group? ticketed.cur.1 ticketed.cur.2).map Group.relReads = some rr := by
    rw [← kept]
    refine ends.elim (fun ⟨_, _, e⟩ => ?_) (fun ⟨_, _, e⟩ => ?_)
    · rw [e]
      exact State.relReads_modGroup hy fun _ => Group.advance_relReads ..
    · rw [e, State.group?_freeIssue]
      exact State.relReads_modGroup hy fun _ => Group.stand_relReads ..
  have lost := readsAfterRelease_eq
  rw [readsAfterRelease, ht] at lost
  have empty : rr = [] := Option.some.inj (after.symm.trans lost)
  exact absurd (empty ▸ listed) List.not_mem_nil

end Sys2Proof.Machine
end

section
/-! Host writes that a monitor has let go: the first on a line performs, and the one behind it ceases to wait for it (R133, R241). -/

namespace Sys2Proof.Machine

/-- A write of one byte of object 2 that the monitor of its extent has let go, behind some others. -/
def releasedWrite (id : Nat) (after : List Nat) : HostWrite :=
  { id := id, basin := 0, obj := 2, ofs := id, bytes := [1#8], park := some { id := id, keys := [lineKey 0 2 0], freed := true, after := after } }

/-- Two such writes on one line that is at hand, the second behind the first. -/
def releasedWrites : State :=
  { State.reset with
    lines := [(lineKey 0 2 0, { Line.init with res := 1#4 })], extents := [(extKey 0 2 0, { Extent.init with v := true })],
    basins := [(0, { Basin.free with dying := [2] })], inbound := [releasedWrite 0 [], releasedWrite 1 [0]], nextId := 2 }

theorem releasedWrites_ready : releasedWrites.hereMeets 0 0 2 0 1 true (fun _ => 0) = .ok := by decide

/-- The inbound queue once the first write has performed. -/
def inboundAfterFirst : Option (List HostWrite) :=
  match exec (.hostWritePerform 0) releasedWrites with
  | .next t => some t.inbound
  | _ => none

/-- The second write is left, and waits for nothing more. -/
theorem inboundAfterFirst_eq : inboundAfterFirst = some [releasedWrite 1 []] := by decide

/-- Refutes O50, in the clause of HOST_WRITE_PERFORM that the queue after it is the queue before it without the write: of two writes to one line
that a monitor has let go, the second follows the first. With the first over, the second is still in the queue but follows nothing any more,
so that the queue differs in what its entries wait for. -/
theorem not_hostAccessesComplete : ¬ Obligations.HostAccessesComplete := by
  intro h
  obtain ⟨-, -, -, -, perform, -⟩ := h releasedWrites 0 _ rfl
  obtain ⟨t, ht, inbound, -⟩ :=
    perform 0 (releasedWrite 0 []) rfl (.inr ⟨_, rfl, rfl, rfl⟩) (by decide) (by decide) (by simp) releasedWrites_ready
  have second := inboundAfterFirst_eq
  rw [inboundAfterFirst, ht] at second
  exact absurd (inbound.symm.trans (Option.some.inj second)) (by decide)

end Sys2Proof.Machine
end

section
/-! A peer's atomic: a compare that fails leaves the memory as it is listed, as one of a group does (`not_writesPerformAtTheirHome`; R134, R163). -/

namespace Sys2Proof.Machine

/-- A compare-and-swap of a peer that compares 1. -/
def missAsk : PeerReq := { id := 0, basin := 0, obj := 2, ask := .atom .cas .s32 [missElem], park := none }

/-- A state in which it has arrived, for an exported object with its line at hand; the first byte of the line is listed as 0. -/
def peerListedZero : State :=
  { listedZero with
    reqs := [], peerIn := [missAsk],
    basins := [(0, { Basin.free with
      phase := .started, exports := [{ obj := 2, peer := 3, rd := true, wr := true }],
      objs := [(2, { sizeM1 := 65535, rd := true, wr := true, ex := false, const := false, repl := false, ft := true, list := 0 })] })] }

theorem peerListedZero_passes :
    checkAccess (peerListedZero.basin 0) (mkCap devHere 2 0) 0 4 1 Rights.none = .ok () ∧
      peerListedZero.hereMeets peerListedZero.nextId 0 2 0 4 true (portDie 2) = .ok := by decide

/-- The memory once the peer has its answer. -/
def memAfterMiss : Option (NMap Byte) :=
  match exec (.peerRequest 0) peerListedZero with
  | .next t => some t.mem
  | _ => none

/-- No byte is written: the list of bytes stays. -/
theorem memAfterMiss_eq : memAfterMiss = some [(memKey 0 2 0, 0#8)] := by decide

/-- Written back, the old byte is 0 and is not listed. -/
theorem peerListedZero_atomElems : (peerListedZero.atomElems 0 2 .cas .s32 none [missElem]).1.mem = [] := by decide

/-- Refutes O52, in the clause of PEER_REQUEST that gives the memory after an atomic as a list: the statement ranges over states whose memory is
not in its canonical form. There a compare that fails writes nothing and leaves a listed 0, where the statement has the list after the old bytes
are written back, which drops it. (No byte differs: the lists do.) -/
theorem not_peersAndErrorsComplete : ¬ Obligations.PeersAndErrorsComplete := by
  intro h
  obtain ⟨peer, -⟩ := h peerListedZero
  obtain ⟨-, -, -, here⟩ := peer 0 missAsk rfl (by simp) (by decide)
  obtain ⟨passes, meets⟩ := peerListedZero_passes
  obtain ⟨-, -, -, atom, -⟩ := here rfl rfl (by decide) (by decide) (by decide) (by decide) passes meets
  obtain ⟨t, ht, mem, -⟩ := atom .cas .s32 [missElem] rfl
  have listed := memAfterMiss_eq
  rw [memAfterMiss, ht] at listed
  exact absurd ((Option.some.inj listed).symm.trans (mem.trans peerListedZero_atomElems)) (by simp)

end Sys2Proof.Machine
end

section
/-! The gangs through the steps that follow by themselves: what leaves for a peer spends credits of its basin, and no other step touches a
basin (R151, R270). -/

namespace Sys2Proof.Machine

/-- The gangs of each basin, with their barriers. -/
def State.gangs (s : State) (b : Nat) : List GangState := (s.basin b).gangs

theorem foldl_gangs {α : Type} {f : State → α → State} (hf : ∀ s a, (f s a).gangs = s.gangs) (l : List α) (s : State) :
    (l.foldl f s).gangs = s.gangs :=
  List.foldlRecOn l f (motive := fun t => t.gangs = s.gangs) rfl fun t ht a _ => (hf t a).trans ht

theorem State.gangs_modBasin (s : State) (b : Nat) {f : Basin → Basin} (hf : (f (s.basin b)).gangs = (s.basin b).gangs) :
    (s.modBasin b f).gangs = s.gangs := by
  funext b'
  simp only [State.gangs, State.basin, State.modBasin, NMap.getD_set]
  split
  next h => rw [← h]; exact hf
  next => rfl

/-! ### Steps that leave every basin as it is -/

@[simp] theorem State.modQuad_gangs (s : State) (q : Nat) (f : Quad → Quad) : (s.modQuad q f).gangs = s.gangs := rfl
@[simp] theorem State.setGroup_gangs (s : State) (q slot : Nat) (g : Group) : (s.setGroup q slot g).gangs = s.gangs := rfl
@[simp] theorem State.setReq_gangs (s : State) (id : Nat) (r : Req) : (s.setReq id r).gangs = s.gangs := rfl
@[simp] theorem State.over_gangs (s : State) (id : Nat) : (s.over id).gangs = s.gangs := rfl
@[simp] theorem State.follow_gangs (s : State) (old : Nat) (new : List Nat) (narrow : Bool) : (s.follow old new narrow).gangs = s.gangs := rfl
@[simp] theorem State.overtake_gangs (s : State) (q k : Nat) : (s.overtake q k).gangs = s.gangs := rfl
@[simp] theorem State.l1Invalidate_gangs (s : State) (q : Nat) : (s.l1Invalidate q).gangs = s.gangs := rfl
@[simp] theorem State.wcEnter_gangs (s : State) (e : WcEntry) : (s.wcEnter e).gangs = s.gangs := rfl

@[simp] theorem State.modGroup_gangs (s : State) (q slot : Nat) (f : Group → Group) : (s.modGroup q slot f).gangs = s.gangs := by
  unfold State.modGroup
  split <;> rfl

@[simp] theorem State.drainWc_gangs (s : State) (q : Nat) : (s.drainWc q).gangs = s.gangs := by
  unfold State.drainWc
  split
  · rfl
  · refine foldl_gangs (fun s e => ?_) _ s
    dsimp only
    split <;> rfl

@[simp] theorem State.wcFlush_gangs (s : State) (o : Owner) (f : WcEntry → Bool) : (s.wcFlush o f).gangs = s.gangs := State.drainWc_gangs _ _

theorem State.wcMerge_gangs {s t : State} {o : Owner} {obj line : Nat} {bytes : NMap Byte} {flight : List Nat} {byHandler : Bool}
    {accs : List (Nat × Nat × Nat)} (h : s.wcMerge o obj line bytes flight byHandler accs = some t) : t.gangs = s.gangs := by
  simp only [State.wcMerge] at h
  split at h
  · cases h
  next x _ =>
    split at h
    · cases h; rfl
    · split at h
      · obtain ⟨-, h⟩ := Option.ite_none_right_eq_some.1 h
        rw [← Option.some.inj h]
        rfl
      · obtain ⟨-, h⟩ := Option.ite_none_right_eq_some.1 h
        rw [← Option.some.inj h]
        cases x.wc with
        | nil => rfl
        | cons e l => exact s.wcFlush_gangs ..

@[simp] theorem State.merge_gangs (s : State) (id : Nat) (r : Req) (bytes : NMap Byte) : (s.merge id r bytes).gangs = s.gangs := by
  unfold State.merge
  split
  · rfl
  next s1 h =>
    have h1 : s1.gangs = s.gangs := (State.wcMerge_gangs h).trans rfl
    split
    · simp only [State.modQuad_gangs, State.over_gangs, State.wcFlush_gangs, State.follow_gangs, h1]
    · simp only [State.drainWc_gangs, State.over_gangs, h1]

@[simp] theorem State.keptOut_gangs (s : State) (id : Nat) (r : Req) : (s.keptOut id r).gangs = s.gangs := by
  unfold State.keptOut
  split <;> rfl

@[simp] theorem foldl_overtake_gangs (s : State) (q : Nat) (ks : List Nat) : (ks.foldl (fun s k => s.overtake q k) s).gangs = s.gangs :=
  foldl_gangs (fun s k => s.overtake_gangs q k) ks s

@[simp] theorem State.ackPromotes_gangs (s : State) : s.ackPromotes.gangs = s.gangs :=
  foldl_gangs (fun t e => by split <;> rfl) s.reqs s

@[simp] theorem State.sendPromotes_gangs (s : State) (o : Owner) : (s.sendPromotes o).1.gangs = s.gangs :=
  List.foldlRecOn _ _ (motive := fun acc : State × List Nat => acc.1.gangs = s.gangs) rfl fun _ h _ _ => h

@[simp] theorem State.stepOrder_gangs (s : State) (q slot : Nat) : (s.stepOrder q slot).gangs = s.gangs := by
  unfold State.stepOrder
  split
  · rfl
  · split
    · rfl
    · dsimp only
      split
      · rfl
      · split
        · exact s.modGroup_gangs ..
        · split
          · rw [State.modGroup_gangs, State.sendPromotes_gangs]
          · rw [State.over_gangs, State.modGroup_gangs]
            split <;> rfl

/-! ### Credits, and settling -/

theorem Basin.spend_gangs {b : Basin} {ports : List Nat} {p : Basin × List Nat} (h : b.spend ports = some p) : p.1.gangs = b.gangs := by
  obtain ⟨-, h⟩ := Option.ite_none_right_eq_some.1 h
  rw [← Option.some.inj h]
  refine List.foldlRecOn ports _ (motive := fun acc : Basin × List Nat => acc.1.gangs = b.gangs) rfl fun acc hacc p _ => ?_
  split
  · exact hacc
  · exact hacc

/-- A request that may leave spends credits at most (R270). -/
@[simp] theorem State.depart_gangs (s : State) (id : Nat) (r : Req) : (s.depart id r).gangs = s.gangs := by
  unfold State.depart
  cases hx : s.quad? r.owner.q with
  | none => simp only [hx]
  | some x =>
    simp only [hx]
    split
    next => exact s.keptOut_gangs id r
    next =>
      split
      next =>
        split
        next p hp => exact s.gangs_modBasin r.owner.basin (f := fun _ => p.1) (Basin.spend_gangs hp)
        next => split <;> rfl
      next =>
        repeat' split
        all_goals simp only [State.setReq_gangs, State.merge_gangs, State.wcFlush_gangs, State.overtake_gangs, State.modQuad_gangs,
          foldl_overtake_gangs]

@[simp] theorem State.settle1_gangs (s : State) : s.settle1.gangs = s.gangs := by
  simp only [State.settle1]
  rw [foldl_gangs, foldl_gangs, foldl_gangs, State.ackPromotes_gangs]
  · intro t e
    split
    · split
      · exact t.depart_gangs ..
      · rfl
    · rfl
  · exact fun t e => t.drainWc_gangs e.1
  · exact fun t e => foldl_gangs (fun t (p : Nat × Group) => foldl_gangs (fun t _ => t.stepOrder_gangs e.1 p.1) p.2.orders t) _ t

@[simp] theorem State.settle_gangs (s : State) : s.settle.gangs = s.gangs := by simp only [State.settle, State.settle1_gangs]

end Sys2Proof.Machine
end

section
/-! A catch-up instruction whose body has changed more of the machine than its group, and the quadrant's crews through these changes. -/

namespace Sys2Proof.Machine

/-! ### Whose a group is -/

/-- Opening a jet does not change whose a group is, nor the sizes of its launch. -/
theorem Group.opened_place (g : Group) : g.opened.basin = g.basin ∧ g.opened.launch = g.launch ∧ g.opened.gang = g.gang ∧
    g.opened.crew = g.crew ∧ g.opened.grp = g.grp ∧ g.opened.gpc = g.gpc ∧ g.opened.cpg = g.cpg := by
  simp only [Group.opened]
  split <;> exact ⟨rfl, rfl, rfl, rfl, rfl, rfl, rfl⟩

theorem Group.opened_wait (g : Group) : g.opened.wait = g.wait := by
  simp only [Group.opened]
  split <;> rfl

theorem Group.opened_orders (g : Group) : g.opened.orders = g.orders ∧ g.opened.relReads = g.relReads := by
  simp only [Group.opened]
  split <;> exact ⟨rfl, rfl⟩

/-! ### Crews -/

theorem State.crew?_freeIssue (s : State) (q q' : Nat) (again : Bool) (g : Group) : (s.freeIssue q' again).crew? q g = s.crew? q g := by
  rw [State.crew?, State.freeIssue, State.quad?_modQuad]
  split
  · rw [State.crew?]; cases s.quad? q <;> rfl
  · rfl

theorem State.openCur_group? {s : State} {g : Group} (hg : s.group? s.cur.1 s.cur.2 = some g) :
    (s.openCur g).group? s.cur.1 s.cur.2 = some g.opened := State.group?_setGroup hg

theorem State.openCur_crew? (s : State) (g : Group) (q : Nat) : (s.openCur g).crew? q g.opened = s.crew? q g :=
  (State.crew?_setGroup ..).trans (State.crew?_opened ..)

/-- The first entry of a list that is found stays the first when every such entry is changed in its place. -/
theorem find?_map_ite {α : Type} {p : α → Bool} {f : α → α} (hf : ∀ x, p (f x) = p x) (l : List α) :
    (l.map (fun x => if p x then f x else x)).find? p = (l.find? p).map f := by
  induction l with
  | nil => rfl
  | cons x l ih =>
    cases found : p x with
    | true => simp [found, hf]
    | false => simpa [found] using ih

/-- A change of a group's crew that leaves whose it is. -/
theorem State.crew?_modCrew (s : State) (q : Nat) (g : Group) {f : Crew → Crew} (hf : ∀ c, (f c).has g = c.has g) :
    (s.modCrew q g f).crew? q g = (s.crew? q g).map f := by
  rw [State.crew?, State.modCrew, State.quad?_modQuad, if_pos rfl, State.crew?]
  cases s.quad? q with
  | none => rfl
  | some x => exact find?_map_ite hf x.crews

/-- What follows by itself changes no crew. -/
theorem Keeps.crew?_eq {s t : State} (h : Keeps s t) (q : Nat) (g : Group) : t.crew? q g = s.crew? q g := by
  have hq := h.quads q
  rw [State.crew?, State.crew?]
  generalize s.quad? q = a at hq
  generalize t.quad? q = b at hq
  cases hq with
  | none => rfl
  | some kept => exact Quad.crewOf?_congr kept.crews rfl rfl rfl

/-! ### The end of the instruction -/

section
variable {s t : State} {i : Instr} {g k z : Group} {body : Body} (h : Issues s i g) (he : exec i s = runInstr s i body)
include h

/-- Only what a body answers for the current group counts. -/
theorem runInstr_congr {body' : Body} (hb : body (s.openCur g) s.cur.1 s.cur.2 g.opened = body' (s.openCur g) s.cur.1 s.cur.2 g.opened) :
    runInstr s i body = runInstr s i body' := by
  rw [State.openCur] at hb
  simp only [runInstr, h.1, jetCheck_of_issues h, hb]

include he

theorem raises_of_trap {tr : Trap} (hb : body (s.openCur g) s.cur.1 s.cur.2 g.opened = .trap tr) : Raises s i g tr := by
  rw [Raises, he]
  exact runInstr_trap h hb

/-- An instruction that finds nothing to do completes. -/
theorem runs_of_unchanged (hb : body (s.openCur g) s.cur.1 s.cur.2 g.opened = .next (s.openCur g) .none none) :
    Runs s i g g .none [] 0#5 (g.pc + instrLen i) := by
  refine runs_of_setGroup h he ?_ (fun _ => rfl)
  rw [hb, State.openCur, State.setGroup_setGroup]

variable (hz : t.group? s.cur.1 s.cur.2 = some z)
include hz

/-- The instruction completes: only its group advances in the state that its body leaves. -/
theorem completes_of_next (regs : z.SameRegs k) (hb : body (s.openCur g) s.cur.1 s.cur.2 g.opened = .next t .none none) :
    GroupAfter (exec i s) s.cur.1 s.cur.2 (fun u y =>
      u = t.setGroup s.cur.1 s.cur.2 y ∧ y.SameRegs k ∧ y.pc = g.pc + instrLen i ∧ y.wait = .none) := by
  refine ⟨_, z.advance .none (g.pc + instrLen i), he.trans (runInstr_next h hb), ?_, ?_, regs, rfl, rfl⟩
  · rw [State.modGroup_eq hz]
    exact State.group?_setGroup hz
  · exact State.modGroup_eq hz _

/-- The instruction stands where it is: its group gives up its jet in the state that its body leaves. -/
theorem stands_of_wait {w : Wait} (regs : z.SameRegs k) (jet : z.jetOr = k.jetOr) (pc : z.pc = g.pc)
    (hb : body (s.openCur g) s.cur.1 s.cur.2 g.opened = .wait t w) :
    GroupAfter (exec i s) s.cur.1 s.cur.2 (fun u y =>
      (∃ again, u = (t.setGroup s.cur.1 s.cur.2 y).freeIssue s.cur.1 again) ∧ y.SameRegs k.leaveJet ∧ y.pc = g.pc ∧ y.wait = w ∧
        y.jet = none) := by
  refine ⟨_, z.stand g w, he.trans (runInstr_wait h hb), ?_, ⟨_, by rw [State.modGroup_eq hz]⟩, Group.sameRegs_stand regs jet g w,
    (Group.stand_pc ..).trans pc, Group.stand_wait .., Group.stand_jet ..⟩
  rw [State.group?_freeIssue, State.modGroup_eq hz]
  exact State.group?_setGroup hz

end

end Sys2Proof.Machine
end

section
/-! `BAR`: what an arrival makes of its barrier, who goes on, and the obligation about it (R151 to R155). -/

namespace Sys2Proof.Machine

/-! ### The arrival -/

section
variable {b : Barrier} {m n : Nat}

theorem Barrier.arrive_again (sync : Bool) (mem : m ∈ b.arrived) :
    b.arrive m n sync = { bar := { b with held := b.held ++ [(m, n, sync)] }, go := [], trapped := [] } := by
  simp only [Barrier.arrive, List.contains_iff_mem, mem, if_true]

/-- A counted arrival sets EXP to its own count. -/
theorem Barrier.accept_eq (sync : Bool) (count : b.exp = 0 ∨ b.exp = n) : b.accept m n sync =
    { b with exp := n, arr := b.arr + 1, arrived := b.arrived ++ [m], waiting := if sync then b.waiting ++ [m] else b.waiting } := by
  have exp : (if b.exp = 0 then n else b.exp) = n := by
    split
    · rfl
    next other => exact count.resolve_left other
  rw [Barrier.accept, exp]

theorem Barrier.arrive_counts (sync : Bool) (new : m ∉ b.arrived) (count : b.exp = 0 ∨ b.exp = n) (open_ : b.arr + 1 ≠ n) :
    b.arrive m n sync = { bar := { b with exp := n, arr := b.arr + 1, arrived := b.arrived ++ [m], waiting := if sync then b.waiting ++ [m] else b.waiting },
                          go := if sync then [] else [m], trapped := [] } := by
  simp only [Barrier.arrive, List.contains_iff_mem, new, if_false, Barrier.accept_eq sync count]
  exact if_neg open_

/-- The last arrival completes the phase: with nobody held no other phase begins. -/
theorem Barrier.arrive_completes (sync : Bool) (new : m ∉ b.arrived) (count : b.exp = 0 ∨ b.exp = n) (held : b.held = [])
    (last : b.arr + 1 = n) : b.arrive m n sync =
      { bar := b.complete, go := (if sync then [] else [m]) ++ (if sync then b.waiting ++ [m] else b.waiting), trapped := [] } := by
  simp only [Barrier.arrive, List.contains_iff_mem, new, if_false, Barrier.accept_eq sync count, held]
  exact if_pos last

end

/-! ### One barrier (R151) -/

theorem State.barrier_eq (s : State) (q : Nat) (g : Group) (id : Nat) : s.barrier q g id =
    NMap.getD (if id < 16 then ((s.crew? q g).map Crew.bars).getD [] else (((s.basin g.basin).gang? g.launch g.gang).map GangState.bars).getD [])
      id Barrier.init := by
  unfold State.barrier State.crew?
  split
  · cases (s.quad? q).bind (fun x => x.crewOf? g) <;> rfl
  · cases (s.basin g.basin).gang? g.launch g.gang <;> rfl

/-- Crews and gangs hold the barriers. -/
theorem State.barrier_congr {s t : State} {q : Nat} {g : Group} (crew : t.crew? q g = s.crew? q g) (gangs : t.gangs = s.gangs) (id : Nat) :
    t.barrier q g id = s.barrier q g id := by
  have gang : (t.basin g.basin).gangs = (s.basin g.basin).gangs := congrFun gangs g.basin
  rw [State.barrier_eq, State.barrier_eq, crew, Basin.gang?, gang, Basin.gang?]

theorem State.barrier_opened (s : State) (q : Nat) (g : Group) (id : Nat) : s.barrier q g.opened id = s.barrier q g id := by
  obtain ⟨basin, launch, gang, -⟩ := g.opened_place
  rw [State.barrier_eq, State.barrier_eq, State.crew?_opened, basin, launch, gang]

theorem State.openCur_barrier (s : State) (q : Nat) (g : Group) (id : Nat) : (s.openCur g).barrier q g.opened id = s.barrier q g id := by
  have same : (s.openCur g).barrier q g id = s.barrier q g id := State.barrier_congr (State.crew?_setGroup ..) rfl id
  exact (State.barrier_opened ..).trans same

/-- The barrier is there: its crew on the quadrant, or its gang at the distributor slice. -/
def State.HasBarrier (s : State) (q : Nat) (g : Group) (id : Nat) : Prop :=
  (if id < 16 then (s.crew? q g).isSome else ((s.basin g.basin).gang? g.launch g.gang).isSome) = true

theorem State.HasBarrier.opened {s : State} {q : Nat} {g : Group} {id : Nat} (here : s.HasBarrier q g id) : (s.openCur g).HasBarrier q g.opened id := by
  obtain ⟨basin, launch, gang, -⟩ := g.opened_place
  rw [State.HasBarrier, State.openCur_crew?, basin, launch, gang]
  exact here

theorem State.barrier_setBarrier {s : State} {q : Nat} {g : Group} {id : Nat} (here : s.HasBarrier q g id) (b : Barrier) :
    (s.setBarrier q g id b).barrier q g id = b := by
  rw [State.HasBarrier] at here
  rw [State.barrier_eq, State.setBarrier]
  by_cases crewwide : id < 16
  · rw [if_pos crewwide] at here
    obtain ⟨c, hc⟩ := Option.isSome_iff_exists.1 here
    have new : (s.modCrew q g (fun c => { c with bars := NMap.set c.bars id b })).crew? q g = _ :=
      (s.crew?_modCrew q g (fun _ => by rfl)).trans (congrArg _ hc)
    rw [if_pos crewwide, if_pos crewwide]
    rw [State.modCrew] at new
    rw [new]
    exact NMap.getD_set_self ..
  · rw [if_neg crewwide] at here
    obtain ⟨x, hx⟩ := Option.isSome_iff_exists.1 here
    rw [if_neg crewwide, if_neg crewwide, State.basin, State.modBasin_basins, NMap.getD_set_self]
    rw [Basin.gang?] at hx ⊢
    rw [find?_map_ite (f := fun y : GangState => { y with bars := NMap.set y.bars id b }) (fun _ => rfl), hx]
    exact NMap.getD_set_self ..

theorem State.setBarrier_mem (s : State) (q : Nat) (g : Group) (id : Nat) (b : Barrier) : (s.setBarrier q g id b).mem = s.mem := by
  unfold State.setBarrier
  split <;> rfl

theorem State.group?_setBarrier (s : State) (q : Nat) (g : Group) (id : Nat) (b : Barrier) (q' slot : Nat) :
    (s.setBarrier q g id b).group? q' slot = s.group? q' slot := by
  unfold State.setBarrier
  split
  · exact State.group?_modQuad_of_groups s q (by exact fun _ => rfl) q' slot
  · rfl

/-! ### Groups that are let go (R153) -/

/-- A group that stands at a barrier may go on; any other stays as it is. -/
def Group.letGo (h : Group) : Group :=
  match h.wait with
  | .bar _ => { h with wait := .bar true }
  | _ => h

theorem Group.letGo_of_bar {h : Group} {r : Bool} (w : h.wait = .bar r) : h.letGo = { h with wait := .bar true } := by
  simp only [Group.letGo, w]

theorem Group.letGo_of_not_bar {h : Group} (w : ∀ r, h.wait ≠ .bar r) : h.letGo = h := by
  unfold Group.letGo
  split
  next r hr => exact absurd hr (w r)
  next => rfl

theorem Group.letGo_letGo (h : Group) : h.letGo.letGo = h.letGo := by
  by_cases w : ∃ r, h.wait = .bar r
  · obtain ⟨r, hr⟩ := w
    rw [Group.letGo_of_bar hr]
    exact Group.letGo_of_bar rfl
  · rw [Group.letGo_of_not_bar (h := h) (fun r hr => w ⟨r, hr⟩)]
    exact Group.letGo_of_not_bar fun r hr => w ⟨r, hr⟩

theorem Group.letGo_owner (h : Group) (q slot : Nat) : h.letGo.owner q slot = h.owner q slot := by
  unfold Group.letGo
  split <;> rfl

/-- One group that is listed with its place is let go, where it is. -/
def State.letGo (s : State) (e : Nat × Nat × Group) : State := s.modAny (e.2.2.owner e.1 e.2.1) Group.letGo

/-- Groups that stood at a barrier may have been let go, and nothing else has changed. -/
structure LetGo (s t : State) : Prop where
  mem : t.mem = s.mem
  gangs : t.gangs = s.gangs
  crew : ∀ q g, t.crew? q g = s.crew? q g
  groups : ∀ q slot, t.group? q slot = s.group? q slot ∨ t.group? q slot = (s.group? q slot).map Group.letGo

theorem LetGo.refl (s : State) : LetGo s s := ⟨rfl, rfl, fun _ _ => rfl, fun _ _ => .inl rfl⟩

theorem LetGo.trans {s t u : State} (h : LetGo s t) (h' : LetGo t u) : LetGo s u where
  mem := h'.mem.trans h.mem
  gangs := h'.gangs.trans h.gangs
  crew q g := (h'.crew q g).trans (h.crew q g)
  groups q slot := by
    have twice : ((s.group? q slot).map Group.letGo).map Group.letGo = (s.group? q slot).map Group.letGo := by
      cases s.group? q slot with
      | none => rfl
      | some g => exact congrArg some g.letGo_letGo
    rcases h.groups q slot with e | e <;> rcases h'.groups q slot with e' | e' <;> rw [e'] <;> simp only [e, twice, true_or, or_true]

theorem letGo_setGroup {s : State} {q slot : Nat} {g : Group} (hg : s.group? q slot = some g) : LetGo s (s.setGroup q slot g.letGo) where
  mem := rfl
  gangs := rfl
  crew q' h := State.crew?_setGroup s q' q slot g.letGo h
  groups q' slot' := by
    by_cases here : (q, slot) = (q', slot')
    · cases here
      exact .inr (by rw [State.group?_setGroup hg, hg]; rfl)
    · exact .inl (State.group?_setGroup_of_ne s g.letGo here)

theorem letGo_step (s : State) (e : Nat × Nat × Group) : LetGo s (s.letGo e) := by
  have placed : LetGo s (s.modOwner (e.2.2.owner e.1 e.2.1) Group.letGo) := by
    unfold State.modOwner
    split
    next g hg => exact letGo_setGroup (State.group?_of_ownerGroup? hg)
    next => exact .refl s
  exact ⟨placed.mem, placed.gangs, placed.crew, placed.groups⟩

theorem letGo_foldl (l : List (Nat × Nat × Group)) (s : State) : LetGo s (l.foldl State.letGo s) :=
  List.foldlRecOn l _ (motive := LetGo s) (.refl s) fun t ht e _ => ht.trans (letGo_step t e)

/-- A group that is listed is let go. -/
theorem State.group?_foldl_letGo {s : State} {q slot : Nat} {x : Group} (hx : s.group? q slot = some x) {l : List (Nat × Nat × Group)}
    (listed : (q, slot, x) ∈ l) : (l.foldl State.letGo s).group? q slot = some x.letGo := by
  obtain ⟨before, after, rfl⟩ := List.append_of_mem listed
  rw [List.foldl_append, List.foldl_cons]
  have first := (letGo_foldl before s).groups q slot
  generalize before.foldl State.letGo s = t at first
  have step : (t.letGo (q, slot, x)).group? q slot = some x.letGo := by
    obtain ⟨z, hz, owner, same⟩ : ∃ z, t.group? q slot = some z ∧ z.owner q slot = x.owner q slot ∧ z.letGo = x.letGo := by
      rw [hx] at first
      rcases first with e | e
      · exact ⟨x, e, rfl, rfl⟩
      · exact ⟨x.letGo, e, x.letGo_owner q slot, x.letGo_letGo⟩
    have mine := State.ownerGroup?_of_group? hz
    rw [owner] at mine
    rw [← same]
    exact State.group?_modOwner mine Group.letGo
  have last := (letGo_foldl after (t.letGo (q, slot, x))).groups q slot
  rw [step, Option.map_some, x.letGo_letGo, or_self] at last
  exact last

section
variable (s : State) (q : Nat) (g : Group) (id : Nat) (b : Barrier) (go : List Nat)

/-- Where nobody traps, the barrier is written and those that go on are let go. -/
theorem State.barrierOut_eq : s.barrierOut q g id { bar := b, go := go, trapped := [] } =
    ((s.setBarrier q g id b).members g id go).foldl State.letGo (s.setBarrier q g id b) := by
  have none_ : ∀ t : State, t.members g id [] = [] := fun t => by simp [State.members]
  simp only [State.barrierOut, none_, List.foldl_nil]
  rfl

theorem letGo_barrierOut : LetGo (s.setBarrier q g id b) (s.barrierOut q g id { bar := b, go := go, trapped := [] }) := by
  rw [State.barrierOut_eq]
  exact letGo_foldl ..

variable {s q g id} in
theorem State.barrier_barrierOut (here : s.HasBarrier q g id) :
    (s.barrierOut q g id { bar := b, go := go, trapped := [] }).barrier q g id = b := by
  have out := letGo_barrierOut s q g id b go
  exact (State.barrier_congr (out.crew q g) out.gangs id).trans (State.barrier_setBarrier here b)

/-- A group that does not stand at a barrier stays as it is. -/
theorem State.group?_barrierOut {q' slot : Nat} {x : Group} (hx : s.group? q' slot = some x) (w : ∀ r, x.wait ≠ .bar r) :
    (s.barrierOut q g id { bar := b, go := go, trapped := [] }).group? q' slot = some x := by
  have out := (letGo_barrierOut s q g id b go).groups q' slot
  rw [State.group?_setBarrier, hx, Option.map_some, Group.letGo_of_not_bar w, or_self] at out
  exact out

variable {go} in
/-- A group of the barrier that goes on is let go. -/
theorem State.group?_barrierOut_of_mem {q' slot : Nat} {x : Group} (hx : s.group? q' slot = some x) (inst : x.sameInst g id = true)
    (goes : x.member id ∈ go) : (s.barrierOut q g id { bar := b, go := go, trapped := [] }).group? q' slot = some x.letGo := by
  rw [State.barrierOut_eq]
  have hx' := (s.group?_setBarrier q g id b q' slot).trans hx
  refine State.group?_foldl_letGo hx' (List.mem_filter.2 ⟨List.mem_append_left _ (State.mem_allGroups hx'), ?_⟩)
  simp only [inst, Bool.true_and, List.contains_iff_mem, goes]

end

/-! ### The acquire of BAR.SYNC (R155) -/

theorem keeps_addOrder (s : State) (q slot : Nat) (waits : List Nat) (wide hosts promote inv : Bool) :
    Keeps s (s.addOrder q slot waits wide hosts promote inv) := by
  refine (keeps_modGroup s q slot ?_).trans (.of_same rfl rfl rfl ?_ rfl rfl rfl)
  · exact fun _ => rfl
  · exact (State.modGroup_nextId ..).le.trans (Nat.le_succ _)

/-- The acquire that follows an arrival with `.sync`. -/
def State.acquired (s : State) (q slot : Nat) (g : Group) (sync : Bool) (sc : Scope) : State :=
  if sync then s.fence q slot g (.acq sc) else s

theorem keeps_acquired (s : State) (q slot : Nat) (g : Group) (sync : Bool) (sc : Scope) : Keeps s (s.acquired q slot g sync sc) := by
  unfold State.acquired
  split
  · exact (keeps_addOrder ..).trans (keeps_settle _)
  · exact .refl s

theorem State.acquired_gangs (s : State) (q slot : Nat) (g : Group) (sync : Bool) (sc : Scope) :
    (s.acquired q slot g sync sc).gangs = s.gangs := by
  unfold State.acquired
  split
  · exact (State.settle_gangs _).trans (State.modGroup_gangs s q slot _)
  · rfl

/-! ### BAR -/

/-- What a `BAR` keeps: memory, and the registers of its group, or those that giving up its jet leaves. -/
def BarKept (s u : State) (y g : Group) : Prop :=
  u.mem = s.mem ∧ y.v = g.v ∧ y.s = g.s ∧ y.p = g.p ∧ y.h = g.h ∧ y.em = g.em ∧ y.status = g.status ∧ y.stack = g.stack

theorem barKept_of_sameRegs {s u : State} {y g : Group} (mem : u.mem = s.mem) (regs : y.SameRegs g) : BarKept s u y g := by
  obtain ⟨v, s, p, hd, em, status, stack, -⟩ := regs
  exact ⟨mem, v, s, p, hd, em, status, stack⟩

theorem Group.opened_member (g : Group) (id : Nat) : g.opened.member id = g.member id := by
  obtain ⟨-, -, -, crew, grp, -⟩ := g.opened_place
  rw [Group.member, crew, grp, Group.member]

theorem Group.opened_instSize (g : Group) (id : Nat) : g.opened.instSize id = g.instSize id := by
  obtain ⟨-, -, -, -, -, gpc, cpg⟩ := g.opened_place
  rw [Group.instSize, gpc, cpg, Group.instSize]

theorem Group.sameInst_opened (x g : Group) (id : Nat) : x.sameInst g.opened id = x.sameInst g id := by
  obtain ⟨basin, launch, gang, crew, -⟩ := g.opened_place
  rw [Group.sameInst, basin, launch, gang, crew, Group.sameInst]

/-- An arrival that nobody's count stands against: its group goes on or stands. -/
theorem barArrive_eq {s : State} {q slot : Nat} {g z : Group} {id n : Nat} {sync : Bool} {b : Barrier} {go : List Nat}
    (out : (s.barrier q g id).arrive (g.member id) n sync = { bar := b, go := go, trapped := [] })
    (hz : (s.barrierOut q g id { bar := b, go := go, trapped := [] }).group? q slot = some z) :
    barArrive id n sync s q slot g =
      if g.member id ∈ go then
        .next ((s.barrierOut q g id { bar := b, go := go, trapped := [] }).acquired q slot z sync (barScope id)) .none none
      else .wait (s.barrierOut q g id { bar := b, go := go, trapped := [] }) (.bar false) := by
  simp only [barArrive, out, List.contains_nil, Bool.false_eq_true, if_false, List.contains_iff_mem, hz]
  rfl

section
variable {s t : State} {g : Group} {sync : Bool} {id : BitVec 5} {cnt : USel} (h : Issues s (.bar sync id cnt) g)
include h

/-- A `BAR` whose release is over and whose scratchpad requests are applied arrives. -/
theorem exec_bar_of_stage {e : Nat} (stage : g.wait = .stage e) (applied : s.applied s.cur.1 s.cur.2 = true) :
    exec (.bar sync id cnt) s = runInstr s (.bar sync id cnt) (barArrive id.toNat (uAt g cnt).toNat sync) := by
  refine exec_bar.trans (runInstr_congr h ?_)
  simp only [g.opened_wait, stage, reduceCtorEq, if_false, relThen, orderThen, untilThen, State.openCur_applied, applied, if_true, uAt_opened]

/-- A `BAR` that may go on. -/
theorem exec_bar_of_released {r : Bool} (released : g.wait = .bar r) : exec (.bar sync id cnt) s =
    runInstr s (.bar sync id cnt) (fun s q slot g => .next (s.acquired q slot g sync (barScope id.toNat)) .none none) := by
  refine exec_bar.trans (runInstr_congr h ?_)
  simp only [g.opened_wait, released, State.acquired]

/-- A `BAR` that issues with a count that is refused (R153). -/
theorem bar_raises (fresh : g.wait = .none) {tr : Trap} (check : s.barCheck s.cur.1 g id.toNat (uAt g cnt).toNat = some tr) :
    Raises s (.bar sync id cnt) g tr := by
  have same : (s.openCur g).barCheck s.cur.1 g.opened id.toNat (uAt g cnt).toNat = some tr := by
    rw [← check, State.barCheck, State.openCur_barrier, Group.opened_instSize, State.barCheck]
  refine raises_of_trap h exec_bar ?_
  simp only [g.opened_wait, fresh, if_true, uAt_opened, same]

variable {body : Body} (he : exec (.bar sync id cnt) s = runInstr s (.bar sync id cnt) body)
  (ht : t.group? s.cur.1 s.cur.2 = some g.opened) (mem : t.mem = s.mem)
include he ht mem

/-- A `BAR` that goes on, once its body has left the state `t`: the acquire changes no barrier, and of the other groups only what their later
accesses wait for. -/
theorem bar_goes {sc : Scope} (hb : body (s.openCur g) s.cur.1 s.cur.2 g.opened = .next (t.acquired s.cur.1 s.cur.2 g.opened sync sc) .none none) :
    GroupAfter (exec (.bar sync id cnt) s) s.cur.1 s.cur.2 (fun u y =>
      (BarKept s u y g ∧ y.pc = g.pc + instrLen (.bar sync id cnt) ∧ y.wait = .none) ∧
      (∀ k, u.barrier s.cur.1 g k = t.barrier s.cur.1 g k) ∧
      ∀ q slot x, (q, slot) ≠ (s.cur.1, s.cur.2) → t.group? q slot = some x → ∃ z, u.group? q slot = some z ∧ z.core = x.core) := by
  have k := keeps_acquired t s.cur.1 s.cur.2 g.opened sync sc
  obtain ⟨z, hz, core⟩ := k.group ht
  obtain ⟨u, y, hu, hy, rfl, regs, pc, wait⟩ :=
    completes_of_next h he hz ((Group.sameRegs_of_core core).trans g.sameRegs_opened) hb
  refine ⟨_, y, hu, hy, ⟨barKept_of_sameRegs (k.mem.trans mem) regs, pc, wait⟩, fun n => ?_, fun q slot x other hx => ?_⟩
  · exact State.barrier_congr ((State.crew?_setGroup ..).trans (k.crew?_eq ..)) (State.acquired_gangs ..) n
  · obtain ⟨w, hw, kept⟩ := k.group hx
    exact ⟨w, (State.group?_setGroup_of_ne _ y other.symm).trans hw, kept⟩

/-- A `BAR` that stands where it is, once its body has left the state `t`. -/
theorem bar_stands (hb : body (s.openCur g) s.cur.1 s.cur.2 g.opened = .wait t (.bar false)) :
    GroupAfter (exec (.bar sync id cnt) s) s.cur.1 s.cur.2 (fun u y =>
      (∀ k, u.barrier s.cur.1 g k = t.barrier s.cur.1 g k) ∧
      BarKept s u y g.leaveJet ∧ y.pc = g.pc ∧ y.wait = .bar false ∧ y.jet = none) := by
  obtain ⟨u, y, hu, hy, ⟨again, rfl⟩, regs, stands⟩ :=
    stands_of_wait h he ht g.sameRegs_opened g.opened_jetOr g.opened_fields.1 hb
  refine ⟨_, y, hu, hy, fun n => ?_, barKept_of_sameRegs mem regs, stands⟩
  exact State.barrier_congr ((State.crew?_freeIssue ..).trans (State.crew?_setGroup ..)) rfl n

end

/-! ### An arrival -/

section
variable {s : State} {g : Group} {sync : Bool} {id : BitVec 5} {cnt : USel} (h : Issues s (.bar sync id cnt) g)
  (stage : ∃ e, g.wait = .stage e) (applied : s.applied s.cur.1 s.cur.2 = true) (here : s.HasBarrier s.cur.1 g id.toNat)
  {b : Barrier} {go : List Nat} (out : (s.barrier s.cur.1 g id.toNat).arrive (g.member id.toNat) (uAt g cnt).toNat sync =
    { bar := b, go := go, trapped := [] })
include h stage

/-- The state in which the barrier has taken the arrival. -/
def State.arrived (s : State) (g : Group) (id : Nat) (b : Barrier) (go : List Nat) : State :=
  (s.openCur g).barrierOut s.cur.1 g.opened id { bar := b, go := go, trapped := [] }

theorem State.group?_arrived : (s.arrived g id.toNat b go).group? s.cur.1 s.cur.2 = some g.opened := by
  obtain ⟨e, stage⟩ := stage
  exact State.group?_barrierOut _ _ _ _ b go (State.openCur_group? h.1) (fun r => by simp [g.opened_wait, stage])

omit h stage in
theorem State.arrived_mem : (s.arrived g id.toNat b go).mem = s.mem :=
  (letGo_barrierOut ..).mem.trans (State.setBarrier_mem ..)

omit h stage in
include here in
theorem State.arrived_barrier : (s.arrived g id.toNat b go).barrier s.cur.1 g id.toNat = b := by
  rw [← State.barrier_opened]
  exact State.barrier_barrierOut b go here.opened

include applied here out

/-- The arrival of a group that is among those that go on. -/
theorem arrival_goes (goes : g.member id.toNat ∈ go) : GroupAfter (exec (.bar sync id cnt) s) s.cur.1 s.cur.2 (fun u y =>
    u.barrier s.cur.1 g id.toNat = b ∧ (BarKept s u y g ∧ y.pc = g.pc + instrLen (.bar sync id cnt) ∧ y.wait = .none) ∧
    ∀ q slot x, s.group? q slot = some x → (q, slot) ≠ (s.cur.1, s.cur.2) → x.sameInst g id.toNat = true → x.member id.toNat ∈ go →
      x.wait = .bar false → ∃ z, u.group? q slot = some z ∧ z.wait = .bar true ∧ z.pc = x.pc ∧ z.v = x.v) := by
  have mine := State.group?_arrived h stage (b := b) (go := go)
  obtain ⟨e, stage⟩ := stage
  rw [← State.openCur_barrier, ← Group.opened_member] at out
  obtain ⟨u, y, hu, hy, on, bar, others⟩ := bar_goes h (exec_bar_of_stage h stage applied) mine State.arrived_mem
    ((barArrive_eq out mine).trans (if_pos (g.opened_member _ ▸ goes)))
  refine ⟨u, y, hu, hy, (bar _).trans (State.arrived_barrier here), on, fun q slot x hx other inst member wait => ?_⟩
  have gone := State.group?_barrierOut_of_mem (s.openCur g) s.cur.1 g.opened id.toNat b
    ((State.group?_setGroup_of_ne s g.opened other.symm).trans hx) ((x.sameInst_opened g _).trans inst) member
  rw [Group.letGo_of_bar wait] at gone
  obtain ⟨z, hz, core⟩ := others q slot _ other gone
  exact ⟨z, hz, (congrArg Group.wait core :), (congrArg Group.pc core :), (congrArg Group.v core :)⟩

/-- The arrival of a group that is not among those that go on. -/
theorem arrival_stands (stands : g.member id.toNat ∉ go) : GroupAfter (exec (.bar sync id cnt) s) s.cur.1 s.cur.2 (fun u y =>
    u.barrier s.cur.1 g id.toNat = b ∧ BarKept s u y g.leaveJet ∧ y.pc = g.pc ∧ y.wait = .bar false ∧ y.jet = none) := by
  have mine := State.group?_arrived h stage (b := b) (go := go)
  obtain ⟨e, stage⟩ := stage
  rw [← State.openCur_barrier, ← Group.opened_member] at out
  obtain ⟨u, y, hu, hy, bar, rest⟩ := bar_stands h (exec_bar_of_stage h stage applied) mine State.arrived_mem
    ((barArrive_eq out mine).trans (if_neg (g.opened_member _ ▸ stands)))
  exact ⟨u, y, hu, hy, (bar _).trans (State.arrived_barrier here), rest⟩

end

theorem groupAfter_imp {o : Out} {q slot : Nat} {P Q : State → Group → Prop} (h : GroupAfter o q slot P) (f : ∀ t g, P t g → Q t g) :
    GroupAfter o q slot Q := by
  obtain ⟨t, g, ht, hg, p⟩ := h
  exact ⟨t, g, ht, hg, f t g p⟩

/-- Settles O37: the arrival is `Barrier.arrive`, and `State.barrierOut` writes the barrier and lets groups go; what the acquire of `.sync`
lets follow touches neither a barrier nor who waits at one. -/
theorem barrierArrivalsCount : Obligations.BarrierArrivalsCount := by
  intro s g sync id cnt i q slot k n b m kept goesOn h
  refine ⟨fun stage applied _ _ count held new here => ?_, fun stage applied _ _ _ again here => ?_, fun released => ?_, fun fresh wrong => ?_,
    fun fresh low high set other => ?_⟩
  · by_cases last : b.arr + 1 = n
    · have go : ∀ x, x ∈ b.waiting ∨ x = m → x ∈ (if sync then [] else [m]) ++ (if sync then b.waiting ++ [m] else b.waiting) := by
        intro x hx
        cases sync <;> simpa [or_comm] using hx
      refine groupAfter_imp (arrival_goes h stage applied here (Barrier.arrive_completes sync new count held last) (go m (.inr rfl))) ?_
      rintro t y ⟨bar, on, others⟩
      exact ⟨fun open_ => absurd last open_, fun _ => ⟨bar, on, fun q' slot' x hx apart inst waits =>
        others q' slot' x hx apart inst (go _ (.inl waits))⟩⟩
    · have counts := Barrier.arrive_counts sync new count last
      cases sync with
      | false =>
        refine groupAfter_imp (arrival_goes h stage applied here counts (List.mem_singleton_self m)) ?_
        rintro t y ⟨bar, on, -⟩
        exact ⟨fun _ => ⟨bar, fun _ => on, nofun⟩, fun e => absurd e last⟩
      | true =>
        refine groupAfter_imp (arrival_stands h stage applied here counts List.not_mem_nil) ?_
        rintro t y ⟨bar, stands⟩
        exact ⟨fun _ => ⟨bar, nofun, fun _ => stands⟩, fun e => absurd e last⟩
  · refine groupAfter_imp (arrival_stands h stage applied here (Barrier.arrive_again sync again) List.not_mem_nil) ?_
    rintro t y ⟨bar, keeps, stands⟩
    exact ⟨keeps, bar, stands⟩
  · refine groupAfter_imp (bar_goes h (exec_bar_of_released h released) (State.openCur_group? h.1) rfl rfl) ?_
    rintro t y ⟨on, -⟩
    exact on
  · exact bar_raises h fresh (if_pos wrong)
  · have right : ¬ (n = 0 ∨ g.instSize k < n) := by omega
    exact bar_raises h fresh ((if_neg right).trans (if_pos ⟨set, other⟩))

end Sys2Proof.Machine
end

section
/-! `GATE`: the fields of a gate, what an operation leaves of its crew and its group, and the obligation about it (R156 to R160, R324). -/

namespace Sys2Proof.Machine

/-! ### The fields of a gate (R156) -/

section
variable {ph : Bool} {expa pena penb : Nat} (hexpa : expa < 2 ^ 15) (hpena : pena < 2 ^ 15) (hpenb : penb < 2 ^ 32)
include hexpa hpena hpenb

theorem gateOf_lt : gateOf ph expa pena penb < 256 ^ 8 := by
  unfold gateOf
  split <;> omega

/-- A gate that is put together from fields has these fields. -/
theorem gateOf_fields : gatePH (gateOf ph expa pena penb) = ph ∧ gateEXPA (gateOf ph expa pena penb) = expa ∧
    gatePENA (gateOf ph expa pena penb) = pena ∧ gatePENB (gateOf ph expa pena penb) = penb := by
  unfold gatePH gateEXPA gatePENA gatePENB gateOf
  rw [Nat.testBit_eq_decide_div_mod_eq]
  cases ph
  · refine ⟨decide_eq_false ?_, ?_, ?_, ?_⟩ <;> simp only [Bool.false_eq_true, if_false] <;> omega
  · refine ⟨decide_eq_true ?_, ?_, ?_, ?_⟩ <;> simp only [if_true] <;> omega

end

theorem gatePENA_lt (w : Nat) : gatePENA w < 2 ^ 15 := Nat.mod_lt _ (Nat.two_pow_pos 15)

theorem gatePENB_lt (w : Nat) : gatePENB w < 2 ^ 32 := Nat.mod_lt _ (by decide)

/-- Whether nothing is pending at a gate (R158). -/
def gateDone (pena penb : Nat) : Bool := if pena = 0 ∧ penb = 0 then true else false

/-- The gate `w'` is the gate `w` after an operation that leaves PENA and PENB: with nothing pending the phase flips and the arrivals start
again (R158). -/
def GateBecomes (w w' pena penb : Nat) : Prop :=
  gateEXPA w' = gateEXPA w ∧ gatePH w' = (gatePH w != gateDone pena penb) ∧
    gatePENA w' = (if gateDone pena penb then gateEXPA w else pena) ∧ gatePENB w' = penb

theorem gateTest_lt {w pena penb : Nat} (hpena : pena < 2 ^ 15) (hpenb : penb < 2 ^ 32) :
    gateTest (gatePH w) (gateEXPA w) pena penb < 256 ^ 8 := by
  have hexpa : gateEXPA w < 2 ^ 15 := Nat.mod_lt _ (by decide)
  unfold gateTest
  split
  · exact gateOf_lt hexpa hexpa (by decide)
  · exact gateOf_lt hexpa hpena hpenb

theorem gateTest_becomes {w pena penb : Nat} (hpena : pena < 2 ^ 15) (hpenb : penb < 2 ^ 32) :
    GateBecomes w (gateTest (gatePH w) (gateEXPA w) pena penb) pena penb := by
  have hexpa : gateEXPA w < 2 ^ 15 := Nat.mod_lt _ (by decide)
  unfold gateTest GateBecomes gateDone
  by_cases done : pena = 0 ∧ penb = 0
  · obtain ⟨rfl, rfl⟩ := done
    obtain ⟨ph, expa, pena', penb'⟩ := gateOf_fields (ph := !gatePH w) hexpa hexpa (penb := 0) (by decide)
    simp only [and_self, if_true, ph, expa, pena', penb', Bool.bne_true]
  · obtain ⟨ph, expa, pena', penb'⟩ := gateOf_fields (ph := gatePH w) hexpa hpena hpenb
    simp only [if_neg done, ph, expa, pena', penb', Bool.bne_false, Bool.false_eq_true, if_false, and_self]

/-! ### One step of a gate (R158, R159) -/

theorem State.markTile_mem (s : State) (q : Nat) (g : Group) (a n : Nat) : (s.markTile q g a n).mem = s.mem := by
  unfold State.markTile
  split <;> rfl

theorem State.sluice_mem (s : State) (q : Nat) (g : Group) (word : Nat) : (s.sluice q g word).mem = s.mem := by
  unfold State.sluice
  split <;> rfl

theorem State.gateStep_mem (s : State) (q : Nat) (g : Group) (a : Nat) (f : Nat → Nat) : (s.gateStep q g a f).mem = s.mem :=
  (State.sluice_mem ..).trans (State.markTile_mem ..)

/-- The registers, the place and the jet of a group do not depend on who watches the scratchpad. -/
theorem Group.sameRegs_of_unwatched {h g : Group} (e : h.unwatched = g.unwatched) : h.SameRegs g ∧ h.jetOr = g.jetOr ∧ h.pc = g.pc := by
  have pc : h.pc = g.pc := (congrArg Group.pc e :)
  have jet : h.jet = g.jet := (congrArg Group.jet e :)
  exact ⟨⟨(congrArg Group.v e :), (congrArg Group.s e :), (congrArg Group.p e :), (congrArg Group.h e :), (congrArg Group.em e :),
    (congrArg Group.status e :), (congrArg Group.stack e :), (congrArg Group.flights e :)⟩, by rw [Group.jetOr, jet, pc, Group.jetOr], pc⟩

/-- A step of a gate changes its word; groups that watch the scratchpad notice it. -/
theorem State.gateStep_spec {s : State} {q slot : Nat} {g z : Group} {c : Crew} (hz : s.group? q slot = some z) (hc : s.crew? q g = some c)
    (a : Nat) (f : Nat → Nat) : (s.gateStep q g a f).crew? q g = some (c.putNum a 8 (f (c.num a 8))) ∧
      ∃ y, (s.gateStep q g a f).group? q slot = some y ∧ y.unwatched = z.unwatched := by
  have written := (s.crew?_modCrew q g (f := fun c => c.putNum a 8 (f (c.num a 8))) (fun _ => by rfl)).trans (congrArg _ hc)
  obtain ⟨x, hx, hxz⟩ := State.quad?_of_group? hz
  have hx1 : (s.modCrew q g (fun c => c.putNum a 8 (f (c.num a 8)))).quad? q = some (x.modCrew g (fun c => c.putNum a 8 (f (c.num a 8)))) :=
    (State.quad?_modQuad s q q _).trans ((if_pos rfl).trans (congrArg _ hx))
  obtain ⟨x2, hx2, marked⟩ := State.markTile_quad hx1 g a 8
  obtain ⟨x3, hx3, sluiced⟩ := State.sluice_quad hx2 g (a / 8)
  have watched := marked.trans sluiced
  have place := watched.groups slot
  rw [show NMap.get? (x.modCrew g _).groups slot = some z from hxz] at place
  obtain ⟨y, hy, same⟩ := Option.map_eq_some_iff.1 place
  refine ⟨?_, y, ?_, same⟩
  · rw [State.crew?, hx1] at written
    rw [State.gateStep, State.crew?, hx3]
    exact (Quad.crewOf?_congr watched.crews rfl rfl rfl).trans written
  · rw [State.gateStep, State.group?, hx3]
    exact hy

/-! ### GATE -/

/-- The address of a gate (R324). -/
def gateAddr (g : Group) (base : USel) (ofs : BitVec 16) : Nat := (uAt g base + BitVec.ofInt 32 ofs.toInt).toNat

theorem spAddr_eq_gateAddr (g : Group) (base : USel) (ofs : BitVec 16) : spAddr (uAt g base) 0#32 ofs.toInt = gateAddr g base ofs := by
  rw [spAddr, BitVec.add_zero, gateAddr]

/-- The gate at an address of a group's crew holds the word `w` after an operation that leaves PENA and PENB. -/
def GateLeft (t : State) (q : Nat) (g : Group) (a w pena penb : Nat) : Prop :=
  ∃ c, t.crew? q g = some c ∧ GateBecomes w (c.num a 8) pena penb

theorem gateLeft_of_crew {t : State} {q : Nat} {g : Group} {c : Crew} {a w pena penb : Nat} (hpena : pena < 2 ^ 15) (hpenb : penb < 2 ^ 32)
    (hc : t.crew? q g = some (c.putNum a 8 (gateTest (gatePH w) (gateEXPA w) pena penb))) : GateLeft t q g a w pena penb := by
  refine ⟨_, hc, ?_⟩
  rw [Crew.num_putNum, Nat.mod_eq_of_lt (gateTest_lt hpena hpenb)]
  exact gateTest_becomes hpena hpenb

/-- PENA after an arrival (R158). -/
def arrivedPENA (w : Nat) : Nat := (gatePENA w + 32767) % 32768

theorem gateArrive_eq (w : Nat) : gateArrive w = gateTest (gatePH w) (gateEXPA w) (arrivedPENA w) (gatePENB w) := by
  have less : (gatePENA w + 2 ^ 15 - 1) % 2 ^ 15 = arrivedPENA w := by
    unfold arrivedPENA
    omega
  rw [gateArrive, less]

theorem arrivedPENA_lt (w : Nat) : arrivedPENA w < 2 ^ 15 := Nat.mod_lt _ (by decide)

theorem gateArrive_lt (w : Nat) : gateArrive w < 256 ^ 8 :=
  gateArrive_eq w ▸ gateTest_lt (arrivedPENA_lt w) (gatePENB_lt w)

theorem gateArrive_phase (w : Nat) : gatePH (gateArrive w) = (gatePH w != gateDone (arrivedPENA w) (gatePENB w)) := by
  obtain ⟨-, phase, -⟩ := gateTest_becomes (arrivedPENA_lt w) (gatePENB_lt w)
  rw [gateArrive_eq, phase]

/-- PENB after `n` bytes have been expected (R158). -/
def expectedPENB (w n : Nat) : Nat := (gatePENB w + n) % 2 ^ 32

theorem gateExpect_eq (w n : Nat) : gateExpect w n = gateTest (gatePH w) (gateEXPA w) (gatePENA w) (expectedPENB w n) := by
  rw [gateExpect, expectedPENB]

theorem expectedPENB_lt (w n : Nat) : expectedPENB w n < 2 ^ 32 := Nat.mod_lt _ (Nat.two_pow_pos 32)

section
variable {s : State} {g : Group} {op : GateOp} {base : USel} {ofs : BitVec 16}

/-- A group that its gate has released has nothing more to do (R158). -/
theorem gate_released (h : Issues s (.gate op base ofs) g) {e : Nat} {p r : Bool} (released : g.wait = .gate e p r) :
    Runs s (.gate op base ofs) g g .none [] 0#5 (g.pc + instrLen (.gate op base ofs)) := by
  refine runs_of_unchanged h exec_gate ?_
  simp only [g.opened_wait, released, if_true]

theorem gate_raises_operand {x : USel} (h : Issues s (.gate (.wait x) base ofs) g) (fresh : ∀ e p r, g.wait ≠ .gate e p r)
    (bad : 1 < (uAt g x).toNat) : Raises s (.gate (.wait x) base ofs) g Trap.operand := by
  refine raises_of_trap h exec_gate ((if_neg ?stands).trans (if_pos ?phase))
  case stands =>
    split
    next e p r w => exact absurd (g.opened_wait ▸ w) (fresh e p r)
    next => exact Bool.false_ne_true
  case phase => exact decide_eq_true (uAt_opened g x ▸ bad)

variable {c : Crew} (hc : s.crew? s.cur.1 g = some c)
include hc

/-- The bounds trap of a gate (R324). -/
theorem gate_raises_bounds (h : Issues s (.gate op base ofs) g) (fresh : ∀ e p r, g.wait ≠ .gate e p r)
    (low : ∀ y, op = .wait y → (uAt g y).toNat ≤ 1) (out : c.spOk (gateAddr g base ofs) 8 = false) :
    Raises s (.gate op base ofs) g (gateTrap g.opened (gateAddr g base ofs)) := by
  have crew := (s.openCur_crew? g s.cur.1).trans hc
  rw [← spAddr_eq_gateAddr, ← uAt_opened] at out ⊢
  refine raises_of_trap h exec_gate ((if_neg ?stands).trans ((if_neg ?phase).trans (if_pos ?bounds)))
  case stands =>
    split
    next e p r w => exact absurd (g.opened_wait ▸ w) (fresh e p r)
    next => exact Bool.false_ne_true
  case phase =>
    split
    next y => simpa using low y rfl
    next => exact Bool.false_ne_true
  case bounds => simp only [crew, out, Bool.not_false]

variable (ok : c.spOk (gateAddr g base ofs) 8 = true) (idle : s.crewIdle s.cur.1 g = true)
include ok idle

/-- `GATE.expect` adds to PENB behind the crew's requests (R158, R160). -/
theorem gate_expects {x : USel} (h : Issues s (.gate (.expect x) base ofs) g) (fresh : g.wait = .none) (orders : g.orders = [])
    (reads : g.relReads = []) : GroupAfter (exec (.gate (.expect x) base ofs) s) s.cur.1 s.cur.2 (fun u y =>
      u.mem = s.mem ∧ GateLeft u s.cur.1 g (gateAddr g base ofs) (c.num (gateAddr g base ofs) 8) (gatePENA (c.num (gateAddr g base ofs) 8))
        (expectedPENB (c.num (gateAddr g base ofs) 8) (uAt g x).toNat) ∧
      y.SameRegs g ∧ y.pc = g.pc + instrLen (.gate (.expect x) base ofs) ∧ y.wait = .none) := by
  have crew := (s.openCur_crew? g s.cur.1).trans hc
  obtain ⟨stepped, z, hz, same⟩ := State.gateStep_spec (State.openCur_group? h.1) crew (gateAddr g base ofs)
    (fun w => gateExpect w (uAt g x).toNat)
  obtain ⟨regs, -, -⟩ := Group.sameRegs_of_unwatched same
  rw [State.crew?_opened, gateExpect_eq] at stepped
  have mem := State.gateStep_mem (s.openCur g) s.cur.1 g.opened (gateAddr g base ofs) (fun w => gateExpect w (uAt g x).toNat)
  obtain ⟨u, y, hu, hy, rfl, regs, done⟩ := completes_of_next h exec_gate hz (regs.trans g.sameRegs_opened) (by
    have idle' : (s.openCur g).crewIdle s.cur.1 g.opened = true := (State.crewIdle_opened h.1).trans idle
    simp only [g.opened_wait, fresh, Bool.false_eq_true, if_false, uAt_opened, spAddr_eq_gateAddr, crew, ok, Bool.not_true, g.opened_orders,
      orders, reads, ne_eq, not_true_eq_false, or_self, untilThen, idle', if_true])
  refine ⟨_, y, hu, hy, (State.setGroup_mem ..).trans mem, gateLeft_of_crew (gatePENA_lt _) (expectedPENB_lt ..)
    ((State.crew?_setGroup ..).trans stepped), regs, done⟩

section
variable {x : USel} (h : Issues s (.gate (.wait x) base ofs) g) (fresh : g.wait = .none) (orders : g.orders = []) (low : (uAt g x).toNat ≤ 1)
include h fresh orders low

/-- `GATE.wait` at a gate whose phase differs from its operand has nothing to wait for (R158). -/
theorem gate_wait_runs (differs : gatePH (c.num (gateAddr g base ofs) 8) ≠ ((uAt g x).toNat == 1)) :
    Runs s (.gate (.wait x) base ofs) g g .none [] 0#5 (g.pc + instrLen (.gate (.wait x) base ofs)) := by
  have crew := (s.openCur_crew? g s.cur.1).trans hc
  have idle' : (s.openCur g).crewIdle s.cur.1 g.opened = true := (State.crewIdle_opened h.1).trans idle
  refine runs_of_unchanged h exec_gate ?_
  simp only [g.opened_wait, fresh, Bool.false_eq_true, if_false, uAt_opened, spAddr_eq_gateAddr, crew, ok, Bool.not_true, g.opened_orders,
      orders, ne_eq, not_true_eq_false, untilThen, idle', if_true, not_lt.2 low, decide_false, bne_iff_ne, differs, not_false_eq_true]

/-- At any other gate it stands. -/
theorem gate_wait_stands (equal : gatePH (c.num (gateAddr g base ofs) 8) = ((uAt g x).toNat == 1)) :
    Waits s (.gate (.wait x) base ofs) g (.gate (gateAddr g base ofs) (gatePH (c.num (gateAddr g base ofs) 8)) false) := by
  have crew := (s.openCur_crew? g s.cur.1).trans hc
  have idle' : (s.openCur g).crewIdle s.cur.1 g.opened = true := (State.crewIdle_opened h.1).trans idle
  refine waits_of_unmet h exec_gate ?_
  simp only [g.opened_wait, fresh, Bool.false_eq_true, if_false, uAt_opened, spAddr_eq_gateAddr, crew, ok, Bool.not_true, g.opened_orders,
      orders, ne_eq, not_true_eq_false, untilThen, idle', if_true, not_lt.2 low, decide_false, bne_self_eq_false, equal]

end

end

/-! ### Arrivals -/

/-- The state in which a gate has taken an arrival and the old phase stands in its register. -/
def State.gateArrived (s : State) (g : Group) (a : Nat) (d : BitVec 6) (ph : Bool) : State :=
  ((s.openCur g).setGroup s.cur.1 s.cur.2 (g.opened.setS d.toNat (boolWord ph))).gateStep s.cur.1 g.opened a gateArrive

section
variable {s : State} {g : Group} {d : BitVec 6} {c : Crew} (hc : s.crew? s.cur.1 g = some c)
include hc

theorem State.gateArrived_spec (hg : s.group? s.cur.1 s.cur.2 = some g) (a : Nat) (ph : Bool) :
    (s.gateArrived g a d ph).crew? s.cur.1 g = some (c.putNum a 8 (gateArrive (c.num a 8))) ∧
      ∃ z, (s.gateArrived g a d ph).group? s.cur.1 s.cur.2 = some z ∧ z.SameRegs (g.setS d.toNat (boolWord ph)) ∧
        z.jetOr = (g.setS d.toNat (boolWord ph)).jetOr ∧ z.pc = g.pc := by
  have crew := (State.crew?_setGroup (s.openCur g) s.cur.1 s.cur.1 s.cur.2 (g.opened.setS d.toNat (boolWord ph)) g.opened).trans
    ((s.openCur_crew? g s.cur.1).trans hc)
  obtain ⟨stepped, z, hz, same⟩ := State.gateStep_spec
    (State.group?_setGroup (g' := g.opened.setS d.toNat (boolWord ph)) (State.openCur_group? hg)) crew a gateArrive
  obtain ⟨regs, jet, pc⟩ := Group.sameRegs_of_unwatched same
  refine ⟨(State.crew?_opened ..).symm.trans stepped, z, hz, regs.trans ?_, jet.trans g.opened_jetOr, pc.trans g.opened_fields.1⟩
  obtain ⟨v, s, p, rest⟩ := g.sameRegs_opened
  exact ⟨v, by rw [Group.setS, s, Group.setS], p, rest⟩

omit hc in
theorem State.gateArrived_mem (a : Nat) (ph : Bool) : (s.gateArrived g a d ph).mem = s.mem :=
  State.gateStep_mem ((s.openCur g).setGroup s.cur.1 s.cur.2 (g.opened.setS d.toNat (boolWord ph))) s.cur.1 g.opened a gateArrive

omit hc in
/-- What an arrival leaves of the gate, seen from a later state with the same crew. -/
theorem gateLeft_of_arrived {t : State} {a w : Nat} (stepped : t.crew? s.cur.1 g = some (c.putNum a 8 (gateArrive w))) :
    GateLeft t s.cur.1 g a w (arrivedPENA w) (gatePENB w) :=
  gateLeft_of_crew (arrivedPENA_lt w) (gatePENB_lt w) (gateArrive_eq w ▸ stepped)

/-- An arrival after which its group goes on. -/
theorem gate_arrival_completes {i : Instr} {body : Body} (h : Issues s i g) (he : exec i s = runInstr s i body) {a : Nat} {ph : Bool}
    (hb : body (s.openCur g) s.cur.1 s.cur.2 g.opened = .next (s.gateArrived g a d ph) .none none) :
    GroupAfter (exec i s) s.cur.1 s.cur.2 (fun u y => u.mem = s.mem ∧
      GateLeft u s.cur.1 g a (c.num a 8) (arrivedPENA (c.num a 8)) (gatePENB (c.num a 8)) ∧
      y.SameRegs (g.setS d.toNat (boolWord ph)) ∧ y.pc = g.pc + instrLen i ∧ y.wait = .none) := by
  obtain ⟨stepped, z, hz, regs, -, -⟩ := State.gateArrived_spec hc h.1 a ph
  obtain ⟨u, y, hu, hy, rfl, done⟩ := completes_of_next h he hz regs hb
  exact ⟨_, y, hu, hy, (State.setGroup_mem ..).trans (State.gateArrived_mem a ph),
    gateLeft_of_arrived ((State.crew?_setGroup ..).trans stepped), done⟩

/-- An arrival after which its group stands at the gate. -/
theorem gate_arrival_stands {i : Instr} {body : Body} (h : Issues s i g) (he : exec i s = runInstr s i body) {a : Nat} {ph : Bool} {w : Wait}
    (hb : body (s.openCur g) s.cur.1 s.cur.2 g.opened = .wait (s.gateArrived g a d ph) w) :
    GroupAfter (exec i s) s.cur.1 s.cur.2 (fun u y => u.mem = s.mem ∧
      GateLeft u s.cur.1 g a (c.num a 8) (arrivedPENA (c.num a 8)) (gatePENB (c.num a 8)) ∧
      y.SameRegs (g.setS d.toNat (boolWord ph)).leaveJet ∧ y.pc = g.pc ∧ y.wait = w ∧ y.jet = none) := by
  obtain ⟨stepped, z, hz, regs, jet, pc⟩ := State.gateArrived_spec hc h.1 a ph
  obtain ⟨u, y, hu, hy, ⟨again, rfl⟩, stands⟩ := stands_of_wait h he hz regs jet pc hb
  have mem := ((s.gateArrived g a d ph).setGroup_mem s.cur.1 s.cur.2 y).trans (State.gateArrived_mem a ph)
  exact ⟨_, y, hu, hy, mem, gateLeft_of_arrived ((State.crew?_freeIssue ..).trans ((State.crew?_setGroup ..).trans stepped)), stands⟩

section
variable {base : USel} {ofs : BitVec 16} {k : Nat} (ok : c.spOk (gateAddr g base ofs) 8 = true) (idle : s.crewIdle s.cur.1 g = true)
  (stage : g.wait = .stage k) (applied : s.applied s.cur.1 s.cur.2 = true)
include ok idle stage applied

theorem exec_gate_arrive (h : Issues s (.gate (.arrive d) base ofs) g) : exec (.gate (.arrive d) base ofs) s =
    runInstr s (.gate (.arrive d) base ofs) (fun _ _ _ _ =>
      .next (s.gateArrived g (gateAddr g base ofs) d (gatePH (c.num (gateAddr g base ofs) 8))) .none none) := by
  have crew := (s.openCur_crew? g s.cur.1).trans hc
  have idle' : (s.openCur g).crewIdle s.cur.1 g.opened = true := (State.crewIdle_opened h.1).trans idle
  refine exec_gate.trans (runInstr_congr h ?_)
  simp only [g.opened_wait, stage, Bool.false_eq_true, if_false, uAt_opened, spAddr_eq_gateAddr, crew, ok, Bool.not_true, relThen, orderThen,
    untilThen, State.openCur_applied, applied, idle', if_true, Bool.false_and]
  rfl

theorem exec_gate_sync (h : Issues s (.gate (.sync d) base ofs) g) : exec (.gate (.sync d) base ofs) s =
    runInstr s (.gate (.sync d) base ofs) (fun _ _ _ _ =>
      let w := c.num (gateAddr g base ofs) 8
      let t := s.gateArrived g (gateAddr g base ofs) d (gatePH w)
      if gatePH (gateArrive w) = gatePH w then .wait t (.gate (gateAddr g base ofs) (gatePH w) false) else .next t .none none) := by
  have crew := (s.openCur_crew? g s.cur.1).trans hc
  have idle' : (s.openCur g).crewIdle s.cur.1 g.opened = true := (State.crewIdle_opened h.1).trans idle
  obtain ⟨stepped, -⟩ := State.gateArrived_spec (d := d) hc h.1 (gateAddr g base ofs) (gatePH (c.num (gateAddr g base ofs) 8))
  rw [← State.crew?_opened, State.gateArrived] at stepped
  have word := Nat.mod_eq_of_lt (gateArrive_lt (c.num (gateAddr g base ofs) 8))
  refine exec_gate.trans (runInstr_congr h ?_)
  simp only [g.opened_wait, stage, Bool.false_eq_true, if_false, uAt_opened, spAddr_eq_gateAddr, crew, ok, Bool.not_true, relThen, orderThen,
    untilThen, State.openCur_applied, applied, idle', if_true, Bool.true_and, stepped, Crew.num_putNum, word, beq_iff_eq]
  rfl

/-- The arrival of `GATE.sync` that flips the phase (R158). -/
theorem gate_sync_flips (h : Issues s (.gate (.sync d) base ofs) g)
    (flips : gateDone (arrivedPENA (c.num (gateAddr g base ofs) 8)) (gatePENB (c.num (gateAddr g base ofs) 8)) = true) :
    GroupAfter (exec (.gate (.sync d) base ofs) s) s.cur.1 s.cur.2 (fun u y => u.mem = s.mem ∧
      GateLeft u s.cur.1 g (gateAddr g base ofs) (c.num (gateAddr g base ofs) 8) (arrivedPENA (c.num (gateAddr g base ofs) 8))
        (gatePENB (c.num (gateAddr g base ofs) 8)) ∧
      y.SameRegs (g.setS d.toNat (boolWord (gatePH (c.num (gateAddr g base ofs) 8)))) ∧
      y.pc = g.pc + instrLen (.gate (.sync d) base ofs) ∧ y.wait = .none) := by
  refine gate_arrival_completes hc h (exec_gate_sync hc ok idle stage applied h) (if_neg ?_)
  rw [gateArrive_phase, flips]
  cases gatePH (c.num (gateAddr g base ofs) 8) <;> decide

/-- Any other arrival of `GATE.sync`. -/
theorem gate_sync_stands (h : Issues s (.gate (.sync d) base ofs) g)
    (flips : gateDone (arrivedPENA (c.num (gateAddr g base ofs) 8)) (gatePENB (c.num (gateAddr g base ofs) 8)) = false) :
    GroupAfter (exec (.gate (.sync d) base ofs) s) s.cur.1 s.cur.2 (fun u y => u.mem = s.mem ∧
      GateLeft u s.cur.1 g (gateAddr g base ofs) (c.num (gateAddr g base ofs) 8) (arrivedPENA (c.num (gateAddr g base ofs) 8))
        (gatePENB (c.num (gateAddr g base ofs) 8)) ∧
      y.SameRegs (g.setS d.toNat (boolWord (gatePH (c.num (gateAddr g base ofs) 8)))).leaveJet ∧ y.pc = g.pc ∧
      y.wait = .gate (gateAddr g base ofs) (gatePH (c.num (gateAddr g base ofs) 8)) false ∧ y.jet = none) := by
  refine gate_arrival_stands hc h (exec_gate_sync hc ok idle stage applied h) (if_pos ?_)
  rw [gateArrive_phase, flips, Bool.bne_false]

end

end

/-- Leaving a jet writes what it holds back to the vector and predicate registers; a scalar register that was written does not matter to it. -/
theorem Group.setS_leaveJet (g : Group) (n : Nat) (x : Word) :
    (g.setS n x).leaveJet.v = g.leaveJet.v ∧ (g.setS n x).leaveJet.p = g.leaveJet.p ∧ (g.setS n x).leaveJet.s = (g.setS n x).s ∧
      (g.setS n x).leaveJet.em = g.em := by
  obtain ⟨v, p⟩ := Group.landJet_congr (h := g.setS n x) (g := g) rfl rfl g.jetOr
  obtain ⟨_, _, e⟩ := (g.setS n x).leaveJet_eq
  exact ⟨v, p, (congrArg Group.s e :), (congrArg Group.em e :)⟩

theorem Group.getS_of_setS {y g : Group} {n : Nat} {x : Word} (s : y.s = (g.setS n x).s) (r : Nat) :
    y.getS r = if n = r then x else g.getS r := by
  rw [← Group.getS_setS, Group.getS, s, Group.getS]

/-- Settles O38: the word of the gate after each operation is `gateTest` of the pending counts (`gateTest_becomes`), and neither the
scratchpad's watchers nor the acquires of a gate change a register. -/
theorem gateOperationsComplete : Obligations.GateOperationsComplete := by
  intro s g op base ofs d x c k q slot a w I done becomes pena flips hc ok orders idle
  refine ⟨fun h stage applied => ?_, fun h stage applied => ?_, fun h fresh reads => ?_, fun h fresh low =>
    ⟨gate_wait_runs hc ok idle h fresh orders low, gate_wait_stands hc ok idle h fresh orders low⟩,
    fun e p r h released => gate_released h released, fun h fresh bad => gate_raises_operand h fresh bad, fun base' h fresh low out =>
    ⟨gateTrap g.opened (gateAddr g base' ofs), rfl, rfl, gate_raises_bounds hc h fresh low ((Crew.spOk_eq_false ..).2 out)⟩⟩
  · refine groupAfter_imp (gate_arrival_completes hc h (exec_gate_arrive hc ok idle stage applied h) rfl) ?_
    rintro t y ⟨mem, left, ⟨v, s, p, -, em, -⟩, done⟩
    have reads := Group.getS_of_setS s
    exact ⟨mem, left, (reads _).trans (if_pos rfl), fun r other => (reads r).trans (if_neg other.symm), v, p, em, done⟩
  · cases flip : flips with
    | true =>
      refine groupAfter_imp (gate_sync_flips hc ok idle stage applied h flip) ?_
      rintro t y ⟨mem, left, ⟨v, s, p, -, em, -⟩, done⟩
      exact ⟨mem, left, (Group.getS_of_setS s _).trans (if_pos rfl), em, fun _ => ⟨v, p, done⟩, nofun⟩
    | false =>
      refine groupAfter_imp (gate_sync_stands hc ok idle stage applied h flip) ?_
      rintro t y ⟨mem, left, ⟨v, s, p, -, em, -⟩, stands⟩
      obtain ⟨v', p', s', em'⟩ := g.setS_leaveJet d.toNat (boolWord (gatePH w))
      exact ⟨mem, left, (Group.getS_of_setS (s.trans s') _).trans (if_pos rfl), em.trans em', nofun,
        fun _ => ⟨v.trans v', p.trans p', stands⟩⟩
  · refine groupAfter_imp (gate_expects hc ok idle h fresh orders reads) ?_
    rintro t y ⟨mem, left, ⟨v, s, p, -, em, -⟩, done⟩
    exact ⟨mem, left, s, v, p, em, done⟩

end Sys2Proof.Machine
end

section
/-! Sums and products of f32: the values of dyadics, rounding to an integer count of a place, the patterns as a strictly growing list of
magnitudes, and the obligation about FADD, FSUB and FMUL (R180, R183, R307). -/

namespace Sys2Proof.Machine

/-! ### Exact numbers -/

/-- The number that a dyadic stands for. -/
def Dy.val (d : Dy) : ℚ := d.x * 2 ^ d.e

theorem dyOf_val (s : Bool) (m : Nat) (e : Int) : (dyOf s m e).val = if s then -(m * 2 ^ e : ℚ) else m * 2 ^ e := by
  cases s <;> simp [dyOf, Dy.val]

theorem abs_dyOf_val (s : Bool) (m : Nat) (e : Int) : |(dyOf s m e).val| = m * 2 ^ e := by
  have : (0 : ℚ) ≤ m * 2 ^ e := by positivity
  cases s <;> simp only [dyOf_val, if_true, Bool.false_eq_true, if_false, abs_neg, abs_of_nonneg this]

/-- Moving a factor into the lesser exponent changes nothing. -/
theorem two_zpow_align {c e : Int} (h : c ≤ e) : (2 : ℚ) ^ (e - c).toNat * 2 ^ c = 2 ^ e := by
  rw [← zpow_natCast, Int.toNat_of_nonneg (by omega), ← zpow_add₀ two_ne_zero, sub_add_cancel]

theorem Dy.val_add (a b : Dy) : (a.add b).val = a.val + b.val := by
  simp only [Dy.val, Dy.add, Int.cast_add, Int.cast_mul, Int.cast_pow, Int.cast_ofNat, add_mul, mul_assoc]
  rw [two_zpow_align (min_le_left ..), two_zpow_align (min_le_right ..)]

theorem dyOf_neg_val (s : Bool) (m : Nat) (e : Int) : (dyOf (!s) m e).val = -(dyOf s m e).val := by
  cases s <;> simp [dyOf_val]

theorem dyOf_mul_val (s t : Bool) (m n : Nat) (e k : Int) :
    (dyOf (s != t) (m * n) (e + k)).val = (dyOf s m e).val * (dyOf t n k).val := by
  have magnitudes : (m : ℚ) * n * 2 ^ (e + k) = m * 2 ^ e * (n * 2 ^ k) := by
    rw [zpow_add₀ two_ne_zero]; ring
  cases s <;> cases t <;> simp [dyOf_val, magnitudes]

/-- A dyadic is its sign and its magnitude. -/
theorem dyOf_natAbs (d : Dy) : dyOf (decide (d.x < 0)) d.x.natAbs d.e = d := by
  obtain ⟨x, e⟩ := d
  simp only [dyOf, decide_eq_true_eq, Dy.mk.injEq, and_true]
  split <;> omega

theorem dyLt_iff (a : Nat) (ea : Int) (b : Nat) (eb : Int) : dyLt a ea b eb = true ↔ (a : ℚ) * 2 ^ ea < b * 2 ^ eb := by
  rw [← two_zpow_align (min_le_left ea eb), ← two_zpow_align (min_le_right ea eb), ← mul_assoc, ← mul_assoc,
    mul_lt_mul_iff_left₀ (by positivity)]
  simp only [dyLt, decide_eq_true_eq]
  exact_mod_cast Iff.rfl

theorem bitLen_bounds {m : Nat} (h : m ≠ 0) : 2 ^ (bitLen m - 1) ≤ m ∧ m < 2 ^ bitLen m := by
  rw [bitLen, if_neg h]
  exact ⟨Nat.log2_self_le h, Nat.lt_log2_self⟩

theorem bitLen_eq {b n : Nat} (lo : 2 ^ b ≤ n) (hi : n < 2 ^ (b + 1)) : bitLen n = b + 1 := by
  have nonzero : n ≠ 0 := (lt_of_lt_of_le (by positivity) lo).ne'
  rw [bitLen, if_neg nonzero, (Nat.log2_eq_iff nonzero).2 ⟨lo, hi⟩]

/-! ### Rounding to a multiple (R183) -/

/-- A rounded number is nearest among the integers, and the even one of two. -/
theorem intRounds_nearest {n : Int} {v : ℚ} (h : IntRounds .rn n v) (j : Int) :
    |(n : ℚ) - v| ≤ |(j : ℚ) - v| ∧ (|(n : ℚ) - v| = |(j : ℚ) - v| → j ≠ n → n % 2 = 0) := by
  obtain ⟨close, even⟩ := h
  rcases eq_or_ne j n with rfl | other
  · exact ⟨le_rfl, fun _ ne => absurd rfl ne⟩
  have apart : (1 : ℚ) ≤ |(j : ℚ) - n| := by exact_mod_cast Int.one_le_abs (sub_ne_zero.2 other)
  have := abs_sub_le (j : ℚ) v n
  rw [abs_sub_comm v] at this
  exact ⟨by linarith, fun tie _ => even (by linarith)⟩

/-- A number between two integers, rounded to the upper one where it lies above the middle or in it over an odd one. -/
theorem intRounds_of_fraction {t : Nat} {x : ℚ} (nonneg : 0 ≤ x) (below : x < 1) {up : Prop} [Decidable up]
    (h : up ↔ 1 < 2 * x ∨ 2 * x = 1 ∧ t % 2 = 1) : IntRounds .rn ((if up then t + 1 else t : Nat) : Int) (t + x) := by
  by_cases hup : up
  · have high : 1 ≤ 2 * x := (h.1 hup).elim le_of_lt (fun tie => tie.1.ge)
    have gap : (((if up then t + 1 else t : Nat) : Int) : ℚ) - (t + x) = 1 - x := by
      rw [if_pos hup]; push_cast; ring
    refine ⟨?_, fun tie => ?_⟩ <;> rw [gap, abs_of_nonneg (by linarith)] at *
    · linarith
    · have := (h.1 hup).resolve_left (by linarith)
      rw [if_pos hup]; omega
  · have low := not_or.1 (h.not.1 hup)
    have gap : (((if up then t + 1 else t : Nat) : Int) : ℚ) - (t + x) = -x := by
      rw [if_neg hup]; push_cast; ring
    refine ⟨?_, fun tie => ?_⟩ <;> rw [gap, abs_neg, abs_of_nonneg nonneg] at *
    · linarith [not_lt.1 low.1]
    · have : t % 2 ≠ 1 := fun odd => low.2 ⟨by linarith, odd⟩
      rw [if_neg hup]; omega

/-- `roundAt` to nearest gives m × 2^e as a multiple of 2^q, rounded to nearest even. -/
theorem roundAt_rn (neg : Bool) (m : Nat) (e q : Int) : IntRounds .rn (roundAt .rn neg m e q).1 (m * 2 ^ (e - q)) := by
  by_cases le : q ≤ e
  · have whole : (m : ℚ) * 2 ^ (e - q) = ((m * 2 ^ (e - q).toNat : Nat) : Int) := by
      push_cast; rw [← zpow_natCast, Int.toNat_of_nonneg (by omega)]
    rw [whole, roundAt, if_pos le]; simp [IntRounds]
  · set d := 2 ^ (q - e).toNat with hd
    have dpos : (0 : ℚ) < d := by positivity
    have parts : (m : ℚ) * 2 ^ (e - q) = (m / d : Nat) + (m % d : Nat) / (d : ℚ) := by
      have := congrArg (Nat.cast (R := ℚ)) (Nat.div_add_mod m d)
      have scale : (2 : ℚ) ^ (e - q) = (d : ℚ)⁻¹ := by
        rw [hd, Nat.cast_pow, ← zpow_natCast, Int.toNat_of_nonneg (by omega), ← zpow_neg, neg_sub]; rfl
      rw [scale, ← this]; push_cast; field_simp
    rw [parts, roundAt, if_neg le]
    refine intRounds_of_fraction (by positivity) ((div_lt_one dpos).2 (by exact_mod_cast Nat.mod_lt _ (by positivity))) ?_
    rw [mul_div_assoc', lt_div_iff₀ dpos, div_eq_one_iff_eq dpos.ne', one_mul]
    simp only [Bool.or_eq_true, Bool.and_eq_true, decide_eq_true_eq, beq_iff_eq]
    exact_mod_cast Iff.rfl

theorem intRounds_le {n j : Int} {v : ℚ} (h : IntRounds .rn n v) (le : v ≤ j) : n ≤ j := by
  have := (abs_le.1 h.1).2
  have : (n : ℚ) < (j + 1 : Int) := by push_cast; linarith
  exact Int.lt_add_one_iff.1 (Int.cast_lt.1 this)

theorem le_intRounds {n j : Int} {v : ℚ} (h : IntRounds .rn n v) (le : (j : ℚ) ≤ v) : j ≤ n := by
  have := (abs_le.1 h.1).1
  have : (j : ℚ) < (n + 1 : Int) := by push_cast; linarith
  exact Int.lt_add_one_iff.1 (Int.cast_lt.1 this)

/-- Rounding keeps a full number full. -/
theorem full_of_intRounds {b k n : Nat} {x : ℚ} (h : IntRounds .rn n x) (full : k = 0 ∨ 2 ^ b ≤ x) : k = 0 ∨ 2 ^ b ≤ n :=
  full.imp_right fun le => by exact_mod_cast le_intRounds h (j := 2 ^ b) (by exact_mod_cast le)

/-- A number with its full precision of b + 1 bits before the point, or with no place to spare behind it (k = 0), is rounded to an integer
that is nearest among the numbers of b + 1 bits at every exponent: the finer ones lie below 2^b. -/
theorem intRounds_nearest_finer {n j : Int} {x : ℚ} {b k : Nat} (h : IntRounds .rn n x) (full : k = 0 ∨ 2 ^ b ≤ x)
    (hj : |j| < 2 ^ (b + 1)) (i : Nat) :
    |(n : ℚ) - x| ≤ |j * 2 ^ ((i : Int) - k) - x| ∧
      (|(n : ℚ) - x| = |j * 2 ^ ((i : Int) - k) - x| → (j * 2 ^ ((i : Int) - k) : ℚ) ≠ n → n % 2 = 0) := by
  rcases le_or_gt k i with le | lt
  · have whole : (j * 2 ^ ((i : Int) - k) : ℚ) = (j * 2 ^ (i - k) : Int) := by
      rw [← Nat.cast_sub le, zpow_natCast]; push_cast; rfl
    rw [whole]
    exact (intRounds_nearest h _).imp_right fun even tie other => even tie (by exact_mod_cast other)
  · have normal := full.resolve_left (by omega)
    have small : (j * 2 ^ ((i : Int) - k) : ℚ) < 2 ^ b := by
      have hj' : (j : ℚ) < 2 ^ (b + 1) := by exact_mod_cast (abs_lt.1 hj).2
      calc (j * 2 ^ ((i : Int) - k) : ℚ) < 2 ^ (b + 1) * 2 ^ ((i : Int) - k) := by gcongr
        _ ≤ 2 ^ (b + 1) * 2 ^ (-1 : Int) := by gcongr <;> [norm_num; omega]
        _ = 2 ^ b := by rw [pow_succ, zpow_neg_one, mul_inv_cancel_right₀ two_ne_zero]
    have closer := (intRounds_nearest h (2 ^ b)).1
    push_cast at closer
    rw [abs_of_nonpos (sub_nonpos.2 normal)] at closer
    rw [abs_of_nonpos (a := _ * _ - x) (by linarith)]
    exact ⟨by linarith, fun tie => by linarith⟩

/-! ### Patterns and their magnitudes (R180) -/

/-- The formats whose largest exponent field stands for infinities and NaNs, with subnormal values. -/
structure FFmt.Ieee (f : FFmt) : Prop where
  kind : f.kind = .ieee
  flush : f.flush = false
  mb : 1 ≤ f.mb
  eb : 2 ≤ f.eb

/-- The exponent of the last place of a subnormal value. -/
def FFmt.low (f : FFmt) : Int := f.emin - f.mb

/-- The magnitude that a pattern without its sign stands for; it goes on as if the exponent field had no largest value. -/
def FFmt.mag (f : FFmt) (p : Nat) : ℚ := (p - (p / 2 ^ f.mb - 1) * 2 ^ f.mb : Nat) * 2 ^ (f.low + (p / 2 ^ f.mb - 1 : Nat))

/-- The magnitude of a number of mb + 1 bits, full or in the lowest place, over k places; the carry out of these bits is included. -/
theorem FFmt.mag_eq (f : FFmt) {k n : Nat} (hi : n ≤ 2 ^ (f.mb + 1)) (full : k = 0 ∨ 2 ^ f.mb ≤ n) :
    f.mag (k * 2 ^ f.mb + n) = n * 2 ^ (f.low + k) := by
  have pos := Nat.two_pow_pos f.mb
  rw [pow_succ] at hi
  have places : (k * 2 ^ f.mb + n) / 2 ^ f.mb = k + n / 2 ^ f.mb := by rw [add_comm, Nat.add_mul_div_right _ _ pos, add_comm]
  rw [FFmt.mag, places]
  rcases lt_trichotomy n (2 ^ f.mb) with sub | rfl | normal
  · rw [Nat.div_eq_of_lt sub, full.resolve_right (by omega)]; simp
  · simp [Nat.div_self pos]
  rcases hi.eq_or_lt with rfl | lt
  · rw [Nat.mul_div_cancel_left _ pos]
    have carry : k * 2 ^ f.mb + 2 ^ f.mb * 2 - (k + 1) * 2 ^ f.mb = 2 ^ f.mb := by rw [add_mul]; omega
    simp only [show k + 2 - 1 = k + 1 from rfl, carry]
    push_cast; rw [← add_assoc, zpow_add_one₀ two_ne_zero]; ring
  · rw [Nat.div_eq_of_lt_le (k := 1) (by omega) (by omega)]; simp

/-- Each pattern is a number of mb + 1 bits, full or in the lowest place, over a count of places. -/
theorem FFmt.mag_form (f : FFmt) (p : Nat) : ∃ n, p = (p / 2 ^ f.mb - 1) * 2 ^ f.mb + n ∧ n < 2 ^ (f.mb + 1) ∧
    (p / 2 ^ f.mb - 1 = 0 ∨ 2 ^ f.mb ≤ n) ∧ f.mag p = n * 2 ^ (f.low + (p / 2 ^ f.mb - 1 : Nat)) := by
  have split := Nat.div_add_mod' p (2 ^ f.mb)
  have rest := Nat.mod_lt p (Nat.two_pow_pos f.mb)
  obtain ⟨n, hp, hi, full⟩ : ∃ n, p = (p / 2 ^ f.mb - 1) * 2 ^ f.mb + n ∧ n < 2 ^ (f.mb + 1) ∧
      (p / 2 ^ f.mb - 1 = 0 ∨ 2 ^ f.mb ≤ n) := by
    rw [pow_succ]
    rcases h : p / 2 ^ f.mb with _ | k <;> rw [h] at split
    · exact ⟨p, by simp, by omega, .inl rfl⟩
    · exact ⟨2 ^ f.mb + p % 2 ^ f.mb, by rw [Nat.add_sub_cancel, ← add_assoc, ← Nat.succ_mul, split], by omega, .inr (by omega)⟩
  exact ⟨n, hp, hi, full, (congrArg f.mag hp).trans (f.mag_eq hi.le full)⟩

/-- The magnitude by the two fields of the pattern, as R180 defines it. -/
theorem FFmt.mag_fields (f : FFmt) (p : Nat) : f.mag p =
    if p / 2 ^ f.mb = 0 then ((p % 2 ^ f.mb : Nat) : ℚ) * 2 ^ (1 - (f.bias : Int) - f.mb)
    else ((2 ^ f.mb + p % 2 ^ f.mb : Nat) : ℚ) * 2 ^ (((p / 2 ^ f.mb : Nat) : Int) - f.bias - f.mb) := by
  have places := Nat.div_add_mod' p (2 ^ f.mb)
  have rest := Nat.mod_lt p (Nat.two_pow_pos f.mb)
  rcases h : p / 2 ^ f.mb with _ | k <;> rw [h] at places
  · have subnormal := f.mag_eq (k := 0) (n := p % 2 ^ f.mb) (by rw [pow_succ]; omega) (.inl rfl)
    rw [places] at subnormal
    rw [subnormal, if_pos rfl, FFmt.low, FFmt.emin, Nat.cast_zero, add_zero]
  · have normal := f.mag_eq (k := k) (n := 2 ^ f.mb + p % 2 ^ f.mb) (by rw [pow_succ]; omega) (.inr (Nat.le_add_right ..))
    have exponent : ((k + 1 : Nat) : Int) - f.bias - f.mb = f.low + k := by rw [FFmt.low, FFmt.emin]; push_cast; ring
    rw [← add_assoc, ← Nat.succ_mul, Nat.succ_eq_add_one, places] at normal
    rw [normal, if_neg k.succ_ne_zero, exponent]

theorem FFmt.mag_succ (f : FFmt) (p : Nat) : f.mag (p + 1) = f.mag p + 2 ^ (f.low + (p / 2 ^ f.mb - 1 : Nat)) := by
  obtain ⟨n, hp, hi, full, hm⟩ := f.mag_form p
  rw [hm, hp, add_assoc, f.mag_eq hi (full.imp_right (le_trans · n.le_succ)), ← hp]
  push_cast; ring

theorem FFmt.mag_strictMono (f : FFmt) : StrictMono f.mag :=
  strictMono_nat_of_lt_succ fun p => by rw [f.mag_succ]; exact lt_add_of_pos_right _ (by positivity)

/-- The encoder's two forms of R180 are one: the count of places over the number of mb + 1 bits, whose carry moves into the count. -/
theorem fEncodeMag_eq (f : FFmt) {k n : Nat} (hi : n ≤ 2 ^ (f.mb + 1)) (full : k = 0 ∨ 2 ^ f.mb ≤ n) :
    fEncodeMag f n (f.low + k) = k * 2 ^ f.mb + n := by
  rcases eq_or_ne n 0 with rfl | nonzero
  · rw [full.resolve_right (by simp)]; simp [fEncodeMag]
  have emin : f.emin = f.low + f.mb := by rw [FFmt.low]; omega
  have bias : f.low + f.mb + f.bias = 1 := by rw [FFmt.low, FFmt.emin]; omega
  rw [fEncodeMag, if_neg nonzero]
  simp only [emin]
  rcases lt_or_ge n (2 ^ f.mb) with sub | normal
  · have : bitLen n ≤ f.mb := by rw [bitLen, if_neg nonzero]; exact (Nat.log2_lt nonzero).2 sub
    rw [full.resolve_right (by omega), if_pos (by omega)]; simp
  rcases hi.eq_or_lt with rfl | lt
  · have carry : bitLen (2 ^ (f.mb + 1)) = f.mb + 2 := bitLen_eq le_rfl (by rw [pow_succ _ (f.mb + 1)]; omega)
    have exponent : (((f.mb + 2 : Nat) : Int) - 1 + (f.low + k) + f.bias).toNat = k + 2 := by omega
    rw [carry, exponent, if_neg (by omega), if_neg (by omega),
      show ((((f.mb + 2 : Nat) : Int) - 1 + (f.low + k)) - f.mb - (f.low + k)).toNat = 1 by omega, pow_succ, pow_one,
      Nat.mul_div_cancel _ two_pos]
    rw [Nat.sub_self]; ring
  · have length : bitLen n = f.mb + 1 := bitLen_eq normal lt
    have exponent : (((f.mb + 1 : Nat) : Int) - 1 + (f.low + k) + f.bias).toNat = k + 1 := by omega
    rw [length, exponent, if_neg (by omega), if_pos (by omega),
      show ((f.low + k) - ((((f.mb + 1 : Nat) : Int) - 1 + (f.low + k)) - f.mb)).toNat = 0 by omega, pow_zero, mul_one]
    rw [add_mul, one_mul]; omega

/-! ### Signs -/

theorem FFmt.signBit_eq (f : FFmt) (s : Bool) : f.signBit s = s.toNat * 2 ^ (f.eb + f.mb) := by cases s <;> simp [signBit]

theorem exists_signBit_add {f : FFmt} {x : Nat} (h : x < 2 ^ f.width) : ∃ s p, p < 2 ^ (f.eb + f.mb) ∧ x = f.signBit s + p := by
  rw [FFmt.width, add_assoc, pow_add, pow_one] at h
  rcases lt_or_ge x (2 ^ (f.eb + f.mb)) with lt | ge
  · exact ⟨false, x, lt, by simp [FFmt.signBit]⟩
  · exact ⟨true, x - 2 ^ (f.eb + f.mb), by omega, by simp [FFmt.signBit, ge]⟩

section
variable {f : FFmt} {s : Bool} {p : Nat} (hp : p < 2 ^ (f.eb + f.mb))
include hp

theorem signBit_add_lt : f.signBit s + p < 2 ^ f.width := by
  rw [FFmt.width, add_assoc, pow_add, pow_one]
  cases s <;> simp [FFmt.signBit] <;> omega

theorem signBit_add_sign : (f.signBit s + p) / 2 ^ (f.eb + f.mb) % 2 = s.toNat := by
  rw [f.signBit_eq, add_comm, Nat.add_mul_div_right _ _ (by positivity), Nat.div_eq_of_lt hp]
  cases s <;> rfl

theorem signBit_add_exponent : (f.signBit s + p) / 2 ^ f.mb % 2 ^ f.eb = p / 2 ^ f.mb := by
  rw [f.signBit_eq, pow_add, ← mul_assoc, add_comm, Nat.add_mul_div_right _ _ (by positivity), Nat.add_mul_mod_self_right]
  exact Nat.mod_eq_of_lt (Nat.div_lt_of_lt_mul (by rwa [mul_comm, ← pow_add]))

omit hp in
theorem signBit_add_mantissa : (f.signBit s + p) % 2 ^ f.mb = p % 2 ^ f.mb := by
  rw [f.signBit_eq, pow_add, ← mul_assoc, add_comm, Nat.add_mul_mod_self_right]

end

section
variable {f : FFmt} (hf : f.Ieee) {s : Bool} {p : Nat} (hp : p < 2 ^ (f.eb + f.mb))
include hf hp

theorem floatVal_signBit_add : floatVal f (f.signBit s + p) = if s then -f.mag p else f.mag p := by
  simp only [floatVal, signBit_add_sign hp, signBit_add_exponent hp, signBit_add_mantissa, hf.flush, Bool.false_eq_true, if_false,
    ← f.mag_fields]
  cases s <;> simp

theorem floatFinite_signBit_add : FloatFinite f (f.signBit s + p) ↔ p < f.infPat := by
  have top : p / 2 ^ f.mb < 2 ^ f.eb := Nat.div_lt_of_lt_mul (by rwa [mul_comm, ← pow_add])
  simp only [FloatFinite, signBit_add_lt hp, signBit_add_exponent hp, hf.kind, FFmt.infPat, true_and, reduceCtorEq, false_and,
    not_false_eq_true, and_true]
  rw [← Nat.div_lt_iff_lt_mul (by positivity)]
  omega

end

/-- A finite pattern is read as the number that it stands for. -/
theorem fDecode_of_finite {f : FFmt} {x : Nat} (h : FloatFinite f x) :
    ∃ s m e, fDecode f x = .fin s m e ∧ (dyOf s m e).val = floatVal f x := by
  obtain ⟨-, notTop, notNan⟩ := h
  have sign (v : ℚ) : (if (x / 2 ^ (f.eb + f.mb) % 2 == 1) = true then -v else v) = if x / 2 ^ (f.eb + f.mb) % 2 = 0 then v else -v := by
    rcases Nat.mod_two_eq_zero_or_one (x / 2 ^ (f.eb + f.mb)) with h | h <;> simp [h]
  simp only [fDecode, floatVal]
  rw [if_neg (fun top => notTop ⟨top.1, top.2⟩), if_neg notNan]
  split
  · split
    · exact ⟨_, _, _, rfl, by rw [dyOf_val, sign]; simp⟩
    · exact ⟨_, _, _, rfl, by rw [dyOf_val, sign]⟩
  · exact ⟨_, _, _, rfl, by rw [dyOf_val, sign]⟩

section
variable {f : FFmt} (hf : f.Ieee)
include hf

/-! ### The largest finite number (R180) -/

omit hf in
theorem infPat_lt (f : FFmt) : f.infPat < 2 ^ (f.eb + f.mb) := by
  rw [FFmt.infPat, pow_add]
  exact Nat.mul_lt_mul_of_pos_right (Nat.sub_lt (by positivity) one_pos) (by positivity)

theorem maxPat_succ : f.maxPat + 1 = f.infPat := by
  have large : 2 ^ 2 ≤ 2 ^ f.eb := Nat.pow_le_pow_right two_pos hf.eb
  have pos := Nat.two_pow_pos f.mb
  rw [FFmt.maxPat, hf.kind, FFmt.infPat, show 2 ^ f.eb - 1 = 2 ^ f.eb - 2 + 1 by omega, add_mul, one_mul]
  simp only
  omega

theorem maxPat_places : f.maxPat / 2 ^ f.mb = 2 ^ f.eb - 2 := by
  have pos := Nat.two_pow_pos f.mb
  rw [FFmt.maxPat, hf.kind]
  simp only
  rw [add_comm, Nat.add_mul_div_right _ _ pos, Nat.div_eq_of_lt (by omega), zero_add]

theorem maxPat_lt : f.maxPat < f.infPat := by rw [← maxPat_succ hf]; exact Nat.lt_succ_self _

theorem floatFinite_maxPat : FloatFinite f f.maxPat := by
  have := (floatFinite_signBit_add hf (s := false) ((maxPat_lt hf).trans (infPat_lt f))).2 (maxPat_lt hf)
  simpa [FFmt.signBit] using this

theorem floatVal_maxPat : floatVal f f.maxPat = f.mag f.maxPat := by
  have := floatVal_signBit_add hf (s := false) ((maxPat_lt hf).trans (infPat_lt f))
  simpa [FFmt.signBit] using this

theorem maxVal_val : (f.maxVal.1 : ℚ) * 2 ^ f.maxVal.2 = f.mag f.maxPat := by
  obtain ⟨s, m, e, decoded, value⟩ := fDecode_of_finite (floatFinite_maxPat hf)
  rw [FFmt.maxVal, decoded, ← abs_dyOf_val s, value, floatVal_maxPat hf]
  exact abs_of_nonneg (by rw [FFmt.mag]; positivity)

/-- The limit lies in the middle between the largest finite magnitude and the one that would follow. -/
theorem floatTop_middle : 2 * floatTop f = f.mag f.maxPat + f.mag f.infPat := by
  have large : 2 ^ 2 ≤ 2 ^ f.eb := Nat.pow_le_pow_right two_pos hf.eb
  have exponent : ((2 ^ f.eb - 2 : Nat) : Int) - f.bias - f.mb - 1 = f.low + (2 ^ f.eb - 2 - 1 : Nat) - 1 := by
    rw [FFmt.low, FFmt.emin]; omega
  rw [floatTop, floatVal_maxPat hf, ← maxPat_succ hf, f.mag_succ, maxPat_places hf, exponent, zpow_sub_one₀ two_ne_zero]
  ring

/-! ### The finite numbers as candidates -/

/-- A finite number is a number of mb + 1 bits at an exponent from the lowest up. -/
theorem floatFinite_number {w : Nat} (h : FloatFinite f w) :
    ∃ (j : Int) (i : Nat), |j| < 2 ^ (f.mb + 1) ∧ floatVal f w = j * 2 ^ (f.low + i) := by
  obtain ⟨s, p, hp, rfl⟩ := exists_signBit_add h.1
  obtain ⟨n, -, hi, -, magnitude⟩ := f.mag_form p
  have hi' : |(n : Int)| < 2 ^ (f.mb + 1) := by rw [Nat.abs_cast]; exact_mod_cast hi
  rw [floatVal_signBit_add hf hp, magnitude]
  cases s
  · exact ⟨n, _, hi', rfl⟩
  · exact ⟨-n, _, by rwa [abs_neg], by rw [if_pos rfl, Int.cast_neg, neg_mul]; rfl⟩

end

/-- `p` stands for a magnitude that is nearest to `M` among the numbers of mb + 1 bits at every exponent from the lowest up, and is the
even one of two. -/
def FFmt.NearestMag (f : FFmt) (p : Nat) (M : ℚ) : Prop :=
  ∀ (j : Int) (i : Nat), |j| < 2 ^ (f.mb + 1) → |f.mag p - M| ≤ |j * 2 ^ (f.low + i) - M| ∧
    (|f.mag p - M| = |j * 2 ^ (f.low + i) - M| → j * 2 ^ (f.low + i) ≠ f.mag p → p % 2 = 0)

theorem FFmt.nearestMag_zero (f : FFmt) : f.NearestMag 0 0 := by
  intro j i _
  simp only [FFmt.mag, Nat.zero_sub, Nat.cast_zero, zero_mul, sub_zero, abs_zero]
  exact ⟨abs_nonneg _, fun _ _ => trivial⟩

/-- Rounding to an integer count of a place in which the number has its full precision. -/
theorem nearestMag_of_intRounds {f : FFmt} (mb : 1 ≤ f.mb) {k n : Nat} {x : ℚ} (h : IntRounds .rn n x) (hi : n ≤ 2 ^ (f.mb + 1))
    (full : k = 0 ∨ 2 ^ f.mb ≤ x) : f.NearestMag (k * 2 ^ f.mb + n) (x * 2 ^ (f.low + k)) := by
  intro j i hj
  have parity : (k * 2 ^ f.mb + n) % 2 = n % 2 := by
    rw [← Nat.sub_add_cancel mb, pow_succ, ← mul_assoc, Nat.mul_add_mod_self_right]
  have unit : (0 : ℚ) < 2 ^ (f.low + k) := by positivity
  have number : (j : ℚ) * 2 ^ (f.low + i) = j * 2 ^ ((i : Int) - k) * 2 ^ (f.low + k) := by
    rw [mul_assoc, ← zpow_add₀ two_ne_zero]; congr 2; ring
  obtain ⟨near, even⟩ := intRounds_nearest_finer h full hj i
  rw [f.mag_eq hi (full_of_intRounds h full), number, ← sub_mul, ← sub_mul, abs_mul, abs_mul, abs_of_pos unit, parity]
  refine ⟨mul_le_mul_of_nonneg_right near unit.le, fun tie other => ?_⟩
  have := even (mul_right_cancel₀ unit.ne' tie) (fun same => other (by rw [same]; rfl))
  omega

/-- The exponent of the place to which `fRound` rounds m × 2^e: mb places below its highest bit, and not below the lowest. -/
def FFmt.place (f : FFmt) (m : Nat) (e : Int) : Int := max (f.emin - f.mb) ((bitLen m : Int) + e - (f.mb + 1))

/-- Counted in this place, m × 2^e has mb + 1 bits before the point, or fewer in the lowest place. -/
theorem FFmt.place_spec (f : FFmt) {m : Nat} (hm : m ≠ 0) (e : Int) : ∃ k : Nat, f.place m e = f.low + k ∧
    (m * 2 ^ (e - f.place m e) : ℚ) ≤ 2 ^ (f.mb + 1) ∧ (k = 0 ∨ (2 : ℚ) ^ f.mb ≤ m * 2 ^ (e - f.place m e)) := by
  obtain ⟨lo, hi⟩ := bitLen_bounds hm
  have nonempty : 1 ≤ bitLen m := by rw [bitLen, if_neg hm]; omega
  have lo' : (2 : ℚ) ^ ((bitLen m - 1 : Nat) : Int) ≤ m := by rw [zpow_natCast]; exact_mod_cast lo
  have hi' : (m : ℚ) ≤ 2 ^ (bitLen m : Int) := by rw [zpow_natCast]; exact_mod_cast hi.le
  refine ⟨(f.place m e - f.low).toNat, by simp only [place, low]; omega, ?_, ?_⟩
  · calc (m * 2 ^ (e - f.place m e) : ℚ) ≤ 2 ^ (bitLen m : Int) * 2 ^ (e - f.place m e) := by gcongr
      _ ≤ 2 ^ ((f.mb + 1 : Nat) : Int) := by
        rw [← zpow_add₀ two_ne_zero]; exact zpow_le_zpow_right₀ one_le_two (by simp only [place]; omega)
      _ = 2 ^ (f.mb + 1) := zpow_natCast ..
  · refine or_iff_not_imp_left.2 fun above => ?_
    calc (2 : ℚ) ^ f.mb = 2 ^ ((bitLen m - 1 : Nat) : Int) * 2 ^ (e - f.place m e) := by
          rw [← zpow_add₀ two_ne_zero, ← zpow_natCast]; congr 1; simp only [place, low] at above ⊢; omega
      _ ≤ m * 2 ^ (e - f.place m e) := by gcongr

/-- The pattern of the rounded magnitude, before an overflow is seen. -/
theorem fRound_pattern {f : FFmt} (mb : 1 ≤ f.mb) (neg : Bool) {m : Nat} (hm : m ≠ 0) (e : Int) :
    let n := (roundAt .rn neg m e (f.place m e)).1
    (n : ℚ) * 2 ^ f.place m e = f.mag (fEncodeMag f n (f.place m e)) ∧ f.NearestMag (fEncodeMag f n (f.place m e)) (m * 2 ^ e) := by
  intro n
  have rounds : IntRounds .rn n (m * 2 ^ (e - f.place m e)) := roundAt_rn neg m e (f.place m e)
  have scaled : (m : ℚ) * 2 ^ e = m * 2 ^ (e - f.place m e) * 2 ^ f.place m e := by
    rw [mul_assoc, ← zpow_add₀ two_ne_zero, sub_add_cancel]
  obtain ⟨k, place, below, full⟩ := f.place_spec hm e
  have fits : n ≤ 2 ^ (f.mb + 1) := by exact_mod_cast intRounds_le rounds (j := 2 ^ (f.mb + 1)) (by exact_mod_cast below)
  have filled := full_of_intRounds rounds full
  have nearest := nearestMag_of_intRounds mb rounds fits full
  rw [← place, ← scaled] at nearest
  rw [place, fEncodeMag_eq f fits filled, f.mag_eq fits filled]
  exact ⟨rfl, nearest⟩

section
variable {f : FFmt} (hf : f.Ieee)
include hf

/-- What `fRound` answers for a number that is not 0. -/
theorem fRound_of_ne_zero (neg : Bool) {m : Nat} (hm : m ≠ 0) (e : Int) :
    let n := (roundAt .rn neg m e (f.place m e)).1
    (fRound f .rn false neg m e).1 = f.signBit neg +
      if dyLt f.maxVal.1 f.maxVal.2 n (f.place m e) then f.infPat else fEncodeMag f n (f.place m e) := by
  intro n
  simp only [fRound, if_neg hm, hf.flush, Bool.false_and, Bool.false_eq_true, if_false, fOverflow, hf.kind, towardInf, if_true]
  rw [apply_ite Prod.fst, apply_ite (f.signBit neg + ·)]
  rfl

/-- `fRound` answers a nearest magnitude with its sign, or the infinity where that is beyond the finite ones. -/
theorem fRound_eq (neg : Bool) (m : Nat) (e : Int) : ∃ p, f.NearestMag p (m * 2 ^ e) ∧
    (fRound f .rn false neg m e).1 = f.signBit neg + min p f.infPat := by
  rcases eq_or_ne m 0 with rfl | hm
  · exact ⟨0, by simpa using f.nearestMag_zero, by simp [fRound]⟩
  obtain ⟨magnitude, nearest⟩ := fRound_pattern hf.mb neg hm e
  refine ⟨_, nearest, ?_⟩
  have overflow := dyLt_iff f.maxVal.1 f.maxVal.2 (roundAt .rn neg m e (f.place m e)).1 (f.place m e)
  rw [maxVal_val hf, magnitude, f.mag_strictMono.lt_iff_lt, ← Nat.succ_le_iff, Nat.succ_eq_add_one, maxPat_succ hf] at overflow
  simp only [fRound_of_ne_zero hf neg hm e, overflow, min_def_lt, ← not_le, ite_not]

/-- A magnitude below the limit is nearest to a finite one. -/
theorem nearestMag_lt_infPat {p : Nat} {M : ℚ} (h : f.NearestMag p M) (below : M < floatTop f) : p < f.infPat := by
  by_contra high
  have beyond := f.mag_strictMono.monotone (not_lt.1 high)
  have middle := floatTop_middle hf
  have least := f.mag_strictMono (maxPat_lt hf)
  obtain ⟨n, -, hi, -, magnitude⟩ := f.mag_form f.maxPat
  have closer := (h n (f.maxPat / 2 ^ f.mb - 1) (by rw [Nat.abs_cast]; exact_mod_cast hi)).1
  rw [Int.cast_natCast, ← magnitude, abs_of_nonneg (by linarith)] at closer
  rcases abs_cases (f.mag f.maxPat - M) with ⟨eq, -⟩ | ⟨eq, -⟩ <;> linarith

/-- What is nearest as a magnitude is nearest with its sign: the signs of the candidates turn with it. -/
theorem nearestTo_of_nearestMag {p : Nat} {s : Bool} {m : Nat} {e : Int} (h : f.NearestMag p (m * 2 ^ e)) (hp : p < 2 ^ (f.eb + f.mb)) :
    NearestTo f (f.signBit s + p) (dyOf s m e).val := by
  have parity : (f.signBit s + p) % 2 = p % 2 := by
    rw [f.signBit_eq, ← Nat.sub_add_cancel hf.mb, ← add_assoc, pow_succ, ← mul_assoc, add_comm, Nat.add_mul_mod_self_right]
  rw [NearestTo, if_neg (by simp [hf.flush]), floatVal_signBit_add hf hp, dyOf_val, parity]
  intro w finite
  obtain ⟨j, i, hj, value⟩ := floatFinite_number hf finite
  rw [value]
  cases s
  · exact h j i hj
  · have mirror (x y : ℚ) : |-x - -y| = |x - y| := by rw [neg_sub_neg, abs_sub_comm]
    obtain ⟨near, even⟩ := h (-j) i (by rwa [abs_neg])
    rw [if_pos rfl, if_pos rfl, mirror, ← neg_neg ((j : ℚ) * _), mirror, ← neg_mul, ← Int.cast_neg]
    exact ⟨near, fun tie other => even tie (neg_injective.ne_iff.1 other)⟩

/-- `fRound` rounds to nearest even (R183). -/
theorem fRound_roundsTo (neg : Bool) (m : Nat) (e : Int) :
    (fRound f .rn false neg m e).1 < 2 ^ f.width ∧ RoundsTo f .rn (fRound f .rn false neg m e).1 (dyOf neg m e).val := by
  obtain ⟨p, nearest, result⟩ := fRound_eq hf neg m e
  have fits : min p f.infPat < 2 ^ (f.eb + f.mb) := (min_le_right ..).trans_lt (infPat_lt f)
  rw [result]
  refine ⟨signBit_add_lt fits, fun below => ?_, fun finite => ?_⟩
  · rw [abs_dyOf_val] at below
    exact (floatFinite_signBit_add hf fits).2 ((min_le_left ..).trans_lt (nearestMag_lt_infPat hf nearest below))
  · have := (floatFinite_signBit_add hf fits).1 finite
    rw [min_eq_left (by omega)] at fits ⊢
    exact nearestTo_of_nearestMag hf nearest fits

theorem fRoundDy_roundsTo (zneg : Bool) (d : Dy) :
    (fRoundDy f .rn false zneg d).1 < 2 ^ f.width ∧ RoundsTo f .rn (fRoundDy f .rn false zneg d).1 d.val := by
  rw [fRoundDy]
  split
  next zero =>
    have value : d.val = (dyOf zneg 0 0).val := by simp [Dy.val, zero, dyOf]
    rw [value]
    exact fRound_roundsTo hf zneg 0 0
  next =>
    have rounds := fRound_roundsTo hf (decide (d.x < 0)) d.x.natAbs d.e
    rwa [dyOf_natAbs] at rounds

end

/-! ### FADD, FSUB and FMUL -/

theorem fF32_ieee : fF32.Ieee := ⟨rfl, rfl, by decide, by decide⟩

theorem floatTop_fF32 : floatTop fF32 = 2 ^ 128 - 2 ^ 103 := by
  norm_num [floatTop, floatVal, fF32, FFmt.maxPat]

/-- A rounded f32 fits in a word. -/
theorem w32_rounds {r : Nat × Flags} {v : ℚ} (h : r.1 < 2 ^ fF32.width ∧ RoundsTo fF32 .rn r.1 v) :
    (|v| < 2 ^ 128 - 2 ^ 103 → FloatFinite fF32 (w32 r).1.toNat) ∧
      (FloatFinite fF32 (w32 r).1.toNat → NearestTo fF32 (w32 r).1.toNat v) := by
  have kept : (w32 r).1.toNat = r.1 := by rw [w32, BitVec.toNat_ofNat]; exact Nat.mod_eq_of_lt h.1
  rw [kept, ← floatTop_fF32]
  exact h.2

/-- Settles O10: each of the three instructions rounds an exact dyadic once (`fRound_roundsTo`). -/
theorem floatSumsAndProductsRoundToNearest : Obligations.FloatSumsAndProductsRoundToNearest := by
  intro x y hx hy
  obtain ⟨s, m, e, readX, valX⟩ := fDecode_of_finite hx
  obtain ⟨t, n, k, readY, valY⟩ := fDecode_of_finite hy
  refine ⟨w32_rounds ?_, w32_rounds ?_, w32_rounds ?_⟩ <;> simp only [fAdd, fMul, readX, readY, ← valX, ← valY]
  · rw [← Dy.val_add]
    exact fRoundDy_roundsTo fF32_ieee ..
  · rw [sub_eq_add_neg, ← dyOf_neg_val, ← Dy.val_add]
    exact fRoundDy_roundsTo fF32_ieee ..
  · rw [← dyOf_mul_val]
    exact fRound_roundsTo fF32_ieee ..

end Sys2Proof.Machine
end

section
/-! ## The matrix instructions (R201, R279 to R281)

What `MMA`, `ACCLD` and `ACCST` do behind their checks, and what a run of writes to a map leaves. -/

namespace Sys2Proof.Machine

theorem State.holdsBanks_iff {s : State} {q slot base n : Nat} :
    s.holdsBanks q slot base n = true ↔ ∀ e, e < n → NMap.get? (s.engine (slotOf q)).holder (base + e) = some (q, slot) := by
  simp only [State.holdsBanks, List.all_eq_true, List.mem_range, beq_iff_eq]

theorem State.openCur_holdsBanks (s : State) (g : Group) (q slot base n : Nat) :
    (s.openCur g).holdsBanks q slot base n = s.holdsBanks q slot base n := rfl

@[simp] theorem mmaReg_opened (g : Group) (n : BitVec 6) : mmaReg g.opened (.s n) = some (g.getS n.toNat).toNat := by
  simp only [mmaReg, Group.getS, g.opened_fields.2.2.2.2.1]

/-- A change of a group that sees neither its jet nor its counts may be made before the jet opens. -/
theorem Group.opened_of_commutes {f : Group → Group} (count : ∀ g, f g.countJet = (f g).countJet)
    (jet : ∀ g j, f { g with jet := j } = { f g with jet := j }) (same : ∀ g, (f g).jetOr = g.jetOr) (g : Group) : f g.opened = (f g).opened := by
  unfold Group.opened
  rw [same]
  split
  · rw [jet, count]
  · rw [jet]

/-- The group whose request for eight banks has entered staging: its window is over, and the banks are named (R201, R204). -/
def Group.stage (g : Group) (r : MmaReq) : Group :=
  { g with ofence := false, mmDirty := [], staging := some r, mmNamed := (g.mmNamed ++ (List.range 8).map (fun i => r.k + i)).eraseDups }

theorem Group.opened_stage (g : Group) (r : MmaReq) : g.opened.stage r = (g.stage r).opened :=
  Group.opened_of_commutes (f := fun g => g.stage r) (fun _ => rfl) (fun _ _ => rfl) (fun _ => rfl) g

theorem Group.opened_ofence (g : Group) : g.opened.ofence = g.ofence := by
  simp only [Group.opened]
  split <;> rfl

theorem Group.mem_stage_mmNamed {g : Group} {r : MmaReq} {e : Nat} :
    e ∈ (g.stage r).mmNamed ↔ e ∈ g.mmNamed ∨ (r.k ≤ e ∧ e < r.k + 8) := by
  simp only [Group.stage, List.mem_eraseDups, List.mem_append, List.mem_map, List.mem_range]
  refine or_congr_right ⟨?_, fun ⟨lo, hi⟩ => ⟨e - r.k, by omega, by omega⟩⟩
  rintro ⟨i, hi, rfl⟩
  exact ⟨by omega, by omega⟩

/-- The table after a request has entered it (R201). -/
def SlotEng.enter (x : SlotEng) (r : MmaReq) (q slot : Nat) : SlotEng :=
  ({ x with table := x.table ++ [{ r with age := x.nextAge, waited := 0 }], nextAge := x.nextAge + 1 } : SlotEng).ungrant q slot

theorem State.enterTable_none {s : State} {q slot : Nat} {g : Group} (h : g.staging = none) : s.enterTable q slot g = s := by
  simp only [State.enterTable, h]

theorem State.enterTable_some {s : State} {q slot : Nat} {g : Group} {r : MmaReq} (h : g.staging = some r) :
    s.enterTable q slot g = (s.modEngine (slotOf q) (fun x => x.enter r q slot)).setGroup q slot { g with staging := none } := by
  simp only [State.enterTable, h, SlotEng.enter]

section
variable {s : State} {i : Instr} {g : Group} {body : Body} (h : Issues s i g) (he : exec i s = runInstr s i body)
include h he

/-- An instruction that changes its group to `k`, which has the same jet and counts, in the state that its body leaves. -/
theorem exec_of_setGroup {t : State} {k z : Group} (hz : t.group? s.cur.1 s.cur.2 = some z)
    (hb : body (s.openCur g) s.cur.1 s.cur.2 g.opened = .next (t.setGroup s.cur.1 s.cur.2 k.opened) .none none)
    (hk : ∀ pc, issuedGroup k k .none [] 0#5 pc = issuedGroup g k .none [] 0#5 pc) :
    exec i s = .next (t.setGroup s.cur.1 s.cur.2 (issuedGroup g k .none [] 0#5 (g.pc + instrLen i))) := by
  rw [he, runInstr_next h hb, State.modGroup_eq (State.group?_setGroup hz), State.setGroup_setGroup, Group.opened_advance, hk]
  rfl

/-- The same where the body changes the engines of its slot. -/
theorem exec_of_modEngine {F : SlotEng → SlotEng} {k : Group} (hb : body (s.openCur g) s.cur.1 s.cur.2 g.opened =
      .next (((s.openCur g).modEngine (slotOf s.cur.1) F).setGroup s.cur.1 s.cur.2 k.opened) .none none)
    (hk : ∀ pc, issuedGroup k k .none [] 0#5 pc = issuedGroup g k .none [] 0#5 pc) :
    exec i s = .next ((s.modEngine (slotOf s.cur.1) F).setGroup s.cur.1 s.cur.2 (issuedGroup g k .none [] 0#5 (g.pc + instrLen i))) := by
  rw [exec_of_setGroup h he (t := (s.openCur g).modEngine (slotOf s.cur.1) F) (State.openCur_group? h.1) hb hk]
  exact congrArg _ (State.setGroup_setGroup (s.modEngine ..) ..)

end

section
variable {s : State} {g : Group} {gd : Guard} {a b k : BitVec 6} {fmt : MmaFmt} {blka blkb : Blk} {mxa mxb clr : Bool}

/-- The request of an `MMA` (R201). -/
def mmaRequest (s : State) (g : Group) (a b k : BitVec 6) (fmt : MmaFmt) (blka blkb : Blk) (mxa mxb clr : Bool) : MmaReq :=
  { q := s.cur.1, slot := s.cur.2, a := (g.getS a.toNat).toNat, b := (g.getS b.toNat).toNat, k := (g.getS k.toNat).toNat, fmt := fmt,
    blka := blka, blkb := blkb, mxa := mxa, mxb := mxb, clr := clr, prio := g.opened.prio + g.opened.ageSteps, ceil := g.opened.ceil,
    age := 0, waited := 0, dirty := g.opened.mmDirty }

variable (h : Issues s (.mma gd (.s a) (.s b) (.s k) fmt blka blkb mxa mxb clr) g)
include h

theorem mma_raises_mask (part : guardMask g gd ≠ Mask.all) :
    Raises s (.mma gd (.s a) (.s b) (.s k) fmt blka blkb mxa mxb clr) g (Trap.own 0x04 (guardMask g gd).toNat 0) := by
  refine raises_of_trap h exec_mma ?_
  simp only [mmaReg_opened, guardMask_opened, part, ne_eq, not_false_eq_true, if_true]

theorem mma_raises_window (whole : guardMask g gd = Mask.all) (shut : g.ofence = false) :
    Raises s (.mma gd (.s a) (.s b) (.s k) fmt blka blkb mxa mxb clr) g (Trap.own 0x02 1 0) := by
  refine raises_of_trap h exec_mma ?_
  simp only [mmaReg_opened, guardMask_opened, whole, ne_eq, not_true_eq_false, if_false, Group.opened_ofence, shut, Bool.not_false, if_true]

variable {c : Crew} (whole : guardMask g gd = Mask.all) (window : g.ofence = true) (crew : s.crew? s.cur.1 g = some c)
  (tileA : c.tileOk (g.getS a.toNat).toNat blka = true) (tileB : c.tileOk (g.getS b.toNat).toNat blkb = true)
  (aligned : (g.getS k.toNat).toNat % 8 = 0) (held : s.holdsBanks s.cur.1 s.cur.2 (g.getS k.toNat).toNat 8 = true)
include whole window crew tileA tileB aligned held

/-- Behind its checks an `MMA` sends an earlier request on and puts its own into staging. -/
theorem exec_mma_stages : exec (.mma gd (.s a) (.s b) (.s k) fmt blka blkb mxa mxb clr) s =
    runInstr s (.mma gd (.s a) (.s b) (.s k) fmt blka blkb mxa mxb clr) (fun t q slot g' =>
      .next ((t.enterTable q slot g').setGroup q slot (g'.stage (mmaRequest s g a b k fmt blka blkb mxa mxb clr))) .none none) := by
  refine exec_mma.trans (runInstr_congr h ?_)
  simp only [mmaReg_opened, guardMask_opened, whole, ne_eq, not_true_eq_false, if_false, Group.opened_ofence, window, Bool.not_true,
    Bool.false_eq_true, State.openCur_crew?, crew, tileA, tileB, aligned, State.openCur_holdsBanks, held, or_self]
  rfl

theorem mma_runs (empty : g.staging = none) : Runs s (.mma gd (.s a) (.s b) (.s k) fmt blka blkb mxa mxb clr) g
    (g.stage (mmaRequest s g a b k fmt blka blkb mxa mxb clr)) .none [] 0#5 (g.pc + 8) := by
  refine runs_of_setGroup h (exec_mma_stages h whole window crew tileA tileB aligned held) ?_ (fun _ => rfl)
  rw [State.enterTable_none (g.opened_mmw.1.trans empty), Group.opened_stage]

theorem mma_sends_on {o : MmaReq} (full : g.staging = some o) : exec (.mma gd (.s a) (.s b) (.s k) fmt blka blkb mxa mxb clr) s =
    .next ((s.modEngine (slotOf s.cur.1) (fun x => x.enter o s.cur.1 s.cur.2)).setGroup s.cur.1 s.cur.2
      (issuedGroup g (g.stage (mmaRequest s g a b k fmt blka blkb mxa mxb clr)) .none [] 0#5 (g.pc + 8))) := by
  refine exec_of_modEngine h (exec_mma_stages h whole window crew tileA tileB aligned held) ?_ (fun _ => rfl)
  rw [State.enterTable_some (g.opened_mmw.1.trans full), State.setGroup_setGroup, Group.opened_stage]

end

/-! ### Runs of writes to a map -/

section
variable {α β : Type} {z : Nat} {l : List β}

/-- A run of changes that leave a key leaves it. -/
theorem NMap.get?_foldl_of_same {f : NMap α → β → NMap α} (same : ∀ m, ∀ e ∈ l, NMap.get? (f m e) z = NMap.get? m z) (m : NMap α) :
    NMap.get? (l.foldl f m) z = NMap.get? m z :=
  List.foldlRecOn l f (motive := fun n => NMap.get? n z = NMap.get? m z) rfl fun n ih e he => (same n e he).trans ih

/-- The last change that concerns a key decides. -/
theorem NMap.get?_foldl_of_last {f : NMap α → β → NMap α} {l₁ l₂ : List β} {e : β} (split : l = l₁ ++ e :: l₂)
    (same : ∀ m, ∀ e' ∈ l₂, NMap.get? (f m e') z = NMap.get? m z) (m : NMap α) :
    NMap.get? (l.foldl f m) z = NMap.get? (f (l₁.foldl f m) e) z := by
  rw [split, List.foldl_append, List.foldl_cons]
  exact NMap.get?_foldl_of_same same _

variable {k : β → Nat} {v : β → α}

theorem NMap.get?_foldl_set_of_ne (other : ∀ e ∈ l, k e ≠ z) (m : NMap α) :
    NMap.get? (l.foldl (fun m e => NMap.set m (k e) (v e)) m) z = NMap.get? m z :=
  NMap.get?_foldl_of_same (fun m e he => NMap.get?_set_of_ne m (v e) (other e he)) m

theorem NMap.get?_foldl_set_range {k : Nat → Nat} (inj : ∀ i j, k i = k j → i = j) (v : Nat → α) {n e : Nat} (he : e < n) (m : NMap α) :
    NMap.get? ((List.range n).foldl (fun m i => NMap.set m (k i) (v i)) m) (k e) = some (v e) := by
  obtain ⟨l₁, l₂, split⟩ := List.append_of_mem (List.mem_range.2 he)
  have rising := List.pairwise_append.1 (split ▸ List.pairwise_lt_range (n := n))
  rw [NMap.get?_foldl_of_last split fun m i hi => NMap.get?_set_of_ne m (v i) fun same =>
    (Nat.ne_of_gt (List.rel_of_pairwise_cons rising.2.1 hi)) (inj i e same)]
  exact NMap.get?_set_self ..

end

/-! ### `ACCLD` and `ACCST` (R279 to R281) -/

section
variable {s : State} {g : Group} {gd : Guard} {r : BitVec 7} {bank word : Sel} {w : AccWidth} {ofs : BitVec 7}

/-- The bank that a lane names. -/
def laneBank (g : Group) (bank : Sel) (ofs : BitVec 7) (l : Nat) : Nat := (selAt g bank l + ofs.setWidth 32).toNat

/-- The word of the accumulators that a lane names first. -/
def laneKey (g : Group) (bank word : Sel) (ofs : BitVec 7) (l : Nat) : Nat := 512 * laneBank g bank ofs l + (selAt g word l).toNat

/-- Each lane that takes part names words of a bank that the group holds (R280). -/
def State.NamesHeld (s : State) (g : Group) (m : Mask) (bank word : Sel) (w : AccWidth) (ofs : BitVec 7) : Prop :=
  ∀ l, l < 32 → m.getLsbD l = true → laneBank g bank ofs l ≤ 127 ∧
    NMap.get? (s.engine (slotOf s.cur.1)).holder (laneBank g bank ofs l) = some (s.cur.1, s.cur.2) ∧
    (selAt g word l).toNat % accWords w = 0 ∧ (selAt g word l).toNat + accWords w ≤ 512

theorem State.openCur_accFail (s : State) (g : Group) (q slot w b x : Nat) : (s.openCur g).accFail q slot w b x = s.accFail q slot w b x := rfl

theorem State.NamesHeld.noFails {m : Mask} (names : s.NamesHeld g m bank word w ofs) : (maskLanes m).filterMap (fun l =>
    (s.accFail s.cur.1 s.cur.2 (accWords w) (laneBank g bank ofs l) (selAt g word l).toNat).map (fun c => (l, c))) = [] := by
  refine List.filterMap_eq_nil_iff.2 fun l hl => ?_
  obtain ⟨hlt, hm⟩ := mem_maskLanes.1 hl
  obtain ⟨low, held, aligned, fits⟩ := names l hlt hm
  have holds : s.holdsBanks s.cur.1 s.cur.2 (laneBank g bank ofs l) 1 = true :=
    State.holdsBanks_iff.2 fun e he => by rwa [Nat.lt_one_iff.1 he]
  rw [State.accFail, if_neg (by simp [holds, low]), if_neg (by omega)]
  rfl

/-- The values that a load of the accumulators brings: open for a bank that an `MMA` names (R204). -/
def State.accValues (s : State) (g : Group) (bank word : Sel) (ofs : BitVec 7) (e : Nat) : Lanes :=
  lanesOf (fun l => if g.named (laneBank g bank ofs l) then Config.freeWord (s.freeIx + 32 * e + l)
    else (s.engine (slotOf s.cur.1)).word (laneBank g bank ofs l) ((selAt g word l).toNat + e))

theorem State.accValues_at {bank word : Sel} {ofs : BitVec 7} {e l : Nat} (hl : l < 32) (unnamed : laneBank g bank ofs l ∉ g.mmNamed) :
    Lanes.at (s.accValues g bank word ofs e) l = NMap.getD (s.engine (slotOf s.cur.1)).acc (laneKey g bank word ofs l + e) 0#32 := by
  have open_ : g.named (laneBank g bank ofs l) = false := by simpa [Group.named] using unnamed
  rw [State.accValues, Lanes.at_lanesOf, if_pos hl, open_, if_neg Bool.false_ne_true, SlotEng.word, laneKey, Nat.add_assoc]

theorem Group.opened_mmNamed (g : Group) : g.opened.mmNamed = g.mmNamed := by
  simp only [Group.opened]
  split <;> rfl

theorem Group.opened_named (g : Group) (b : Nat) : g.opened.named b = g.named b := congrArg (fun l => l.contains b) g.opened_mmNamed

theorem Group.opened_takeFq (g : Group) (xs : List Sel) : g.opened.takeFq xs = (g.takeFq xs).opened :=
  Group.opened_of_commutes (f := fun g => g.takeFq xs) (fun _ => by unfold Group.takeFq; split <;> rfl)
    (fun _ _ => by unfold Group.takeFq; split <;> rfl) (fun _ => by unfold Group.takeFq; split <;> rfl) g

theorem Group.opened_fly (g : Group) (id : Nat) (dests : List (Dest × Lanes)) (fl : Flags) (waiting : Nat) :
    g.opened.fly id dests fl waiting = (g.fly id dests fl waiting).opened :=
  Group.opened_of_commutes (f := fun g => g.fly id dests fl waiting) (fun _ => rfl) (fun _ _ => rfl) (fun _ => rfl) g

section
variable (h : Issues s (.accld gd r bank word w ofs) g) (data : g.dataOk r.toNat (4 * accWords w) = true) (readBank : selOk g bank = true)
  (readWord : selOk g word = true) (names : s.NamesHeld g (guardMask g gd) bank word w ofs)
include h data readBank readWord names

/-- An `ACCLD` of held banks flies with their words (R280). -/
theorem accld_flies : exec (.accld gd r bank word w ofs) s = .next { s.setGroup s.cur.1 s.cur.2 (issuedGroup g
    ((g.takeFq [bank, word]).fly s.nextId ((List.range (accWords w)).map (fun e =>
      (Dest.new (r.toNat + e) (guardMask g gd), s.accValues g bank word ofs e))) flNone 0) .none [] 0#5 (g.pc + 8)) with
    nextId := s.nextId + 1, freeIx := s.freeIx + 128 } := by
  have noFails := names.noFails
  simp only [laneBank] at noFails
  refine (exec_of_setGroup h exec_accld (t := { s.openCur g with nextId := s.nextId + 1, freeIx := s.freeIx + 128 })
    (State.openCur_group? h.1) ?_ ?_).trans
    (congrArg _ (State.setGroup_setGroup { s with nextId := s.nextId + 1, freeIx := s.freeIx + 128 } ..))
  · simp only [Group.opened_dataOk, data, selOk_opened, readBank, readWord, Bool.and_self, Bool.not_true, Bool.false_eq_true, if_false,
      guardMask_opened, selAt_opened, BitVec.ofNat_toNat, State.openCur_accFail, noFails, accTrap, List.find?_nil, List.head?_nil,
      Option.map_none, Group.opened_takeFq, State.flyV, Group.opened_fly, Group.opened_named]
    rfl
  · intro pc
    rw [Group.takeFq_eq]
    rfl

end

end

/-- Words named by lanes in aligned runs are the same runs or have none in common. -/
theorem accWords_aligned (w : AccWidth) {a b x y e e' : Nat} (hx : x % accWords w = 0) (hy : y % accWords w = 0) (he : e < accWords w)
    (he' : e' < accWords w) (same : 512 * a + x + e = 512 * b + y + e') : 512 * a + x = 512 * b + y := by
  cases w <;> simp only [accWords] at * <;> omega

/-- The accumulators after one lane of an `ACCST` (R281). -/
def accStoreLane (g : Group) (r : BitVec 7) (bank word : Sel) (w : AccWidth) (ofs : BitVec 7) (a : NMap Word) (l : Nat) : NMap Word :=
  (List.range (accWords w)).foldl (fun a e => NMap.set a (laneKey g bank word ofs l + e) (g.lane (r.toNat + e) l)) a

theorem accStoreLane_other {g : Group} {r : BitVec 7} {bank word : Sel} {w : AccWidth} {ofs : BitVec 7} {l z : Nat}
    (other : ∀ e, e < accWords w → laneKey g bank word ofs l + e ≠ z) (a : NMap Word) :
    NMap.get? (accStoreLane g r bank word w ofs a l) z = NMap.get? a z :=
  NMap.get?_foldl_set_of_ne (fun e he => other e (List.mem_range.1 he)) a

theorem accStoreLane_self (g : Group) (r : BitVec 7) (bank word : Sel) {w : AccWidth} (ofs : BitVec 7) (l : Nat) {e : Nat} (he : e < accWords w)
    (a : NMap Word) : NMap.get? (accStoreLane g r bank word w ofs a l) (laneKey g bank word ofs l + e) = some (g.lane (r.toNat + e) l) :=
  NMap.get?_foldl_set_range (fun _ _ => Nat.add_left_cancel) (fun e => g.lane (r.toNat + e) l) he a

section
variable {s : State} {g : Group} {gd : Guard} {r : BitVec 7} {bank word : Sel} {w : AccWidth} {ofs : BitVec 7}

/-- The accumulators after an `ACCST`. -/
def State.accStored (s : State) (g : Group) (m : Mask) (r : BitVec 7) (bank word : Sel) (w : AccWidth) (ofs : BitVec 7) : NMap Word :=
  (maskLanes m).foldl (accStoreLane g r bank word w ofs) (s.engine (slotOf s.cur.1)).acc

theorem State.accStored_other {m : Mask} {z : Nat}
    (other : ∀ l e, l < 32 → e < accWords w → m.getLsbD l = true → laneKey g bank word ofs l + e ≠ z) :
    NMap.get? (s.accStored g m r bank word w ofs) z = NMap.get? (s.engine (slotOf s.cur.1)).acc z :=
  NMap.get?_foldl_of_same (fun a l hl => accStoreLane_other (fun e he => other l e (mem_maskLanes.1 hl).1 he (mem_maskLanes.1 hl).2) a) _

/-- The highest lane that names a word decides. -/
theorem State.accStored_highest {m : Mask} (names : s.NamesHeld g m bank word w ofs) {l e : Nat} (hl : l < 32) (he : e < accWords w)
    (hm : m.getLsbD l = true)
    (highest : ∀ l', l < l' → l' < 32 → m.getLsbD l' = true → laneKey g bank word ofs l' ≠ laneKey g bank word ofs l) :
    NMap.get? (s.accStored g m r bank word w ofs) (laneKey g bank word ofs l + e) = some (g.lane (r.toNat + e) l) := by
  obtain ⟨l₁, l₂, split⟩ := List.append_of_mem (mem_maskLanes.2 ⟨hl, hm⟩)
  have rising : (maskLanes m).Pairwise (· < ·) := List.pairwise_lt_range.filter _
  have above := List.pairwise_append.1 (split ▸ rising)
  rw [State.accStored, NMap.get?_foldl_of_last split]
  · exact accStoreLane_self g r bank word ofs l he _
  · intro a l' hl'
    obtain ⟨hlt, hm'⟩ := mem_maskLanes.1 (split ▸ List.mem_append_right l₁ (List.mem_cons_of_mem l hl'))
    refine accStoreLane_other (fun e' he' same => ?_) a
    exact highest l' (List.rel_of_pairwise_cons above.2.1 hl') hlt hm'
      (accWords_aligned w (names l' hlt hm').2.2.1 (names l hl hm).2.2.1 he' he same)

/-- The group after an `ACCST`: what it wrote of banks that an `MMA` names is open after `MMWAIT` (R204). -/
def Group.storedAcc (g : Group) (m : Mask) (bank word : Sel) (ofs : BitVec 7) : Group :=
  { g.takeFq [bank, word] with
    mmSpoilt := (g.mmSpoilt ++ ((maskLanes m).map (laneBank g bank ofs)).filter (fun b => g.named b)).eraseDups }

theorem Group.storedAcc_eq (g : Group) (m : Mask) (bank word : Sel) (ofs : BitVec 7) : ∃ l, g.storedAcc m bank word ofs =
    { g with fwd := (g.takeFq [bank, word]).fwd, mmSpoilt := l } := by
  rw [Group.storedAcc, Group.takeFq_eq]
  exact ⟨_, rfl⟩

theorem Group.opened_spoils (g : Group) (l : List Nat) : { g.opened with mmSpoilt := l } = ({ g with mmSpoilt := l } : Group).opened :=
  Group.opened_of_commutes (f := fun g => { g with mmSpoilt := l }) (fun _ => rfl) (fun _ _ => rfl) (fun _ => rfl) g

theorem accst_runs (h : Issues s (.accst gd r bank word w ofs) g) (data : g.dataOk r.toNat (4 * accWords w) = true)
    (readBank : selOk g bank = true) (readWord : selOk g word = true) (names : s.NamesHeld g (guardMask g gd) bank word w ofs) :
    exec (.accst gd r bank word w ofs) s = .next ((s.modEngine (slotOf s.cur.1)
      (fun x => { x with acc := s.accStored g (guardMask g gd) r bank word w ofs })).setGroup s.cur.1 s.cur.2
        (issuedGroup g (g.storedAcc (guardMask g gd) bank word ofs) .none [] 0#5 (g.pc + 8))) := by
  have noFails := names.noFails
  simp only [laneBank] at noFails
  refine exec_of_modEngine h exec_accst ?_ ?_
  · simp only [Group.opened_dataOk, data, selOk_opened, readBank, readWord, Bool.and_self, Bool.not_true, Bool.false_eq_true, if_false,
      guardMask_opened, selAt_opened, BitVec.ofNat_toNat, State.openCur_accFail, noFails, accTrap, List.find?_nil, List.head?_nil,
      Option.map_none, Group.opened_takeFq, Group.opened_named, Group.opened_lane]
    rw [g.opened_mmw.2]
    exact congrArg (fun k => Res.next (((s.openCur g).modEngine (slotOf s.cur.1) _).setGroup s.cur.1 s.cur.2 k) .none none)
      (Group.opened_spoils ..)
  · intro pc
    obtain ⟨l, eq⟩ := g.storedAcc_eq (guardMask g gd) bank word ofs
    rw [eq]
    rfl

end

/-- Settles O39: an `MMA` behind its checks stages its request (`mma_runs`, `mma_sends_on`), and the words of an `ACCST` are those of the
highest lane that names them (`State.accStored_highest`). -/
theorem matrixInstructionsRun : Obligations.MatrixInstructionsRun := by
  intro s g gd a b k fmt blka blkb mxa mxb clr r bank word w ofs q slot x mma ld st m n kb bk key lanesOk
  refine ⟨fun c h whole window crew tileA tileB aligned held => ?mma, mma_raises_mask, mma_raises_window,
    fun h data readBank readWord names => ?load, fun h data readBank readWord names => ?store⟩
  case mma =>
    have holds := State.holdsBanks_iff.2 held
    exact ⟨_, _, mma_runs h whole window crew tileA tileB aligned holds, fun o => mma_sends_on h whole window crew tileA tileB aligned holds,
      rfl, rfl, rfl, rfl, rfl, rfl, rfl, rfl, rfl, rfl, rfl, fun e => Group.mem_stage_mmNamed⟩
  case load =>
    exact ⟨_, accld_flies h data readBank readWord names, fun e l _ hl _ unnamed => State.accValues_at hl unnamed⟩
  case store =>
    obtain ⟨spoilt, eq⟩ := g.storedAcc_eq m bank word ofs
    have stored : ∀ k, ((s.modEngine (slotOf q) (fun x => { x with acc := s.accStored g m r bank word w ofs })).setGroup q slot k).engine
        (slotOf q) = { s.engine (slotOf q) with acc := s.accStored g m r bank word w ofs } := fun k =>
      State.engine_modEngine s (slotOf q) (fun x => { x with acc := s.accStored g m r bank word w ofs })
    refine ⟨_, _, accst_runs h data readBank readWord names, State.group?_setGroup (g := g) h.1, ?_⟩
    rw [eq]
    refine ⟨rfl, rfl, rfl, rfl, rfl, rfl, rfl, rfl, rfl, rfl, rfl, rfl, rfl, rfl, rfl, rfl, ?_, ?_⟩
    · intro l e hl he hm highest
      rw [stored]
      exact State.accStored_highest names hl he hm highest
    · intro z other
      rw [stored]
      exact State.accStored_other other

end Sys2Proof.Machine
end

section
/-! ## Banks (R203, R283, R373)

A bank is asked for, granted and given back: each changes the holders of its slot as a map. -/

namespace Sys2Proof.Machine

theorem Group.opened_setS (g : Group) (n : Nat) (x : Word) : g.opened.setS n x = (g.setS n x).opened :=
  Group.opened_of_commutes (f := fun g => g.setS n x) (fun _ => rfl) (fun _ _ => rfl) (fun _ => rfl) g

/-! ### `ACQB` and its grant -/

/-- The engines of a slot with one more request for banks. -/
def SlotEng.ask (x : SlotEng) (q slot n : Nat) : SlotEng := { x with acqq := x.acqq ++ [(q, slot, n)] }

section
variable {s : State} {g : Group} {d : BitVec 6} {cnt : USel} (h : Issues s (.acqb d cnt) g)
include h

theorem acqb_raises (fresh : g.wait = .none) (bad : (uAt g cnt).toNat = 0 ∨ 128 < (uAt g cnt).toNat) :
    Raises s (.acqb d cnt) g (Trap.own 0x02 4 0) := by
  refine raises_of_trap h exec_acqb ?_
  simp only [g.opened_wait, fresh, uAt_opened, bad, if_true]

theorem acqb_asks (fresh : g.wait = .none) (low : 1 ≤ (uAt g cnt).toNat) (high : (uAt g cnt).toNat ≤ 128) :
    GroupAfter (exec (.acqb d cnt) s) s.cur.1 s.cur.2 (fun t y => t.mem = s.mem ∧
      t.engine (slotOf s.cur.1) = (s.engine (slotOf s.cur.1)).ask s.cur.1 s.cur.2 (uAt g cnt).toNat ∧
      y.SameRegs g.leaveJet ∧ y.pc = g.pc ∧ y.wait = .acqb ∧ y.jet = none) := by
  have ok : ¬((uAt g cnt).toNat = 0 ∨ 128 < (uAt g cnt).toNat) := by omega
  obtain ⟨u, y, hu, hy, ⟨again, rfl⟩, stands⟩ := stands_of_wait h exec_acqb
    (t := (s.openCur g).modEngine (slotOf s.cur.1) (fun x => x.ask s.cur.1 s.cur.2 (uAt g cnt).toNat))
    (State.openCur_group? h.1) g.sameRegs_opened g.opened_jetOr g.opened_fields.1
    (by simp only [g.opened_wait, fresh, uAt_opened, ok, if_false]; rfl)
  exact ⟨_, y, hu, hy, rfl, State.engine_modEngine s (slotOf s.cur.1) (fun x => x.ask s.cur.1 s.cur.2 (uAt g cnt).toNat), stands⟩

theorem acqb_answered {v : Word} (answer : g.wait = .answer [v]) : UniRuns s (.acqb d cnt) g d v := by
  refine runs_of_setGroup h exec_acqb ?_ (fun _ => rfl)
  simp only [g.opened_wait, answer, List.getD_cons_zero, Group.opened_setS]

end

theorem SlotEng.runFree_iff {x : SlotEng} {b n : Nat} : x.runFree b n = true ↔ ∀ e, e < n → NMap.get? x.holder (b + e) = none := by
  simp only [SlotEng.runFree, List.all_eq_true, List.mem_range, Bool.not_eq_true', NMap.has, Option.isSome_eq_false_iff, Option.isNone_iff_eq_none]

theorem SlotEng.findRun_some {x : SlotEng} {n b : Nat} (aligned : n ≥ 8 → b % 8 = 0) (fits : b + n ≤ 128)
    (free : ∀ e, e < n → NMap.get? x.holder (b + e) = none)
    (lowest : ∀ u, u < b → (n ≥ 8 → u % 8 = 0) → ∃ e, e < n ∧ NMap.get? x.holder (u + e) ≠ none) : x.findRun n = some b := by
  rw [SlotEng.findRun, List.find?_range_eq_some]
  refine ⟨?_, List.mem_range.2 (by omega), fun u hu => ?_⟩
  · simp only [Bool.and_eq_true, Bool.or_eq_true, decide_eq_true_eq]
    exact ⟨by omega, SlotEng.runFree_iff.2 free⟩
  · simp only [Bool.not_eq_true', Bool.and_eq_false_imp, Bool.or_eq_true, decide_eq_true_eq]
    intro fit
    obtain ⟨e, he, taken⟩ := lowest u hu (by omega)
    exact Bool.eq_false_iff.2 fun all => taken (SlotEng.runFree_iff.1 all e he)

/-- The engines of a slot after the oldest request has received its run of banks. -/
def SlotEng.give (x : SlotEng) (rest : List (Nat × Nat × Nat)) (v k q slot : Nat) : SlotEng :=
  { x with acqq := rest, holder := (List.range k).foldl (fun m i => NMap.set m (v + i) (q, slot)) x.holder }

theorem SlotEng.give_holder_run (x : SlotEng) (rest : List (Nat × Nat × Nat)) {v k e : Nat} (q slot : Nat) (he : e < k) :
    NMap.get? (x.give rest v k q slot).holder (v + e) = some (q, slot) :=
  NMap.get?_foldl_set_range (fun _ _ => Nat.add_left_cancel) (fun _ => (q, slot)) he x.holder

theorem SlotEng.give_holder_other (x : SlotEng) (rest : List (Nat × Nat × Nat)) {v k e : Nat} (q slot : Nat) (he : e < v ∨ v + k ≤ e) :
    NMap.get? (x.give rest v k q slot).holder e = NMap.get? x.holder e :=
  NMap.get?_foldl_set_of_ne (fun i hi => by have := List.mem_range.1 hi; omega) x.holder

theorem State.crewStops_false {s : State} {q slot : Nat} {h : Group} (hg : s.group? q slot = some h) (runs : h.halted = false) :
    s.crewStops q slot = false := by
  simp only [State.crewStops, hg, Option.any_some, runs]

theorem exec_acqbGrant_gives {s : State} {qs q slot k v : Nat} {rest : List (Nat × Nat × Nat)} {h : Group}
    (oldest : (s.engine qs).acqq = (q, slot, k) :: rest) (live : s.slotStops qs = false) (hg : s.group? q slot = some h)
    (runs : h.halted = false) (run : (s.engine qs).findRun k = some v) : exec (.acqbGrant qs) s =
      .next ((s.modEngine qs (fun x => x.give rest v k q slot)).setGroup q slot { h with wait := .answer [BitVec.ofNat 32 v] }) := by
  have hg' : (s.modEngine qs (fun x => x.give rest v k q slot)).group? q slot = some h := hg
  simp only [exec_acqbGrant, execAcqbGrant, oldest, live, State.crewStops_false hg runs, run, Bool.false_eq_true, if_false]
  exact congrArg _ (State.modGroup_eq hg' _)

/-! ### `RELB` -/

/-- The engines of a slot after a run of banks has been given back. -/
def SlotEng.takeBack (x : SlotEng) (b n : Nat) : SlotEng := (List.range n).foldl (fun x i => x.freeBank (b + i)) x

theorem SlotEng.takeBack_holder (x : SlotEng) (b n : Nat) :
    (x.takeBack b n).holder = (List.range n).foldl (fun m i => NMap.erase m (b + i)) x.holder :=
  (List.foldl_hom SlotEng.holder (g₁ := fun x i => x.freeBank (b + i)) (fun _ _ => rfl)).symm

theorem SlotEng.takeBack_holder_other (x : SlotEng) {b n e : Nat} (he : e < b ∨ b + n ≤ e) :
    NMap.get? (x.takeBack b n).holder e = NMap.get? x.holder e := by
  rw [SlotEng.takeBack_holder]
  refine NMap.get?_foldl_of_same (fun m i hi => ?_) x.holder
  have := List.mem_range.1 hi
  rw [NMap.get?_erase, if_neg (by omega)]

theorem SlotEng.takeBack_holder_run (x : SlotEng) {b n e : Nat} (he : e < n) : NMap.get? (x.takeBack b n).holder (b + e) = none := by
  obtain ⟨l₁, l₂, split⟩ := List.append_of_mem (List.mem_range.2 he)
  have rising := List.pairwise_append.1 (split ▸ List.pairwise_lt_range (n := n))
  rw [SlotEng.takeBack_holder, NMap.get?_foldl_of_last split fun m i hi => ?_, NMap.get?_erase, if_pos rfl]
  rw [NMap.get?_erase, if_neg]
  have := List.rel_of_pairwise_cons rising.2.1 hi
  omega

theorem State.banksQuiet_iff {s : State} {q slot b n : Nat} {g : Group} :
    s.banksQuiet q slot g b n = true ↔ ∀ r ∈ s.mmas q slot g, b + n ≤ r.k ∨ r.k + 8 ≤ b := by
  simp only [State.banksQuiet, List.all_eq_true, Bool.not_eq_true', Bool.and_eq_false_imp, decide_eq_true_eq, decide_eq_false_iff_not]
  refine forall₂_congr fun r _ => ?_
  omega

theorem State.openCur_banksQuiet (s : State) (g : Group) (q slot b n : Nat) :
    (s.openCur g).banksQuiet q slot g.opened b n = s.banksQuiet q slot g b n :=
  congrArg (fun l => l.all (fun r => !(decide (r.k < b + n) && decide (b < r.k + 8)))) (s.openCur_mmas g q slot)

theorem relb_gives {s : State} {g : Group} {base cnt : USel} {b n : Nat} (h : Issues s (.relb base cnt) g) (hb : (uAt g base).toNat = b)
    (hn : (uAt g cnt).toNat = n) (low : 1 ≤ n) (fits : b + n ≤ 128)
    (held : ∀ e, e < n → NMap.get? (s.engine (slotOf s.cur.1)).holder (b + e) = some (s.cur.1, s.cur.2))
    (quiet : ∀ r ∈ s.mmas s.cur.1 s.cur.2 g, b + n ≤ r.k ∨ r.k + 8 ≤ b) :
    GroupAfter (exec (.relb base cnt) s) s.cur.1 s.cur.2 (fun t y => t.mem = s.mem ∧
      t.engine (slotOf s.cur.1) = (s.engine (slotOf s.cur.1)).takeBack b n ∧
      y.SameRegs g ∧ y.pc = g.pc + instrLen (.relb base cnt) ∧ y.wait = .none) := by
  have ok : ¬(n = 0 ∨ 128 < b + n) := by omega
  have noHole : (List.range n).find? (fun i => !s.holdsBanks s.cur.1 s.cur.2 (b + i) 1) = none := by
    refine List.find?_eq_none.2 fun i hi => ?_
    have holds : s.holdsBanks s.cur.1 s.cur.2 (b + i) 1 = true :=
      State.holdsBanks_iff.2 fun e he => by rw [Nat.lt_one_iff.1 he]; exact held i (List.mem_range.1 hi)
    simp [holds]
  obtain ⟨u, y, hu, hy, rfl, regs, pc, wait⟩ := completes_of_next h exec_relb
    (t := ((s.openCur g).modEngine (slotOf s.cur.1) (fun x => x.takeBack b n)).setGroup s.cur.1 s.cur.2 { g.opened with
      mmSpoilt := g.opened.mmSpoilt.filter (fun k => !(decide (b ≤ k) && decide (k < b + n))),
      mmNamed := g.opened.mmNamed.filter (fun k => !(decide (b ≤ k) && decide (k < b + n))) })
    (State.group?_setGroup (s := (s.openCur g).modEngine (slotOf s.cur.1) _) (State.openCur_group? h.1)) g.sameRegs_opened
    (by simp only [uAt_opened, hb, hn, ok, if_false, State.openCur_holdsBanks, noHole, untilThen, State.openCur_banksQuiet,
          State.banksQuiet_iff.2 quiet, if_true]; rfl)
  exact ⟨_, y, hu, hy, rfl, State.engine_modEngine s (slotOf s.cur.1) (fun x => x.takeBack b n), regs, pc, wait⟩

/-! ### `RESERVATION_ENTRY` (R201) -/

theorem SlotEng.enter_table (x : SlotEng) (r : MmaReq) (q slot : Nat) :
    (x.enter r q slot).table = x.table ++ [{ r with age := x.nextAge, waited := 0 }] := by
  unfold SlotEng.enter SlotEng.ungrant
  split <;> rfl

theorem exec_reservationEntry_enters {s : State} {q slot : Nat} {h : Group} {r : MmaReq} (hg : s.group? q slot = some h)
    (full : h.staging = some r) (live : s.slotStops (slotOf q) = false) (runs : h.halted = false) (room : (s.engine (slotOf q)).table.length < 16) :
    exec (.reservationEntry q slot) s =
      .next ((s.modEngine (slotOf q) (fun x => x.enter r q slot)).setGroup q slot { h with staging := none }) := by
  have free : ¬(if (s.engine (slotOf q)).grant = some (q, slot) then 17 else 16) ≤ (s.engine (slotOf q)).table.length := by
    split <;> omega
  simp only [exec_reservationEntry, execReservationEntry, hg, full, live, runs, Bool.or_self, Bool.false_and, Bool.false_eq_true, if_false,
    free, State.enterTable_some full]

/-- Settles O40: the holders of a slot after a grant and a `RELB` are a run of writes and of erasures (`SlotEng.give`, `SlotEng.takeBack`). -/
theorem banksAreGrantedAndGivenBack : Obligations.BanksAreGrantedAndGivenBack := by
  intro s g d cnt base q slot x n b acq rel kept
  refine ⟨acqb_raises, fun h fresh low high => ?asks, fun v h => acqb_answered h, ?grant, fun h _ low fits held quiet => ?gives, ?entry⟩
  case asks =>
    refine groupAfter_imp (acqb_asks h fresh low high) fun t y ⟨mem, eng, regs, pc, wait, jet⟩ => ?_
    obtain ⟨v, s', p, -, em, -, stack, -⟩ := regs
    exact ⟨⟨mem, v, s', p, em, stack⟩, wait, pc, jet, (congrArg SlotEng.acqq eng :), (congrArg SlotEng.holder eng :)⟩
  case grant =>
    intro qs q1 slot1 k rest v h oldest live aligned fits _ free lowest hg runs
    have eng : ((s.modEngine qs (fun x => x.give rest v k q1 slot1)).setGroup q1 slot1 { h with wait := .answer [BitVec.ofNat 32 v] }).engine qs =
      (s.engine qs).give rest v k q1 slot1 := State.engine_modEngine s qs (fun x => x.give rest v k q1 slot1)
    refine ⟨_, exec_acqbGrant_gives oldest live hg runs (SlotEng.findRun_some aligned fits free lowest), rfl, congrArg SlotEng.acqq eng,
      State.group?_setGroup (s := s.modEngine ..) hg, fun e he => ?_, fun e he => ?_⟩
    · rw [eng, SlotEng.give_holder_run _ _ _ _ he]
    · rw [eng, SlotEng.give_holder_other _ _ _ _ he]
  case gives =>
    refine groupAfter_imp (relb_gives h rfl rfl low fits held quiet) fun t y ⟨mem, eng, regs, pc, wait⟩ => ?_
    obtain ⟨v, s', p, -, em, -, stack, -⟩ := regs
    refine ⟨⟨mem, v, s', p, em, stack⟩, pc, wait, fun e he => ?_, fun e he => ?_⟩
    · rw [eng, SlotEng.takeBack_holder_run _ he]
    · rw [eng, SlotEng.takeBack_holder_other _ he]
  case entry =>
    intro q1 slot1 h r hg full live runs room
    refine ⟨_, { r with age := (s.engine (slotOf q1)).nextAge, waited := 0 }, exec_reservationEntry_enters hg full live runs room, rfl,
      State.group?_setGroup (s := s.modEngine ..) hg, ?_, rfl, rfl⟩
    exact (congrArg SlotEng.table (State.engine_modEngine s (slotOf q1) (fun x => x.enter r q1 slot1))).trans (SlotEng.enter_table ..)

end Sys2Proof.Machine
end

section
/-! ## Passes (R187 to R191, R202 to R206)

The arbiter's choice, the elements that a pass writes, and the sum that each adds, in exact terms. -/

namespace Sys2Proof.Machine

/-! ### The grant of a pass (R202) -/

/-- The better of an entry found so far and another (R202). -/
def MmaReq.better (b : Option MmaReq) (r : MmaReq) : Option MmaReq :=
  match b with
  | none => some r
  | some o => if o.effPrio < r.effPrio ∨ (o.effPrio = r.effPrio ∧ r.age < o.age) then some r else b

theorem MmaReq.better_some (b : Option MmaReq) (r : MmaReq) : ∃ o, MmaReq.better b r = some o ∧ (o = r ∨ b = some o) ∧
    r.effPrio ≤ o.effPrio ∧ ∀ o', b = some o' → o'.effPrio ≤ o.effPrio := by
  cases b with
  | none => exact ⟨r, rfl, .inl rfl, le_rfl, fun _ h => nomatch h⟩
  | some o =>
    by_cases higher : o.effPrio < r.effPrio ∨ (o.effPrio = r.effPrio ∧ r.age < o.age)
    · refine ⟨r, if_pos higher, .inl rfl, le_rfl, ?_⟩
      rintro _ ⟨⟩
      omega
    · refine ⟨o, if_neg higher, .inr rfl, by omega, ?_⟩
      rintro _ ⟨⟩
      exact le_rfl

/-- The best of a list of entries is one of them, and none has a higher priority. -/
theorem MmaReq.foldl_better (l : List MmaReq) (b : MmaReq) : ∃ r, l.foldl MmaReq.better (some b) = some r ∧ (r = b ∨ r ∈ l) ∧
    b.effPrio ≤ r.effPrio ∧ ∀ o ∈ l, o.effPrio ≤ r.effPrio := by
  induction l generalizing b with
  | nil => exact ⟨b, rfl, .inl rfl, le_rfl, fun _ h => nomatch h⟩
  | cons a l ih =>
    obtain ⟨o, eq, from_, above, keeps⟩ := MmaReq.better_some (some b) a
    obtain ⟨r, eq', from', le, best⟩ := ih o
    refine ⟨r, by rw [List.foldl_cons, eq, eq'], ?_, (keeps b rfl).trans le, fun o' ho' => ?_⟩
    · rcases from' with rfl | mem
      · rcases from_ with rfl | same
        · exact .inr List.mem_cons_self
        · exact .inl (Option.some.inj same).symm
      · exact .inr (List.mem_cons_of_mem _ mem)
    · rcases List.mem_cons.1 ho' with rfl | mem
      · exact above.trans le
      · exact best o' mem

theorem SlotEng.choose_some {x : SlotEng} {stopped : Nat → Nat → Bool}
    (some_ : ∃ r ∈ x.table, x.eligible r = true ∧ stopped r.q r.slot = false) :
    ∃ r, x.choose stopped = some r ∧ r ∈ x.table ∧ x.eligible r = true ∧ stopped r.q r.slot = false ∧
      ∀ o ∈ x.table, x.eligible o = true → stopped o.q o.slot = false → o.effPrio ≤ r.effPrio := by
  have choose_eq : x.choose stopped = (x.table.filter (fun r => x.eligible r && !stopped r.q r.slot)).foldl MmaReq.better none := rfl
  have mem_iff : ∀ o, o ∈ x.table.filter (fun r => x.eligible r && !stopped r.q r.slot) ↔
      o ∈ x.table ∧ x.eligible o = true ∧ stopped o.q o.slot = false := fun o => by
    rw [List.mem_filter, Bool.and_eq_true, Bool.not_eq_true']
  obtain ⟨r₀, hr₀⟩ := some_
  cases list : x.table.filter (fun r => x.eligible r && !stopped r.q r.slot) with
  | nil => exact absurd ((mem_iff r₀).2 hr₀) (list ▸ List.not_mem_nil)
  | cons a l =>
    obtain ⟨r, eq, from_, above, best⟩ := MmaReq.foldl_better l a
    obtain ⟨mem, eligible, runs⟩ := (mem_iff r).1 (list ▸ List.mem_cons.2 from_)
    refine ⟨r, by rw [choose_eq, list]; exact eq, mem, eligible, runs, fun o ho e st => ?_⟩
    rcases List.mem_cons.1 (list ▸ (mem_iff o).2 ⟨ho, e, st⟩) with rfl | tail
    · exact above
    · exact best o tail

/-- The engines of a slot once a pass of an entry has started. -/
def SlotEng.start (x : SlotEng) (r : MmaReq) (until_ : Nat) : SlotEng :=
  { x.shrink (x.table.filter (fun o => o.age != r.age)) with pass := some (r, until_) }

theorem SlotEng.mem_start_table {x : SlotEng} {r o : MmaReq} {n : Nat} : o ∈ (x.start r n).table ↔ o ∈ x.table ∧ o.age ≠ r.age := by
  simp only [SlotEng.start, SlotEng.shrink, List.mem_filter, bne_iff_ne]

theorem exec_passGrant_starts {s : State} {qs : Nat} {r : MmaReq} (idle : (s.engine qs).pass = none) (live : s.slotStops qs = false)
    (token : s.hasToken (qs / 4) = true) (time : s.now ≤ (NMap.getD s.rings (qs / 4 / 16) (0, 8)).1 * 4096 + 4064)
    (chosen : (s.engine qs).choose s.crewStops = some r) :
    exec (.passGrant qs) s = .next (s.modEngine qs (fun x => x.start r (s.now + 32))) := by
  simp only [exec_passGrant, execPassGrant, idle, live, token, Nat.not_lt.2 time, chosen, Option.isSome_none, Bool.not_true,
    Bool.false_eq_true, if_false]
  rfl

/-! ### The elements of a pass (R203, R352) -/

/-- A run of writes to distinct keys, each from the old word of its key. -/
theorem NMap.get?_foldl_update_range {α : Type} {k : Nat → Nat} (inj : ∀ i j, k i = k j → i = j) (v : Nat → Option α → α) {n e : Nat}
    (he : e < n) (m : NMap α) :
    NMap.get? ((List.range n).foldl (fun m i => NMap.set m (k i) (v i (NMap.get? m (k i)))) m) (k e) = some (v e (NMap.get? m (k e))) := by
  obtain ⟨l₁, l₂, split⟩ := List.append_of_mem (List.mem_range.2 he)
  have rising := List.pairwise_append.1 (split ▸ List.pairwise_lt_range (n := n))
  have after : ∀ (m : NMap α), ∀ i ∈ l₂, NMap.get? (NMap.set m (k i) (v i (NMap.get? m (k i)))) (k e) = NMap.get? m (k e) := fun m i hi =>
    NMap.get?_set_of_ne m _ fun same => (Nat.ne_of_gt (List.rel_of_pairwise_cons rising.2.1 hi)) (inj i e same)
  have before : ∀ (m : NMap α), ∀ i ∈ l₁, NMap.get? (NMap.set m (k i) (v i (NMap.get? m (k i)))) (k e) = NMap.get? m (k e) := fun m i hi =>
    NMap.get?_set_of_ne m _ fun same => (Nat.ne_of_lt (rising.2.2 i hi e List.mem_cons_self)) (inj i e same)
  rw [NMap.get?_foldl_of_last split after, NMap.get?_set_self, NMap.get?_foldl_of_same before]

/-- The word of the accumulators that element i of a pass is. -/
def MmaReq.key (r : MmaReq) (i : Nat) : Nat := 512 * (r.k + i / 64 / 8) + 64 * (i / 64 % 8) + i % 64

theorem MmaReq.key_eq (r : MmaReq) (i : Nat) : r.key i = 512 * r.k + i := by
  unfold MmaReq.key
  omega

/-- What a pass takes of its entry. -/
def MmaReq.passArg (r : MmaReq) : PassArg :=
  { a := r.a, b := r.b, fmt := r.fmt, blka := blkSize r.blka, blkb := blkSize r.blkb, mxa := r.mxa, mxb := r.mxb }

/-- The word that a pass makes of element i (R204). -/
def MmaReq.element (r : MmaReq) (c : Crew) (ix i : Nat) (old : Option Word) : Word :=
  if rowDirty r.dirty r.a (blkSize r.blka) (i / 64) || rowDirty r.dirty r.b (blkSize r.blkb) (i % 64) then Config.freeWord (ix + i)
  else c.passElem r.passArg (i / 64) (i % 64) (if r.clr then 0#32 else old.getD 0#32)

theorem SlotEng.passWrite_acc (x : SlotEng) (c : Crew) (r : MmaReq) (ix : Nat) : (x.passWrite c r ix).acc =
    (List.range 4096).foldl (fun acc i => NMap.set acc (r.key i) (r.element c ix i (NMap.get? acc (r.key i)))) x.acc := by
  simp only [SlotEng.passWrite]
  congr 1

theorem SlotEng.passWrite_acc_element (x : SlotEng) (c : Crew) (r : MmaReq) (ix : Nat) {i : Nat} (hi : i < 4096) :
    NMap.get? (x.passWrite c r ix).acc (512 * r.k + i) = some (r.element c ix i (NMap.get? x.acc (512 * r.k + i))) := by
  rw [SlotEng.passWrite_acc, ← MmaReq.key_eq]
  refine NMap.get?_foldl_update_range (fun i j same => ?_) _ hi x.acc
  rw [MmaReq.key_eq, MmaReq.key_eq] at same
  omega

theorem SlotEng.passWrite_acc_other (x : SlotEng) (c : Crew) (r : MmaReq) (ix : Nat) {z : Nat}
    (hz : z < 512 * r.k ∨ 512 * (r.k + 8) ≤ z) : NMap.get? (x.passWrite c r ix).acc z = NMap.get? x.acc z := by
  rw [SlotEng.passWrite_acc]
  refine NMap.get?_foldl_of_same (fun m i hi => NMap.get?_set_of_ne m _ fun same => ?_) x.acc
  rw [MmaReq.key_eq] at same
  have := List.mem_range.1 hi
  omega

theorem SlotEng.passWrite_eq (x : SlotEng) (c : Crew) (r : MmaReq) (ix : Nat) : ∃ acc, x.passWrite c r ix = { x with acc := acc } := ⟨_, rfl⟩

/-- The crew of an entry. -/
def State.passCrew (s : State) (r : MmaReq) : Option Crew := (s.group? r.q r.slot).bind (fun g => s.crew? r.q g)

/-- The engines of a slot after a pass. -/
def SlotEng.finish (x : SlotEng) (crew : Option Crew) (r : MmaReq) (ix : Nat) : SlotEng :=
  { (match crew with
      | some c => x.passWrite c r ix
      | none => x) with pass := none }

theorem SlotEng.finish_acc (x : SlotEng) (c : Crew) (r : MmaReq) (ix : Nat) : (x.finish (some c) r ix).acc = (x.passWrite c r ix).acc := by
  simp only [SlotEng.finish]

theorem SlotEng.finish_acc_other (x : SlotEng) (crew : Option Crew) (r : MmaReq) (ix : Nat) {z : Nat}
    (hz : z < 512 * r.k ∨ 512 * (r.k + 8) ≤ z) : NMap.get? (x.finish crew r ix).acc z = NMap.get? x.acc z := by
  cases crew with
  | none => rfl
  | some c => rw [SlotEng.finish_acc, SlotEng.passWrite_acc_other x c r ix hz]

theorem SlotEng.finish_rest (x : SlotEng) (crew : Option Crew) (r : MmaReq) (ix : Nat) :
    (x.finish crew r ix).table = x.table ∧ (x.finish crew r ix).holder = x.holder := by
  cases crew with
  | none => exact ⟨rfl, rfl⟩
  | some c =>
    obtain ⟨acc, eq⟩ := x.passWrite_eq c r ix
    simp only [SlotEng.finish, eq, and_self]

theorem passEnd_finishes {s : State} {qs e : Nat} {r : MmaReq} (running : (s.engine qs).pass = some (r, e)) (past : e ≤ s.now) :
    ∃ t, exec (.passEnd qs) s = .next t ∧ t.engine qs = (s.engine qs).finish (s.passCrew r) r s.freeIx ∧ t.mem = s.mem ∧ t.quads = s.quads := by
  refine ⟨{ s with freeIx := s.freeIx + 4096 }.modEngine qs (fun x => x.finish (s.passCrew r) r s.freeIx), ?_,
    State.engine_modEngine { s with freeIx := s.freeIx + 4096 } qs _, rfl, rfl⟩
  simp only [exec_passEnd, execPassEnd, running, Nat.not_lt.2 past, if_false, Nat.add_sub_cancel]
  rfl

/-! ### The integer sum (R189) -/

theorem Crew.passElem_s8 {c : Crew} {p : PassArg} (hp : mmaFmts p.fmt = none) (m n : Nat) (acc : Word) :
    ((c.passElem p m n acc).toNat : Int) = ((acc.toNat : Int) + ((List.range 128).map (fun k =>
      (c.byte (tileByte p.a m k)).toInt * (c.byte (tileByte p.b n k)).toInt)).sum) % 2 ^ 32 := by
  have sum : (List.range 128).foldl (fun (x : Int) k => x + sByte (c.byte (tileByte p.a m k)) * sByte (c.byte (tileByte p.b n k))) 0 =
      ((List.range 128).map (fun k => (c.byte (tileByte p.a m k)).toInt * (c.byte (tileByte p.b n k)).toInt)).sum := by
    rw [List.sum_eq_foldl, List.foldl_map]
    rfl
  simp only [Crew.passElem, hp, sum]
  rw [BitVec.toNat_add, BitVec.toNat_ofInt]
  omega

/-! ### The float sums (R187, R189) -/

/-- A value is finite and stands for a number. -/
def FVal.Is (v : FVal) (x : ℚ) : Prop := ∃ s m e, v = .fin s m e ∧ (dyOf s m e).val = x

theorem dyOf_scale_val (s : Bool) (m : Nat) (e k : Int) : (dyOf s m (e + k)).val = (dyOf s m e).val * 2 ^ k := by
  have := dyOf_mul_val s false m 1 e k
  simpa [dyOf_val] using this

/-- The number that the scale of an element stands for (R187, R191). -/
def Crew.scaleVal (c : Crew) (base row : Nat) (blk : Blk) (mx : Bool) (count i : Nat) : ℚ :=
  if blk = .none then 1
  else 2 ^ (((c.byte (sidecarRow base row + (if count ≤ blkSize blk then 0 else i / blkSize blk))).toNat : Int) - 127) *
    (if mx = true ∧ (c.byte (sidecarRow base row + 16 + i / 16)).getLsbD (i / 2 % 8) = true then 1 / 2 else 1)

theorem Crew.scale_val (c : Crew) (base row : Nat) (blk : Blk) (mx : Bool) (count i : Nat)
    (whole : blk ≠ .none → (c.byte (sidecarRow base row + (if count ≤ blkSize blk then 0 else i / blkSize blk))).toNat ≠ 255) :
    ∃ k, c.scale base row (blkSize blk) mx count i = some k ∧ (2 : ℚ) ^ k = c.scaleVal base row blk mx count i := by
  by_cases none_ : blk = .none
  · refine ⟨0, ?_, ?_⟩
    · rw [none_]; rfl
    · rw [Crew.scaleVal, if_pos none_, zpow_zero]
  · have sized : blkSize blk ≠ 0 := by cases blk <;> simp_all [blkSize]
    refine ⟨((c.byte (sidecarRow base row + (if count ≤ blkSize blk then 0 else i / blkSize blk))).toNat : Int) - 127 -
      (if (mx && (c.byte (sidecarRow base row + 16 + i / 16)).getLsbD (i / 2 % 8)) = true then 1 else 0), ?_, ?_⟩
    · simp only [Crew.scale, sized, if_false, whole none_]
    · rw [Crew.scaleVal, if_neg none_, sub_eq_add_neg _ (ite ..), zpow_add₀ two_ne_zero]
      congr 1
      by_cases half : mx = true ∧ (c.byte (sidecarRow base row + 16 + i / 16)).getLsbD (i / 2 % 8) = true
      · rw [if_pos half, if_pos (Bool.and_eq_true_iff.2 half)]
        norm_num
      · rw [if_neg half, if_neg (fun both => half (Bool.and_eq_true_iff.1 both))]
        norm_num

theorem Crew.scaled_is {c : Crew} {f : FFmt} {base row i : Nat} {blk : Blk} (mx : Bool)
    (finite : FloatFinite f (c.elem base row f.width i))
    (whole : blk ≠ .none → (c.byte (sidecarRow base row + (if 1024 / f.width ≤ blkSize blk then 0 else i / blkSize blk))).toNat ≠ 255) :
    (c.scaled base row (blkSize blk) mx f i).Is (floatVal f (c.elem base row f.width i) * c.scaleVal base row blk mx (1024 / f.width) i) := by
  obtain ⟨k, scale, value⟩ := c.scale_val base row blk mx (1024 / f.width) i whole
  obtain ⟨s, m, e, decode, number⟩ := fDecode_of_finite finite
  refine ⟨s, m, e + k, ?_, ?_⟩
  · simp only [Crew.scaled, scale, decode]
  · rw [dyOf_scale_val, number, value]

/-- A run has met finite products only, and their sum is a number. -/
def RunSum.Is (r : RunSum) (x : ℚ) : Prop := r.nan = false ∧ r.posInf = false ∧ r.negInf = false ∧ r.sum.val = x

theorem RunSum.zero_is : RunSum.zero.Is 0 := ⟨rfl, rfl, rfl, by simp [RunSum.zero, Dy.val]⟩

theorem RunSum.Is.add {r : RunSum} {x y z : ℚ} (h : r.Is x) {a b : FVal} (ha : a.Is y) (hb : b.Is z) : (r.add a b).Is (x + y * z) := by
  obtain ⟨nan, pos, neg, sum⟩ := h
  obtain ⟨s, m, e, rfl, rfl⟩ := ha
  obtain ⟨t, n, k, rfl, rfl⟩ := hb
  refine ⟨nan, pos, neg, ?_⟩
  simp only [RunSum.add, Dy.val_add, sum, dyOf_mul_val]

theorem RunSum.Is.foldl {a b : Nat → FVal} {y z : Nat → ℚ} {l : List Nat} (ha : ∀ i ∈ l, (a i).Is (y i)) (hb : ∀ i ∈ l, (b i).Is (z i))
    {r : RunSum} {x : ℚ} (h : r.Is x) : (l.foldl (fun r i => r.add (a i) (b i)) r).Is (x + (l.map (fun i => y i * z i)).sum) := by
  induction l generalizing r x with
  | nil => simpa using h
  | cons i l ih =>
    have tail := ih (fun j hj => ha j (List.mem_cons_of_mem _ hj)) (fun j hj => hb j (List.mem_cons_of_mem _ hj))
      (h.add (ha i List.mem_cons_self) (hb i List.mem_cons_self))
    rwa [List.map_cons, List.sum_cons, ← add_assoc]

/-- The sum of a finite run is rounded once (R189 step 3). -/
theorem RunSum.Is.word_rounds {r : RunSum} {x : ℚ} (h : r.Is x) : RoundsTo fF32 .rn r.word.toNat x := by
  obtain ⟨nan, pos, neg, sum⟩ := h
  obtain ⟨low, rounds⟩ := fRoundDy_roundsTo fF32_ieee r.allNeg r.sum
  have word : r.word.toNat = (fRoundDy fF32 .rn false r.allNeg r.sum).1 := by
    simp only [RunSum.word, nan, pos, neg, Bool.or_self, Bool.and_self, Bool.false_eq_true, if_false, BitVec.toNat_ofNat]
    exact Nat.mod_eq_of_lt low
  rwa [word, ← sum]

/-- Both operands of a float pass have elements of one width (R351). -/
theorem mmaFmts_width {fmt : MmaFmt} {fa fb : FFmt} (h : mmaFmts fmt = some (fa, fb)) : fb.width = fa.width := by
  cases fmt <;> simp only [mmaFmts, Option.some.injEq, Prod.mk.injEq, reduceCtorEq] at h <;> obtain ⟨rfl, rfl⟩ := h <;> rfl

/-- The sum of a run of 16 products of a pass. -/
def Crew.passRun (c : Crew) (p : PassArg) (fa fb : FFmt) (m n j : Nat) : RunSum :=
  (List.range 16).foldl (fun (x : RunSum) i =>
    x.add (c.scaled p.a m p.blka p.mxa fa (16 * j + i)) (c.scaled p.b n p.blkb p.mxb fb (16 * j + i))) RunSum.zero

theorem Crew.passElem_float {c : Crew} {p : PassArg} {fa fb : FFmt} (hp : mmaFmts p.fmt = some (fa, fb)) (m n : Nat) (acc : Word) :
    c.passElem p m n acc =
      (List.range (1024 / fa.width / 16)).foldl (fun acc j => (faddW acc (c.passRun p fa fb m n j).word).1) acc := by
  simp only [Crew.passElem, hp, Crew.passRun]

/-- Each element of a row is finite, and so is the scale of its block. -/
def Crew.RowFinite (c : Crew) (f : FFmt) (base row : Nat) (blk : Blk) : Prop := ∀ i, i < 1024 / f.width →
  FloatFinite f (c.elem base row f.width i) ∧
    (blk ≠ .none → (c.byte (sidecarRow base row + (if 1024 / f.width ≤ blkSize blk then 0 else i / blkSize blk))).toNat ≠ 255)

theorem Crew.passRun_rounds {c : Crew} {r : MmaReq} {fa fb : FFmt} (hf : mmaFmts r.fmt = some (fa, fb)) {m n j : Nat}
    (hj : j < 1024 / fa.width / 16) (wholeA : c.RowFinite fa r.a m r.blka) (wholeB : c.RowFinite fb r.b n r.blkb) :
    RoundsTo fF32 .rn (c.passRun r.passArg fa fb m n j).word.toNat ((List.range 16).map (fun i =>
      floatVal fa (c.elem r.a m fa.width (16 * j + i)) * c.scaleVal r.a m r.blka r.mxa (1024 / fa.width) (16 * j + i) *
        (floatVal fb (c.elem r.b n fb.width (16 * j + i)) * c.scaleVal r.b n r.blkb r.mxb (1024 / fb.width) (16 * j + i)))).sum := by
  have inside : ∀ i ∈ List.range 16, 16 * j + i < 1024 / fa.width := fun i hi => by
    have := List.mem_range.1 hi
    omega
  have sum := RunSum.Is.foldl (l := List.range 16)
    (fun i hi => Crew.scaled_is r.mxa (wholeA _ (inside i hi)).1 (wholeA _ (inside i hi)).2)
    (fun i hi => Crew.scaled_is r.mxb (wholeB _ (mmaFmts_width hf ▸ inside i hi)).1 (wholeB _ (mmaFmts_width hf ▸ inside i hi)).2)
    RunSum.zero_is
  rw [zero_add] at sum
  exact sum.word_rounds

/-! ### The frame of the power tokens (R206) -/

theorem exec_powerTokenFrame_turns {s : State} {die : Nat} (up : s.powered = true)
    (past : (NMap.getD s.rings die (0, 8)).1 < s.now / 4096) : exec (.powerTokenFrame die) s =
      .next { s with rings := NMap.set s.rings die ((NMap.getD s.rings die (0, 8)).1 + 1, s.tokensSet), gaps := NMap.set s.gaps die s.gapSet } := by
  simp only [exec_powerTokenFrame, execPowerTokenFrame, up, Bool.not_true, Bool.false_eq_true, if_false, Nat.not_le.2 past]

/-- Settles O41: a pass writes word `512 * k + i` for its element i (`SlotEng.passWrite_acc_element`), and the sum of a run is exact
until it is rounded (`RunSum.Is`). -/
theorem matrixPassesRun : Obligations.MatrixPassesRun := by
  intro s qs x
  refine ⟨fun idle live token time some_ => ?grant, fun r e running past => ?pass, fun die up past => ?frame⟩
  case grant =>
    obtain ⟨r, chosen, mem, eligible, runs, best⟩ := SlotEng.choose_some some_
    have eng := State.engine_modEngine s qs (fun x => x.start r (s.now + 32))
    exact ⟨_, r, exec_passGrant_starts idle live token time chosen, mem, eligible, runs, best, (congrArg SlotEng.pass eng :),
      fun o => by rw [eng]; exact SlotEng.mem_start_table, (congrArg SlotEng.acc eng :), (congrArg SlotEng.holder eng :), rfl, rfl⟩
  case pass =>
    obtain ⟨t, runs, eng, mem, quads⟩ := passEnd_finishes running past
    obtain ⟨table, holder⟩ := x.finish_rest (s.passCrew r) r s.freeIx
    refine ⟨t, runs, (congrArg SlotEng.pass eng :), (congrArg SlotEng.table eng).trans table,
      (congrArg SlotEng.holder eng).trans holder, mem, quads, fun z hz => ?_, ?_⟩
    · rw [eng]
      exact x.finish_acc_other _ r _ hz
    · intro g c m n hg hc hm hn cleanA cleanB old
      have crew : s.passCrew r = some c := by rw [State.passCrew, hg, Option.bind_some, hc]
      have row : (64 * m + n) / 64 = m := by omega
      have column : (64 * m + n) % 64 = n := by omega
      refine ⟨c.passElem r.passArg m n old, ?_, fun s8 => Crew.passElem_s8 (congrArg mmaFmts s8) m n old, ?_⟩
      · have written := x.passWrite_acc_element c r s.freeIx (i := 64 * m + n) (by omega)
        have word : (if r.clr then 0#32 else (NMap.get? x.acc (512 * r.k + (64 * m + n))).getD 0#32) = old := by
          rw [← Nat.add_assoc]
          rfl
        rw [MmaReq.element, row, column, cleanA, cleanB, word, Bool.or_self, if_neg Bool.false_ne_true] at written
        rw [eng, crew, SlotEng.finish_acc, Nat.add_assoc, written]
      · intro fa fb hf count side whole val wholeA wholeB
        have same : 1024 / fb.width = count := by rw [mmaFmts_width hf]
        refine ⟨fun j => (c.passRun r.passArg fa fb m n j).word, Crew.passElem_float hf m n old, fun j hj => ?_⟩
        have rounds := Crew.passRun_rounds hf hj wholeA (by rw [Crew.RowFinite, same]; exact wholeB)
        rw [same] at rounds
        exact rounds
  case frame =>
    exact ⟨_, _, exec_powerTokenFrame_turns up past, NMap.get?_set_self .., NMap.get?_set_self .., fun o other =>
      ⟨NMap.get?_set_of_ne _ _ other.symm, NMap.get?_set_of_ne _ _ other.symm⟩⟩

end Sys2Proof.Machine
end

section
/-! ## What a request in flight asks stays

What a state does by itself (R119, R126, R128) changes where a request stands, not what it asks: only promotes and merged stores leave. -/

namespace Sys2Proof.Machine

/-- What a request asks: its kind, for whom, and of which line. -/
def Req.face (r : Req) : ReqKind × Owner × Nat × Nat × Nat := (r.kind, r.owner, r.dev, r.obj, r.line)

/-- The kinds of requests that leave on their own: promotes, and stores that are merged. -/
def ReqKind.melts (k : ReqKind) : Bool := k.isPromote || match k with
  | .merge _ => true
  | _ => false

/-- A request under a number asks f. -/
def State.Asks (s : State) (id : Nat) (f : ReqKind × Owner × Nat × Nat × Nat) : Prop :=
  id < s.nextId ∧ f.1.melts = false ∧ ∃ r, s.req? id = some r ∧ r.face = f

section
variable {s t : State} {id : Nat} {f : ReqKind × Owner × Nat × Nat × Nat}

theorem asks_of_reqs (h : s.Asks id f) (reqs : t.reqs = s.reqs) (next : s.nextId ≤ t.nextId) : t.Asks id f := by
  obtain ⟨low, lasts, r, hr, face⟩ := h
  exact ⟨low.trans_le next, lasts, r, by rw [State.req?, reqs]; exact hr, face⟩

theorem asks_of_map {fr : Nat × Req → Nat × Req} (h : s.Asks id f) (reqs : t.reqs = s.reqs.map fr)
    (hr : ∀ e, (fr e).1 = e.1 ∧ (fr e).2.face = e.2.face) (next : t.nextId = s.nextId) : t.Asks id f := by
  obtain ⟨low, lasts, r, some_, face⟩ := h
  refine ⟨next ▸ low, lasts, (fr (id, r)).2, ?_, (hr (id, r)).2.trans face⟩
  rw [State.req?, reqs, NMap.get?_map_of_key (fun e => (hr e).1), show NMap.get? s.reqs id = some r from some_, Option.map_some]

theorem State.Asks.setReq (h : s.Asks id f) (i : Nat) {z : Req} (hz : i = id → z.face = f) : (s.setReq i z).Asks id f := by
  obtain ⟨low, lasts, r, hr, face⟩ := h
  refine ⟨low, lasts, ?_⟩
  simp only [State.req?, State.setReq, NMap.get?_set]
  split
  next e => exact ⟨z, rfl, hz e⟩
  next => exact ⟨r, hr, face⟩

theorem State.Asks.erase (h : s.Asks id f) {i : Nat} (hi : i ≠ id) : ({ s with reqs := NMap.erase s.reqs i } : State).Asks id f := by
  obtain ⟨low, lasts, r, hr, face⟩ := h
  refine ⟨low, lasts, r, ?_, face⟩
  rw [State.req?, NMap.get?_erase, if_neg hi]
  exact hr

theorem State.Asks.addReq (h : s.Asks id f) (r : Req) : (s.addReq r).Asks id f := by
  obtain ⟨low, lasts, r', hr, face⟩ := h
  refine ⟨Nat.lt_succ_of_lt low, lasts, r', ?_, face⟩
  simp only [State.req?, State.addReq, NMap.get?_set, Nat.ne_of_gt low, if_false]
  exact hr

theorem State.Asks.foldl {α : Type} {step : State → α → State} (kept : ∀ s, s.Asks id f → ∀ a, (step s a).Asks id f) (l : List α)
    (h : s.Asks id f) : (l.foldl step s).Asks id f :=
  List.foldlRecOn l step (motive := fun s => s.Asks id f) h fun s hs a _ => kept s hs a

/-! ### The changes of which settling is made -/

theorem State.Asks.over (h : s.Asks id f) (i : Nat) : (s.over i).Asks id f := asks_of_map h rfl (fun _ => ⟨rfl, rfl⟩) rfl

theorem State.Asks.placed (h : s.Asks id f) (i : Nat) : (s.placed i).Asks id f := asks_of_map h rfl (fun _ => ⟨rfl, rfl⟩) rfl

theorem State.Asks.follow (h : s.Asks id f) (i : Nat) (new : List Nat) (narrow : Bool) : (s.follow i new narrow).Asks id f :=
  asks_of_map h rfl (fun _ => by split <;> exact ⟨rfl, rfl⟩) rfl

theorem State.Asks.dropFills (h : s.Asks id f) (p : Req → Bool) : (s.dropFills p).Asks id f :=
  asks_of_map h rfl (fun e => by
    split
    next => split <;> exact ⟨rfl, rfl⟩
    next => exact ⟨rfl, rfl⟩) rfl

theorem State.Asks.modQuad (h : s.Asks id f) (q : Nat) (g : Quad → Quad) : (s.modQuad q g).Asks id f := asks_of_reqs h rfl le_rfl

theorem State.Asks.overtake (h : s.Asks id f) (q k : Nat) : (s.overtake q k).Asks id f := h.dropFills _

theorem State.Asks.modGroup (h : s.Asks id f) (q slot : Nat) (g : Group → Group) : (s.modGroup q slot g).Asks id f := by
  unfold State.modGroup
  split
  · exact asks_of_reqs h rfl le_rfl
  · exact h

theorem State.Asks.wcEnter (h : s.Asks id f) (e : WcEntry) : (s.wcEnter e).Asks id f :=
  ((((h.modQuad e.owner.q _).overtake _ _).addReq _).follow _ _ _).over _

theorem State.Asks.drainWc (h : s.Asks id f) (q : Nat) : (s.drainWc q).Asks id f := by
  unfold State.drainWc
  split
  · exact h
  · refine State.Asks.foldl (fun s hs e => ?_) _ h
    dsimp only
    split
    · exact (hs.wcEnter e).modQuad ..
    · exact hs

theorem State.Asks.wcFlush (h : s.Asks id f) (o : Owner) (p : WcEntry → Bool) : (s.wcFlush o p).Asks id f := (h.modQuad ..).drainWc _

theorem State.Asks.wcMerge (h : s.Asks id f) {o : Owner} {obj line : Nat} {bytes : NMap Byte} {flight : List Nat} {byHandler : Bool}
    {accs : List (Nat × Nat × Nat)} (merged : s.wcMerge o obj line bytes flight byHandler accs = some t) : t.Asks id f := by
  have counted : ∀ {u : State}, u.Asks id f → ({ u with nextId := u.nextId + 1 } : State).Asks id f :=
    fun hu => asks_of_reqs hu rfl (Nat.le_succ _)
  simp only [State.wcMerge] at merged
  split at merged
  · cases merged
  next x hx =>
    split at merged
    · cases merged
      exact h.modQuad ..
    · split at merged
      · obtain ⟨-, merged⟩ := Option.ite_none_right_eq_some.1 merged
        rw [← Option.some.inj merged]
        exact (counted h).modQuad ..
      · obtain ⟨-, merged⟩ := Option.ite_none_right_eq_some.1 merged
        rw [← Option.some.inj merged]
        refine (counted ?_).modQuad ..
        cases x.wc with
        | nil => exact h
        | cons e l => exact h.wcFlush ..

theorem State.Asks.ne_of_melts (h : s.Asks id f) {i : Nat} {r : Req} (hr : s.req? i = some r) (melts : r.kind.melts = true) : i ≠ id := by
  rintro rfl
  obtain ⟨-, lasts, r', hr', rfl⟩ := h
  cases hr.symm.trans hr'
  exact Bool.false_ne_true (lasts.symm.trans melts)

theorem State.Asks.face_eq (h : s.Asks id f) {r : Req} (hr : s.req? id = some r) : r.face = f := by
  obtain ⟨-, -, r', hr', face⟩ := h
  cases hr.symm.trans hr'
  exact face

theorem State.Asks.merge (h : s.Asks id f) {i : Nat} (hi : i ≠ id) (r : Req) (bytes : NMap Byte) : (s.merge i r bytes).Asks id f := by
  unfold State.merge
  split
  · exact h
  next s1 merged =>
    have h1 : s1.Asks id f := (h.erase hi).wcMerge merged
    split
    · exact (((h1.follow ..).wcFlush ..).over ..).modQuad ..
    · exact (h1.over ..).drainWc ..

/-- Whatever becomes of a request that leaves, it asks what it asked. -/
theorem State.Asks.depart (h : s.Asks id f) {i : Nat} {r : Req} (hr : s.req? i = some r) : (s.depart i r).Asks id f := by
  have same : i = id → r.face = f := fun e => h.face_eq (e ▸ hr)
  have set {t : State} {z : Req} (ht : t.Asks id f) (hz : z.face = r.face) : (t.setReq i z).Asks id f :=
    ht.setReq i fun e => hz.trans (same e)
  unfold State.depart
  cases hx : s.quad? r.owner.q with
  | none => simp only [hx]; exact h
  | some x =>
    simp only [hx]
    split
    next =>
      unfold State.keptOut
      split
      · exact h
      · exact set h rfl
    next =>
      split
      next =>
        split
        · exact set (asks_of_reqs h rfl le_rfl) rfl
        · split
          · exact set h rfl
          · exact h
      next =>
        split
        next hk => exact h.merge (h.ne_of_melts hr (by rw [hk]; rfl)) r _
        · split
          · exact set (h.modQuad ..) rfl
          · split
            · exact set h rfl
            · exact set h rfl
        · exact set h rfl
        · exact set h rfl
        · exact set h rfl
        · exact set ((h.modQuad ..).overtake ..) rfl
        · have flush : State.Asks (if r.again = true then s
              else s.wcFlush r.owner (fun e => r.keys.contains (lineKey e.owner.basin e.obj e.line))) id f := by
            split
            · exact h
            · exact h.wcFlush ..
          revert flush
          generalize (if r.again = true then s
            else s.wcFlush r.owner (fun e => r.keys.contains (lineKey e.owner.basin e.obj e.line))) = s'
          intro flush
          split
          · exact flush
          · split
            · exact set ((flush.modQuad ..).overtake ..) rfl
            · exact set ((flush.modQuad ..).overtake ..) rfl
            · split
              · exact set (State.Asks.foldl (fun s hs k => hs.overtake _ k) _ flush) rfl
              · exact set flush rfl
            · split
              · exact set ((flush.modQuad ..).overtake ..) rfl
              · exact set flush rfl
            · exact set flush rfl
            · exact set (flush.overtake ..) rfl

/-! ### Settling -/

theorem State.Asks.ackPromotes (h : s.Asks id f) : s.ackPromotes.Asks id f := by
  refine State.Asks.foldl (fun t ht e => ?_) s.reqs h
  split
  next promote =>
    refine State.Asks.over (ht.erase fun same => ?_) _
    obtain ⟨-, lasts, r, hr, rfl⟩ := ht
    rw [same, hr, Option.any_some] at promote
    simp only [ReqKind.melts, Req.face, Bool.or_eq_false_iff] at lasts
    simp [lasts.1] at promote
  next => exact ht

theorem State.Asks.sendPromotes (h : s.Asks id f) (o : Owner) : (s.sendPromotes o).1.Asks id f :=
  List.foldlRecOn _ _ (motive := fun acc : State × List Nat => acc.1.Asks id f) h fun _ hs _ _ => hs.addReq _

theorem State.Asks.l1Invalidate (h : s.Asks id f) (q : Nat) : (s.l1Invalidate q).Asks id f := (h.modQuad ..).dropFills _

theorem State.Asks.stepOrder (h : s.Asks id f) (q slot : Nat) : (s.stepOrder q slot).Asks id f := by
  unfold State.stepOrder
  split
  · exact h
  · split
    · exact h
    next g _ _ w rest _ =>
      dsimp only
      split
      · exact h
      · split
        · exact h.modGroup ..
        · split
          · exact (h.sendPromotes _).modGroup ..
          · refine State.Asks.over (State.Asks.modGroup ?_ ..) _
            split
            · exact h.l1Invalidate q
            · exact h

theorem State.Asks.settle1 (h : s.Asks id f) : s.settle1.Asks id f := by
  refine State.Asks.foldl (fun t ht (e : Nat × Quad) => State.Asks.foldl (fun t ht (p : Nat × Group) =>
    State.Asks.foldl (fun t ht _ => ht.stepOrder e.1 p.1) _ ht) _ ht) _ ?_
  refine State.Asks.foldl (fun t ht (e : Nat × Quad) => ht.drainWc e.1) _ ?_
  refine State.Asks.foldl (fun t ht e => ?_) _ h.ackPromotes
  split
  next r hr =>
    split
    · exact ht.depart hr
    · exact ht
  next => exact ht

theorem State.Asks.settle (h : s.Asks id f) : s.settle.Asks id f := h.settle1.settle1.settle1.settle1

end

end Sys2Proof.Machine
end

section
/-! ## The copies that are posted (R192 to R199, R299, R300)

A `TLD` reads its descriptor from memory; a `TCOPY`, a `TSTORE` and a `COPY` leave a job in the copy quarter. -/

namespace Sys2Proof.Machine

/-! ### What an instruction that sends accesses leaves alone -/

/-- The registers and queues of a group are those of another, but for the forward queue, which an instruction has read. -/
def Group.AccessKept (h g : Group) (sels : List Sel) : Prop :=
  h.v = g.v ∧ h.s = g.s ∧ h.p = g.p ∧ h.h = g.h ∧ h.t = g.t ∧ h.em = g.em ∧ h.part = g.part ∧ h.status = g.status ∧ h.landrec = g.landrec ∧
    h.stack = g.stack ∧ h.ret = g.ret ∧ h.handler = g.handler ∧ h.fwd = (g.takeFq sels).fwd

theorem Group.accessKept_opened_takeFq (g : Group) (sels : List Sel) : (g.opened.takeFq sels).AccessKept g sels := by
  have landrec : g.opened.landrec = g.landrec := by
    unfold Group.opened
    split <;> rfl
  obtain ⟨-, em, part, v, s, p, h, t, status, stack, -, ret, handler, -⟩ := g.opened_fields
  rw [Group.takeFq_eq]
  exact ⟨v, s, p, h, t, em, part, status, landrec, stack, ret, handler, g.opened_takeFq_fwd sels⟩

theorem Group.accessKept_launchFlight {h g : Group} {sels : List Sel} (kept : h.AccessKept g sels) (id : Nat) (p : Path) (ops : Nat)
    (dests : List Dest) : (h.launchFlight id p ops dests).AccessKept g sels := kept

/-- An instruction that sends accesses runs, once its body has left its registers alone. -/
theorem accessRuns_of_next {s t : State} {i : Instr} {g z : Group} {body : Body} {sels : List Sel} {P : State → Group → Prop}
    (h : Issues s i g) (he : exec i s = runInstr s i body)
    (hb : body (s.openCur g) s.cur.1 s.cur.2 g.opened = .next t .none none) (hz : t.group? s.cur.1 s.cur.2 = some z)
    (kept : z.AccessKept g sels) (mem : t.mem = s.mem)
    (hP : P (t.setGroup s.cur.1 s.cur.2 (z.advance .none (g.pc + instrLen i))) (z.advance .none (g.pc + instrLen i))) :
    AccessRuns s i g sels P := by
  obtain ⟨v, s', p, hd, t', em, part, status, landrec, stack, ret, handler, fwd⟩ := kept
  have next := runInstr_next h hb
  rw [State.modGroup_eq hz] at next
  exact ⟨_, _, he.trans next, State.group?_setGroup hz, rfl, rfl, v, s', p, hd, t', em, part, status, landrec, stack, ret, handler, fwd, mem, hP⟩

/-- The instruction stands where it is, in the state that its body leaves. -/
theorem exec_of_wait {s t : State} {i : Instr} {g z : Group} {body : Body} {w : Wait} (h : Issues s i g) (he : exec i s = runInstr s i body)
    (hb : body (s.openCur g) s.cur.1 s.cur.2 g.opened = .wait t w) (hz : t.group? s.cur.1 s.cur.2 = some z) :
    ∃ u, exec i s = .next u ∧ u.group? s.cur.1 s.cur.2 = some (z.stand g w) ∧ u.mem = t.mem ∧ u.reqs = t.reqs ∧ u.nextId = t.nextId := by
  refine ⟨_, he.trans (runInstr_wait h hb), ?_, ?_⟩
  · rw [State.modGroup_eq hz, State.group?_freeIssue]
    exact State.group?_setGroup hz
  · rw [State.modGroup_eq hz]
    exact ⟨rfl, rfl, rfl⟩

theorem State.group?_modGroup_same {s : State} {q slot : Nat} {g : Group} (hg : s.group? q slot = some g) (f : Group → Group) :
    (s.modGroup q slot f).group? q slot = some (f g) := by
  rw [State.modGroup_eq hg]
  exact State.group?_setGroup hg

theorem capPair_opened (g : Group) (a : BitVec 8) : capPair g.opened a = capPair g a := by
  simp only [capPair, Group.getSPair, Group.getS, g.opened_fields.2.2.2.2.1]

theorem Group.opened_getT (g : Group) (n : Nat) : g.opened.getT n = g.getT n := by
  simp only [Group.getT, g.opened_fields.2.2.2.2.2.2.2.1]

theorem State.openCur_copyFree (s : State) (g : Group) (q slot t : Nat) :
    (s.openCur g).copyFree q slot g.opened t = s.copyFree q slot g t := by
  simp only [State.copyFree, Group.opened_owner, Group.opened_handler]
  rfl

theorem State.openCur_copyIdle (s : State) (g : Group) (q slot t : Nat) :
    (s.openCur g).copyIdle q slot g.opened t = s.copyIdle q slot g t := by
  simp only [State.copyIdle, Group.opened_owner]
  rfl

theorem checkLane0_ok {b : Basin} {c : DWord} {ofs : Int} {n al : Nat} {need : Rights} (size kind : Nat)
    (ok : checkAccess b c ofs n al need = .ok ()) : checkLane0 b c ofs n al need size kind = .ok () := by
  simp only [checkLane0, ok]

/-! ### `TLD` (R193) -/

section
variable {s : State} {g : Group} {k : BitVec 3} {cap : BitVec 8} {ofs : Word} {c : DWord} (h : Issues s (.tld k cap ofs) g)

/-- The offset of a `TLD`. -/
def tldOfs (c : DWord) (ofs : Word) : Int := (capOfs c : Int) + ofs.toInt

/-- A group that waits for a request. -/
def Group.await (g : Group) (id : Nat) : Group := { g with wait := .request id }

/-- The request of a `TLD`. -/
def tldRequest (s : State) (g : Group) (c : DWord) (ofs : Word) : Req :=
  Req.new (g.owner s.cur.1 s.cur.2) (.load .ld 32 0 [(0, (tldOfs c ofs).toNat)] .normal true false) (capDev c) (capObj c)
    ((tldOfs c ofs).toNat / 128) 1#32 [] g.handler

/-- The state in which the request of a `TLD` has been issued. -/
def State.tldSent (s : State) (g : Group) (c : DWord) (ofs : Word) : State :=
  ((s.openCur g).modQuad s.cur.1 (fun y => y.olbTouch [(capDev c, capObj c)])).issueReq (g.owner s.cur.1 s.cur.2) (tldRequest s g c ofs)
    RelHold.none

/-- The state in which the group of a `TLD` waits for its request. -/
def State.tldIssued (s : State) (g : Group) (c : DWord) (ofs : Word) : State :=
  (s.tldSent g c ofs).modGroup s.cur.1 s.cur.2 (fun h => h.await s.nextId)

theorem State.tldIssued_asks (s : State) (g : Group) (c : DWord) (ofs : Word) : (s.tldIssued g c ofs).Asks s.nextId (tldRequest s g c ofs).face := by
  refine State.Asks.modGroup ⟨Nat.lt_succ_self _, rfl, ?_⟩ ..
  exact ⟨_, NMap.get?_set_self s.reqs s.nextId _, rfl⟩

theorem State.tldSent_group {s : State} {g : Group} (c : DWord) (ofs : Word) (hg : s.group? s.cur.1 s.cur.2 = some g) :
    (s.tldSent g c ofs).group? s.cur.1 s.cur.2 = some g.opened :=
  (State.group?_modQuad_of_groups (s.openCur g) s.cur.1 (f := fun y => y.olbTouch [(capDev c, capObj c)]) (fun _ => rfl) ..).trans
    (State.openCur_group? hg)

include h

theorem tld_asks (fresh : ∀ ws, g.wait ≠ .answer ws) (free : g.orders = []) (hc : capPair g cap = some c)
    (idle : s.copyFree s.cur.1 s.cur.2 g k.toNat = true)
    (ok : checkAccess (s.basin g.basin) c (tldOfs c ofs) 32 32 Rights.r = .ok ()) :
    exec (.tld k cap ofs) s = runInstr s (.tld k cap ofs) (fun _ _ _ _ => .wait (s.tldIssued g c ofs).settle (.request s.nextId)) := by
  refine exec_tld.trans (runInstr_congr h ?_)
  have passes : checkLane0 ((s.openCur g).basin g.basin) c (tldOfs c ofs) 32 32 Rights.r 0 kindLoad = .ok () := checkLane0_ok 0 kindLoad ok
  simp only [tldOfs] at passes
  simp only [capPair_opened, hc, Group.opened_basin, passes, g.opened_orders.1, free, ne_eq, not_true_eq_false, if_false, untilThen,
    State.openCur_copyFree, idle, if_true, Group.opened_owner, Group.opened_handler]
  split
  next ws answer => exact absurd (g.opened_wait.symm.trans answer) (fresh ws)
  next => rfl

theorem tld_sends (fresh : ∀ ws, g.wait ≠ .answer ws) (free : g.orders = []) (hc : capPair g cap = some c)
    (idle : s.copyFree s.cur.1 s.cur.2 g k.toNat = true)
    (ok : checkAccess (s.basin g.basin) c (tldOfs c ofs) 32 32 Rights.r = .ok ()) :
    GroupAfter (exec (.tld k cap ofs) s) s.cur.1 s.cur.2 (fun t y => t.mem = s.mem ∧ y.SameRegs g.leaveJet ∧ y.t = g.t ∧ y.pc = g.pc ∧
      y.jet = none ∧ y.wait = .request s.nextId ∧ ∃ r, t.req? s.nextId = some r ∧ r.face = (tldRequest s g c ofs).face) := by
  have settled := keeps_settle (s.tldIssued g c ofs)
  obtain ⟨z, hz, core⟩ := settled.group (State.group?_modGroup_same (State.tldSent_group c ofs h.1) (fun y => y.await s.nextId))
  obtain ⟨u, eq, hu, mem, reqs, next⟩ := exec_of_wait h (tld_asks h fresh free hc idle ok) rfl hz
  obtain ⟨-, -, asks⟩ := asks_of_reqs (s.tldIssued_asks g c ofs).settle reqs next.ge
  have opened : (g.opened.await s.nextId).SameRegs g := g.sameRegs_opened
  have regs : z.SameRegs g := (Group.sameRegs_of_core core).trans opened
  have jet : z.jetOr = g.jetOr := by rw [Group.jetOr, show z.jet = some g.jetOr from (congrArg Group.jet core :), Option.getD_some]
  have desc : z.t = g.t := (show z.t = g.opened.t from (congrArg Group.t core :)).trans g.opened_fields.2.2.2.2.2.2.2.1
  have pc : z.pc = g.pc := (show z.pc = g.opened.pc from (congrArg Group.pc core :)).trans g.opened_fields.1
  have sent : (s.tldIssued g c ofs).mem = s.mem := State.modGroup_mem ..
  exact ⟨u, _, eq, hu, mem.trans (settled.mem.trans sent), Group.sameRegs_stand regs jet g _, (Group.stand_t ..).trans desc,
    (Group.stand_pc ..).trans pc, Group.stand_jet .., Group.stand_wait .., asks⟩

end

/-- The descriptor that eight words make. -/
def tldWords (ws : List Word) (n : Nat) : BitVec 256 :=
  (List.range n).foldl (fun a i => a ||| ((ws.getD i 0#32).setWidth 256 <<< (32 * i))) 0#256

theorem getLsbD_tldWords (ws : List Word) {n k : Nat} (hn : n ≤ 8) :
    (tldWords ws n).getLsbD k = (decide (k < 32 * n) && (ws.getD (k / 32) 0#32).getLsbD (k % 32)) := by
  induction n with
  | zero => simp [tldWords]
  | succ n ih =>
    have step : tldWords ws (n + 1) = tldWords ws n ||| ((ws.getD n 0#32).setWidth 256 <<< (32 * n)) := by
      rw [tldWords, List.range_succ, List.foldl_append]
      rfl
    rw [step, BitVec.getLsbD_or, ih (by omega), BitVec.getLsbD_shiftLeft, BitVec.getLsbD_setWidth]
    rcases Nat.lt_or_ge k (32 * n) with low | high
    · simp [low, show k < 32 * (n + 1) by omega]
    · rcases Nat.lt_or_ge k (32 * (n + 1)) with here | above
      · have word : k / 32 = n := by omega
        have bit : k - 32 * n = k % 32 := by omega
        simp [Nat.not_lt.2 high, here, word, bit, show k < 256 by omega, show k % 32 < 256 by omega]
      · have beyond : (ws.getD n 0#32).getLsbD (k - 32 * n) = false := BitVec.getLsbD_of_ge _ _ (by omega)
        simp only [Nat.not_lt.2 high, Nat.not_lt.2 above, beyond, decide_false, Bool.false_and, Bool.and_false, Bool.or_self]

theorem extractLsb'_tldWords (ws : List Word) {i : Nat} (hi : i < 8) : (tldWords ws 8).extractLsb' (32 * i) 32 = ws.getD i 0#32 := by
  refine BitVec.eq_of_getLsbD_eq fun j hj => ?_
  have word : (32 * i + j) / 32 = i := by omega
  have bit : (32 * i + j) % 32 = j := by omega
  rw [BitVec.getLsbD_extractLsb', getLsbD_tldWords ws le_rfl, word, bit]
  simp only [hj, show 32 * i + j < 32 * 8 by omega, decide_true, Bool.true_and]

theorem Group.opened_setT (g : Group) (n : Nat) (x : BitVec 256) : g.opened.setT n x = (g.setT n x).opened :=
  Group.opened_of_commutes (f := fun g => g.setT n x) (fun _ => rfl) (fun _ _ => rfl) (fun _ => rfl) g

theorem tld_answered {s : State} {g : Group} {k : BitVec 3} {cap : BitVec 8} {ofs : Word} {c : DWord} {ws : List Word}
    (h : Issues s (.tld k cap ofs) g) (answer : g.wait = .answer ws) (hc : capPair g cap = some c) :
    Runs s (.tld k cap ofs) g (g.setT k.toNat (tldWords ws 8)) .none [] 0#5 (g.pc + instrLen (.tld k cap ofs)) := by
  refine runs_of_setGroup h exec_tld ?_ (fun _ => rfl)
  simp only [capPair_opened, hc, g.opened_wait, answer, ← Group.opened_setT]
  rfl

/-! ### A job in the copy quarter (R197) -/

/-- A copy that has been posted, with nothing of it done. -/
def CopyJob.new (s : State) (o : Owner) (byHandler : Bool) (kind : CopyKind) (t : Nat) (m : Mask) (after : List Nat) : CopyJob :=
  { id := s.nextId + 1, owner := o, kind := kind, t := t, mask := m, flight := s.nextId, suspended := false, done := 0, sent := 0,
    writes := [], after := after, asks := [], got := [], kept := [], parked := none, freed := [], bad := none, gated := false,
    byHandler := byHandler }

theorem State.postCopy_group {s : State} {q slot : Nat} {g g₀ : Group} (hg : s.group? q slot = some g₀) (kind : CopyKind) (t : Nat) (m : Mask)
    (dn : Bool) : (s.postCopy q slot g kind t m dn).group? q slot = some (g.launchFlight s.nextId .cpy (if dn then 0 else 1) []) := by
  cases dn <;> exact State.group?_setGroup hg

theorem State.postCopy_mem (s : State) (q slot : Nat) (g : Group) (kind : CopyKind) (t : Nat) (m : Mask) (dn : Bool) :
    (s.postCopy q slot g kind t m dn).mem = s.mem := by
  cases dn <;> rfl

/-- The state in which a copy has been counted on the path of its group. -/
def State.copyCounted (s : State) (q slot : Nat) (g : Group) : State :=
  { s with nextId := s.nextId + 1 }.setGroup q slot (g.launchFlight s.nextId .cpy 1 [])

theorem State.postCopy_copies (s : State) (q slot : Nat) (g : Group) (kind : CopyKind) (t : Nat) (m : Mask) :
    ((s.postCopy q slot g kind t m false).engine (slotOf q)).copies = (s.engine (slotOf q)).copies ++
      [CopyJob.new s (g.owner q slot) g.handler kind t m ((s.copyCounted q slot g).copyAfter (g.owner q slot))] := by
  simp only [State.postCopy, Bool.false_eq_true, if_false]
  rw [State.engine_modEngine]
  rfl

/-- What a copy instruction of a group leaves: one more job that counts on the group's path, or none where nothing is to be done. -/
def Posted (s : State) (g : Group) (kind : CopyKind) (tn : Nat) (m : Mask) (dn : Bool) (t : State) (h : Group) : Prop :=
  (dn = false → (∃ after, (t.engine (slotOf s.cur.1)).copies = (s.engine (slotOf s.cur.1)).copies ++
      [CopyJob.new s (g.owner s.cur.1 s.cur.2) g.handler kind tn m after]) ∧
    ∃ f ∈ h.flights, f.id = s.nextId ∧ f.path = .cpy ∧ f.ops = 1) ∧
  (dn = true → (t.engine (slotOf s.cur.1)).copies = (s.engine (slotOf s.cur.1)).copies)

section
variable {s : State} {g : Group} {kind : CopyKind} {tn : Nat} {m : Mask} {dn : Bool} {sels : List Sel}

theorem posted_of_postCopy (pc : Nat) : Posted s g kind tn m dn
    (((s.openCur g).postCopy s.cur.1 s.cur.2 (g.opened.takeFq sels) kind tn m dn).setGroup s.cur.1 s.cur.2
      (((g.opened.takeFq sels).launchFlight s.nextId .cpy (if dn then 0 else 1) []).advance .none pc))
    (((g.opened.takeFq sels).launchFlight s.nextId .cpy (if dn then 0 else 1) []).advance .none pc) := by
  have owner : (g.opened.takeFq sels).owner s.cur.1 s.cur.2 = g.owner s.cur.1 s.cur.2 := by
    rw [Group.takeFq_eq]
    exact g.opened_owner ..
  have handler : (g.opened.takeFq sels).handler = g.handler := by
    rw [Group.takeFq_eq]
    exact g.opened_handler
  refine ⟨?_, ?_⟩
  · rintro rfl
    have copies := State.postCopy_copies (s.openCur g) s.cur.1 s.cur.2 (g.opened.takeFq sels) kind tn m
    obtain ⟨f, hf, id, path, ops, -⟩ := Group.launchFlight_flights (g.opened.takeFq sels) s.nextId .cpy Nat.one_ne_zero []
    rw [owner, handler] at copies
    exact ⟨⟨_, copies⟩, f, hf, id, path, ops⟩
  · rintro rfl
    rfl

/-- An instruction whose body posts a copy. -/
theorem accessRuns_of_postCopy {i : Instr} (h : Issues s i g) {body : Body} (he : exec i s = runInstr s i body)
    (hb : body (s.openCur g) s.cur.1 s.cur.2 g.opened = .next ((s.openCur g).postCopy s.cur.1 s.cur.2 (g.opened.takeFq sels) kind tn m dn) .none none) :
    AccessRuns s i g sels (Posted s g kind tn m dn) :=
  accessRuns_of_next h he hb (State.postCopy_group (State.openCur_group? h.1) kind tn m dn)
    (Group.accessKept_launchFlight (g.accessKept_opened_takeFq sels) ..) (State.postCopy_mem ..) (posted_of_postCopy _)

end

theorem accessRuns_imp {s : State} {i : Instr} {g : Group} {sels : List Sel} {P Q : State → Group → Prop} (h : AccessRuns s i g sels P)
    (f : ∀ t h, P t h → Q t h) : AccessRuns s i g sels Q := by
  refine groupAfter_imp h fun t y => ?_
  rintro ⟨pc, wait, v, s', p, hd, t', em, part, status, landrec, stack, ret, handler, fwd, mem, hP⟩
  exact ⟨pc, wait, v, s', p, hd, t', em, part, status, landrec, stack, ret, handler, fwd, mem, f t y hP⟩

/-! ### `TCOPY` and `TSTORE` (R194 to R199) -/

/-- The operands of a `TCOPY`. -/
def tcopySels : TcopyForm → List Sel
  | .strided => []
  | .gather a b => [a, b]

/-- The row offsets of a `TCOPY`. -/
def tcopyRows (g : Group) : TcopyForm → Option (Lanes × Lanes)
  | .strided => none
  | .gather a b => some (lanesOf (selAt g a), lanesOf (selAt g b))

section
variable {s : State} {g : Group} {gd : Guard} {k : BitVec 3} {form : TcopyForm} (h : Issues s (.tcopy gd k form) g)
  (readable : ∀ y ∈ tcopySels form, selOk g y = true)
include h readable

theorem exec_tcopy_readable : exec (.tcopy gd k form) s = runInstr s (.tcopy gd k form) (fun t q slot g' =>
    if g.inLoop then .trap (loopTrap s 3)
    else if !(tileOf (g.getT k.toNat)).ok then .trap (Trap.own 0x02 k.toNat 0)
    else
      match (tileOf (g.getT k.toNat)).spBad (s.crew? q g) with
      | some a => .trap (spTrap (guardMask g gd) (fun _ => a) 0)
      | none => .next (t.postCopy q slot (g'.takeFq (tcopySels form)) (.tcopy (tcopyRows g form)) k.toNat (guardMask g gd)
          (guardMask g gd == 0#32 || (tileOf (g.getT k.toNat)).cursor == (tileOf (g.getT k.toNat)).rows)) .none none) := by
  refine exec_tcopy.trans (runInstr_congr h ?_)
  cases form with
  | strided =>
    simp only [List.all_nil, Bool.not_true, Bool.false_eq_true, if_false, Group.opened_inLoop, Group.opened_getT, guardMask_opened,
      State.openCur_crew?]
    rfl
  | gather a b =>
    have readA : selOk g a = true := readable a List.mem_cons_self
    have readB : selOk g b = true := readable b (List.mem_cons_of_mem _ List.mem_cons_self)
    have at_ : ∀ x, selAt g.opened x = selAt g x := fun x => funext fun l => selAt_opened ..
    simp only [List.all_cons, List.all_nil, selOk_opened, at_, readA, readB, Bool.and_self, Bool.not_true, Bool.false_eq_true,
      if_false, Group.opened_inLoop, Group.opened_getT, guardMask_opened, State.openCur_crew?]
    rfl

theorem tcopy_raises_loop (looped : g.inLoop = true) : Raises s (.tcopy gd k form) g (loopTrap s 3) := by
  refine raises_of_trap h (exec_tcopy_readable h readable) ?_
  simp only [looped, if_true]

variable (straight : g.inLoop = false)
include straight

theorem tcopy_raises_descriptor (bad : (tileOf (g.getT k.toNat)).ok = false) : Raises s (.tcopy gd k form) g (Trap.own 0x02 k.toNat 0) := by
  refine raises_of_trap h (exec_tcopy_readable h readable) ?_
  simp only [straight, bad, Bool.false_eq_true, if_false, Bool.not_false, if_true]

variable (ok : (tileOf (g.getT k.toNat)).ok = true)
include ok

theorem tcopy_raises_bounds {a : Nat} (bad : (tileOf (g.getT k.toNat)).spBad (s.crew? s.cur.1 g) = some a) :
    Raises s (.tcopy gd k form) g (spTrap (guardMask g gd) (fun _ => a) 0) := by
  refine raises_of_trap h (exec_tcopy_readable h readable) ?_
  simp only [straight, ok, bad, Bool.false_eq_true, if_false, Bool.not_true]

theorem tcopy_posts (fits : (tileOf (g.getT k.toNat)).spBad (s.crew? s.cur.1 g) = none) :
    AccessRuns s (.tcopy gd k form) g (tcopySels form) (Posted s g (.tcopy (tcopyRows g form)) k.toNat (guardMask g gd)
      (guardMask g gd == 0#32 || (tileOf (g.getT k.toNat)).cursor == (tileOf (g.getT k.toNat)).rows)) := by
  refine accessRuns_of_postCopy h (exec_tcopy_readable h readable) ?_
  simp only [straight, ok, fits, Bool.false_eq_true, if_false, Bool.not_true]

end

section
variable {s : State} {g : Group} {k : BitVec 3} (h : Issues s (.tstore k) g)
include h

theorem tstore_raises_loop (looped : g.inLoop = true) : ∃ t, t.code = 0x0D ∧ t.s59 = some 3#32 ∧ Raises s (.tstore k) g t := by
  refine ⟨loopTrap (s.openCur g) 3, rfl, rfl, raises_of_trap h exec_tstore ?_⟩
  simp only [Group.opened_inLoop, looped, if_true]

variable (straight : g.inLoop = false) (free : g.orders = []) (idle : s.copyIdle s.cur.1 s.cur.2 g k.toNat = true)
include straight free idle

theorem tstore_raises_descriptor (bad : (tileOf (g.getT k.toNat)).ok = false ∨ (tileOf (g.getT k.toNat)).fmt = 7) :
    Raises s (.tstore k) g (Trap.own 0x02 k.toNat 0) := by
  refine raises_of_trap h exec_tstore ?_
  have refused : (!(tileOf (g.getT k.toNat)).ok || (tileOf (g.getT k.toNat)).fmt == 7) = true := by simpa using bad
  simp only [Group.opened_inLoop, straight, Bool.false_eq_true, if_false, g.opened_orders.1, free, ne_eq, not_true_eq_false, untilThen,
    State.openCur_copyIdle, idle, if_true, Group.opened_getT, refused]

theorem tstore_posts (ok : (tileOf (g.getT k.toNat)).ok = true) (fmt : (tileOf (g.getT k.toNat)).fmt ≠ 7)
    (fits : (tileOf (g.getT k.toNat)).spBad (s.crew? s.cur.1 g) = none) (applied : s.applied s.cur.1 s.cur.2 = true) :
    AccessRuns s (.tstore k) g [] (Posted s g .tstore k.toNat 1#32
      ((tileOf (g.getT k.toNat)).cursor == (tileOf (g.getT k.toNat)).rows)) := by
  refine accessRuns_of_postCopy h exec_tstore ?_
  have taken : (!(tileOf (g.getT k.toNat)).ok || (tileOf (g.getT k.toNat)).fmt == 7) = false := by simp [ok, fmt]
  simp only [Group.opened_inLoop, straight, Bool.false_eq_true, if_false, g.opened_orders.1, free, ne_eq, not_true_eq_false, untilThen,
    State.openCur_copyIdle, idle, if_true, Group.opened_getT, taken, State.openCur_crew?, fits, State.openCur_applied, applied]
  rfl

end

/-! ### `COPY` (R299, R300) -/

/-- The completion of n bytes of a copy stands in the queue of the bank of its gate (R156, R158). -/
def State.Gated (s : State) (q slot a n job : Nat) : Prop :=
  ∃ y r, s.quad? q = some y ∧ r ∈ y.bank (a / 8 % 16) ∧ r.slot = slot ∧ r.word = a / 8 ∧ r.op = .gate a n job

theorem State.Gated.modQuad {s : State} {q slot a n job : Nat} (h : s.Gated q slot a n job) (q' : Nat) {f : Quad → Quad}
    (hf : ∀ x, (f x).banks = x.banks) : (s.modQuad q' f).Gated q slot a n job := by
  obtain ⟨y, r, hy, hr, rest⟩ := h
  rw [State.Gated, State.quad?_modQuad]
  split
  · exact ⟨f y, r, by rw [hy, Option.map_some], by rw [Quad.bank, hf]; exact hr, rest⟩
  · exact ⟨y, r, hy, hr, rest⟩

theorem State.Gated.setGroup {s : State} {q slot a n job : Nat} (h : s.Gated q slot a n job) (q' slot' : Nat) (g : Group) :
    (s.setGroup q' slot' g).Gated q slot a n job := h.modQuad q' (fun _ => rfl)

/-- The request that takes the completion of a copy to its gate. -/
def gateReq (s : State) (slot a n job : Nat) : BankReq :=
  { id := s.nextId, hold := [], slot := slot, word := a / 8, op := .gate a n job, flight := none }

theorem State.lowerGate_gated {s : State} {q : Nat} {x : Quad} (hx : s.quad? q = some x) (slot a n job : Nat) :
    (s.lowerGate q slot (some a) n job).Gated q slot a n job := by
  refine ⟨x.bankPush (gateReq s slot a n job), gateReq s slot a n job, ?_, ?_, rfl, rfl, rfl⟩
  · exact (State.quad?_modQuad ..).trans ((if_pos rfl).trans (congrArg (Option.map _) hx))
  · rw [Quad.bank, Quad.bankPush, NMap.getD, show (gateReq s slot a n job).word = a / 8 from rfl, NMap.get?_set_self, Option.getD_some]
    exact List.mem_append_right _ List.mem_cons_self

theorem State.lowerGate_group? (s : State) (q slot : Nat) (a : Option Nat) (n job q' slot' : Nat) :
    (s.lowerGate q slot a n job).group? q' slot' = s.group? q' slot' := by
  cases a with
  | none => rfl
  | some a => exact State.group?_modQuad_of_groups s q (f := fun x => x.bankPush (gateReq s slot a n job)) (fun _ => rfl) ..

theorem State.lowerGate_mem (s : State) (q slot : Nat) (a : Option Nat) (n job : Nat) : (s.lowerGate q slot a n job).mem = s.mem := by
  cases a <;> rfl

theorem State.lowerGate_engine (s : State) (q slot : Nat) (a : Option Nat) (n job qs : Nat) :
    (s.lowerGate q slot a n job).engine qs = s.engine qs := by
  cases a <;> rfl

section
variable {s : State} {g : Group} {dst : BitVec 6} {src : BitVec 8} {len : USel} {gate : Option (BitVec 15)} {cs cd : DWord}
  (h : Issues s (.copy dst src len gate) g) (hs : capPair g src = some cs) (hd : capPair g (dst.setWidth 8) = some cd)
include h hs hd

theorem copy_raises_length (odd : (uAt g len).toNat % 4 ≠ 0) : Raises s (.copy dst src len gate) g (Trap.own 0x02 2 0) := by
  refine raises_of_trap h exec_copy ?_
  simp only [capPair_opened, hs, hd, uAt_opened, odd, ne_eq, not_false_eq_true, if_true]

variable (even : (uAt g len).toNat % 4 = 0)
include even

theorem copy_raises_loop (looped : g.inLoop = true) : ∃ t, t.code = 0x0D ∧ t.s59 = some 3#32 ∧ Raises s (.copy dst src len gate) g t := by
  refine ⟨loopTrap (s.openCur g) 3, rfl, rfl, raises_of_trap h exec_copy ?_⟩
  simp only [capPair_opened, hs, hd, uAt_opened, even, ne_eq, not_true_eq_false, if_false, Group.opened_inLoop, looped, if_true]

variable (straight : g.inLoop = false) (free : g.orders = [])
  (okS : checkAccess (s.basin g.basin) cs (capOfs cs) (uAt g len).toNat 4 Rights.r = .ok ())
  (okD : checkAccess (s.basin g.basin) cd (capOfs cd) (uAt g len).toNat 4 Rights.w = .ok ())
  (okG : ∀ a, gate.map (fun a => 8 * a.toNat) = some a → ∃ y, s.crew? s.cur.1 g = some y ∧ y.spOk a 8 = true)
include straight free okS okD okG

theorem exec_copy_passes : exec (.copy dst src len gate) s = runInstr s (.copy dst src len gate) (fun t q slot g' =>
    let u := t.postCopy q slot g' (.copy cd cs (uAt g len).toNat (gate.map (fun a => 8 * a.toNat))) 0 1#32 ((uAt g len).toNat == 0)
    .next (if (uAt g len).toNat = 0 then u.lowerGate q slot (gate.map (fun a => 8 * a.toNat)) 0 u.nextId else u) .none none) := by
  refine exec_copy.trans (runInstr_congr h ?_)
  have source : checkLane0 ((s.openCur g).basin g.basin) cs (capOfs cs) (uAt g len).toNat 4 Rights.r 0 kindLoad = .ok () := checkLane0_ok 0 _ okS
  have dest : checkLane0 ((s.openCur g).basin g.basin) cd (capOfs cd) (uAt g len).toNat 4 Rights.w 0 kindStore = .ok () := checkLane0_ok 0 _ okD
  simp only [capPair_opened, hs, hd, uAt_opened, even, ne_eq, not_true_eq_false, if_false, Group.opened_inLoop, straight,
    Bool.false_eq_true, Group.opened_basin, source, dest, State.openCur_crew?, g.opened_orders.1, free]
  cases gate with
  | none => rfl
  | some a =>
    obtain ⟨y, hy, fits⟩ := okG _ rfl
    simp only [Option.map_some, hy, fits, Bool.not_true, Bool.false_eq_true, if_false]

theorem copy_posts (some_ : (uAt g len).toNat ≠ 0) : AccessRuns s (.copy dst src len gate) g []
    (Posted s g (.copy cd cs (uAt g len).toNat (gate.map (fun a => 8 * a.toNat))) 0 1#32 false) := by
  refine accessRuns_of_postCopy h (exec_copy_passes h hs hd even straight free okS okD okG) ?_
  simp only [beq_eq_false_iff_ne.2 some_, some_, if_false]
  rfl

theorem copy_completes_empty (none_ : (uAt g len).toNat = 0) : AccessRuns s (.copy dst src len gate) g [] (fun t _ =>
    (t.engine (slotOf s.cur.1)).copies = (s.engine (slotOf s.cur.1)).copies ∧
    ∀ a, gate.map (fun a => 8 * a.toNat) = some a → ∃ job, t.Gated s.cur.1 s.cur.2 a 0 job) := by
  have posted := State.postCopy_group (g := g.opened) (State.openCur_group? h.1)
    (.copy cd cs 0 (gate.map (fun a => 8 * a.toNat))) 0 1#32 true
  refine accessRuns_of_next h (exec_copy_passes h hs hd even straight free okS okD okG) (by simp only [none_, beq_self_eq_true, if_true]; rfl)
    ((State.lowerGate_group? ..).trans posted) (Group.accessKept_launchFlight (g.accessKept_opened_takeFq []) ..)
    ((State.lowerGate_mem ..).trans (State.postCopy_mem ..)) ⟨?_, fun a ha => ?_⟩
  · exact congrArg SlotEng.copies (State.lowerGate_engine ..)
  · obtain ⟨x, hx, -⟩ := State.quad?_of_group? posted
    rw [ha]
    exact ⟨_, (State.lowerGate_gated hx ..).setGroup ..⟩

end

/-- Settles O42: a `TLD` waits for a request that asks what it asked (`State.Asks.settle`), and the three copy instructions post a job
(`State.postCopy_copies`). -/
theorem copiesArePosted : Obligations.CopiesArePosted := by
  intro s g gd k form cap ofs dst src len gate c cd q slot x own d n ga tld tcopy tstore copy m sels gather job posted nothing looped
  have selsEq : sels = tcopySels form := by cases form <;> rfl
  have gatherEq : gather = tcopyRows g form := by cases form <;> rfl
  have ofPosted : ∀ {i sels kind tn mk dn}, AccessRuns s i g sels (Posted s g kind tn mk dn) →
      AccessRuns s i g sels (fun t h => (dn = false → posted kind tn mk t h) ∧ (dn = true → nothing t)) := fun runs =>
    accessRuns_imp runs fun _ _ h => h
  refine ⟨fun h fresh free hc idle ok => ?sends, fun ws h answer hc => ?answered, fun h readable => ?tcopy, fun h => ?tstore,
    fun h hs hd => ?copy⟩
  case sends =>
    refine groupAfter_imp (tld_sends h fresh free hc idle ok) fun t y => ?_
    rintro ⟨mem, ⟨v, s', -⟩, desc, pc, jet, wait, r, hr, face⟩
    simp only [Req.face, tldRequest, Req.new, Prod.mk.injEq] at face
    obtain ⟨kind, owner, dev, obj, line⟩ := face
    obtain ⟨_, _, leave⟩ := g.leaveJet_eq
    exact ⟨mem, desc, v, s'.trans (by rw [leave]), pc, jet, wait, r, hr, owner, dev, obj, line, kind⟩
  case answered =>
    exact ⟨_, tld_answered h answer hc, fun i hi => extractLsb'_tldWords ws hi⟩
  case tcopy =>
    rw [selsEq] at readable ⊢
    rw [gatherEq]
    refine ⟨fun looped => ⟨_, rfl, rfl, tcopy_raises_loop h readable looped⟩, fun straight =>
      ⟨tcopy_raises_descriptor h readable straight, fun a ok bad => ⟨_, rfl, rfl, tcopy_raises_bounds h readable straight ok bad⟩,
        fun ok fits => ?_⟩⟩
    refine accessRuns_imp (ofPosted (tcopy_posts h readable straight ok fits)) fun t y ⟨job, none_⟩ =>
      ⟨fun mask left => job ?_, fun done => none_ ?_⟩
    · exact Bool.or_eq_false_iff.2 ⟨beq_eq_false_iff_ne.2 mask, beq_eq_false_iff_ne.2 left⟩
    · simpa using done
  case tstore =>
    refine ⟨tstore_raises_loop h, fun straight free idle => ⟨tstore_raises_descriptor h straight free idle, fun ok fmt fits applied => ?_⟩⟩
    refine accessRuns_imp (ofPosted (tstore_posts h straight free idle ok fmt fits applied)) fun t y ⟨job, none_⟩ =>
      ⟨fun left => job ?_, fun done => none_ ?_⟩
    · exact beq_eq_false_iff_ne.2 left
    · exact beq_iff_eq.2 done
  case copy =>
    refine ⟨fun loop even => copy_raises_loop h hs hd even loop, copy_raises_length h hs hd, fun straight even free okS okD okG => ?_⟩
    by_cases none_ : n = 0
    · refine accessRuns_imp (copy_completes_empty h hs hd even straight free okS okD okG none_) fun t y ⟨copies, gated⟩ =>
        ⟨fun some_ => absurd none_ some_, fun _ => ⟨copies, fun a ha => ?_⟩⟩
      obtain ⟨job, y, r, hy, hr, rest⟩ := gated a ha
      exact ⟨y, r, job, hy, hr, rest⟩
    · exact accessRuns_imp (ofPosted (copy_posts h hs hd even straight free okS okD okG none_)) fun t y ⟨job, _⟩ =>
        ⟨fun _ => job rfl, fun empty => absurd empty none_⟩

end Sys2Proof.Machine
end

section
/-! ## A copy that takes a step (R197, R198, R301)

What the parts of a copy's step leave of the machine: the park lists it leaves, its suspension with a notice, and its end. -/

namespace Sys2Proof.Machine

/-! ### What leaving a park list and filling lines change -/

/-- A machine that differs from another in its lines, blocks, basins and extents at most. -/
def State.Near (s t : State) : Prop :=
  ∃ ls bs xs ex, t = { s with lines := ls, blocks := bs, basins := xs, extents := ex }

theorem State.Near.refl (s : State) : s.Near s := ⟨_, _, _, _, rfl⟩

theorem State.Near.trans {s t u : State} (h : s.Near t) (h' : t.Near u) : s.Near u := by
  obtain ⟨_, _, _, _, rfl⟩ := h
  obtain ⟨_, _, _, _, rfl⟩ := h'
  exact ⟨_, _, _, _, rfl⟩

theorem State.near_leavePark (s : State) (c : CopyJob) : s.Near (s.leavePark c) := by
  unfold State.leavePark
  split
  · exact ⟨_, _, _, _, rfl⟩
  · exact .refl s

theorem State.leavePark_basin (s : State) (c : CopyJob) (b : Nat) : (s.leavePark c).basin b = s.basin b := by
  unfold State.leavePark
  split <;> rfl

section
variable {s t : State} (h : s.Near t)
include h

theorem State.Near.mem : t.mem = s.mem := by
  obtain ⟨_, _, _, _, rfl⟩ := h
  rfl

theorem State.Near.engine (qs : Nat) : t.engine qs = s.engine qs := by
  obtain ⟨_, _, _, _, rfl⟩ := h
  rfl

theorem State.Near.quad? (q : Nat) : t.quad? q = s.quad? q := by
  obtain ⟨_, _, _, _, rfl⟩ := h
  rfl

theorem State.Near.group? (q slot : Nat) : t.group? q slot = s.group? q slot := by
  obtain ⟨_, _, _, _, rfl⟩ := h
  rfl

theorem State.Near.crew? (q : Nat) (g : Group) : t.crew? q g = s.crew? q g := by
  obtain ⟨_, _, _, _, rfl⟩ := h
  rfl

theorem State.Near.ownerGroup? (o : Owner) : t.ownerGroup? o = s.ownerGroup? o := by
  obtain ⟨_, _, _, _, rfl⟩ := h
  rfl

theorem State.Near.nextId : t.nextId = s.nextId := by
  obtain ⟨_, _, _, _, rfl⟩ := h
  rfl

theorem State.Near.pieceBytes (b dev obj a n : Nat) (got : NMap Byte) : t.pieceBytes b dev obj a n got = s.pieceBytes b dev obj a n got := by
  obtain ⟨_, _, _, _, rfl⟩ := h
  rfl

theorem State.Near.copyBehind (c : CopyJob) (keys : List Nat) : t.copyBehind c keys = s.copyBehind c keys := by
  obtain ⟨_, _, _, _, rfl⟩ := h
  rfl

theorem State.Near.gatePending (c : CopyJob) : t.gatePending c = s.gatePending c := by
  obtain ⟨_, _, _, _, rfl⟩ := h
  rfl

end

/-! ### A handler's group is not bound by what stands still (R239) -/

theorem keeps_handlerWithout (s : State) (o : Owner) (since : Nat) (ids : List Nat) : Keeps s (s.handlerWithout o since ids) :=
  keeps_maps (fx := fun e => e) rfl rfl rfl rfl (fun _ => by split <;> exact ⟨rfl, rfl⟩) rfl
    (fun e => by
      dsimp only
      split
      · exact ⟨rfl, quadKept_maps (fg := fun e => e) rfl (List.map_id _).symm (fun _ => ⟨rfl, rfl⟩) rfl fun b =>
          ⟨rfl, bankAfter_perm b.2 (fun r => by split <;> rfl)⟩⟩
      · exact ⟨rfl, .refl e.2⟩)
    (List.map_id _).symm (fun _ => ⟨rfl, rfl⟩) rfl (fun _ => ⟨rfl, copyCore_map (fun _ => by split <;> rfl)⟩)

theorem keeps_shelve (s : State) (o : Owner) : Keeps s (s.shelve o) := by
  cases hg : s.ownerGroup? o with
  | none =>
    simp only [State.shelve, hg]
    exact .refl s
  | some g =>
    cases hf : g.frame with
    | none =>
      simp only [State.shelve, hg, hf]
      exact .refl s
    | some f =>
      obtain ⟨still, ids, eq⟩ := State.shelve_eq hg hf
      rw [eq]
      have group : Keeps s (s.setGroup o.q o.slot (g.shelve f still)) := keeps_setGroup (State.group?_of_ownerGroup? hg) rfl
      exact group.trans (keeps_handlerWithout ..)

/-! ### Changes of a copy -/

/-- A copy of a machine that keeps another's is one of its, but for what it waits for. -/
theorem Keeps.copy {s t : State} (h : Keeps s t) {qs : Nat} {j : CopyJob} (hj : j ∈ (t.engine qs).copies) :
    ∃ k ∈ (s.engine qs).copies, j.core = k.core := by
  have mem : j.core ∈ (s.engine qs).copies.map CopyJob.core := h.copies qs ▸ List.mem_map_of_mem hj
  obtain ⟨k, hk, same⟩ := List.mem_map.1 mem
  exact ⟨k, hk, same.symm⟩

theorem State.modCopy_copies (s : State) (o : Owner) (id : Nat) (f : CopyJob → CopyJob) :
    ((s.modCopy o id f).engine (slotOf o.q)).copies = (s.engine (slotOf o.q)).copies.map (fun c => if c.id = id then f c else c) :=
  congrArg SlotEng.copies (State.engine_modEngine s (slotOf o.q)
    (fun x => { x with copies := x.copies.map (fun c => if c.id = id then f c else c) }))

theorem State.modCopy_mem_copies {s : State} {o : Owner} {c : CopyJob} (hc : c ∈ (s.engine (slotOf o.q)).copies) (f : CopyJob → CopyJob) :
    f c ∈ ((s.modCopy o c.id f).engine (slotOf o.q)).copies := by
  rw [State.modCopy_copies]
  exact List.mem_map.2 ⟨c, hc, if_pos rfl⟩

theorem State.modCopy_copy {s : State} {o : Owner} {id : Nat} {f : CopyJob → CopyJob} {P : CopyJob → Prop} (hf : ∀ c, P (f c)) {j : CopyJob}
    (hj : j ∈ ((s.modCopy o id f).engine (slotOf o.q)).copies) (hid : j.id = id) : P j := by
  rw [State.modCopy_copies] at hj
  obtain ⟨c, -, rfl⟩ := List.mem_map.1 hj
  by_cases mine : c.id = id
  · rw [if_pos mine]
    exact hf c
  · rw [if_neg mine] at hid
    exact absurd hid mine

/-! ### The suspension of a copy (R198, R301) -/

/-- A copy has stopped with a notice: its group has one more, of this code, which names it, and it is suspended. -/
def CopyStops (s : State) (c : CopyJob) (g : Group) (code : Nat) (t : State) : Prop :=
  ∃ h n, t.mem = s.mem ∧ t.group? c.owner.q c.owner.slot = some h ∧ h.notices = g.notices ++ [n] ∧ n.code = code ∧ n.job = some c.id ∧
    ∀ j ∈ (t.engine (slotOf c.owner.q)).copies, j.id = c.id → j.suspended = true

theorem suspendCopy_stops {s : State} {c : CopyJob} {g : Group} (hg : s.ownerGroup? c.owner = some g) (live : g.retired = false) (n : Notice) :
    CopyStops s c g n.code (s.suspendCopy c n) := by
  let f : CopyJob → CopyJob := fun d => { d.rowAgain with suspended := true }
  have told := State.group?_of_ownerGroup? (State.ownerGroup?_notify (s := s.modCopy c.owner c.id f) hg live { n with job := some c.id })
  have eq : s.suspendCopy c n =
      ((((s.modCopy c.owner c.id f).notify c.owner { n with job := some c.id }).placed c.id).shelve c.owner).settle := by
    rw [State.suspendCopy, hg, Option.any_some, live]
    rfl
  have rest := ((keeps_placed ((s.modCopy c.owner c.id f).notify c.owner { n with job := some c.id }) c.id).trans (keeps_shelve _ c.owner)).trans
    (keeps_settle _)
  obtain ⟨z, hz, core⟩ := rest.group told
  have noted : ((s.modCopy c.owner c.id f).notify c.owner { n with job := some c.id }).mem = s.mem ∧
      ((s.modCopy c.owner c.id f).notify c.owner { n with job := some c.id }).engines = (s.modCopy c.owner c.id f).engines := by
    unfold State.notify State.modOwner
    split <;> exact ⟨rfl, rfl⟩
  rw [eq]
  refine ⟨z, { n with job := some c.id }, rest.mem.trans noted.1, hz, (congrArg Group.notices core :), rfl, rfl, fun j hj hid => ?_⟩
  obtain ⟨k, hk, same⟩ := rest.copy hj
  rw [State.engine, noted.2] at hk
  have suspended : k.suspended = true := State.modCopy_copy (f := f) (P := fun d => d.suspended = true) (fun _ => rfl) hk
    ((congrArg CopyJob.id same :).symm.trans hid)
  exact (congrArg CopyJob.suspended same :).trans suspended

/-! ### The end of a copy (R200) -/

/-- A copy is over: it has left the quarter, and the group's registers, the crews and the memory are as they were. -/
theorem copyDone_spec (s : State) (c : CopyJob) : (s.copyDone c).mem = s.mem ∧
    (∀ j ∈ ((s.copyDone c).engine (slotOf c.owner.q)).copies, j.id ≠ c.id) ∧
    (∀ g y, s.crew? c.owner.q g = some y → (s.copyDone c).crew? c.owner.q g = some y) ∧
    ∀ h, s.group? c.owner.q c.owner.slot = some h → ∃ z, (s.copyDone c).group? c.owner.q c.owner.slot = some z ∧ z.t = h.t := by
  let drop : SlotEng → SlotEng := fun x => { x with copies := x.copies.filter (fun d => d.id != c.id) }
  let u := (s.unpark c.id).modEngine (slotOf c.owner.q) drop
  let v := u.modOwner c.owner (fun g => g.flightDone [c.flight])
  have rest : Keeps v (s.copyDone c) := (keeps_over v c.id).trans (keeps_settle _)
  have dropped : v.mem = s.mem ∧ v.engines = u.engines := by
    simp only [v, State.modOwner]
    split <;> exact ⟨rfl, rfl⟩
  have crews : ∀ g, v.crew? c.owner.q g = s.crew? c.owner.q g := fun g => by
    simp only [v, State.modOwner]
    split
    · exact State.crew?_setGroup u ..
    · rfl
  refine ⟨rest.mem.trans dropped.1, fun j hj => ?_, fun g y hy => ?_, fun h hh => ?_⟩
  · obtain ⟨k, hk, same⟩ := rest.copy hj
    rw [State.engine, dropped.2] at hk
    have left : k ∈ (drop (s.engine (slotOf c.owner.q))).copies := by
      have eng := State.engine_modEngine (s.unpark c.id) (slotOf c.owner.q) drop
      exact eng ▸ hk
    have other := (List.mem_filter.1 left).2
    rw [show j.id = k.id from (congrArg CopyJob.id same :)]
    exact bne_iff_ne.1 other
  · exact rest.crew? ((crews g).trans hy) rfl
  · have lowered : ∃ z, v.group? c.owner.q c.owner.slot = some z ∧ z.t = h.t := by
      simp only [v, State.modOwner]
      split
      next g hg =>
        obtain ⟨fl, eq⟩ := g.flightDone_eq [c.flight]
        have same : g = h := Option.some.inj ((State.group?_of_ownerGroup? hg).symm.trans hh)
        exact ⟨_, State.group?_setGroup (s := u) hh, by rw [eq, same]⟩
      next => exact ⟨h, hh, rfl⟩
    obtain ⟨z, hz, t⟩ := lowered
    obtain ⟨w, hw, core⟩ := rest.group hz
    exact ⟨w, hw, (congrArg Group.t core :).trans t⟩

end Sys2Proof.Machine
end

section
/-! ## A row that counts, and what is asked of a peer (R197, R200, R272) -/

namespace Sys2Proof.Machine

/-! ### CURSOR (R192) -/

theorem tileOf_cursor (t : BitVec 256) : (tileOf t).cursor = (t.extractLsb' 79 7).toNat := rfl

theorem tileOf_setCursor (t : BitVec 256) {n : Nat} (hn : n < 128) : (tileOf (setCursor t n)).cursor = n := by
  have field : (setCursor t n).extractLsb' 79 7 = BitVec.ofNat 7 n := by
    refine BitVec.eq_of_getLsbD_eq fun j hj => ?_
    have mask : Nat.testBit 127 j = true := by
      rw [show 127 = 2 ^ 7 - 1 from rfl, Nat.testBit_two_pow_sub_one, decide_eq_true hj]
    rw [BitVec.getLsbD_extractLsb', setCursor, BitVec.getLsbD_or, BitVec.getLsbD_and, BitVec.getLsbD_not, BitVec.getLsbD_shiftLeft,
      BitVec.getLsbD_shiftLeft, BitVec.getLsbD_ofNat, BitVec.getLsbD_ofNat, Nat.add_sub_cancel_left, mask, Nat.mod_eq_of_lt hn]
    simp only [hj, show 79 + j < 256 by omega, show ¬ 79 + j < 79 by omega, show j < 256 by omega, decide_true, decide_false, Bool.not_false,
      Bool.true_and, Bool.not_true, Bool.and_false, Bool.false_or, BitVec.getLsbD_ofNat]
  rw [tileOf_cursor, field, BitVec.toNat_ofNat]
  exact Nat.mod_eq_of_lt hn

theorem tileOf_rows_lt (t : BitVec 256) : (tileOf t).rows < 128 := (t.extractLsb' 72 7).isLt

/-! ### A row that counts -/

/-- A row of a copy has counted: CURSOR is one more, the copy is over where its last row has no gate, and with a gate its bytes are on the
way to it. -/
def RowCounted (s : State) (c : CopyJob) (t : Tile) (v : State) : Prop :=
  v.mem = s.mem ∧ (∃ h, v.group? c.owner.q c.owner.slot = some h ∧ (tileOf (h.getT c.t)).cursor = t.cursor + 1) ∧
    (t.gen = false → t.rows ≤ t.cursor + 1 → ∀ j ∈ (v.engine (slotOf c.owner.q)).copies, j.id ≠ c.id) ∧
    (t.gen = true → v.Gated c.owner.q c.owner.slot (8 * t.gadr) (128 + (if t.blk = 0 then 0 else 32)) c.id)

/-- The state in which a row has counted and the copy has not yet ended. -/
def State.rowNoted (s : State) (c : CopyJob) (g : Group) (t : Tile) : State :=
  ((s.setGroup c.owner.q c.owner.slot (g.setT c.t (setCursor (g.getT c.t) (t.cursor + 1)))).lowerGate c.owner.q c.owner.slot
    (if t.gen then some (8 * t.gadr) else none) (128 + (if t.blk = 0 then 0 else 32)) c.id).modCopy c.owner c.id
      (fun d => { d.rowAgain with suspended := d.suspended })

theorem State.rowCounts_eq (s : State) (c : CopyJob) (g : Group) (t : Tile) : s.rowCounts c g t =
    if t.rows ≤ t.cursor + 1 ∧ !t.gen then (s.rowNoted c g t).copyDone c else s.rowNoted c g t := rfl

theorem State.lowerGate_crew? (s : State) (q slot : Nat) (a : Option Nat) (n job q' : Nat) (g : Group) :
    (s.lowerGate q slot a n job).crew? q' g = s.crew? q' g := by
  cases a with
  | none => rfl
  | some a =>
    have quad := State.quad?_modQuad s q q' (fun x => x.bankPush (gateReq s slot a n job))
    rw [State.crew?, show (s.lowerGate q slot (some a) n job).quad? q' = _ from quad, State.crew?]
    split
    · cases s.quad? q' <;> rfl
    · rfl

theorem rowCounts_counted {s : State} {c : CopyJob} {g : Group} {t : Tile} (hg : s.group? c.owner.q c.owner.slot = some g)
    (low : t.cursor + 1 < 128) : RowCounted s c t (s.rowCounts c g t) ∧
      ∀ h y, s.crew? c.owner.q h = some y → (s.rowCounts c g t).crew? c.owner.q h = some y := by
  have mem : (s.rowNoted c g t).mem = s.mem := State.lowerGate_mem ..
  have group : (s.rowNoted c g t).group? c.owner.q c.owner.slot = some (g.setT c.t (setCursor (g.getT c.t) (t.cursor + 1))) :=
    (State.lowerGate_group? ..).trans (State.group?_setGroup hg)
  have crew : ∀ h, (s.rowNoted c g t).crew? c.owner.q h = s.crew? c.owner.q h := fun h =>
    (State.lowerGate_crew? ..).trans (State.crew?_setGroup ..)
  have cursor : ∀ h : Group, h.t = (g.setT c.t (setCursor (g.getT c.t) (t.cursor + 1))).t → (tileOf (h.getT c.t)).cursor = t.cursor + 1 := by
    intro h same
    have desc : h.getT c.t = (g.setT c.t (setCursor (g.getT c.t) (t.cursor + 1))).getT c.t :=
      congrArg (fun m => NMap.getD m c.t 0#256) same
    rw [desc, Group.getT_setT, if_pos rfl]
    exact tileOf_setCursor _ low
  rw [State.rowCounts_eq]
  split
  next last =>
    obtain ⟨memD, gone, crewD, groupD⟩ := copyDone_spec (s.rowNoted c g t) c
    obtain ⟨z, hz, same⟩ := groupD _ group
    have none_ : t.gen = false := by simpa using last.2
    refine ⟨⟨memD.trans mem, ⟨z, hz, cursor z same⟩, fun _ _ => gone, fun gen => ?_⟩, fun h y hy => crewD h y ((crew h).trans hy)⟩
    exact absurd (none_.symm.trans gen) Bool.false_ne_true
  next more =>
    refine ⟨⟨mem, ⟨_, group, cursor _ rfl⟩, fun none_ last => absurd ⟨last, by rw [none_]; rfl⟩ more, fun gen => ?_⟩,
      fun h y hy => (crew h).trans hy⟩
    obtain ⟨x, hx, -⟩ := State.quad?_of_group? (State.group?_setGroup (g' := g.setT c.t (setCursor (g.getT c.t) (t.cursor + 1))) hg)
    have noted := State.lowerGate_gated hx c.owner.slot (8 * t.gadr) (128 + (if t.blk = 0 then 0 else 32)) c.id
    rw [State.rowNoted, gen, if_pos rfl]
    exact noted

/-! ### Reads of a peer (R134, R272) -/

/-- Requests that are added one after another stand under the next numbers. -/
theorem req?_foldl_addReq {α : Type} (mk : α → Req) (l : List α) (s : State) :
    (l.foldl (fun s a => s.addReq (mk a)) s).nextId = s.nextId + l.length ∧
    (∀ id, id < s.nextId → (l.foldl (fun s a => s.addReq (mk a)) s).req? id = s.req? id) ∧
    ∀ i a, l[i]? = some a → ∃ r, (l.foldl (fun s a => s.addReq (mk a)) s).req? (s.nextId + i) = some r ∧
      r.face = (mk a).face := by
  induction l generalizing s with
  | nil => exact ⟨rfl, fun _ _ => rfl, fun i a h => nomatch h⟩
  | cons b l ih =>
    obtain ⟨next, old, new⟩ := ih (s.addReq (mk b))
    refine ⟨next.trans (by simp only [State.addReq, List.length_cons]; omega), fun id hid => ?_, fun i a ha => ?_⟩
    · refine (old id (Nat.lt_succ_of_lt hid)).trans ?_
      exact NMap.get?_set_of_ne _ _ (Nat.ne_of_gt hid)
    · cases i with
      | zero =>
        cases ha
        exact ⟨_, (old s.nextId (Nat.lt_succ_self _)).trans (NMap.get?_set_self ..), rfl⟩
      | succ i =>
        obtain ⟨r, hr, eq⟩ := new i a ha
        refine ⟨r, ?_, eq⟩
        rw [← hr, List.foldl_cons, show s.nextId + (i + 1) = (s.addReq (mk b)).nextId + i by simp only [State.addReq]; omega]

theorem foldl_addReq_rest {α : Type} (mk : α → Req) (l : List α) (s : State) :
    (l.foldl (fun s a => s.addReq (mk a)) s).mem = s.mem ∧ (l.foldl (fun s a => s.addReq (mk a)) s).engines = s.engines :=
  List.foldlRecOn l _ (motive := fun t : State => t.mem = s.mem ∧ t.engines = s.engines) ⟨rfl, rfl⟩ fun _ h _ _ => h

/-- A copy has asked a peer for some lines, one request each. -/
def CopyAsks (s : State) (c : CopyJob) (dev obj : Nat) (lines : List Nat) (t : State) : Prop :=
  ∃ (u : State) (j : CopyJob), t = u.settle ∧ u.mem = s.mem ∧ j ∈ (u.engine (slotOf c.owner.q)).copies ∧ j.id = c.id ∧
    j.asks = (List.range lines.length).map (fun i => s.nextId + i) ∧ ∀ i l, lines[i]? = some l → ∃ r, u.req? (s.nextId + i) = some r ∧
      r.kind = .fetch ∧ r.owner = c.owner ∧ r.dev = dev ∧ r.obj = obj ∧ r.line = l

theorem askPeer_asks {s : State} {c : CopyJob} (hc : c ∈ (s.engine (slotOf c.owner.q)).copies) (dev obj : Nat) (lines : List Nat) (byHandler : Bool) :
    CopyAsks s c dev obj lines (s.askPeer c dev obj lines byHandler) := by
  let mk : Nat → Req := fun l => Req.new c.owner .fetch dev obj l 0#32 [] byHandler
  let ids := (List.range lines.length).map (fun i => s.nextId + i)
  let u := lines.foldl (fun s l => s.addReq (mk l)) s
  let f : CopyJob → CopyJob := fun d => { d with asks := ids, got := [] }
  obtain ⟨-, -, new⟩ := req?_foldl_addReq mk lines s
  obtain ⟨mem, engines⟩ := foldl_addReq_rest mk lines s
  have here : c ∈ (u.engine (slotOf c.owner.q)).copies := by
    rw [State.engine, engines]
    exact hc
  refine ⟨u.modCopy c.owner c.id f, f c, rfl, mem, State.modCopy_mem_copies here f, rfl, rfl, fun i l hl => ?_⟩
  obtain ⟨r, hr, eq⟩ := new i l hl
  simp only [Req.face, mk, Req.new, Prod.mk.injEq] at eq
  obtain ⟨kind, owner, dev, obj, line⟩ := eq
  exact ⟨r, hr, kind, owner, dev, obj, line⟩

end Sys2Proof.Machine
end

section
/-! ## A row or line is at hand (R102, R196, R197)

Filling lines changes neither the memory nor what an extent holds; the bytes of a row stand in the scratchpad where R190 says. -/

namespace Sys2Proof.Machine

/-! ### Fills -/

/-- A machine in which some lines have been filled. -/
def State.Filled (s t : State) : Prop := s.Near t ∧ t.extents = s.extents ∧ ∀ b, (t.basin b).objs = (s.basin b).objs

theorem State.Filled.refl (s : State) : s.Filled s := ⟨.refl s, rfl, fun _ => rfl⟩

theorem State.Filled.trans {s t u : State} (h : s.Filled t) (h' : t.Filled u) : s.Filled u :=
  ⟨h.1.trans h'.1, h'.2.1.trans h.2.1, fun b => (h'.2.2 b).trans (h.2.2 b)⟩

theorem State.Filled.lineAbsent {s t : State} (h : s.Filled t) (b obj line : Nat) : t.lineAbsent b obj line = s.lineAbsent b obj line := by
  obtain ⟨-, extents, objs⟩ := h
  simp only [State.lineAbsent, State.extent, extents, objs]

/-- Whether a piece that is written lies in an absent extent depends on the extents only. -/
theorem State.Filled.pieceMeets_absent {s t : State} (h : s.Filled t) {id b dev obj a n die : Nat}
    (present : s.pieceMeets id b dev obj a n die true ≠ .absent) : t.pieceMeets id b dev obj a n die true ≠ .absent := by
  unfold State.pieceMeets at present ⊢
  split
  · exact nofun
  next there =>
    rw [if_neg there] at present
    have same : t.lineAbsent b obj = s.lineAbsent b obj := funext fun l => h.lineAbsent b obj l
    dsimp only at present ⊢
    rw [same]
    split
    next absent =>
      rw [if_pos absent] at present
      exact absurd rfl present
    next =>
      rw [if_pos rfl]
      split <;> exact nofun

theorem filled_setLine (s : State) (k : Nat) (l : Line) : s.Filled (s.setLine k l) := ⟨⟨_, _, _, _, rfl⟩, rfl, fun _ => rfl⟩

theorem filled_setBlock (s : State) (k : Nat) (x : Block) : s.Filled (s.setBlock k x) := ⟨⟨_, _, _, _, rfl⟩, rfl, fun _ => rfl⟩

theorem filled_takeTokens (s : State) (b stack n : Nat) : s.Filled (s.takeTokens b stack n) := by
  refine ⟨⟨_, _, _, _, rfl⟩, rfl, fun b' => ?_⟩
  simp only [State.takeTokens, State.modBasin, State.basin, NMap.getD_set]
  split
  next same => rw [same]
  next => rfl

theorem filled_activate {s t : State} {b stack : Nat} (h : s.activate b stack = some t) : s.Filled t := by
  simp only [State.activate] at h
  split at h
  · cases h
    exact filled_takeTokens ..
  · split at h
    · cases h
      exact filled_takeTokens ..
    · cases h

theorem filled_fillLine {s t : State} {b obj line die : Nat} (h : s.fillLine b obj line die = some t) : s.Filled t := by
  simp only [State.fillLine] at h
  split at h
  · cases h
    exact .refl s
  split at h
  · cases h
  obtain ⟨u, hu, rfl⟩ := Option.map_eq_some_iff.1 h
  suffices s.Filled u from this.trans (filled_setLine ..)
  split at hu
  · split at hu
    · obtain ⟨v, hv, rfl⟩ := Option.map_eq_some_iff.1 hu
      exact (filled_activate hv).trans (filled_setBlock ..)
    · cases hu
  · cases hu
    exact .refl s

/-- A run of steps, each of which may wait, that has come to its end. -/
theorem filled_foldl {α : Type} {f : State → α → Option State} (step : ∀ {u a v}, f u a = some v → u.Filled v) (l : List α) (s : State) {t : State}
    (h : l.foldl (fun acc a => acc.bind (fun u => f u a)) (some s) = some t) : s.Filled t := by
  have stuck : ∀ l : List α, l.foldl (fun acc a => acc.bind (fun u => f u a)) none = none := fun l =>
    List.foldlRecOn l _ (motive := fun acc : Option State => acc = none) rfl fun _ e _ _ => by rw [e, Option.bind_none]
  induction l generalizing s with
  | nil =>
    cases h
    exact .refl t
  | cons a l ih =>
    rw [List.foldl_cons, Option.bind_some] at h
    cases first : f s a with
    | none =>
      rw [first, stuck] at h
      cases h
    | some u =>
      rw [first] at h
      exact (step first).trans (ih u h)

theorem filled_pieceFill {s t : State} {b dev obj a n die : Nat} (h : s.pieceFill b dev obj a n die = some t) : s.Filled t := by
  simp only [State.pieceFill] at h
  split at h
  · cases h
    exact .refl s
  · exact filled_foldl (f := fun s l => s.fillLine b obj l (s.homeDie b obj l die)) filled_fillLine _ s h

theorem filled_copySource {s t : State} {c : CopyJob} {b dev obj : Nat} {ps : List (Nat × Nat)} (h : s.copySource c b dev obj ps = .ok t) :
    s.Filled t := by
  simp only [State.copySource] at h
  split at h
  · split at h
    · cases h
    · split at h
      · cases h
        exact .refl s
      · cases h
  · split at h
    · cases h
    · split at h
      · cases h
      · cases h
      · cases h
      · split at h
        · cases h
        next filled =>
          cases h
          exact filled_foldl (fun {s p t} => filled_pieceFill (s := s) (t := t) (a := p.1) (n := p.2)) _ s filled

/-! ### Writes into a scratchpad that its groups watch (R159, R204) -/

/-- The groups of a quadrant may have noticed a write into a scratchpad. -/
def State.Watched (s : State) (q : Nat) (t : State) : Prop :=
  t.mem = s.mem ∧ ∀ x, s.quad? q = some x → ∃ y, t.quad? q = some y ∧ QuadWatched x y

theorem State.Watched.refl (s : State) (q : Nat) : s.Watched q s := ⟨rfl, fun x hx => ⟨x, hx, .refl x⟩⟩

theorem State.Watched.trans {s t u : State} {q : Nat} (h : s.Watched q t) (h' : t.Watched q u) : s.Watched q u := by
  refine ⟨h'.1.trans h.1, fun x hx => ?_⟩
  obtain ⟨y, hy, watched⟩ := h.2 x hx
  obtain ⟨z, hz, watched'⟩ := h'.2 y hy
  exact ⟨z, hz, watched.trans watched'⟩

theorem watched_markTile (s : State) (q : Nat) (g : Group) (a n : Nat) : s.Watched q (s.markTile q g a n) :=
  ⟨State.markTile_mem .., fun _ hx => State.markTile_quad hx g a n⟩

theorem watched_sluices (s : State) (q : Nat) (g : Group) (as : List Nat) : s.Watched q (s.sluices q g as) :=
  List.foldlRecOn _ _ (motive := fun t => s.Watched q t) (.refl s q) fun _ h _ _ =>
    h.trans ⟨State.sluice_mem .., fun _ hx => State.sluice_quad hx g _⟩

theorem State.Watched.crew? {s t : State} {q : Nat} (h : s.Watched q t) {g : Group} {c : Crew} (hc : s.crew? q g = some c) :
    t.crew? q g = some c := by
  obtain ⟨x, hx, hxc⟩ := Option.bind_eq_some_iff.1 hc
  obtain ⟨y, hy, watched⟩ := h.2 x hx
  rw [State.crew?, hy]
  exact (Quad.crewOf?_congr watched.crews rfl rfl rfl).trans hxc

theorem State.Watched.group? {s t : State} {q slot : Nat} (h : s.Watched q t) {g : Group} (hg : s.group? q slot = some g) :
    ∃ z, t.group? q slot = some z ∧ z.unwatched = g.unwatched := by
  obtain ⟨x, hx, hxg⟩ := State.quad?_of_group? hg
  obtain ⟨y, hy, watched⟩ := h.2 x hx
  have place := watched.groups slot
  rw [hxg] at place
  obtain ⟨z, hz, same⟩ := Option.map_eq_some_iff.1 place
  exact ⟨z, by rw [State.group?, hy]; exact hz, same⟩

/-! ### The place of a row in a tile (R190, R191) -/

theorem tileSlot_lt (r : Nat) {k : Nat} (hk : k < 128) : (k / 16) ^^^ (r % 8) < 8 :=
  Nat.xor_lt_two_pow (n := 3) (by omega) (by omega)

theorem tileByte_lt (base r : Nat) {k : Nat} (hk : k < 128) : tileByte base r k < base + 128 * r + 128 := by
  have := tileSlot_lt r hk
  simp only [tileByte]
  omega

theorem tileByte_inj {base r k k' : Nat} (same : tileByte base r k = tileByte base r k') : k = k' := by
  simp only [tileByte] at same
  have slots : (k / 16) ^^^ (r % 8) = (k' / 16) ^^^ (r % 8) := by omega
  have := Nat.xor_left_injective slots
  omega

theorem Tile.expand_length (t : Tile) {bs : List Byte} (h : bs.length = t.rowBytes) : (t.expand bs).length = 128 := by
  unfold Tile.rowBytes at h
  unfold Tile.expand
  split
  · simp
  next plane =>
    split
    · simp
    next sparse => simpa [plane, sparse] using h

theorem State.pieceBytes_length (s : State) (b dev obj a n : Nat) (got : NMap Byte) : (s.pieceBytes b dev obj a n got).length = n := by
  unfold State.pieceBytes State.readBytes
  split <;> simp

/-- The bytes that a row of a `TCOPY` writes (R196). -/
def Tile.writes (t : Tile) (row sc : List Byte) : NMap Byte :=
  row.zipIdx.map (fun e => (tileByte t.base t.cursor e.2, e.1)) ++ sc.zipIdx.map (fun e => (sidecarRow t.base t.cursor + e.2, e.1))

/-- Each byte of a row stands at its place: the sidecar lies behind the rows. -/
theorem Crew.byte_put_writes (y : Crew) {t : Tile} {row : List Byte} (sc : List Byte) (full : row.length = 128) (low : t.cursor < 64) {k : Nat}
    (hk : k < 128) : (y.put (t.writes row sc)).byte (tileByte t.base t.cursor k) = row.getD k 0#8 := by
  refine (y.byte_put ..).trans (foldl_write_of_all (p := fun e : Nat × Byte => e.1 = tileByte t.base t.cursor k) (f := Prod.snd) ?_ ?_ _)
  · intro e he at_
    rcases List.mem_append.1 he with row_ | side
    · obtain ⟨⟨v, i⟩, hi, rfl⟩ := List.mem_map.1 row_
      rw [← tileByte_inj at_, List.getD_eq_getElem?_getD, List.mem_zipIdx_iff_getElem?.1 hi, Option.getD_some]
    · obtain ⟨⟨v, i⟩, -, rfl⟩ := List.mem_map.1 side
      have := tileByte_lt t.base t.cursor hk
      simp only [sidecarRow] at at_
      omega
  · have here : row[k]? = some (row[k]'(by omega)) := List.getElem?_eq_getElem (by omega)
    exact ⟨_, List.mem_append_left _ (List.mem_map.2 ⟨(_, k), List.mem_zipIdx_iff_getElem?.2 here, rfl⟩), rfl⟩

/-! ### A row of a `TCOPY` that is written (R196, R197) -/

/-- The bytes of a row and of its sidecar as a `TCOPY` has read them. -/
def State.rowBytes (s : State) (c : CopyJob) (g : Group) (t : Tile) (gather : Option (Lanes × Lanes)) : NMap Byte :=
  t.writes (t.expand (s.pieceBytes g.basin (capDev t.mcap) (capObj t.mcap) (t.rowOfs gather t.cursor).toNat t.rowBytes c.got))
    (if t.blk = 0 then []
      else t.sidecar (s.pieceBytes g.basin (capDev t.mcap) (capObj t.mcap) (t.scaleOfs t.cursor).toNat (t.scaleBytes + t.mxBytes) c.got))

/-- The state in which a row has been written and its groups have noticed it. -/
def State.rowPut (s : State) (c : CopyJob) (g : Group) (t : Tile) (gather : Option (Lanes × Lanes)) : State :=
  let q := c.owner.q
  let bytes := s.rowBytes c g t gather
  let s := s.modCrew q g (fun x => x.put bytes)
  let s := s.markTile q g (t.base + 128 * t.cursor) 128
  let s := if t.blk = 0 then s else s.markTile q g (sidecarRow t.base t.cursor) 32
  (s.sluices q g (bytes.map (fun e => e.1))).placed c.id

theorem State.rowWrite_eq (s : State) (c : CopyJob) (g : Group) (t : Tile) (gather : Option (Lanes × Lanes)) : s.rowWrite c g t gather =
    match (s.rowPut c g t gather).group? c.owner.q c.owner.slot with
    | some h => (s.rowPut c g t gather).rowCounts c h t
    | none => s.rowPut c g t gather := rfl

theorem rowWrite_counts {s : State} {c : CopyJob} {g : Group} {t : Tile} {gather : Option (Lanes × Lanes)} {y : Crew}
    (hg : s.group? c.owner.q c.owner.slot = some g) (hy : s.crew? c.owner.q g = some y) (low : t.cursor < 64) :
    RowCounted s c t (s.rowWrite c g t gather) ∧ (s.rowWrite c g t gather).crew? c.owner.q g = some (y.put (s.rowBytes c g t gather)) := by
  let bytes := s.rowBytes c g t gather
  let u := s.modCrew c.owner.q g (fun x => x.put bytes)
  have written : u.crew? c.owner.q g = some (y.put bytes) :=
    (s.crew?_modCrew c.owner.q g (f := fun x => x.put bytes) (fun _ => by rfl)).trans (congrArg _ hy)
  have groups : u.group? c.owner.q c.owner.slot = some g :=
    (State.group?_modQuad_of_groups s c.owner.q (f := fun x => x.modCrew g (fun x => x.put bytes)) (fun _ => rfl) ..).trans hg
  let v := u.markTile c.owner.q g (t.base + 128 * t.cursor) 128
  let w := if t.blk = 0 then v else v.markTile c.owner.q g (sidecarRow t.base t.cursor) 32
  have sides : v.Watched c.owner.q w := by
    simp only [w]
    split
    · exact .refl v _
    · exact watched_markTile ..
  have watched : u.Watched c.owner.q (w.sluices c.owner.q g (bytes.map (fun e => e.1))) :=
    ((watched_markTile u c.owner.q g _ _).trans sides).trans (watched_sluices ..)
  have placed := keeps_placed (w.sluices c.owner.q g (bytes.map (fun e => e.1))) c.id
  obtain ⟨z, hz, -⟩ := watched.group? groups
  obtain ⟨h, hh, -⟩ := placed.group hz
  have put : (s.rowPut c g t gather).group? c.owner.q c.owner.slot = some h := hh
  have crew : (s.rowPut c g t gather).crew? c.owner.q g = some (y.put bytes) := placed.crew? (watched.crew? written) rfl
  have mem : (s.rowPut c g t gather).mem = s.mem := placed.mem.trans watched.1
  obtain ⟨⟨memC, rest⟩, crews⟩ := rowCounts_counted put (t := t) (by omega)
  rw [State.rowWrite_eq, put]
  exact ⟨⟨memC.trans mem, rest⟩, crews g _ crew⟩

end Sys2Proof.Machine
end

section
/-! ## Writes that a copy sends (R199, R300) -/

namespace Sys2Proof.Machine

/-! ### Bytes split at line borders -/

theorem NMap.get?_of_unique {α : Type} {m : NMap α} {i : Nat} {x : α} (mem : (i, x) ∈ m) (only : ∀ y, (i, y) ∈ m → y = x) :
    NMap.get? m i = some x := by
  induction m with
  | nil => cases mem
  | cons e m ih =>
    obtain ⟨k, y⟩ := e
    rw [NMap.get?]
    split
    next here => rw [only y (here ▸ List.mem_cons_self)]
    next other =>
      have later : (i, x) ∈ m := (List.mem_cons.1 mem).resolve_left fun e => other (congrArg Prod.fst e).symm
      exact ih later fun z hz => only z (List.mem_cons_of_mem _ hz)

/-- The bytes of a write with their offsets. -/
def offsetBytes (a : Nat) (bs : List Byte) : NMap Byte := bs.zipIdx.map (fun e => (a + e.2, e.1))

theorem mem_offsetBytes {a : Nat} {bs : List Byte} {o : Nat} {v : Byte} : (o, v) ∈ offsetBytes a bs ↔ ∃ k, o = a + k ∧ bs[k]? = some v := by
  simp only [offsetBytes, List.mem_map, List.mem_zipIdx_iff_getElem?, Prod.exists, Prod.mk.injEq]
  constructor
  · rintro ⟨x, k, hk, rfl, rfl⟩
    exact ⟨k, rfl, hk⟩
  · rintro ⟨k, rfl, hk⟩
    exact ⟨v, k, hk, rfl, rfl⟩

theorem splitLines_eq (a : Nat) (bs : List Byte) : splitLines a bs = (((offsetBytes a bs).map (fun e => e.1 / 128)).eraseDups).map
    (fun l => (l, (offsetBytes a bs).filter (fun e => e.1 / 128 == l))) := rfl

/-- Each byte of a write stands in the piece of its line. -/
theorem splitLines_piece {a : Nat} {bs : List Byte} {k : Nat} {v : Byte} (hk : bs[k]? = some v) :
    ∃ (i : Nat) (w : Nat × NMap Byte), (splitLines a bs)[i]? = some w ∧ w.1 = (a + k) / 128 ∧ NMap.get? w.2 (a + k) = some v := by
  have mem : (a + k, v) ∈ offsetBytes a bs := mem_offsetBytes.2 ⟨k, rfl, hk⟩
  have line : (a + k) / 128 ∈ ((offsetBytes a bs).map (fun e => e.1 / 128)).eraseDups :=
    List.mem_eraseDups.2 (List.mem_map.2 ⟨_, mem, rfl⟩)
  obtain ⟨i, hi, eq⟩ := List.mem_iff_getElem.1 line
  refine ⟨i, ((a + k) / 128, (offsetBytes a bs).filter (fun e => e.1 / 128 == (a + k) / 128)), ?_, rfl, ?_⟩
  · rw [splitLines_eq, List.getElem?_map, List.getElem?_eq_getElem hi, eq, Option.map_some]
  · refine NMap.get?_of_unique (List.mem_filter.2 ⟨mem, beq_self_eq_true _⟩) fun y hy => ?_
    obtain ⟨k', same, hy'⟩ := mem_offsetBytes.1 (List.mem_filter.1 hy).1
    rw [← Nat.add_left_cancel same, hk] at hy'
    exact (Option.some.inj hy').symm

/-- A write that stays in one line is one piece. -/
theorem splitLines_single {a : Nat} {bs : List Byte} (some_ : bs ≠ []) (within : a % 128 + bs.length ≤ 128) : (splitLines a bs).length = 1 := by
  have one : ∀ l ∈ (offsetBytes a bs).map (fun e => e.1 / 128), l = a / 128 := by
    intro l hl
    obtain ⟨⟨o, v⟩, ho, rfl⟩ := List.mem_map.1 hl
    obtain ⟨k, rfl, hk⟩ := mem_offsetBytes.1 ho
    obtain ⟨low, -⟩ := List.getElem?_eq_some_iff.1 hk
    dsimp only
    omega
  rw [splitLines_eq, List.length_map]
  have cons : (offsetBytes a bs).map (fun e => e.1 / 128) ≠ [] := by
    simp only [offsetBytes, ne_eq, List.map_eq_nil_iff, List.zipIdx_eq_nil_iff]
    exact some_
  obtain ⟨x, l, eq⟩ := List.exists_cons_of_ne_nil cons
  rw [eq] at one ⊢
  have rest : l.filter (fun b => !b == x) = [] := List.filter_eq_nil_iff.2 fun b hb => by
    simp [one b (List.mem_cons_of_mem _ hb), one x List.mem_cons_self]
  rw [List.eraseDups_cons, rest]
  rfl

/-! ### The write requests -/

/-- A write request of a copy carries a byte. -/
def State.Carries (s : State) (c : CopyJob) (ws : List Nat) (dev obj a : Nat) (v : Byte) : Prop :=
  ∃ i ∈ ws, ∃ r bs, s.req? i = some r ∧ r.kind = .copyWrite bs ∧ r.owner = c.owner ∧ r.dev = dev ∧ r.obj = obj ∧ r.line = a / 128 ∧
    NMap.get? bs a = some v

theorem State.succeed_req {s : State} {old : Nat} {new : List Nat} {id : Nat} {r : Req} (hr : s.req? id = some r) :
    ∃ z, (s.succeed old new).req? id = some z ∧ z.face = r.face := by
  refine ⟨{ r with after := Machine.follow old new r.after }, ?_, rfl⟩
  rw [State.req?, State.succeed, NMap.get?_map_of_key (fun e => by rfl), show NMap.get? s.reqs id = some r from hr, Option.map_some]

theorem State.succeed_copies (s : State) (old : Nat) (new : List Nat) (qs : Nat) : ((s.succeed old new).engine qs).copies =
    (s.engine qs).copies.map (fun c => { c with after := Machine.follow old new c.after }) := by
  rw [State.engine, State.succeed, NMap.getD, NMap.get?_map_of_key (fun e => by rfl), State.engine, NMap.getD]
  cases NMap.get? s.engines qs <;> rfl

/-- The writes of a copy as it sends them: each piece of a line is one request, and the copy waits for them. -/
def CopySends (s : State) (d : CopyJob) (dev obj dn n : Nat) (ws : List (Nat × NMap Byte)) (t : State) : Prop :=
  ∃ (u : State) (j : CopyJob), t = u.settle ∧ u.mem = s.mem ∧ u.settle.mem = s.mem ∧ j ∈ (u.engine (slotOf d.owner.q)).copies ∧ j.id = d.id ∧
    j.done = dn ∧ j.sent = d.sent + n ∧ j.writes = d.writes ++ (List.range ws.length).map (fun i => s.nextId + i) ∧
    ∀ i w, ws[i]? = some w → ∃ r, u.req? (s.nextId + i) = some r ∧ r.face = (.copyWrite w.2, d.owner, dev, obj, w.1)

theorem sendWrites_sends {s : State} {c d : CopyJob} (hd : d ∈ (s.engine (slotOf c.owner.q)).copies) (hid : d.id = c.id) (howner : d.owner = c.owner)
    (dev obj dn n : Nat) (ws : List (Nat × NMap Byte)) (byHandler : Bool) : CopySends s d dev obj dn n ws (s.sendWrites c dev obj dn n ws byHandler) := by
  let mk : Nat × NMap Byte → Req := fun w =>
    let r := Req.new c.owner (.copyWrite w.2) dev obj w.1 0#32 [] byHandler
    { r with freed := c.freed.filter (· == r.key) }
  let ids := (List.range ws.length).map (fun i => s.nextId + i)
  let u := ws.foldl (fun s w => s.addReq (mk w)) s
  let f : CopyJob → CopyJob := fun d => { d with writes := d.writes ++ ids, done := dn, sent := d.sent + n, got := [], parked := none, freed := [] }
  let v := (u.modCopy c.owner c.id f).succeed c.id ids
  obtain ⟨-, -, new⟩ := req?_foldl_addReq mk ws s
  obtain ⟨mem, engines⟩ := foldl_addReq_rest mk ws s
  have here : d ∈ (u.engine (slotOf c.owner.q)).copies := by
    rw [State.engine, engines]
    exact hd
  have changed : f d ∈ ((u.modCopy c.owner c.id f).engine (slotOf c.owner.q)).copies := hid ▸ State.modCopy_mem_copies here f
  let j : CopyJob := { f d with after := Machine.follow c.id ids (f d).after }
  have kept : j ∈ (v.engine (slotOf c.owner.q)).copies := by
    rw [State.succeed_copies]
    exact List.mem_map.2 ⟨_, changed, rfl⟩
  refine ⟨v, j, rfl, mem, (keeps_settle v).mem.trans mem, howner ▸ kept, rfl, rfl, rfl, rfl, fun i w hw => ?_⟩
  obtain ⟨r, hr, face⟩ := new i w hw
  obtain ⟨z, hz, same⟩ := State.succeed_req (s := u.modCopy c.owner c.id f) (old := c.id) (new := ids) hr
  exact ⟨z, hz, by rw [same, face, howner]; rfl⟩

/-- Each byte of a write that a copy sends is carried. -/
theorem carries_of_piece {s u : State} {d : CopyJob} {dev obj : Nat} {ws : List (Nat × NMap Byte)}
    (sent : ∀ i w, ws[i]? = some w → ∃ r, u.req? (s.nextId + i) = some r ∧ r.face = (.copyWrite w.2, d.owner, dev, obj, w.1))
    {a i : Nat} {v : Byte} {w : Nat × NMap Byte} (hw : ws[i]? = some w) (line : w.1 = a / 128) (byte : NMap.get? w.2 a = some v) :
    u.Carries d ((List.range ws.length).map (fun i => s.nextId + i)) dev obj a v := by
  obtain ⟨r, hr, face⟩ := sent i w hw
  simp only [Req.face, Prod.mk.injEq] at face
  obtain ⟨kind, owner, dev_, obj_, line_⟩ := face
  obtain ⟨low, -⟩ := List.getElem?_eq_some_iff.1 hw
  exact ⟨_, List.mem_map.2 ⟨i, List.mem_range.2 low, rfl⟩, r, w.2, hr, kind, owner, dev_, obj_, line_.trans line, byte⟩

end Sys2Proof.Machine
end

section
/-! ## The steps of a copy (R196 to R200, R300, R301) -/

namespace Sys2Proof.Machine

/-- A copy of a group that nothing holds back stands at a place of its quarter. -/
structure CopyReady (s : State) (ix : Nat) (c : CopyJob) (g : Group) : Prop where
  job : (s.engine (slotOf c.owner.q)).copies[ix]? = some c
  group : s.ownerGroup? c.owner = some g
  awake : c.suspended = false
  goes : s.copyStops (slotOf c.owner.q) c = false
  first : c.after = []
  unparked : s.copyParked c = false
  turn : c.kind.isTcopy = true → s.copyQueued (slotOf c.owner.q) c = false

theorem CopyReady.waits {s : State} {ix : Nat} {c : CopyJob} {g : Group} (r : CopyReady s ix c g) : s.copyWaits (slotOf c.owner.q) c = none := by
  have turn : (c.kind.isTcopy && s.copyQueued (slotOf c.owner.q) c) = false := by
    rw [Bool.and_eq_false_imp]
    exact r.turn
  simp only [State.copyWaits, r.awake, turn, r.goes, r.first, r.unparked, Bool.false_eq_true, if_false, ne_eq, not_true_eq_false]

theorem CopyReady.mem {s : State} {ix : Nat} {c : CopyJob} {g : Group} (r : CopyReady s ix c g) : c ∈ (s.engine (slotOf c.owner.q)).copies :=
  List.mem_of_getElem? r.job

theorem copyNotice_code (c : CopyJob) (code side row : Nat) (em : Mask) (caps : List (Nat × DWord)) (write byHandler : Bool) :
    (copyNotice c code side row em caps write byHandler).code = code := by
  unfold copyNotice
  dsimp only
  split <;> rfl

theorem badNotice_code (n : Notice) (reason : Nat) : (badNotice n reason).code = n.code := by
  unfold badNotice
  split <;> rfl

/-! ### A row of a `TCOPY` -/

section
variable {s : State} {c : CopyJob} {g : Group} {t : Tile} {gather : Option (Lanes × Lanes)}

theorem rowIn_skips (skipped : rowTaken gather c.mask t.cursor = false) : s.rowIn c g t gather = .next (s.rowCounts c g t) := by
  simp only [State.rowIn, skipped, Bool.not_false, if_true]

variable (taken : rowTaken gather c.mask t.cursor = true)
include taken

theorem rowIn_faults {e : CapFail} (fails : t.rowCheck (s.basin g.basin) gather Rights.r t.cursor = some e) :
    ∃ n : Notice, n.code = e.code ∧ s.rowIn c g t gather = .next (s.suspendCopy c n) := by
  refine ⟨s.rowNotice c t gather e.code false c.byHandler, copyNotice_code .., ?_⟩
  simp only [State.rowIn, taken, Bool.not_true, Bool.false_eq_true, if_false, fails]

variable (passes : t.rowCheck (s.basin g.basin) gather Rights.r t.cursor = none)
include passes

theorem rowIn_asks {ls : List Nat} (source : s.copySource c g.basin (capDev t.mcap) (capObj t.mcap)
      ((t.pieces gather t.cursor).map (fun p => (p.1.toNat, p.2.1))) = .ask ls) :
    s.rowIn c g t gather = .next (s.askPeer c (capDev t.mcap) (capObj t.mcap) ls c.byHandler) := by
  simp only [State.rowIn, taken, Bool.not_true, Bool.false_eq_true, if_false, passes, source]

theorem rowIn_writes {s1 : State} (source : s.copySource c g.basin (capDev t.mcap) (capObj t.mcap)
      ((t.pieces gather t.cursor).map (fun p => (p.1.toNat, p.2.1))) = .ok s1) :
    s.rowIn c g t gather = .next (s1.rowWrite c g t gather) := by
  simp only [State.rowIn, taken, Bool.not_true, Bool.false_eq_true, if_false, passes, source]

end

/-! ### A row of a `TSTORE` -/

/-- The bytes of a row and of its scales as a `TSTORE` sends them (R199). -/
def Tile.rowSent (t : Tile) (y : Crew) : List Byte := t.shrink ((List.range 128).map (fun b => y.byte (tileByte t.base t.cursor b)))

/-- The scales of a row and their micro-exponents as a `TSTORE` sends them. -/
def Tile.scalesSent (t : Tile) (y : Crew) : List Byte :=
  (List.range t.scaleBytes).map (fun i => y.byte (sidecarRow t.base t.cursor + i)) ++
    (List.range t.mxBytes).map (fun i => y.byte (sidecarRow t.base t.cursor + 16 + i))

/-- The pieces of a row of a `TSTORE`. -/
def Tile.storePieces (t : Tile) (y : Crew) : List (Nat × NMap Byte) :=
  splitLines (t.rowOfs none t.cursor).toNat (t.rowSent y) ++ (if t.blk = 0 then [] else splitLines (t.scaleOfs t.cursor).toNat (t.scalesSent y))

theorem Tile.rowSent_ne_nil {t : Tile} (ok : t.ok = true) (y : Crew) : t.rowSent y ≠ [] := by
  refine List.ne_nil_of_length_pos ?_
  unfold Tile.rowSent Tile.shrink
  split
  next plane =>
    have npl : 1 ≤ t.npl := by
      simp only [Tile.ok, plane, if_true, Bool.and_eq_true, decide_eq_true_eq] at ok
      omega
    simp only [List.length_map, List.length_range]
    omega
  next => simp

theorem Tile.scalesSent_get (t : Tile) (y : Crew) {k : Nat} (hk : k < t.scaleBytes + t.mxBytes) : (t.scalesSent y)[k]? =
    some (y.byte (sidecarRow t.base t.cursor + (if k < t.scaleBytes then k else 16 + (k - t.scaleBytes)))) := by
  unfold Tile.scalesSent
  rcases Nat.lt_or_ge k t.scaleBytes with low | high
  · rw [List.getElem?_append_left (by simpa using low), List.getElem?_map, List.getElem?_range low, if_pos low]
    rfl
  · rw [List.getElem?_append_right (by simpa using high), List.length_map, List.length_range, List.getElem?_map,
      List.getElem?_range (by omega), if_neg (Nat.not_lt.2 high), Option.map_some, Nat.add_assoc]

section
variable {s : State} {c : CopyJob} {g : Group} {t : Tile} (written : c.writes = [])
include written

theorem rowOut_counts (done : c.done = 1) : s.rowOut c g t = .next (s.rowCounts c g t) := by
  simp only [State.rowOut, written, ne_eq, not_true_eq_false, if_false, done, if_true]

variable (unsent : c.done ≠ 1)
include unsent

theorem rowOut_faults {e : CapFail} (fails : t.rowCheck (s.basin g.basin) none Rights.w t.cursor = some e) :
    ∃ n : Notice, n.code = e.code ∧ s.rowOut c g t = .next (s.suspendCopy c n) := by
  refine ⟨s.rowNotice c t none e.code true c.byHandler, copyNotice_code .., ?_⟩
  simp only [State.rowOut, written, ne_eq, not_true_eq_false, if_false, unsent, fails]

theorem rowOut_sends {y : Crew} (passes : t.rowCheck (s.basin g.basin) none Rights.w t.cursor = none)
    (clear : capDev t.mcap = devHere → s.copyBehind c
      ((pieceLines ((t.pieces none t.cursor).map (fun p => (p.1.toNat, p.2.1)))).map (lineKey g.basin (capObj t.mcap))) = false)
    (present : ∀ p ∈ (t.pieces none t.cursor).map (fun p => (p.1.toNat, p.2.1)),
      s.pieceMeets c.id g.basin (capDev t.mcap) (capObj t.mcap) p.1 p.2 (dieOf c.owner.q) true ≠ .absent)
    (hy : s.crew? c.owner.q g = some y) :
    s.rowOut c g t = .next (s.sendWrites c (capDev t.mcap) (capObj t.mcap) 1 0 (t.storePieces y) c.byHandler) := by
  have free : ¬(capDev t.mcap = devHere ∧ s.copyBehind c
      ((pieceLines ((t.pieces none t.cursor).map (fun p => (p.1.toNat, p.2.1)))).map (lineKey g.basin (capObj t.mcap))) = true) :=
    fun h => Bool.false_ne_true ((clear h.1).symm.trans h.2)
  have noAbsent : ((t.pieces none t.cursor).map (fun p => (p.1.toNat, p.2.1))).find? (fun p =>
      s.pieceMeets c.id g.basin (capDev t.mcap) (capObj t.mcap) p.1 p.2 (dieOf c.owner.q) true == .absent) = none :=
    List.find?_eq_none.2 fun p hp => by simpa using present p hp
  simp only [State.rowOut, written, ne_eq, not_true_eq_false, if_false, unsent, passes, free, noAbsent, hy]
  rfl

end

/-! ### What a step says of the state before the copy has left its park list -/

theorem RowCounted.of_near {s u v : State} {c : CopyJob} {t : Tile} (h : RowCounted u c t v) (near : s.Near u) : RowCounted s c t v :=
  ⟨h.1.trans near.mem, h.2⟩

theorem CopyStops.of_near {s u v : State} {c : CopyJob} {g : Group} {code : Nat} (h : CopyStops u c g code v) (near : s.Near u) :
    CopyStops s c g code v := by
  obtain ⟨z, n, mem, rest⟩ := h
  exact ⟨z, n, mem.trans near.mem, rest⟩

theorem CopyAsks.of_near {s u v : State} {c : CopyJob} {dev obj : Nat} {lines : List Nat} (h : CopyAsks u c dev obj lines v) (near : s.Near u) :
    CopyAsks s c dev obj lines v := by
  obtain ⟨w, j, eq, mem, rest⟩ := h
  rw [near.nextId] at rest
  exact ⟨w, j, eq, mem.trans near.mem, rest⟩

theorem leavePark_ends (s : State) (c : CopyJob) : ((s.leavePark c).copyDone c).mem = s.mem ∧
    ∀ j ∈ (((s.leavePark c).copyDone c).engine (slotOf c.owner.q)).copies, j.id ≠ c.id := by
  obtain ⟨mem, gone, -⟩ := copyDone_spec (s.leavePark c) c
  exact ⟨mem.trans (s.near_leavePark c).mem, gone⟩

/-- The row that a tile copy has come to. -/
def State.rowStep (s : State) (c : CopyJob) (g : Group) : Out :=
  match c.kind with
  | .tcopy gather => s.rowIn c g (tileOf (g.getT c.t)) gather
  | _ => s.rowOut c g (tileOf (g.getT c.t))

/-- A copy is a tile copy. -/
theorem CopyJob.tile_cases {c : CopyJob} (tile : ∀ d x n a, c.kind ≠ .copy d x n a) : (∃ gather, c.kind = .tcopy gather) ∨ c.kind = .tstore := by
  cases hk : c.kind with
  | tcopy gather => exact .inl ⟨gather, rfl⟩
  | tstore => exact .inr rfl
  | copy d x n a => exact absurd hk (tile d x n a)

section
variable {s : State} {ix : Nat} {c : CopyJob} {g : Group} (r : CopyReady s ix c g)
include r

/-- A step that suspends the copy, as seen from the state in which it is taken. -/
theorem CopyReady.stops (live : g.retired = false) {n : Notice} {code : Nat} (hcode : n.code = code) :
    CopyStops s c g code ((s.leavePark c).suspendCopy c n) := by
  have near := s.near_leavePark c
  exact hcode ▸ (suspendCopy_stops ((near.ownerGroup? c.owner).trans r.group) live n).of_near near

theorem CopyReady.asks (dev obj : Nat) (lines : List Nat) (byHandler : Bool) :
    CopyAsks s c dev obj lines ((s.leavePark c).askPeer c dev obj lines byHandler) := by
  have near := s.near_leavePark c
  exact (askPeer_asks (by rw [near.engine]; exact r.mem) dev obj lines byHandler).of_near near

theorem CopyReady.counts {t : Tile} (low : t.cursor + 1 < 128) : RowCounted s c t ((s.leavePark c).rowCounts c g t) ∧
    ∀ h y, s.crew? c.owner.q h = some y → ((s.leavePark c).rowCounts c g t).crew? c.owner.q h = some y := by
  have near := s.near_leavePark c
  obtain ⟨counted, crews⟩ := rowCounts_counted (t := t) ((near.group? ..).trans (State.group?_of_ownerGroup? r.group)) low
  exact ⟨counted.of_near near, fun h y hy => crews h y ((near.crew? ..).trans hy)⟩

/-! ### `COPY_ROW` -/

theorem exec_copyRow_step (tile : ∀ d x n a, c.kind ≠ .copy d x n a) (bad : c.bad = none)
    (left : (tileOf (g.getT c.t)).cursor < (tileOf (g.getT c.t)).rows) :
    exec (.copyRow (slotOf c.owner.q) ix) s = (s.leavePark c).rowStep c g := by
  rcases CopyJob.tile_cases tile with ⟨gather, kind⟩ | kind <;>
    simp only [exec_copyRow, execCopyRow, r.job, r.waits, r.group, kind, bad, Nat.not_le.2 left, if_false, State.rowStep]

theorem exec_copyRow_ends (tile : ∀ d x n a, c.kind ≠ .copy d x n a) (bad : c.bad = none)
    (done : (tileOf (g.getT c.t)).rows ≤ (tileOf (g.getT c.t)).cursor) (reached : s.gatePending c = false) :
    exec (.copyRow (slotOf c.owner.q) ix) s = .next ((s.leavePark c).copyDone c) := by
  have pending : (s.leavePark c).gatePending c = false := ((s.near_leavePark c).gatePending c).trans reached
  rcases CopyJob.tile_cases tile with ⟨gather, kind⟩ | kind <;>
    simp only [exec_copyRow, execCopyRow, r.job, r.waits, r.group, kind, bad, done, if_true, pending, Bool.false_eq_true, if_false]

theorem exec_copyRow_bad (tile : ∀ d x n a, c.kind ≠ .copy d x n a) {b : Nat × Nat × Nat} (bad : c.bad = some b) :
    ∃ n : Notice, n.code = 0x0A ∧ exec (.copyRow (slotOf c.owner.q) ix) s = .next ((s.leavePark c).suspendCopy c n) := by
  obtain ⟨reason, side, x⟩ := b
  rcases CopyJob.tile_cases tile with ⟨gather, kind⟩ | kind <;>
    simp only [exec_copyRow, execCopyRow, r.job, r.waits, r.group, kind, bad] <;>
    exact ⟨_, (badNotice_code ..).trans (copyNotice_code ..), rfl⟩

/-- The bytes of a row that a `TCOPY` has written (R196). -/
theorem CopyReady.rowWritten {s1 : State} {t : Tile} {gather : Option (Lanes × Lanes)} {y : Crew} {ps : List (Nat × Nat)}
    (source : (s.leavePark c).copySource c g.basin (capDev t.mcap) (capObj t.mcap) ps = .ok s1) (hy : s.crew? c.owner.q g = some y)
    (low : t.cursor < 64) : RowCounted s c t (s1.rowWrite c g t gather) ∧ ∃ z, (s1.rowWrite c g t gather).crew? c.owner.q g = some z ∧
      ∀ k, k < 128 → z.byte (tileByte t.base t.cursor k) =
        (t.expand (s.pieceBytes g.basin (capDev t.mcap) (capObj t.mcap) (t.rowOfs gather t.cursor).toNat t.rowBytes c.got)).getD k 0#8 := by
  have near : s.Near s1 := (s.near_leavePark c).trans (filled_copySource source).1
  obtain ⟨counted, crew⟩ := rowWrite_counts (gather := gather) ((near.group? ..).trans (State.group?_of_ownerGroup? r.group))
    ((near.crew? ..).trans hy) low
  refine ⟨counted.of_near near, _, crew, fun k hk => ?_⟩
  rw [State.rowBytes, near.pieceBytes, Crew.byte_put_writes _ _ (t.expand_length (State.pieceBytes_length ..)) low hk]

/-- The writes of a row of a `TSTORE` carry its bytes and its scales. -/
theorem CopyReady.storeSent {t : Tile} (ok : t.ok = true) (written : c.writes = []) (y : Crew) (dev obj : Nat) : ∃ (u : State) (j : CopyJob),
    (s.leavePark c).sendWrites c dev obj 1 0 (t.storePieces y) c.byHandler = u.settle ∧ u.mem = s.mem ∧ u.settle.mem = s.mem ∧
      j ∈ (u.engine (slotOf c.owner.q)).copies ∧ j.id = c.id ∧ j.done = 1 ∧ j.writes ≠ [] ∧
      (∀ k v, (t.rowSent y)[k]? = some v → u.Carries c j.writes dev obj ((t.rowOfs none t.cursor).toNat + k) v) ∧
      (t.blk ≠ 0 → ∀ k, k < t.scaleBytes + t.mxBytes → u.Carries c j.writes dev obj ((t.scaleOfs t.cursor).toNat + k)
        (y.byte (sidecarRow t.base t.cursor + (if k < t.scaleBytes then k else 16 + (k - t.scaleBytes))))) := by
  have near := s.near_leavePark c
  have here : c ∈ ((s.leavePark c).engine (slotOf c.owner.q)).copies := by
    rw [near.engine]
    exact r.mem
  obtain ⟨u, j, eq, mem, settled, hj, id, done, -, writes, sent⟩ := sendWrites_sends here rfl rfl dev obj 1 0 (t.storePieces y) c.byHandler
  rw [written, List.nil_append] at writes
  have row : ∀ k v, (t.rowSent y)[k]? = some v → u.Carries c j.writes dev obj ((t.rowOfs none t.cursor).toNat + k) v := by
    intro k v hv
    obtain ⟨i, w, hw, line, byte⟩ := splitLines_piece (a := (t.rowOfs none t.cursor).toNat) hv
    have low : i < (splitLines (t.rowOfs none t.cursor).toNat (t.rowSent y)).length := (List.getElem?_eq_some_iff.1 hw).1
    rw [writes]
    exact carries_of_piece sent ((List.getElem?_append_left low).trans hw) line byte
  refine ⟨u, j, eq, mem.trans near.mem, settled.trans near.mem, hj, id, done, ?_, row, fun scaled k hk => ?_⟩
  · obtain ⟨v, l, cons⟩ := List.exists_cons_of_ne_nil (Tile.rowSent_ne_nil ok y)
    obtain ⟨i, hi, -⟩ := row 0 v (by rw [cons]; rfl)
    exact List.ne_nil_of_mem hi
  · obtain ⟨i, w, hw, line, byte⟩ := splitLines_piece (a := (t.scaleOfs t.cursor).toNat) (t.scalesSent_get y hk)
    rw [writes]
    refine carries_of_piece sent (i := (splitLines (t.rowOfs none t.cursor).toNat (t.rowSent y)).length + i) (w := w) ?_ line byte
    rw [Tile.storePieces, if_neg scaled, List.getElem?_append_right (Nat.le_add_right ..), Nat.add_sub_cancel_left]
    exact hw

end

end Sys2Proof.Machine
end

section
/-! ## The lines of a byte copy (R300, R301) -/

namespace Sys2Proof.Machine

section
variable {s : State} {ix : Nat} {c : CopyJob} {g : Group} (r : CopyReady s ix c g) {dst src : DWord} {len : Nat} {gate : Option Nat}
  (kind : c.kind = .copy dst src len gate)
include r kind

/-! ### `COPY_LINE` -/

theorem exec_copyLine_step (more : c.bad = none → c.sent < len) :
    exec (.copyLine (slotOf c.owner.q) ix) s = (s.leavePark c).copyLine c g dst src len := by
  have left : ¬(c.bad = none ∧ len ≤ c.sent) := fun h => Nat.not_le.2 (more h.1) h.2
  simp only [exec_copyLine, execCopyLine, r.job, kind, r.group, r.waits, left, if_false]

section
variable (bad : c.bad = none) (all : len ≤ c.sent) (written : c.writes = []) (reached : s.gatePending c = false)
include bad all written reached

theorem exec_copyLine_ends (told : gate = none ∨ c.gated = true) :
    exec (.copyLine (slotOf c.owner.q) ix) s = .next ((s.leavePark c).copyDone c) := by
  have pending : (s.leavePark c).gatePending c = false := ((s.near_leavePark c).gatePending c).trans reached
  have done : (gate.isSome && !c.gated) = false := by
    rcases told with rfl | told
    · rfl
    · rw [told, Bool.not_true, Bool.and_false]
  simp only [exec_copyLine, execCopyLine, r.job, kind, r.group, r.waits, bad, all, and_self, if_true, written, ne_eq, not_true_eq_false,
    if_false, pending, Bool.false_eq_true, done]

theorem exec_copyLine_tells {a : Nat} (some_ : gate = some a) (untold : c.gated = false) : exec (.copyLine (slotOf c.owner.q) ix) s =
    .next (((s.leavePark c).lowerGate c.owner.q c.owner.slot (some a) len c.id).modCopy c.owner c.id (fun d => { d with gated := true })) := by
  have pending : (s.leavePark c).gatePending c = false := ((s.near_leavePark c).gatePending c).trans reached
  subst some_
  simp only [exec_copyLine, execCopyLine, r.job, kind, r.group, r.waits, bad, all, and_self, if_true, written, ne_eq, not_true_eq_false,
    if_false, pending, Bool.false_eq_true, Option.isSome_some, untold, Bool.not_false, Bool.and_self]

/-- The completion of a byte copy is on its way to the gate. -/
theorem copyLine_told {a : Nat} (some_ : gate = some a) (untold : c.gated = false) : ∃ t, exec (.copyLine (slotOf c.owner.q) ix) s = .next t ∧
    t.mem = s.mem ∧ t.Gated c.owner.q c.owner.slot a len c.id ∧
    ∀ j ∈ (t.engine (slotOf c.owner.q)).copies, j.id = c.id → j.gated = true := by
  have near := s.near_leavePark c
  obtain ⟨x, hx, -⟩ := State.quad?_of_group? ((near.group? ..).trans (State.group?_of_ownerGroup? r.group))
  have gated := State.lowerGate_gated hx c.owner.slot a len c.id
  exact ⟨_, exec_copyLine_tells r kind bad all written reached some_ untold, near.mem, gated, fun j hj id =>
    State.modCopy_copy (P := fun d => d.gated = true) (fun _ => rfl) hj id⟩

end

end

/-! ### The bytes of a line (R300) -/

section
variable {s : State} {c : CopyJob} {g : Group} {dst src : DWord} {len : Nat}

/-- The bytes of the next destination line. -/
def nextBytes (c : CopyJob) (dst : DWord) (len : Nat) : Nat := min (128 - (capOfs dst + c.sent) % 128) (len - c.sent)

theorem State.copyBytes_length (s : State) (c : CopyJob) (b : Nat) (dst src : DWord) (len n : Nat) :
    (s.copyBytes c b dst src len n).length = n := by
  simp only [State.copyBytes, List.length_map, List.length_zipIdx, State.pieceBytes_length]

theorem State.copyBytes_exact (s : State) (c : CopyJob) (b : Nat) {dst src : DWord} {len n i : Nat} (hi : i < n)
    (apart : copyOverlaps dst src len (capOfs dst + c.sent + i) = false) : (s.copyBytes c b dst src len n).getD i 0#8 =
      NMap.getD c.kept (capOfs src + c.sent + i) ((s.pieceBytes b (capDev src) (capObj src) (capOfs src + c.sent) n c.got).getD i 0#8) := by
  have low : i < (s.pieceBytes b (capDev src) (capObj src) (capOfs src + c.sent) n c.got).length := by rwa [State.pieceBytes_length]
  rw [State.copyBytes, List.getD_eq_getElem?_getD, List.getElem?_map, List.getElem?_zipIdx, List.getElem?_eq_getElem low, Option.map_some,
    Option.map_some, Option.getD_some, Nat.zero_add, if_neg (Bool.eq_false_iff.1 apart), List.getD_eq_getElem?_getD,
    List.getElem?_eq_getElem low, Option.getD_some]

/-- A copy that keeps the source bytes which its next line overwrites. -/
def CopyJob.keeping (c : CopyJob) (m : NMap Byte) : CopyJob := { c with kept := c.kept ++ m }

theorem copyLine_bad {x : Nat × Nat × Nat} (bad : c.bad = some x) (written : c.writes = []) :
    ∃ n : Notice, n.code = 0x0A ∧ s.copyLine c g dst src len = .next (s.suspendCopy c n) := by
  obtain ⟨reason, side, x⟩ := x
  simp only [State.copyLine, bad, written, ne_eq, not_true_eq_false, if_false]
  exact ⟨_, (badNotice_code ..).trans (copyNotice_code ..), rfl⟩

variable (bad : c.bad = none)
include bad

theorem copyLine_asks {ls : List Nat} (source : s.copySource c g.basin (capDev src) (capObj src)
      ((capOfs src + c.sent, nextBytes c dst len) :: copyAhead c dst src len (nextBytes c dst len)) = .ask ls) :
    s.copyLine c g dst src len = .next (s.askPeer c (capDev src) (capObj src) ls c.byHandler) := by
  simp only [nextBytes] at source
  simp only [State.copyLine, bad, source]

variable {s1 : State} (source : s.copySource c g.basin (capDev src) (capObj src)
    ((capOfs src + c.sent, nextBytes c dst len) :: copyAhead c dst src len (nextBytes c dst len)) = .ok s1)
  (clear : capDev dst = devHere → s.copyBehind c
    ((pieceLines [(capOfs dst + c.sent, nextBytes c dst len)]).map (lineKey g.basin (capObj dst))) = false)
  (present : s.pieceMeets c.id g.basin (capDev dst) (capObj dst) (capOfs dst + c.sent) (nextBytes c dst len) (dieOf c.owner.q) true ≠ .absent)
  (turn : capDev dst = devHere ∨ c.writes = [])
include source clear present turn

/-- The state in which the source bytes that a line overwrites have been kept. -/
def State.lineKept (s : State) (c : CopyJob) (g : Group) (dst src : DWord) (len : Nat) : State :=
  { s.modCopy c.owner c.id (fun d => d.keeping (s.copyKeeps c g.basin dst src len (nextBytes c dst len))) with freeIx := s.freeIx + 128 }

theorem copyLine_sends : s.copyLine c g dst src len = .next ((s1.lineKept c g dst src len).sendWrites c (capDev dst) (capObj dst) c.done
    (nextBytes c dst len) (splitLines (capOfs dst + c.sent) (s1.copyBytes c g.basin dst src len (nextBytes c dst len))) c.byHandler) := by
  have filled := filled_copySource source
  have answered : ¬(capDev dst ≠ devHere ∧ c.writes ≠ []) := fun h => turn.elim h.1 h.2
  have free : ¬(capDev dst = devHere ∧ s1.copyBehind c
      ((pieceLines [(capOfs dst + c.sent, nextBytes c dst len)]).map (lineKey g.basin (capObj dst))) = true) := fun h => by
    rw [filled.1.copyBehind, clear h.1] at h
    exact Bool.false_ne_true h.2
  have there : (s1.pieceMeets c.id g.basin (capDev dst) (capObj dst) (capOfs dst + c.sent) (nextBytes c dst len) (dieOf c.owner.q) true ==
      .absent) = false := beq_eq_false_iff_ne.2 (filled.pieceMeets_absent present)
  simp only [nextBytes] at source free there
  simp only [State.copyLine, bad, source, answered, free, there, if_false, Bool.false_eq_true]
  rfl

/-- The one write request of a line carries its bytes. -/
theorem lineSent (hc : c ∈ (s.engine (slotOf c.owner.q)).copies) (more : c.sent < len) :
    ∃ (u : State) (w : Nat) (v : Nat → Byte), s.copyLine c g dst src len = .next u.settle ∧ u.mem = s.mem ∧ u.settle.mem = s.mem ∧
      (∃ j ∈ (u.engine (slotOf c.owner.q)).copies, j.id = c.id ∧ j.writes = c.writes ++ [w] ∧ j.done = c.done ∧
        j.sent = c.sent + nextBytes c dst len) ∧
      ∀ i, i < nextBytes c dst len → u.Carries c [w] (capDev dst) (capObj dst) (capOfs dst + c.sent + i) (v i) ∧
        (copyOverlaps dst src len (capOfs dst + c.sent + i) = false → v i = NMap.getD c.kept (capOfs src + c.sent + i)
          ((s.pieceBytes g.basin (capDev src) (capObj src) (capOfs src + c.sent) (nextBytes c dst len) c.got).getD i 0#8)) := by
  have near := (filled_copySource source).1
  let n := nextBytes c dst len
  let bs := s1.copyBytes c g.basin dst src len n
  let m := s1.copyKeeps c g.basin dst src len n
  have length : bs.length = n := s1.copyBytes_length ..
  have positive : 0 < n := by
    simp only [n, nextBytes]
    omega
  have here : c ∈ (s1.engine (slotOf c.owner.q)).copies := by rwa [near.engine]
  have kept : c.keeping m ∈ ((s1.lineKept c g dst src len).engine (slotOf c.owner.q)).copies :=
    State.modCopy_mem_copies here (fun d => d.keeping m)
  have single : (splitLines (capOfs dst + c.sent) bs).length = 1 := by
    refine splitLines_single (List.ne_nil_of_length_pos (length ▸ positive)) ?_
    rw [length]
    simp only [n, nextBytes]
    omega
  obtain ⟨u, j, eq, mem, settled, hj, id, done, sent, writes, carried⟩ := sendWrites_sends (c := c) kept rfl rfl (capDev dst) (capObj dst) c.done n
    (splitLines (capOfs dst + c.sent) bs) c.byHandler
  have lineMem : (s1.lineKept c g dst src len).mem = s.mem := near.mem
  refine ⟨u, (s1.lineKept c g dst src len).nextId + 0, fun i => bs.getD i 0#8, ?_, mem.trans lineMem, settled.trans lineMem,
    ⟨j, hj, id, ?_, done, sent⟩, fun i hi => ⟨?_, fun apart => ?_⟩⟩
  · rw [copyLine_sends bad source clear present turn, eq]
  · rw [writes, single]
    rfl
  · have byte : bs[i]? = some (bs.getD i 0#8) := by
      rw [List.getD_eq_getElem?_getD, List.getElem?_eq_getElem (by omega), Option.getD_some]
    obtain ⟨k, w, hw, line, at_⟩ := splitLines_piece (a := capOfs dst + c.sent) byte
    have carries := carries_of_piece carried hw line at_
    rw [single] at carries
    exact carries
  · exact (s1.copyBytes_exact c g.basin hi apart).trans (by rw [near.pieceBytes])

end

/-- Settles O43: each kind of step from the state in which the copy has left its park list (`CopyReady`); what is written in the scratchpad
is what has been read (`CopyReady.rowWritten`), and each byte of a write stands in the piece of its line (`splitLines_piece`). -/
theorem copyRowsAndLinesAdvance : Obligations.CopyRowsAndLinesAdvance := by
  intro s ix c g q slot qs job group awake goes first unparked turn u t b dev obj row memRow gone gated counts asked stops carried
  have r : CopyReady s ix c g := ⟨job, group, awake, goes, first, unparked, turn⟩
  have basin : (s.leavePark c).basin b = s.basin b := s.leavePark_basin c b
  have stopped : ∀ {o : Out} {code : Nat}, (∃ n : Notice, n.code = code ∧ o = .next (u.suspendCopy c n)) → stops o code := by
    rintro _ code ⟨n, hn, rfl⟩ live
    obtain ⟨h, n', mem, rest⟩ := r.stops live hn
    exact ⟨_, h, n', rfl, mem, rest⟩
  have ends : ∀ {o : Out}, o = .next (u.copyDone c) → ∃ t', o = .next t' ∧ t'.mem = s.mem ∧ gone t' := fun eq =>
    ⟨_, eq, leavePark_ends s c⟩
  have asks : ∀ {o : Out} {dev obj : Nat} {ls : List Nat}, o = .next (u.askPeer c dev obj ls c.byHandler) → asked o dev obj ls := by
    rintro _ dev obj ls rfl
    obtain ⟨w, j, eq, rest⟩ := r.asks dev obj ls c.byHandler
    exact ⟨w, j, congrArg _ eq, rest⟩
  refine ⟨fun gather kind bad left low => ?tcopy, fun kind bad written left => ?tstore, fun tile bad done reached => ?ends,
    fun n side bad => ⟨fun tile => stopped (exec_copyRow_bad r tile bad), fun d x n a kind written => ?badLine⟩,
    fun dst src len gate kind bad => ⟨fun all written reached => ⟨fun told => ?told, fun a some_ untold => ?tells⟩, ?line⟩⟩
  case tcopy =>
    have step : exec (.copyRow qs ix) s = u.rowIn c g t gather := by
      rw [exec_copyRow_step r (by rw [kind]; nofun) bad left, State.rowStep, kind]
    rw [step]
    refine ⟨fun skipped => ?_, fun taken => ⟨fun e fails => ?_, fun passes => ⟨fun ls source => ?_, fun s1 y source hy => ?_⟩⟩⟩
    · obtain ⟨counted, crews⟩ := r.counts (t := t) (by omega)
      exact ⟨_, rowIn_skips skipped, counted, fun y hy => ⟨y, crews g y hy, rfl⟩⟩
    · exact stopped (rowIn_faults taken (by rw [basin]; exact fails))
    · exact asks (rowIn_asks taken (by rw [basin]; exact passes) source)
    · obtain ⟨counted, z, hz, bytes⟩ := r.rowWritten source hy (t := t) (gather := gather) (by omega)
      exact ⟨_, rowIn_writes taken (by rw [basin]; exact passes) source, counted, z, hz, bytes⟩
  case tstore =>
    have step : exec (.copyRow qs ix) s = u.rowOut c g t := by
      rw [exec_copyRow_step r (by rw [kind]; nofun) bad left, State.rowStep, kind]
    rw [step]
    have rows : t.rows < 128 := tileOf_rows_lt (g.getT c.t)
    refine ⟨fun done => ⟨_, rowOut_counts written done, (r.counts (t := t) (by omega)).1⟩, fun unsent => ⟨fun e fails => ?_,
      fun y ok _ passes clear present hy => ?_⟩⟩
    · exact stopped (rowOut_faults written unsent (by rw [basin]; exact fails))
    · obtain ⟨s2, j, eq, rest⟩ := r.storeSent ok written y dev obj
      exact ⟨s2, j, (rowOut_sends written unsent (by rw [basin]; exact passes) clear present (((s.near_leavePark c).crew? ..).trans hy)).trans
        (congrArg _ eq), rest⟩
  case ends => exact ends (exec_copyRow_ends r tile bad done reached)
  case badLine =>
    rw [exec_copyLine_step r kind (fun none_ => nomatch none_.symm.trans bad)]
    exact stopped (copyLine_bad bad written)
  case told => exact ends (exec_copyLine_ends r kind bad all written reached told)
  case tells => exact copyLine_told r kind bad all written reached some_ untold
  case line =>
    intro a sa n more
    rw [exec_copyLine_step r kind (fun _ => more)]
    refine ⟨fun ls source => asks (copyLine_asks bad source), fun s1 source clear present turn => ?_⟩
    have near := s.near_leavePark c
    obtain ⟨s2, w, v, eq, mem, settled, rest, bytes⟩ :=
      lineSent bad source clear present turn (by rw [near.engine]; exact r.mem) more
    refine ⟨s2, w, v, eq, mem.trans near.mem, settled.trans near.mem, rest, fun i hi => ?_⟩
    obtain ⟨carries, exact_⟩ := bytes i hi
    rw [near.pieceBytes] at exact_
    exact ⟨carries, exact_⟩

end Sys2Proof.Machine
end

section
/-! ## The walker's record as bytes of a scratchpad (R90, R214, R216, R218, R221) -/

namespace Sys2Proof.Machine

/-! ### Writes -/

theorem Crew.put_append (x : Crew) (as bs : NMap Byte) : x.put (as ++ bs) = (x.put as).put bs := by
  rw [Crew.put, List.foldl_append, Crew.put, Crew.put]

/-- A write into a scratchpad does not change whose it is. -/
theorem Crew.has_put (x : Crew) (bs : NMap Byte) (g : Group) : (x.put bs).has g = x.has g := rfl

theorem Crew.has_putNum (x : Crew) (a n v : Nat) (g : Group) : (x.putNum a n v).has g = x.has g := rfl

/-! ### Numbers that a write reaches, and numbers that it does not reach -/

section
variable {c d : Crew} {a b m n k x : Nat} {bs : List Byte}

theorem Crew.byte_put_offsetBytes_of_out (out : b < a ∨ a + bs.length ≤ b) : (c.put (offsetBytes a bs)).byte b = c.byte b := by
  refine (c.byte_put ..).trans (foldl_write_of_none (fun e he => ?_) _)
  obtain ⟨i, same, here⟩ := mem_offsetBytes.1 (show (e.1, e.2) ∈ _ from he)
  obtain ⟨low, -⟩ := List.getElem?_eq_some_iff.1 here
  omega

theorem Crew.byte_putNum_of_out (out : b < a ∨ a + n ≤ b) : (c.putNum a n x).byte b = c.byte b :=
  Crew.byte_put_offsetBytes_of_out (bs := natBytes n x) (by rwa [natBytes, List.length_map, List.length_range])

theorem Crew.num_congr (same : ∀ i, i < n → d.byte (a + i) = c.byte (a + i)) : d.num a n = c.num a n :=
  congrArg leNat (List.map_congr_left fun i hi => same i (List.mem_range.1 hi))

theorem Crew.num_putNum_of_out (out : b + k ≤ a ∨ a + n ≤ b) : (c.putNum a n x).num b k = c.num b k :=
  Crew.num_congr fun _ _ => Crew.byte_putNum_of_out (by omega)

/-- The first bytes of a number that has been written. -/
theorem Crew.num_putNum_of_le (le : k ≤ n) : (c.putNum a n x).num a k = x % 256 ^ k := by
  rw [← c.num_putNum a k x]
  refine Crew.num_congr fun i hi => ?_
  rw [Crew.byte_putNum _ _ _ _ hi, Crew.byte_putNum _ _ _ _ (by omega)]

/-- The walker reads the first 0x1C bytes of its record (R214). -/
theorem Crew.walker_congr (same : ∀ i, i < 0x1C → d.byte (m + i) = c.byte (m + i)) : d.walker m = c.walker m := by
  have num : ∀ o n, o + n ≤ 0x1C → d.num (m + o) n = c.num (m + o) n := fun o n le =>
    Crew.num_congr fun i hi => by rw [Nat.add_assoc]; exact same _ (by omega)
  simp only [Crew.walker, num 8 4 (by decide), num 0xC 4 (by decide), num 0x10 4 (by decide), num 0x14 4 (by decide), num 0x18 4 (by decide),
    show d.num m 8 = c.num m 8 from num 0 8 (by decide)]

end

/-! ### The record that `OWBEGIN` writes (R216) -/

theorem NMap.get?_filter_key {α : Type} (p : Nat → Bool) (m : NMap α) (i : Nat) :
    NMap.get? (m.filter (fun e => p e.1)) i = if p i then NMap.get? m i else none := by
  induction m with
  | nil => simp
  | cons e m ih =>
    obtain ⟨k, v⟩ := e
    rw [List.filter_cons, NMap.get?]
    by_cases same : k = i
    · subst same
      cases hk : p k <;> simp [hk, ih, NMap.get?]
    · cases hk : p k <;> simp [ih, NMap.get?, same]

/-- A crew whose scratchpad bytes from `lo` up to `hi` are 0. -/
def Crew.wiped (c : Crew) (lo hi : Nat) : Crew := { c with sp := c.sp.filter (fun e => !(decide (lo ≤ e.1) && decide (e.1 < hi))) }

theorem Crew.byte_wiped (c : Crew) (lo hi a : Nat) : (c.wiped lo hi).byte a = if lo ≤ a ∧ a < hi then 0#8 else c.byte a := by
  rw [Crew.byte, Crew.wiped, NMap.getD, NMap.get?_filter_key (fun k => !(decide (lo ≤ k) && decide (k < hi)))]
  by_cases inside : lo ≤ a ∧ a < hi
  · simp [inside]
  · rw [if_neg inside, if_pos (by rwa [← Bool.decide_and, Bool.not_eq_true', decide_eq_false_iff_not])]
    rfl

theorem Crew.has_wiped (x : Crew) (lo hi : Nat) (g : Group) : (x.wiped lo hi).has g = x.has g := rfl

/-- The header of a record (R214). -/
def Crew.header (x : Crew) (m : Nat) (c : DWord) (len n gran depth : Nat) : Crew :=
  (((((x.putNum m 8 c.toNat).putNum (m + 8) 4 len).putNum (m + 0xC) 4 n).putNum (m + 0x10) 4 0).putNum (m + 0x14) 4
    (gran + 256 * depth)).putNum (m + 0x18) 8 0

/-- A crew after `OWBEGIN` (R216). -/
def Crew.begun (x : Crew) (m : Nat) (c : DWord) (len n gran depth cells : Nat) : Crew :=
  (x.header m c len n gran depth).wiped (m + 0x240) (m + walkerSize cells)

theorem Crew.has_begun (x : Crew) (m : Nat) (c : DWord) (len n gran depth cells : Nat) (g : Group) :
    (x.begun m c len n gran depth cells).has g = x.has g := by
  simp only [Crew.begun, Crew.has_wiped, Crew.header, Crew.has_putNum]

section
variable {x : Crew} {m : Nat} {c : DWord} {len n gran depth cells : Nat}

theorem Crew.byte_header_of_out {a : Nat} (out : a < m ∨ m + 0x20 ≤ a) : (x.header m c len n gran depth).byte a = x.byte a := by
  simp (disch := omega) only [Crew.header, Crew.byte_putNum_of_out]

theorem Crew.walker_header (hlen : len < 2 ^ 32) (hn : n < 2 ^ 32) (hgran : gran < 8) (hdepth : depth < 32) :
    (x.header m c len n gran depth).walker m =
      { cap := c, len := len, n := n, k := 0, gran := 4 * 2 ^ gran, depth := depth, active := 0#32 } := by
  have word : (gran + 256 * depth) % 256 ^ 4 = gran + 256 * depth := Nat.mod_eq_of_lt (by omega)
  simp (disch := omega) only [Crew.walker, Crew.header, Crew.num_putNum, Crew.num_putNum_of_le, Crew.num_putNum_of_out, word]
  have field : (gran + 256 * depth) % 8 = gran ∧ (gran + 256 * depth) / 256 % 32 = depth := by omega
  have cap : BitVec.ofNat 64 (c.toNat % 256 ^ 8) = c := by
    rw [Nat.mod_eq_of_lt (by simpa using c.isLt), BitVec.ofNat_toNat, BitVec.setWidth_eq]
  rw [field.1, field.2, cap, Nat.mod_eq_of_lt (by simpa using hlen), Nat.mod_eq_of_lt (by simpa using hn)]
  rfl

theorem Crew.walker_begun (hlen : len < 2 ^ 32) (hn : n < 2 ^ 32) (hgran : gran < 8) (hdepth : depth < 32) :
    (x.begun m c len n gran depth cells).walker m =
      { cap := c, len := len, n := n, k := 0, gran := 4 * 2 ^ gran, depth := depth, active := 0#32 } := by
  rw [← Crew.walker_header hlen hn hgran hdepth (x := x) (m := m) (c := c)]
  refine Crew.walker_congr fun i hi => ?_
  rw [Crew.begun, Crew.byte_wiped, if_neg (by omega)]

theorem Crew.mantle_begun {e : Nat} (he : e < cells) : (x.begun m c len n gran depth cells).mantle m e = false := by
  rw [Crew.mantle, Crew.begun, Crew.byte_wiped, if_pos (by unfold walkerSize; omega)]
  exact BitVec.getLsbD_zero

theorem Crew.byte_begun_of_out {a : Nat} (out : a < m ∨ m + walkerSize cells ≤ a) : (x.begun m c len n gran depth cells).byte a = x.byte a := by
  unfold walkerSize at out
  rw [Crew.begun, Crew.byte_wiped, if_neg (by unfold walkerSize; omega), Crew.byte_header_of_out (by omega)]

end

/-! ### The record that `OWFOOT` writes (R218) -/

/-- A crew after the walker has written a mask, the declared cells and the own masks of a batch. -/
def Crew.footed (x : Crew) (m : Nat) (active : Mask) (cells : List Byte) (own : Nat) : Crew :=
  ((x.putNum (m + 0x18) 4 active.toNat).put (offsetBytes (m + 0x20) cells)).putNum (m + 0x220) 16 own

section
variable {x : Crew} {m own : Nat} {active : Mask} {cells : List Byte} (full : cells.length = 512)
include full

theorem Crew.byte_footed_of_out {a : Nat} (out : a < m + 0x18 ∨ m + 0x230 ≤ a) : (x.footed m active cells own).byte a = x.byte a := by
  simp (disch := omega) only [Crew.footed, Crew.byte_putNum_of_out, Crew.byte_put_offsetBytes_of_out]

theorem Crew.walker_footed : ((x.footed m active cells own).walker m).active = active := by
  have kept : (x.footed m active cells own).num (m + 0x18) 4 = (x.putNum (m + 0x18) 4 active.toNat).num (m + 0x18) 4 :=
    Crew.num_congr fun i hi => by
      simp (disch := omega) only [Crew.footed, Crew.byte_putNum_of_out, Crew.byte_put_offsetBytes_of_out]
  simp only [Crew.walker, kept, Crew.num_putNum]
  rw [Nat.mod_eq_of_lt (by simpa using active.isLt), BitVec.ofNat_toNat, BitVec.setWidth_eq]

end

/-! ### The record that `OWNEXT` writes (R221) -/

/-- A crew after the walker has set the mantle's bit for a cell. -/
def Crew.cover (m : Nat) (x : Crew) (cell : Nat) : Crew :=
  x.put [(m + 0x240 + cell / 8, x.byte (m + 0x240 + cell / 8) ||| (1#8 <<< (cell % 8)))]

/-- The cells that the lanes of a mask own, as a record says. -/
def Crew.ownedBy (c : Crew) (m : Nat) (active : Mask) : List Nat :=
  (maskLanes active).flatMap (fun l => ((c.cells m l).zipIdx.filter (fun e => e.1 != noCell && c.owns m l e.2)).map (fun e => e.1))

/-- A crew after `OWNEXT` (R221). -/
def Crew.stepped (x : Crew) (m : Nat) (owned : List Nat) (k : Nat) : Crew := (owned.foldl (Crew.cover m) x).putNum (m + 0x10) 4 k

section
variable {m : Nat} {x : Crew}

theorem Crew.byte_cover (cell a : Nat) : (x.cover m cell).byte a =
    if m + 0x240 + cell / 8 = a then x.byte a ||| (1#8 <<< (cell % 8)) else x.byte a := by
  rw [Crew.cover, Crew.byte_put, List.foldl_cons, List.foldl_nil]
  split
  next here => rw [← here]
  next => rfl

theorem Crew.mantle_cover (cell z : Nat) : (x.cover m cell).mantle m z = (x.mantle m z || decide (z = cell)) := by
  rw [Crew.mantle, Crew.byte_cover, Crew.mantle]
  split
  next here =>
    rw [BitVec.getLsbD_or, BitVec.getLsbD_shiftLeft, BitVec.getLsbD_one]
    refine congrArg _ (Bool.eq_iff_iff.2 ?_)
    simp only [Bool.and_eq_true, decide_eq_true_eq, Bool.not_eq_true', decide_eq_false_iff_not]
    omega
  next other =>
    have : z ≠ cell := fun e => other (by rw [e])
    simp only [this, decide_false, Bool.or_false]

theorem Crew.mantle_foldl_cover (owned : List Nat) (z : Nat) :
    (owned.foldl (Crew.cover m) x).mantle m z = true ↔ x.mantle m z = true ∨ z ∈ owned := by
  induction owned generalizing x with
  | nil => simp
  | cons cell owned ih =>
    rw [List.foldl_cons, ih, Crew.mantle_cover, Bool.or_eq_true, decide_eq_true_eq, List.mem_cons, or_assoc]

theorem Crew.byte_foldl_cover_of_lt (owned : List Nat) {a : Nat} (low : a < m + 0x240) : (owned.foldl (Crew.cover m) x).byte a = x.byte a :=
  List.foldlRecOn owned _ (motive := fun y : Crew => y.byte a = x.byte a) rfl fun y ih cell _ => by
    rw [Crew.byte_cover, if_neg (by omega), ih]

theorem Crew.has_foldl_cover (owned : List Nat) (g : Group) : (owned.foldl (Crew.cover m) x).has g = x.has g :=
  List.foldlRecOn owned _ (motive := fun y : Crew => y.has g = x.has g) rfl fun _ ih _ _ => ih

theorem Crew.has_stepped (x : Crew) (m : Nat) (owned : List Nat) (k : Nat) (g : Group) : (x.stepped m owned k).has g = x.has g := by
  rw [Crew.stepped, Crew.has_putNum, Crew.has_foldl_cover]

theorem Crew.mantle_stepped (owned : List Nat) (k z : Nat) : (x.stepped m owned k).mantle m z = true ↔ x.mantle m z = true ∨ z ∈ owned := by
  rw [← Crew.mantle_foldl_cover, Crew.mantle, Crew.stepped, Crew.byte_putNum_of_out (by omega), Crew.mantle]

theorem Crew.walker_stepped (owned : List Nat) {k : Nat} (hk : k < 2 ^ 32) : (x.stepped m owned k).walker m = { x.walker m with k := k } := by
  have same := Crew.walker_congr (m := m) (c := x) (d := owned.foldl (Crew.cover m) x) fun i hi =>
    Crew.byte_foldl_cover_of_lt owned (by omega)
  rw [← same]
  simp (disch := omega) only [Crew.walker, Crew.stepped, Crew.num_putNum, Crew.num_putNum_of_out]
  rw [Nat.mod_eq_of_lt (by simpa using hk)]

theorem Crew.mem_ownedBy {active : Mask} {z : Nat} : z ∈ x.ownedBy m active ↔
    ∃ l j, l < 32 ∧ j < 4 ∧ active.getLsbD l = true ∧ x.owns m l j = true ∧ (x.cells m l)[j]? = some z ∧ z ≠ noCell := by
  simp only [Crew.ownedBy, List.mem_flatMap, mem_maskLanes, List.mem_map, List.mem_filter, List.mem_zipIdx_iff_getElem?, Bool.and_eq_true, bne_iff_ne]
  constructor
  · rintro ⟨l, ⟨low, act⟩, ⟨_, j⟩, ⟨here, cell, own⟩, rfl⟩
    have lt : j < 4 := by simpa [Crew.cells] using (List.getElem?_eq_some_iff.1 here).1
    exact ⟨l, j, low, lt, act, own, here, cell⟩
  · rintro ⟨l, j, low, -, act, own, here, cell⟩
    exact ⟨l, ⟨low, act⟩, (z, j), ⟨here, cell, own⟩, rfl⟩

end

end Sys2Proof.Machine
end

section
/-! ## What a walker writes, and the end of its instruction (R98, R159, R215) -/

namespace Sys2Proof.Machine

/-! ### The group with its jet open -/

theorem Group.opened_em (g : Group) : g.opened.em = g.em := g.opened_fields.2.1

theorem Group.opened_stack (g : Group) : g.opened.stack = g.stack := by
  obtain ⟨-, -, -, -, -, -, stack, -⟩ := g.sameRegs_opened
  exact stack

theorem Group.opened_getS (g : Group) (n : Nat) : g.opened.getS n = g.getS n := by
  obtain ⟨-, uniform, -⟩ := g.sameRegs_opened
  rw [Group.getS, uniform, Group.getS]

theorem Group.kept_opened (g : Group) :
    g.opened.v = g.v ∧ g.opened.s = g.s ∧ g.opened.p = g.p ∧ g.opened.h = g.h ∧ g.opened.status = g.status := by
  obtain ⟨v, s, p, h, -, status, -⟩ := g.sameRegs_opened
  exact ⟨v, s, p, h, status⟩

/-! ### A change of a crew -/

theorem State.group?_modCrew (s : State) (q : Nat) (g : Group) (f : Crew → Crew) (q' slot : Nat) :
    (s.modCrew q g f).group? q' slot = s.group? q' slot :=
  State.group?_modQuad_of_groups s q (f := fun y => y.modCrew g f) (fun _ => rfl) ..

/-! ### A crew without requests in its banks -/

section
variable {s : State} {x : Quad} {q slot : Nat} {g : Group}

/-- The bank requests of an idle crew's group are none: they would be its crew's. -/
theorem Quad.slot_ne_of_crewIdle (hg : NMap.get? x.groups slot = some g) (idle : x.crewIdle g = true) :
    ∀ r ∈ x.banks.flatMap (fun e => e.2), r.slot ≠ slot := by
  rintro r hr rfl
  have foreign := List.all_eq_true.1 idle r hr
  simp [hg] at foreign

theorem State.openCur_crewIdle (hg : s.group? s.cur.1 s.cur.2 = some g) (idle : s.crewIdle s.cur.1 g = true) :
    (s.openCur g).crewIdle s.cur.1 g.opened = true := (State.crewIdle_opened hg).trans idle

variable (hg : s.group? q slot = some g) (idle : s.crewIdle q g = true)
include hg idle

/-- The walker of an idle crew's group finds the scratchpad as it is (R215). -/
theorem State.walkerCrew_of_crewIdle : s.walkerCrew q slot g = s.crew? q g := by
  obtain ⟨x, hx, hxg⟩ := State.quad?_of_group? hg
  rw [State.crewIdle, hx] at idle
  have none_ : (x.banks.flatMap (fun e => e.2)).filter (fun r => r.slot == slot && r.own) = [] := List.filter_eq_nil_iff.2 fun r hr => by
    simp [Quad.slot_ne_of_crewIdle hxg idle r hr]
  rw [State.walkerCrew, State.crew?, hx, Option.bind_some, Option.bind_some, none_]
  exact Option.map_id' ..

/-- Its walker writes at once, whatever else has become of the group (R98, R215). -/
theorem State.walkerWrite_of_crewIdle (h k : Group) (runs : List (Nat × List Byte)) :
    (s.setGroup q slot h).walkerWrite q slot k runs =
      ((s.setGroup q slot h).modCrew q k (fun c => c.put (runs.flatMap (fun e => offsetBytes e.1 e.2)))).spWritten q k
        (runs.map (fun e => (e.1, e.2.length))) := by
  obtain ⟨x, hx, hxg⟩ := State.quad?_of_group? hg
  rw [State.crewIdle, hx] at idle
  have none_ : (x.setGroup slot h).bankIds slot = [] := List.filterMap_eq_nil_iff.2 fun r hr =>
    if_neg fun own => Quad.slot_ne_of_crewIdle hxg idle r hr own.1
  rw [State.walkerWrite, if_pos]
  · rfl
  · rw [State.setGroup, State.quad?_modQuad, if_pos rfl, hx]
    exact List.isEmpty_iff.2 none_

end

/-! ### The end of an instruction whose walker has written -/

/-- What has been written is only noticed (R159, R204). -/
theorem watched_spWritten (s : State) (q : Nat) (g : Group) (runs : List (Nat × Nat)) : s.Watched q (s.spWritten q g runs) :=
  List.foldlRecOn _ _ (motive := fun t => s.Watched q t) (.refl s q) fun _ h _ _ =>
    (h.trans (watched_markTile ..)).trans (watched_sluices ..)

theorem Group.unwatched_advance {z k : Group} (same : z.unwatched = k.unwatched) (l : Latch) (pc : Nat) :
    (z.advance l pc).unwatched = (k.advance l pc).unwatched :=
  (congrArg (fun h => (Group.advance h l pc).unwatched) same :)

/-- A group is another one after an instruction, but for what watches the scratchpad. -/
def Group.Walked (y k : Group) (l : Latch) (pc : Nat) : Prop := y.unwatched = (k.advance l pc).unwatched ∧ y.wait = .none

theorem Group.Walked.kept {y k g : Group} {l : Latch} {pc : Nat} (w : y.Walked k l pc)
    (same : k.v = g.v ∧ k.s = g.s ∧ k.p = g.p ∧ k.h = g.h ∧ k.status = g.status) :
    y.v = g.v ∧ y.s = g.s ∧ y.p = g.p ∧ y.h = g.h ∧ y.status = g.status ∧ y.wait = .none := by
  obtain ⟨⟨v, s, p, h, -, status, -⟩, -⟩ := Group.sameRegs_of_unwatched w.1
  obtain ⟨v', s', p', h', status'⟩ := same
  exact ⟨v.trans v', s.trans s', p.trans p', h.trans h', status.trans status', w.2⟩

theorem Group.Walked.place {y k : Group} {l : Latch} {pc : Nat} (w : y.Walked k l pc) :
    y.em = k.em ∧ y.stack = k.stack ∧ y.pc = pc ∧ y.loop = k.loop ∧ y.jet.map (fun j => j.pend) = some k.jetOr.pend :=
  ⟨(congrArg Group.em w.1 :), (congrArg Group.stack w.1 :), (congrArg Group.pc w.1 :), (congrArg Group.loop w.1 :),
    (congrArg (fun h : Group => h.jet.map (fun j => j.pend)) w.1 :)⟩

/-- An instruction whose body ends with a notice of what its walker has written completes in the state before the notice. -/
theorem walked_of_next {s u : State} {i : Instr} {g k w : Group} {c : Crew} {body : Body} {runs : List (Nat × Nat)} {l : Latch} {pc : Option Nat}
    (h : Issues s i g) (he : exec i s = runInstr s i body) (mem : u.mem = s.mem) (hk : u.group? s.cur.1 s.cur.2 = some k)
    (hc : u.crew? s.cur.1 g = some c)
    (hb : body (s.openCur g) s.cur.1 s.cur.2 g.opened = .next (u.spWritten s.cur.1 w runs) l pc) :
    GroupAfter (exec i s) s.cur.1 s.cur.2 (fun t y =>
      t.mem = s.mem ∧ t.crew? s.cur.1 g = some c ∧ y.Walked k l (pc.getD (g.pc + instrLen i))) := by
  have watched := watched_spWritten u s.cur.1 w runs
  obtain ⟨z, hz, same⟩ := watched.group? hk
  have next := runInstr_next h hb
  rw [State.modGroup_eq hz] at next
  exact ⟨_, _, he.trans next, State.group?_setGroup hz, watched.1.trans mem, (State.crew?_setGroup ..).trans (watched.crew? hc),
    Group.unwatched_advance same .., rfl⟩

end Sys2Proof.Machine
end

section
/-! ## `OWBEGIN` (R216) -/

namespace Sys2Proof.Machine

/-! ### The check of the region (R229) -/

theorem missing_none (r : Rights) : missing Rights.none r = 0 := rfl

/-- An access that passes its checks passes them without asking for a right. -/
theorem checkAccess_none {b : Basin} {c : DWord} {ofs : Int} {n al : Nat} {need : Rights} (ok : checkAccess b c ofs n al need = .ok ()) :
    checkAccess b c ofs n al Rights.none = .ok () := by
  unfold checkAccess at ok ⊢
  split at ok
  · exact nomatch ok
  next d _ =>
    split at ok
    · exact nomatch ok
    next inside =>
      split at ok
      · exact nomatch ok
      next aligned => simp only [if_neg inside, if_neg aligned, missing_none, ne_eq, not_true_eq_false, if_false]

/-- A region of whole cells that may be written passes step 3 of R216. -/
theorem checkRegion_ok {b : Basin} {c : DWord} {len gran : Nat} (some_ : len ≠ 0) (hlen : len % gran = 0) (hofs : capOfs c % gran = 0)
    (ok : checkAccess b c (capOfs c) len 1 Rights.w = .ok ()) : checkRegion b c len gran = .ok () := by
  simp only [checkRegion, checkAccess_none ok, ok, if_neg some_, hlen, hofs, ne_eq, not_true_eq_false, or_self, if_false]

theorem granCode_lt (gran : Gran) : granCode gran < 8 := by
  cases gran <;> decide

/-! ### The instruction -/

/-- The address M of the record that an `OWBEGIN` names (R213). -/
def Group.recordAt (g : Group) (cr : BitVec 6) : Nat := (g.getS (cr.toNat + 1)).toNat

/-- The number of cells of its region (R214). -/
def Group.regionCells (g : Group) (len : USel) (gran : Gran) : Nat := (uAt g len).toNat / (4 * 2 ^ granCode gran)

/-- The crew after an `OWBEGIN` of a group. -/
def Crew.begunBy (x : Crew) (g : Group) (cr : BitVec 6) (len : USel) (gran : Gran) (c : DWord) : Crew :=
  x.begun (g.recordAt cr) c (uAt g len).toNat (g.getS cr.toNat).toNat (granCode gran) g.stack.length (g.regionCells len gran)

/-- The loop that it opens: its body starts behind the two words of the `OWBEGIN`. -/
def Group.loopOf (g : Group) (cr : BitVec 6) : OpenLoop := { m := g.recordAt cr, b := g.pc + 8 }

/-- A group that has opened a loop. -/
def Group.loops (g : Group) (lp : OpenLoop) : Group := { g with loop := some lp, loopM := lp.m }

/-- An `OWBEGIN` passes the checks of R216. -/
structure BeginPasses (s : State) (g : Group) (x : Crew) (cr : BitVec 6) (cap : BitVec 8) (len : USel) (gran : Gran) (c : DWord) : Prop where
  cap : capPair g cap = some c
  even : cr.toNat % 2 = 0
  all : g.em = Mask.all
  free : g.inLoop = false
  region : checkRegion (s.basin g.basin) c (uAt g len).toNat (4 * 2 ^ granCode gran) = .ok ()
  few : g.regionCells len gran ≤ 262144
  aligned : g.recordAt cr % 8 = 0
  inside : g.recordAt cr + walkerSize (g.regionCells len gran) ≤ x.scr * 1024
  foot : ∃ f, s.fetchWord g (g.pc + 8) = .ok f ∧ (W1.ofWord f).s = false ∧ (W1.ofWord f).x = true ∧ (W1.ofWord f).op.toNat = 0x26

/-- An `OWBEGIN` that passes its checks writes the record and opens the loop (R216). -/
theorem owbegin_begins {s : State} {g : Group} {x : Crew} (hx : s.crew? s.cur.1 g = some x) (orders : g.orders = [])
    (idle : s.crewIdle s.cur.1 g = true) {cr : BitVec 6} {cap : BitVec 8} {len : USel} {gran : Gran} {c : DWord}
    (h : Issues s (.owbegin cr cap len gran) g) (p : BeginPasses s g x cr cap len gran c) :
    GroupAfter (exec (.owbegin cr cap len gran) s) s.cur.1 s.cur.2 (fun t y => t.mem = s.mem ∧
      t.crew? s.cur.1 g = some (x.begunBy g cr len gran c) ∧
      y.Walked (g.opened.loops (g.loopOf cr)) .none (g.pc + instrLen (.owbegin cr cap len gran))) := by
  obtain ⟨pair, even, all, free, region, few, aligned, inside, f, fetched, single, extended, op⟩ := p
  have crew := (s.openCur_crew? g s.cur.1).trans hx
  have idle' := State.openCur_crewIdle h.1 idle
  have fetch : (s.openCur g).fetchWord g.opened (g.pc + 8) = .ok f := (s.fetchWord_opened s.cur.1 s.cur.2 g _).trans fetched
  have region' : checkRegion ((s.openCur g).basin g.opened.basin) c (uAt g len).toNat (4 * 2 ^ granCode gran) = .ok () := by
    rw [g.opened_basin]; exact region
  let wrote := (s.openCur g).modCrew s.cur.1 g.opened (fun x => x.begunBy g cr len gran c)
  have group : wrote.group? s.cur.1 s.cur.2 = some g.opened := (State.group?_modCrew ..).trans (State.openCur_group? h.1)
  have written : wrote.crew? s.cur.1 g.opened = some (x.begunBy g cr len gran c) :=
    (State.crew?_modCrew _ _ _ fun y => y.has_begun ..).trans (congrArg _ crew)
  refine walked_of_next (u := wrote.modGroup s.cur.1 s.cur.2 (fun h => h.loops (g.loopOf cr))) (w := g.opened) (pc := none)
    (runs := [(g.recordAt cr, walkerSize (g.regionCells len gran))]) h exec_owbegin ?_
    (State.group?_modGroup_same group _) ?_ ?_
  · exact State.modGroup_mem ..
  · rw [State.modGroup_eq group, State.crew?_setGroup, ← State.crew?_opened]
    exact written
  · simp only [capPair_opened, pair, even, ne_eq, not_true_eq_false, if_false, g.opened_em, all, Group.opened_inLoop, free, Bool.false_eq_true,
      uAt_opened, region', Group.opened_getS, crew, Option.map_some, Option.getD_some, Group.opened_pc, fetch, single, extended, op,
      g.opened_orders.1, orders, untilThen, idle', if_true]
    refine (if_neg (not_lt.2 few)).trans ((if_neg ?_).trans ((if_neg (by decide)).trans ?_))
    · rintro (bad | bad)
      · exact bad aligned
      · exact absurd bad (not_lt.2 inside)
    · simp only [g.opened_stack]
      rfl

end Sys2Proof.Machine
end

section
/-! ## `OWFOOT` (R217, R218) -/

namespace Sys2Proof.Machine

/-! ### The cells of a batch (R217, R218) -/

/-- A list without its repetitions is no longer than before. -/
theorem length_eraseDups_le : ∀ l : List Nat, l.eraseDups.length ≤ l.length
  | [] => Nat.zero_le _
  | e :: l => by
    have rest := length_eraseDups_le (l.filter (fun b => !b == e))
    rw [List.eraseDups_cons, List.length_cons, List.length_cons]
    exact Nat.succ_le_succ (rest.trans (List.length_filter_le ..))
  termination_by l => l.length
  decreasing_by exact Nat.lt_succ_of_le (List.length_filter_le ..)

/-- The lanes that carry an iteration in a record's batch. Irreducible, so that no comparison of terms begins to count them. -/
@[irreducible] def Crew.batch (c : Crew) (m : Nat) : List Nat := (List.range 32).filter (fun l => decide (0 ≤ (c.walker m).iter l))

theorem Crew.batch_eq (c : Crew) (m : Nat) : c.batch m = (List.range 32).filter (fun l => decide (0 ≤ (c.walker m).iter l)) := by
  rw [Crew.batch]

theorem Crew.mem_batch {c : Crew} {m l : Nat} (low : l < 32) : l ∈ c.batch m ↔ 0 ≤ (c.walker m).iter l := by
  simp only [Crew.batch, List.mem_filter, List.mem_range, low, true_and, decide_eq_true_eq]

section
variable (c : Crew) (m : Nat) (g : Group) (sels : List Sel)

/-- The cells that a lane of the batch declares. -/
def Crew.declares (l : Nat) : List Nat :=
  if (c.batch m).contains l then declared (c.walker m).gran (sels.map (fun y => (selAt g y l).toNat)) else []

/-- Whether a lane owns the cell in one of its slots. -/
def Crew.takes (l j : Nat) : Bool :=
  match (c.declares m g sels l)[j]? with
  | some e => !c.mantle m e && !coveredBy (c.declares m g sels) (c.batch m) l e
  | none => false

/-- The lanes of the batch that own a cell. -/
def Crew.takers : Mask := maskOf (fun l => (c.batch m).contains l && (List.range 4).any (fun j => c.takes m g sels l j))

/-- The bytes of the declared cells in the record. -/
def Crew.cellBytes : List Byte :=
  (List.range 128).flatMap (fun i => natBytes 4 ((c.declares m g sels (i / 4)).getD (i % 4) noCell))

/-- The own masks of the record as one number. -/
def Crew.ownBits : Nat := (List.range 128).foldl (fun a i => if c.takes m g sels (i / 4) (i % 4) then a + 2 ^ i else a) 0

/-- The iteration numbers of the batch. -/
def Crew.iterations : Lanes := lanesOf (fun l => BitVec.ofInt 32 ((c.walker m).iter l))

/-- The lanes that carry one, as a mask. -/
def Crew.running : Mask := maskOf (fun l => (c.batch m).contains l)

/-- The runs of the record that `OWFOOT` writes. -/
def Crew.footRuns : List (Nat × List Byte) :=
  [(m + 0x18, natBytes 4 (c.takers m g sels).toNat), (m + 0x20, c.cellBytes m g sels), (m + 0x220, natBytes 16 (c.ownBits m g sels))]

/-- The group with the iteration numbers on their way to `D`. -/
def Group.numbered (d : Nat) : Group := (g.takeFq sels).pendV false d (c.running m) (c.iterations m) flNone

/-- The group after an `OWFOOT`: the loop's entry is on the stack, and `em` holds the lanes that own a cell. -/
def Group.footed (d b : Nat) : Group :=
  { Group.numbered c m g sels d with
      stack := { pending := false, mask := g.em, addr := b } :: (Group.numbered c m g sels d).stack, em := c.takers m g sels }

variable {c m g sels}

theorem Crew.length_cellBytes : (c.cellBytes m g sels).length = 512 := by
  have four : ∀ n, (natBytes 4 n).length = 4 := fun n => by rw [natBytes, List.length_map, List.length_range]
  simp only [Crew.cellBytes, List.length_flatMap, four]
  rw [List.map_const', List.length_range, List.sum_replicate, smul_eq_mul]

theorem Crew.put_footRuns (x : Crew) : x.put ((c.footRuns m g sels).flatMap (fun e => offsetBytes e.1 e.2)) =
    x.footed m (c.takers m g sels) (c.cellBytes m g sels) (c.ownBits m g sels) := by
  rw [Crew.footRuns, List.flatMap_cons, List.flatMap_cons, List.flatMap_singleton, Crew.put_append, Crew.put_append]
  rfl

theorem Crew.running_getLsbD {l : Nat} (low : l < 32) : (c.running m).getLsbD l = decide (0 ≤ (c.walker m).iter l) := by
  rw [Crew.running, maskOf_getLsbD, Bool.eq_iff_iff]
  simp [low, Crew.mem_batch low]

theorem Crew.at_iterations {l : Nat} (low : l < 32) : Lanes.at (c.iterations m) l = BitVec.ofInt 32 ((c.walker m).iter l) := by
  rw [Crew.iterations, Lanes.at_lanesOf, if_pos low]

/-- The cells of a lane as R217 gives them. -/
def Walker.cellsOf (w : Walker) (g : Group) (sels : List Sel) (l : Nat) : List Nat := sels.map (fun y => (selAt g y l).toNat / w.gran)

theorem Crew.mem_declares {l e : Nat} (low : l < 32) :
    e ∈ c.declares m g sels l ↔ 0 ≤ (c.walker m).iter l ∧ e ∈ (c.walker m).cellsOf g sels l := by
  rw [← Crew.mem_batch low, Crew.declares, Walker.cellsOf]
  split
  next here =>
    rw [List.contains_iff_mem] at here
    simp only [declared, List.mem_eraseDups, List.map_map, Function.comp_def, here, true_and]
  next out =>
    rw [List.contains_iff_mem] at out
    simp only [List.not_mem_nil, out, false_and]

theorem Crew.length_declares (few : sels.length ≤ 4) (l : Nat) : (c.declares m g sels l).length ≤ 4 := by
  rw [Crew.declares]
  split
  · exact (length_eraseDups_le _).trans (by simpa using few)
  · exact Nat.zero_le _

theorem Crew.coveredBy_declares {l e : Nat} (low : l < 32) : coveredBy (c.declares m g sels) (c.batch m) l e = false ↔
    ∀ k, k < l → 0 ≤ (c.walker m).iter k → e ∉ (c.walker m).cellsOf g sels k := by
  simp only [coveredBy, List.any_eq_false, Bool.and_eq_true, decide_eq_true_eq, List.contains_iff_mem, not_and]
  constructor
  · intro free k lt running declared
    have low' : k < 32 := by omega
    exact free k ((Crew.mem_batch low').2 running) lt ((Crew.mem_declares low').2 ⟨running, declared⟩)
  · intro free k _ lt declares
    obtain ⟨running, declared⟩ := (Crew.mem_declares (lt.trans low)).1 declares
    exact free k lt running declared

/-- A lane is active exactly when it declares a cell that the mantle does not hold and no lower lane of the batch declares (R218). -/
theorem Crew.takers_getLsbD (few : sels.length ≤ 4) {l : Nat} (low : l < 32) : (c.takers m g sels).getLsbD l = true ↔
    0 ≤ (c.walker m).iter l ∧ ∃ e ∈ (c.walker m).cellsOf g sels l, c.mantle m e = false ∧
      ∀ k, k < l → 0 ≤ (c.walker m).iter k → e ∉ (c.walker m).cellsOf g sels k := by
  have owns : ∀ j, c.takes m g sels l j = true ↔ ∃ e, (c.declares m g sels l)[j]? = some e ∧ c.mantle m e = false ∧
      ∀ k, k < l → 0 ≤ (c.walker m).iter k → e ∉ (c.walker m).cellsOf g sels k := by
    intro j
    rw [Crew.takes]
    split
    next e here => simp only [here, Option.some.injEq, exists_eq_left', Bool.and_eq_true, Bool.not_eq_true', Crew.coveredBy_declares low]
    next none_ => simp [none_]
  simp only [Crew.takers, maskOf_getLsbD, low, decide_true, Bool.true_and, Bool.and_eq_true, List.contains_iff_mem, Crew.mem_batch low,
    List.any_eq_true, List.mem_range, owns]
  refine and_congr_right fun running => ⟨?_, ?_⟩
  · rintro ⟨j, -, e, here, free⟩
    exact ⟨e, ((Crew.mem_declares low).1 (List.mem_of_getElem? here)).2, free⟩
  · rintro ⟨e, declared, free⟩
    obtain ⟨j, here⟩ := List.mem_iff_getElem?.1 ((Crew.mem_declares low).2 ⟨running, declared⟩)
    exact ⟨j, (List.getElem?_eq_some_iff.1 here).1.trans_le (Crew.length_declares few l), e, here, free⟩

end

/-! ### The group after an `OWFOOT` -/

theorem Group.kept_footed (c : Crew) (m : Nat) (g : Group) (sels : List Sel) (d b : Nat) :
    (Group.footed c m g.opened sels d b).v = g.v ∧ (Group.footed c m g.opened sels d b).s = g.s ∧ (Group.footed c m g.opened sels d b).p = g.p ∧
      (Group.footed c m g.opened sels d b).h = g.h ∧ (Group.footed c m g.opened sels d b).status = g.status := by
  obtain ⟨v, s, p, h, status⟩ := g.kept_opened
  refine ⟨Eq.trans ?_ v, Eq.trans ?_ s, Eq.trans ?_ p, Eq.trans ?_ h, Eq.trans ?_ status⟩ <;> simp [Group.footed, Group.numbered]

theorem Group.footed_em (c : Crew) (m : Nat) (g : Group) (sels : List Sel) (d b : Nat) : (Group.footed c m g sels d b).em = c.takers m g sels := by
  simp only [Group.footed]

/-- Where an `OWFOOT` leaves its group (R218). -/
theorem Group.footed_place (c : Crew) (m : Nat) (g : Group) (sels : List Sel) (d b : Nat) :
    (Group.footed c m g.opened sels d b).stack = { pending := false, mask := g.em, addr := b } :: g.stack ∧
      (Group.footed c m g.opened sels d b).loop = g.loop ∧
      (Group.footed c m g.opened sels d b).jetOr.pend = g.jetOr.pend ++ [.v d (c.running m) (c.iterations m)] := by
  refine ⟨?_, ?_, ?_⟩
  · simp only [Group.footed, Group.numbered, Group.pendV_stack, Group.takeFq_stack, g.opened_em, g.opened_stack]
  · simp only [Group.footed, Group.numbered, Group.pendV_loop, Group.takeFq_loop, Group.opened_loop]
  · have jet : (g.opened.takeFq sels).jetOr = g.jetOr := by
      rw [Group.jetOr, Group.takeFq_jet, Group.opened_jet, Option.getD_some]
    simp only [Group.footed, Group.numbered, Group.pendV, jet, Bool.false_eq_true, if_false]
    rfl

theorem Crew.takers_opened (x : Crew) (m : Nat) (g : Group) (sels : List Sel) : x.takers m g.opened sels = x.takers m g sels := by
  have sel : selAt g.opened = selAt g := funext fun y => funext (selAt_opened g y)
  have declares : x.declares m g.opened sels = x.declares m g sels := funext fun l => by rw [Crew.declares, sel, Crew.declares]
  have takes : x.takes m g.opened sels = x.takes m g sels := funext fun l => funext fun j => by rw [Crew.takes, declares, Crew.takes]
  rw [Crew.takers, takes, Crew.takers]

/-! ### The instruction -/

/-- What an `OWFOOT` leaves as its latch (R44). -/
def footLatch (c : Crew) (m : Nat) (g : Group) (sels : List Sel) (d : Nat) : Latch :=
  .lane (lanesOf (fun l => if (c.running m).getLsbD l then Lanes.at (c.iterations m) l else (Group.numbered c m g sels d).lane d l))

theorem State.crew?_numbered (s : State) (q : Nat) (c : Crew) (m : Nat) (g : Group) (sels : List Sel) (d : Nat) :
    s.crew? q (Group.numbered c m g sels d) = s.crew? q g :=
  congrArg (Option.bind _) (funext fun _ => Quad.crewOf?_congr rfl (g.takeFq_launch sels) (g.takeFq_gang sels) (g.takeFq_crew sels))

section
variable {s : State} {g : Group} {x : Crew} {d : BitVec 7} {sels : List Sel}

theorem State.trailAt_openCur (s : State) (g : Group) : (s.openCur g).trailAt g.opened (g.opened.pc + 8) = s.trailAt g (g.pc + 8) := by
  rw [State.trailAt, State.openCur, State.fetchWord_opened, Group.opened_pc, State.trailAt]

/-- The operands of an `OWFOOT` are in order and a `TRAIL` follows (R217). -/
structure FootReady (s : State) (g : Group) (d : BitVec 7) (sels : List Sel) : Prop where
  dest : g.vOk d.toNat = true
  cells : ∀ y ∈ sels, selOk g y = true
  trail : s.trailAt g (g.pc + 8) = true

theorem FootReady.operands (r : FootReady s g d sels) : (g.opened.vOk d.toNat && sels.all (selOk g.opened)) = true := by
  rw [Group.opened_vOk, r.dest, Bool.true_and, List.all_eq_true]
  exact fun y hy => (selOk_opened g y).trans (r.cells y hy)

variable (idle : s.crewIdle s.cur.1 g = true) (h : Issues s (.owfoot d sels) g) (r : FootReady s g d sels)
include idle h r

/-- An `OWFOOT` at B whose offsets lie within the region writes the record's lane words (R218). -/
theorem owfoot_foots {lp : OpenLoop} (hx : s.crew? s.cur.1 g = some x) (loop : g.loop = some lp) (here : g.pc = lp.b)
    (room : g.stack.length < rejoinMax)
    (inside : ∀ l, l < 32 → 0 ≤ (x.walker lp.m).iter l → ∀ y ∈ sels, (selAt g y l).toNat < (x.walker lp.m).len) :
    GroupAfter (exec (.owfoot d sels) s) s.cur.1 s.cur.2 (fun t y => t.mem = s.mem ∧
      t.crew? s.cur.1 g = some (x.footed lp.m (x.takers lp.m g.opened sels) (x.cellBytes lp.m g.opened sels) (x.ownBits lp.m g.opened sels)) ∧
      y.Walked (Group.footed x lp.m g.opened sels d.toNat lp.b) (footLatch x lp.m g.opened sels d.toNat) (g.pc + instrLen (.owfoot d sels))) := by
  have group := State.openCur_group? h.1
  have idle' := State.openCur_crewIdle h.1 idle
  have crew := (s.openCur_crew? g s.cur.1).trans hx
  have walker := (State.walkerCrew_of_crewIdle group idle').trans crew
  have within : (x.batch lp.m).filter (fun l => (sels.map (fun y => (selAt g.opened y l).toNat)).any
      (fun o => decide ((x.walker lp.m).len ≤ o))) = [] := by
    refine List.filter_eq_nil_iff.2 fun l hl => ?_
    obtain ⟨low, running⟩ := List.mem_filter.1 (x.batch_eq lp.m ▸ hl)
    simpa using inside l (List.mem_range.1 low) (of_decide_eq_true running)
  let marked := (s.openCur g).setGroup s.cur.1 s.cur.2 (Group.footed x lp.m g.opened sels d.toNat lp.b)
  let bytes := (x.footRuns lp.m g.opened sels).flatMap (fun e => offsetBytes e.1 e.2)
  let z := Group.numbered x lp.m g.opened sels d.toNat
  refine walked_of_next (u := marked.modCrew s.cur.1 z (fun c => c.put bytes)) (w := z)
    (runs := (x.footRuns lp.m g.opened sels).map (fun e => (e.1, e.2.length))) (pc := none) h exec_owfoot rfl ?group ?crew ?body
  case group =>
    exact (State.group?_modCrew ..).trans (State.group?_setGroup group)
  case crew =>
    rw [← State.crew?_opened, ← State.crew?_numbered _ _ x lp.m g.opened sels d.toNat,
      State.crew?_modCrew marked s.cur.1 z (f := fun c => c.put bytes) (fun c => c.has_put ..), State.crew?_numbered, State.crew?_setGroup, crew,
      Option.map_some, Crew.put_footRuns]
  case body =>
    rw [drainedThen, if_pos (by rw [idle']; rfl), if_neg (by rw [r.operands]; decide), if_neg (by rw [State.trailAt_openCur, r.trail]; decide)]
    simp only [Group.walks, Group.opened_loop, loop, walker, ← Crew.batch_eq]
    refine (if_neg ?_).trans ((if_neg ?_).trans ((if_neg ?_).trans ?_))
    · simp [Group.opened_pc, here]
    · simp only [within, List.isEmpty_nil, Bool.not_true, Bool.and_false, Bool.false_eq_true, not_false_eq_true]
    · rw [g.opened_stack]
      exact not_le.2 room
    · exact congrArg (fun t => Res.next t (footLatch x lp.m g.opened sels d.toNat) none) (State.walkerWrite_of_crewIdle group idle'
        (Group.footed x lp.m g.opened sels d.toNat lp.b) z (x.footRuns lp.m g.opened sels))

/-- Outside a handler there is no record without an open loop (R218). -/
theorem owfoot_raises (free : g.handler = false) (loop : g.loop = none) :
    Raises s (.owfoot d sels) g (loopTrap (s.openCur g) 4) := by
  have idle' := State.openCur_crewIdle h.1 idle
  refine raises_of_trap h exec_owfoot ?_
  rw [drainedThen, if_pos (by rw [idle']; rfl), if_neg (by rw [r.operands]; decide), if_neg (by rw [State.trailAt_openCur, r.trail]; decide)]
  simp only [Group.walks, Group.opened_loop, loop, Group.opened_handler, free, Bool.false_eq_true, if_false]

end

end Sys2Proof.Machine
end

section
/-! ## `OWNEXT` (R221), and the obligation about the overwriting loops (R213 to R221) -/

namespace Sys2Proof.Machine

/-! ### The record and the group after an `OWNEXT` -/

section
variable {s : State} {g : Group} {x : Crew}

/-- The batch that comes next (R221). -/
def Walker.next (w : Walker) : Nat := (w.k + 1) % 2 ^ 32

/-- The cells that the active lanes of a record own. -/
def Crew.owned (x : Crew) (m : Nat) : List Nat := x.ownedBy m (x.walker m).active

/-- The group after an `OWNEXT`: the loop's entry is off the stack, and a loop is open or not. -/
def Group.popped (g : Group) (e : Rejoin) (rest : List Rejoin) (loop : Option OpenLoop) : Group :=
  { g with stack := rest, em := e.mask, loop := loop }

/-- The state in which the walker has written the mantle and the number of the batch, the group being `k`. -/
def State.stepped (s : State) (g : Group) (x : Crew) (m : Nat) (k : Group) : State :=
  ((s.openCur g).modCrew s.cur.1 g.opened (fun y => y.stepped m (x.owned m) (x.walker m).next)).setGroup s.cur.1 s.cur.2 k

/-- What `OWNEXT` has written. -/
def Crew.nextRuns (x : Crew) (m : Nat) : List (Nat × Nat) := (m + 0x10, 4) :: (x.owned m).map (fun cell => (m + 0x240 + cell / 8, 1))

variable {lp : OpenLoop} {e : Rejoin} {rest : List Rejoin} (hx : s.crew? s.cur.1 g = some x) (orders : g.orders = [])
  (idle : s.crewIdle s.cur.1 g = true) (h : Issues s .ownext g)

include h in
/-- Outside a handler there is no record without an open loop (R221). -/
theorem ownext_raises (free : g.handler = false) (loop : g.loop = none) : Raises s .ownext g (loopTrap (s.openCur g) 4) := by
  refine raises_of_trap h exec_ownext ?_
  simp only [Group.walks, Group.opened_loop, loop, Group.opened_handler, free, Bool.false_eq_true, if_false]

include hx h in
theorem State.stepped_spec (m : Nat) (k : Group) : (s.stepped g x m k).group? s.cur.1 s.cur.2 = some k ∧
    (s.stepped g x m k).crew? s.cur.1 g = some (x.stepped m (x.owned m) (x.walker m).next) := by
  refine ⟨State.group?_setGroup ((State.group?_modCrew ..).trans (State.openCur_group? h.1)), ?_⟩
  rw [State.stepped, State.crew?_setGroup, ← State.crew?_opened, State.crew?_modCrew _ _ _ (fun y => y.has_stepped ..), State.openCur_crew?, hx,
    Option.map_some]

variable (loop : g.loop = some lp) (stack : g.stack = e :: rest) (depth : g.stack.length = (x.walker lp.m).depth + 1)
include hx orders idle h loop stack depth

/-- What an `OWNEXT` at the right depth does: back to B, or on without a loop (R221). -/
theorem exec_ownext_inLoop : exec .ownext s = runInstr s .ownext (fun _ _ _ _ =>
    if 32 * (x.walker lp.m).next < (x.walker lp.m).n then
      .next ((s.stepped g x lp.m (g.opened.popped e rest g.loop)).spWritten s.cur.1 (g.opened.popped e rest g.loop) (x.nextRuns lp.m))
        .none (some lp.b)
    else
      .next ((s.stepped g x lp.m (g.opened.popped e rest none)).spWritten s.cur.1 (g.opened.popped e rest g.loop) (x.nextRuns lp.m))
        .none none) := by
  have idle' := State.openCur_crewIdle h.1 idle
  have crew := (s.openCur_crew? g s.cur.1).trans hx
  have stack' : g.opened.stack = e :: rest := g.opened_stack.trans stack
  refine exec_ownext.trans (runInstr_congr h ?_)
  simp only [Group.walks, Group.opened_loop, loop, crew]
  refine (if_neg ?orders).trans ((if_neg ?idle).trans ((if_neg ?depth).trans ?_))
  case orders => exact not_not.2 (g.opened_orders.1.trans orders)
  case idle => simp only [idle', Bool.not_true, Bool.false_eq_true, not_false_eq_true]
  case depth => simp only [stack', ← stack, depth, bne_self_eq_false, Bool.and_false, Bool.false_eq_true, not_false_eq_true]
  · simp only [stack', Option.isSome_some, if_true]
    rfl

/-- While iterations remain, the group goes back to B (R221). -/
theorem ownext_goes_back (more : 32 * (x.walker lp.m).next < (x.walker lp.m).n) : GroupAfter (exec .ownext s) s.cur.1 s.cur.2 (fun t y =>
    t.mem = s.mem ∧ t.crew? s.cur.1 g = some (x.stepped lp.m (x.owned lp.m) (x.walker lp.m).next) ∧
      y.Walked (g.opened.popped e rest g.loop) .none lp.b) :=
  have spec := State.stepped_spec hx h lp.m (g.opened.popped e rest g.loop)
  walked_of_next (u := s.stepped g x lp.m (g.opened.popped e rest g.loop)) h (exec_ownext_inLoop hx orders idle h loop stack depth) rfl spec.1 spec.2
    (if_pos more)

/-- After the last batch, the loop is closed (R221). -/
theorem ownext_closes (last : (x.walker lp.m).n ≤ 32 * (x.walker lp.m).next) : GroupAfter (exec .ownext s) s.cur.1 s.cur.2 (fun t y =>
    t.mem = s.mem ∧ t.crew? s.cur.1 g = some (x.stepped lp.m (x.owned lp.m) (x.walker lp.m).next) ∧
      y.Walked (g.opened.popped e rest none) .none (g.pc + instrLen .ownext)) :=
  have spec := State.stepped_spec hx h lp.m (g.opened.popped e rest none)
  walked_of_next (u := s.stepped g x lp.m (g.opened.popped e rest none)) h (exec_ownext_inLoop hx orders idle h loop stack depth) rfl spec.1 spec.2
    (if_neg (not_lt.2 last))

end

/-! ### The obligation -/

/-- Settles O44: each of the three instructions ends with the notice of what its walker has written, which leaves the group and the crew as
they are (`walked_of_next`); what the record then says is read off the bytes (`Crew.walker_begun`, `Crew.takers_getLsbD`,
`Crew.mantle_stepped`). -/
theorem overwritingLoopsRun : Obligations.OverwritingLoopsRun := by
  intro s g x cr cap len gran d sels lp q slot w kept hx orders idle
  refine ⟨?begin_, ?foot, ?next, ?none_⟩
  case begin_ =>
    intro c m l gs h pair even all free room some_ whole base access few aligned inside foot
    have passes : BeginPasses s g x cr cap len gran c :=
      ⟨pair, even, all, free, checkRegion_ok some_ whole base access, few, aligned, inside, foot⟩
    refine groupAfter_imp (owbegin_begins hx orders idle h passes) ?_
    rintro t y ⟨mem, crew, walked⟩
    obtain ⟨em, stack, pc, loop, -⟩ := walked.place
    exact ⟨⟨mem, walked.kept g.kept_opened⟩, em.trans g.opened_em, stack.trans g.opened_stack, pc, loop, _, crew,
      Crew.walker_begun (uAt g len).isLt (g.getS cr.toNat).isLt (granCode_lt gran) room, fun e he => Crew.mantle_begun he,
      fun a out => Crew.byte_begun_of_out out⟩
  case foot =>
    intro cells h dest ok few trail loop here room inside
    refine groupAfter_imp (owfoot_foots idle h ⟨dest, ok, trail⟩ hx loop here room inside) ?_
    rintro t y ⟨mem, crew, walked⟩
    obtain ⟨em, stack, pc, loop', pend⟩ := walked.place
    obtain ⟨stack', loop'', pend'⟩ := Group.footed_place x lp.m g sels d.toNat lp.b
    have owners : y.em = x.takers lp.m g.opened sels := em.trans (Group.footed_em ..)
    refine ⟨⟨mem, walked.kept (Group.kept_footed ..)⟩, pc, loop'.trans loop'', stack.trans stack', fun l low => ?_,
      ⟨_, _, pend.trans (congrArg some pend'), fun l low => ⟨Crew.running_getLsbD low, fun _ => Crew.at_iterations low⟩⟩,
      _, crew, ?_, fun a out => Crew.byte_footed_of_out Crew.length_cellBytes out⟩
    · rw [owners, Crew.takers_opened]
      exact Crew.takers_getLsbD few low
    · exact (Crew.walker_footed Crew.length_cellBytes).trans owners.symm
  case next =>
    intro e rest h loop stack depth k
    have record := Crew.walker_stepped (x := x) (m := lp.m) (x.owned lp.m) (k := k) (Nat.mod_lt _ (by decide))
    have mantle := fun z => (Crew.mantle_stepped (x := x) (m := lp.m) (x.owned lp.m) k z).trans (or_congr_right Crew.mem_ownedBy)
    rcases lt_or_ge (32 * k) w.n with more | last
    · refine groupAfter_imp (ownext_goes_back hx orders idle h loop stack depth more) ?_
      rintro t y ⟨mem, crew, walked⟩
      obtain ⟨em, stack', pc, loop', -⟩ := walked.place
      exact ⟨⟨mem, walked.kept g.kept_opened⟩, stack', em, fun _ => ⟨pc, loop'⟩, fun last => absurd more (not_lt.2 last),
        _, crew, record, mantle⟩
    · refine groupAfter_imp (ownext_closes hx orders idle h loop stack depth last) ?_
      rintro t y ⟨mem, crew, walked⟩
      obtain ⟨em, stack', pc, loop', -⟩ := walked.place
      exact ⟨⟨mem, walked.kept g.kept_opened⟩, stack', em, fun more => absurd more (not_lt.2 last), fun _ => ⟨pc, loop'⟩,
        _, crew, record, mantle⟩
  case none_ =>
    rintro i (rfl | ⟨rfl, dest, ok, trail⟩) h free loop
    · exact ⟨_, rfl, ownext_raises h free loop⟩
    · exact ⟨_, rfl, owfoot_raises idle h ⟨dest, ok, trail⟩ free loop⟩

end Sys2Proof.Machine
end
